-- ==== Sys2Proof/Word.lean ====
section
/-!
DEFINITION. The word types of the model and their plainest arithmetic.
-/

set_option linter.unusedVariables false

namespace Sys2Proof

/-- A 32-bit word (00_scope R2). -/
abbrev Word := BitVec 32

/-- A byte of memory or scratchpad. -/
abbrev Byte := BitVec 8

/-- A 64-bit value: a virtual address, a link register, a device register. -/
abbrev DWord := BitVec 64

end Sys2Proof
end

