-- ==== Sys2Proof/Config.lean ====
section
/-!
DEFINITION. What an implementation fixes, and the free values: constants of the device, and opaque functions for
every value that the manual leaves open. Nothing in Lean can evaluate an opaque constant.
-/

set_option linter.unusedVariables false

namespace Sys2Proof.Config

/-- Render dies of the package (01_machine R10). -/
abbrev nDies : Nat := 48
/-- Cores of a die (R15). -/
abbrev nCores : Nat := 16
/-- Directory sets and ways (17_coherence R374). -/
abbrev dirWays : Nat := 16
/-- Eviction-buffer entries (R375). -/
abbrev evictEntries : Nat := 64
/-- Subscription-table entries of a die (R377). -/
abbrev subEntries : Nat := 16384
/-- Standing-table entries of a core (R84). -/
abbrev standEntries : Nat := 256
/-- LLC ways and sets (R15). -/
abbrev llcWays : Nat := 32
abbrev llcSets : Nat := 32768
/-- Lines of a switch slice's memory-side cache of 256 MiB (17_coherence R388). -/
abbrev sliceLines : Nat := 2097152
/-- L1 ways and sets (R16). -/
abbrev l1Ways : Nat := 16
abbrev l1Sets : Nat := 256
/-- TLB entries of a core and of a die (R367). -/
abbrev tlbCore : Nat := 4096
abbrev tlbDie : Nat := 65536

/-- The free values: the n-th open choice that the machine makes (assumption 10). -/
opaque freeValue : Nat → BitVec 64

/-- SM3 of a byte string (22_fleet R448). The function is published outside the spec (assumption 11). -/
opaque sm3 : List (BitVec 8) → BitVec 256

/-- SM2 verification of a signature over a byte string under a key (R448, R450; assumption 11). -/
opaque sm2Verify : BitVec 512 → List (BitVec 8) → BitVec 512 → Bool

/-- SM2 signing with the device's key (R448; assumption 11). -/
opaque sm2Sign : List (BitVec 8) → BitVec 512

/-- The vendor's SM2 key, the fused device key, the endorsement and the serial (R448; assumption 11). -/
opaque vendorKey : BitVec 512
opaque deviceKey : BitVec 512
opaque endorsement : BitVec 512
opaque serial : BitVec 64

/-- The digest of the firmware image that the device ships with (assumption 8). -/
opaque shippedDigest : BitVec 256

/-- The fuse array, the core masks included (R448; assumption 11). -/
opaque fuseArray : List (BitVec 8)

end Sys2Proof.Config
end

