-- ==== Sys2Proof/Syntax.lean ====
section
/-!
DEFINITION. The syntax of the machine: the word formats of R188 and one constructor of `Instr` for each row of
the opcode table. A row of the instruction set carries the fields of its word format; a hardware step carries
the numbers of the agents and items it acts on (die `d`, core `c`, scheduler `q`, workgroup `w`, group `g`,
launch `l`, access or request `a` or `r`, value written `v`). A step without a number of its own, the arrival of a
message among them, acts on the item that the state's field `sel` names.
The constructors without an argument stand last: the compiler gives no tag above 244 to one with arguments.
-/

set_option linter.unusedVariables false

namespace Sys2Proof

/-- Format R (R188): op d a b g. -/
structure RF where
  d : BitVec 7
  a : BitVec 7
  b : BitVec 7
  g : BitVec 3
  deriving DecidableEq, Repr, Inhabited

/-- Format I (R188): op d a imm10. -/
structure IF where
  d : BitVec 7
  a : BitVec 7
  imm : BitVec 10
  deriving DecidableEq, Repr, Inhabited

/-- Format M (R188): op d a hint off5 g. -/
structure MF where
  d : BitVec 7
  a : BitVec 7
  hint : BitVec 2
  off : BitVec 5
  g : BitVec 3
  deriving DecidableEq, Repr, Inhabited

/-- Format B (R188): op g off21. -/
structure BF where
  g : BitVec 3
  off : BitVec 21
  deriving DecidableEq, Repr, Inhabited

/-- Format K (R188): op x4 a b f3 g. -/
structure KF where
  x : BitVec 4
  a : BitVec 7
  b : BitVec 7
  f : BitVec 3
  g : BitVec 3
  deriving DecidableEq, Repr, Inhabited

/-- Format T (R188, R280): op tA tB acc k f3 h flags. -/
structure TF where
  tA : BitVec 4
  tB : BitVec 4
  acc : BitVec 3
  k : BitVec 4
  f : BitVec 3
  h : BitVec 3
  flags : BitVec 3
  deriving DecidableEq, Repr, Inhabited

/-- Formats XA, XM and XC (R188): word 1 as R, and the control word `c` of R191 to R193. -/
structure XF where
  d : BitVec 7
  a : BitVec 7
  b : BitVec 7
  g : BitVec 3
  c : BitVec 32
  deriving DecidableEq, Repr, Inhabited

/-- Format L (R188): op d a f7 g and a 32-bit literal. -/
structure LF where
  d : BitVec 7
  a : BitVec 7
  f7 : BitVec 7
  g : BitVec 3
  lit : BitVec 32
  deriving DecidableEq, Repr, Inhabited

/-- The operations and events of the part, one constructor for each row of the opcode table. -/
inductive Instr where
  | issueClock (d c q : Nat)
  | loadReply (a : Nat)
  | storeReachesL1 (w g : Nat)
  | superstepBarrierComplete (l : Nat)
  | signedOperationEnqueue (w k : Nat)
  | tileStep (d c : Nat)
  | drainPerform (r : Nat)
  | bankZeroed (d c b : Nat)
  | copyComplete (r n : Nat)
  | bdeRequestComplete (r : Nat)
  | nbrWritePerformed (r : Nat)
  | workgroupComplete (w : Nat)
  | resourceRelease (w : Nat)
  | ampQueueDequeue (d : Nat)
  | overflowRingRefill (d : Nat)
  | frontierSend (d p k : Nat)
  | frontierHoldExpiry (d p k : Nat)
  | rasterisePrimitive (d p : Nat)
  | depthTest (d p f : Nat)
  | occContribution (d p i : Nat)
  | graphRecordRun (d c l : Nat)
  | waitListResolve (d i : Nat)
  | recPushParkRelease (w g : Nat)
  | stealAttempt (d c l : Nat)
  | stealRequest (d c l : Nat)
  | stealRetryExpiry (d c l : Nat)
  | graphLaunchComplete (l : Nat)
  | queueDoorbell (q v : Nat)
  | packetFetch (q : Nat)
  | workgroupPlacement (l : Nat)
  | launchComplete (l : Nat)
  | registerWrite (off v : Nat)
  | queueEnable (q : Nat)
  | queueDisable (q : Nat)
  | contextRegister (asid : Nat)
  | contextUnregister (asid : Nat)
  | eventReadPointer (asid v : Nat)
  | rimeEnable (asid v : Nat)
  | rimeRearm (asid : Nat)
  | rtWaysChange (d v : Nat)
  | rtCarve (d : Nat)
  | tueDoorbell (v : Nat)
  | tueCtlWrite (v : Nat)
  | lineReclaim (d v : Nat)
  | lostCntRead (d : Nat)
  | biasFlip (d v : Nat)
  | biasFlipComplete (d : Nat)
  | attestationReport (v : Nat)
  | firmwareUpdate (v : Nat)
  | drain (v : Nat)
  | freeze (v : Nat)
  | kill (v : Nat)
  | resume (v : Nat)
  | replay (i : Nat)
  | deliver (i : Nat)
  | faultKill (i : Nat)
  | islVminRead (i : Nat)
  | rimeEntryExpiry (asid page : Nat)
  | retryReissue (d line : Nat)
  | birsp (d line dirty : Nat)
  | hostMemrd (pa : Nat)
  | hostMemwr (pa n v : Nat)
  | flitReceive (k : Nat)
  | nakReceive (k : Nat)
  | nakRepeatExpiry (k : Nat)
  | dieMapChange (kind i : Nat)
  | powerOn (dies links fw : Nat)
  | boraGrant (region n : Nat)
  | islandPowerOn (i : Nat)
  | phaseFailure (i : Nat)
  | islandGate (i : Nat)
  | pseudoChannelFailure (d p : Nat)
  | uncorrectableError (a l : Nat)
  | addI (f : RF)
  | addIImm (f : IF)
  | subI (f : RF)
  | addcN (f : RF)
  | subbN (f : RF)
  | mulI (f : RF)
  | mulhiI (f : RF)
  | mulhiN (f : RF)
  | madI (f : XF)
  | divI (f : RF)
  | divN (f : RF)
  | remI (f : RF)
  | remN (f : RF)
  | minI (f : RF)
  | maxI (f : RF)
  | minN (f : RF)
  | maxN (f : RF)
  | absI (f : RF)
  | addI16x2 (f : RF)
  | subI16x2 (f : RF)
  | addN16x2 (f : RF)
  | subN16x2 (f : RF)
  | addI8x4 (f : RF)
  | subI8x4 (f : RF)
  | addN8x4 (f : RF)
  | subN8x4 (f : RF)
  | and (f : RF)
  | or (f : RF)
  | xor (f : RF)
  | andn (f : RF)
  | andImm (f : IF)
  | orImm (f : IF)
  | xorImm (f : IF)
  | shl (f : RF)
  | shrN (f : RF)
  | shrI (f : RF)
  | shlImm (f : IF)
  | shrNImm (f : IF)
  | shrIImm (f : IF)
  | bfxN (f : XF)
  | bfxI (f : XF)
  | bfi (f : XF)
  | popc (f : RF)
  | clz (f : RF)
  | brev (f : RF)
  | lea (f : XF)
  | setpI (f : XF)
  | setpN (f : XF)
  | sel (f : XF)
  | mov (f : RF)
  | movImm (f : IF)
  | movLit (f : LF)
  | shfl (f : XF)
  | vote (f : KF)
  | xint (f : XF)
  | addF (f : RF)
  | subF (f : RF)
  | mulF (f : RF)
  | fmaF (f : XF)
  | minF (f : RF)
  | maxF (f : RF)
  | absF (f : RF)
  | negF (f : RF)
  | divF (f : RF)
  | setpF (f : XF)
  | addF16x2 (f : RF)
  | mulF16x2 (f : RF)
  | fmaF16x2 (f : XF)
  | minF16x2 (f : RF)
  | maxF16x2 (f : RF)
  | setpF16x2 (f : XF)
  | addBf16x2 (f : RF)
  | mulBf16x2 (f : RF)
  | fmaBf16x2 (f : XF)
  | minBf16x2 (f : RF)
  | maxBf16x2 (f : RF)
  | setpBf16x2 (f : XF)
  | addF64 (f : RF)
  | subF64 (f : RF)
  | mulF64 (f : RF)
  | fmaF64 (f : XF)
  | minF64 (f : RF)
  | maxF64 (f : RF)
  | divF64 (f : RF)
  | setpF64 (f : XF)
  | rcpF (f : RF)
  | sqrtF (f : RF)
  | rsqrtF (f : RF)
  | exp2F (f : RF)
  | log2F (f : RF)
  | rcpF64 (f : RF)
  | sqrtF64 (f : RF)
  | rintF (f : XF)
  | rintF64 (f : XF)
  | crel (f : XF)
  | dot4 (f : XF)
  | cvt (f : XF)
  | xflt (f : XF)
  | ld (f : XF)
  | ldw (f : MF)
  | st (f : XF)
  | stw (f : MF)
  | lds (f : XF)
  | sts (f : XF)
  | atom (f : XF)
  | red (f : XF)
  | cas (f : XF)
  | atoms (f : XF)
  | standSub (f : KF)
  | standRead (f : KF)
  | standSeq (f : KF)
  | standWait (f : KF)
  | standDrop (f : KF)
  | copy (f : KF)
  | fence (f : RF)
  | bra (f : BF)
  | call (f : BF)
  | brx (f : RF)
  | ret (f : RF)
  | exit (f : RF)
  | mjoin (f : KF)
  | mleave (f : KF)
  | mwait (f : KF)
  | mrd (f : KF)
  | barArrive (f : KF)
  | barSync (f : KF)
  | barWait (f : KF)
  | signDecl (f : KF)
  | wait (f : XF)
  | condArm (f : KF)
  | condSet (f : KF)
  | tileSet (f : KF)
  | accAlloc (f : KF)
  | accFree (f : KF)
  | accBand (f : KF)
  | accRead (f : KF)
  | accDrain (f : KF)
  | mma (f : TF)
  | mmaSpec (f : TF)
  | mmaIdx (f : TF)
  | taskAmp (f : KF)
  | primEmit (f : KF)
  | visMin (f : XF)
  | occBegin (f : KF)
  | occEnd (f : KF)
  | pxDiscard (f : RF)
  | pxDepth (f : RF)
  | tstBox (f : XF)
  | tstTri (f : XF)
  | stkPush (f : KF)
  | stkPop (f : KF)
  | recPush (f : KF)
  | recPop (f : KF)
  | sstep (f : RF)
  | nbrSend (f : KF)
  | nbrReduce (f : KF)
  | bdeGather (f : KF)
  | bdeReduce (f : KF)
  | bdeCvt (f : KF)
  | sregRd (f : KF)
  | sregWr (f : KF)
  | trap (f : IF)
  | sys (f : IF)
  | eret (f : RF)
  | brk (f : IF)
  | nop (f : RF)
  | hostCacheCompletion (i v : Nat)
  | railVoltageMinimum (i v : Nat)
  | linkTrainingEnd (k ok : Nat)
  | packetArrival
  | frontierArrival
  | occCellUpdate
  | schedulingRound
  | eventRecordWrite
  | interruptTimeExpiry
  | write
  | shoot
  | migrate
  | flush
  | tueReservedCommand
  | tueDone
  | drainComplete
  | drainDeadlineExpiry
  | freezeImageWrite
  | freezeDeadlineExpiry
  | resumePlacement
  | pageWalk
  | firstTouchBind
  | replCollapse
  | replCollapseComplete
  | gets
  | getm
  | upg
  | putm
  | puto
  | pute
  | mod
  | wrthru
  | atomMsg
  | sub
  | unsub
  | fwdGets
  | fwdGetm
  | inv
  | backinv
  | data
  | invack
  | backinvack
  | putack
  | wtack
  | atomrsp
  | retry
  | nackwt
  | nacklost
  | push
  | pushack
  | unsuback
  | subrsp
  | pushlost
  | powerRemoved
  deriving DecidableEq, Repr, Inhabited

/-- The fields of an encoded instruction, by word format (R188). -/
inductive Fmt where
  | r (f : RF)
  | i (f : IF)
  | m (f : MF)
  | b (f : BF)
  | k (f : KF)
  | t (f : TF)
  | x (f : XF)
  | l (f : LF)
  deriving DecidableEq, Repr, Inhabited

end Sys2Proof
end

