-- ==== Sys2Proof/Decode.lean ====
section
/-!
DEFINITION. The decoder and the encoder of the instruction words (08_encoding R183 to R197): fields of each word
format, the opcode map, reserved bits and reserved field values, and the instruction of a word or pair of words.
Decoding is total: every bit pattern gives an instruction or a named error.
-/

set_option linter.unusedVariables false

namespace Sys2Proof

/-- Bits [lo + len - 1 : lo] of a value, as a number (00_scope R2). -/
def bits {n : Nat} (w : BitVec n) (lo len : Nat) : Nat := (w.toNat >>> lo) % 2 ^ len

/-- Bit i of a value. -/
def bit {n : Nat} (w : BitVec n) (i : Nat) : Bool := w.getLsbD i

/-! ### Word formats (R188) -/

def rfOf (w : Word) : RF :=
  { d := w.extractLsb' 17 7, a := w.extractLsb' 10 7, b := w.extractLsb' 3 7, g := w.extractLsb' 0 3 }
def ifOf (w : Word) : IF :=
  { d := w.extractLsb' 17 7, a := w.extractLsb' 10 7, imm := w.extractLsb' 0 10 }
def mfOf (w : Word) : MF :=
  { d := w.extractLsb' 17 7, a := w.extractLsb' 10 7, hint := w.extractLsb' 8 2, off := w.extractLsb' 3 5,
    g := w.extractLsb' 0 3 }
def bfOf (w : Word) : BF := { g := w.extractLsb' 21 3, off := w.extractLsb' 0 21 }
def kfOf (w : Word) : KF :=
  { x := w.extractLsb' 20 4, a := w.extractLsb' 13 7, b := w.extractLsb' 6 7, f := w.extractLsb' 3 3,
    g := w.extractLsb' 0 3 }
def tfOf (w : Word) : TF :=
  { tA := w.extractLsb' 20 4, tB := w.extractLsb' 16 4, acc := w.extractLsb' 13 3, k := w.extractLsb' 9 4,
    f := w.extractLsb' 6 3, h := w.extractLsb' 3 3, flags := w.extractLsb' 0 3 }
def xfOf (w w2 : Word) : XF :=
  { d := w.extractLsb' 17 7, a := w.extractLsb' 10 7, b := w.extractLsb' 3 7, g := w.extractLsb' 0 3, c := w2 }
def lfOf (w w2 : Word) : LF :=
  { d := w.extractLsb' 17 7, a := w.extractLsb' 10 7, f7 := w.extractLsb' 3 7, g := w.extractLsb' 0 3, lit := w2 }

/-! ### The opcode map (R196) -/

/-- The opcode and the fields of an encoded instruction; none for a hardware step, which has no encoding. -/
def Instr.enc : Instr → Option (BitVec 8 × Fmt)
  | .addI f => some (0x01#8, .r f)
  | .addIImm f => some (0x02#8, .i f)
  | .subI f => some (0x03#8, .r f)
  | .addcN f => some (0x04#8, .r f)
  | .subbN f => some (0x05#8, .r f)
  | .mulI f => some (0x06#8, .r f)
  | .mulhiI f => some (0x07#8, .r f)
  | .mulhiN f => some (0x08#8, .r f)
  | .madI f => some (0x09#8, .x f)
  | .divI f => some (0x0A#8, .r f)
  | .divN f => some (0x0B#8, .r f)
  | .remI f => some (0x0C#8, .r f)
  | .remN f => some (0x0D#8, .r f)
  | .minI f => some (0x0E#8, .r f)
  | .maxI f => some (0x0F#8, .r f)
  | .minN f => some (0x10#8, .r f)
  | .maxN f => some (0x11#8, .r f)
  | .absI f => some (0x12#8, .r f)
  | .addI16x2 f => some (0x13#8, .r f)
  | .subI16x2 f => some (0x14#8, .r f)
  | .addN16x2 f => some (0x15#8, .r f)
  | .subN16x2 f => some (0x16#8, .r f)
  | .addI8x4 f => some (0x17#8, .r f)
  | .subI8x4 f => some (0x18#8, .r f)
  | .addN8x4 f => some (0x19#8, .r f)
  | .subN8x4 f => some (0x1A#8, .r f)
  | .and f => some (0x1B#8, .r f)
  | .or f => some (0x1C#8, .r f)
  | .xor f => some (0x1D#8, .r f)
  | .andn f => some (0x1E#8, .r f)
  | .andImm f => some (0x1F#8, .i f)
  | .orImm f => some (0x20#8, .i f)
  | .xorImm f => some (0x21#8, .i f)
  | .shl f => some (0x22#8, .r f)
  | .shrN f => some (0x23#8, .r f)
  | .shrI f => some (0x24#8, .r f)
  | .shlImm f => some (0x25#8, .i f)
  | .shrNImm f => some (0x26#8, .i f)
  | .shrIImm f => some (0x27#8, .i f)
  | .bfxN f => some (0x28#8, .x f)
  | .bfxI f => some (0x29#8, .x f)
  | .bfi f => some (0x2A#8, .x f)
  | .popc f => some (0x2B#8, .r f)
  | .clz f => some (0x2C#8, .r f)
  | .brev f => some (0x2D#8, .r f)
  | .lea f => some (0x2E#8, .x f)
  | .setpI f => some (0x2F#8, .x f)
  | .setpN f => some (0x30#8, .x f)
  | .sel f => some (0x31#8, .x f)
  | .mov f => some (0x32#8, .r f)
  | .movImm f => some (0x33#8, .i f)
  | .movLit f => some (0x34#8, .l f)
  | .shfl f => some (0x35#8, .x f)
  | .vote f => some (0x36#8, .k f)
  | .xint f => some (0x37#8, .x f)
  | .addF f => some (0x38#8, .r f)
  | .subF f => some (0x39#8, .r f)
  | .mulF f => some (0x3A#8, .r f)
  | .fmaF f => some (0x3B#8, .x f)
  | .minF f => some (0x3C#8, .r f)
  | .maxF f => some (0x3D#8, .r f)
  | .absF f => some (0x3E#8, .r f)
  | .negF f => some (0x3F#8, .r f)
  | .divF f => some (0x40#8, .r f)
  | .setpF f => some (0x41#8, .x f)
  | .addF16x2 f => some (0x42#8, .r f)
  | .mulF16x2 f => some (0x43#8, .r f)
  | .fmaF16x2 f => some (0x44#8, .x f)
  | .minF16x2 f => some (0x45#8, .r f)
  | .maxF16x2 f => some (0x46#8, .r f)
  | .setpF16x2 f => some (0x47#8, .x f)
  | .addBf16x2 f => some (0x48#8, .r f)
  | .mulBf16x2 f => some (0x49#8, .r f)
  | .fmaBf16x2 f => some (0x4A#8, .x f)
  | .minBf16x2 f => some (0x4B#8, .r f)
  | .maxBf16x2 f => some (0x4C#8, .r f)
  | .setpBf16x2 f => some (0x4D#8, .x f)
  | .addF64 f => some (0x4E#8, .r f)
  | .subF64 f => some (0x4F#8, .r f)
  | .mulF64 f => some (0x50#8, .r f)
  | .fmaF64 f => some (0x51#8, .x f)
  | .minF64 f => some (0x52#8, .r f)
  | .maxF64 f => some (0x53#8, .r f)
  | .divF64 f => some (0x54#8, .r f)
  | .setpF64 f => some (0x55#8, .x f)
  | .rcpF f => some (0x56#8, .r f)
  | .sqrtF f => some (0x57#8, .r f)
  | .rsqrtF f => some (0x58#8, .r f)
  | .exp2F f => some (0x59#8, .r f)
  | .log2F f => some (0x5A#8, .r f)
  | .rcpF64 f => some (0x5B#8, .r f)
  | .sqrtF64 f => some (0x5C#8, .r f)
  | .rintF f => some (0x5D#8, .x f)
  | .rintF64 f => some (0x5E#8, .x f)
  | .crel f => some (0x5F#8, .x f)
  | .dot4 f => some (0x60#8, .x f)
  | .cvt f => some (0x61#8, .x f)
  | .xflt f => some (0x6F#8, .x f)
  | .ld f => some (0x70#8, .x f)
  | .ldw f => some (0x71#8, .m f)
  | .st f => some (0x72#8, .x f)
  | .stw f => some (0x73#8, .m f)
  | .lds f => some (0x74#8, .x f)
  | .sts f => some (0x75#8, .x f)
  | .atom f => some (0x76#8, .x f)
  | .red f => some (0x77#8, .x f)
  | .cas f => some (0x78#8, .x f)
  | .atoms f => some (0x79#8, .x f)
  | .standSub f => some (0x7A#8, .k f)
  | .standRead f => some (0x7B#8, .k f)
  | .standSeq f => some (0x7C#8, .k f)
  | .standWait f => some (0x7D#8, .k f)
  | .standDrop f => some (0x7E#8, .k f)
  | .copy f => some (0x7F#8, .k f)
  | .fence f => some (0x8F#8, .r f)
  | .bra f => some (0x90#8, .b f)
  | .call f => some (0x91#8, .b f)
  | .brx f => some (0x92#8, .r f)
  | .ret f => some (0x93#8, .r f)
  | .exit f => some (0x94#8, .r f)
  | .mjoin f => some (0x95#8, .k f)
  | .mleave f => some (0x96#8, .k f)
  | .mwait f => some (0x97#8, .k f)
  | .mrd f => some (0x98#8, .k f)
  | .barArrive f => some (0x99#8, .k f)
  | .barSync f => some (0x9A#8, .k f)
  | .barWait f => some (0x9B#8, .k f)
  | .signDecl f => some (0x9C#8, .k f)
  | .wait f => some (0x9D#8, .x f)
  | .condArm f => some (0x9E#8, .k f)
  | .condSet f => some (0x9F#8, .k f)
  | .tileSet f => some (0xA8#8, .k f)
  | .accAlloc f => some (0xA9#8, .k f)
  | .accFree f => some (0xAA#8, .k f)
  | .accBand f => some (0xAB#8, .k f)
  | .accRead f => some (0xAC#8, .k f)
  | .accDrain f => some (0xAD#8, .k f)
  | .mma f => some (0xAE#8, .t f)
  | .mmaSpec f => some (0xAF#8, .t f)
  | .mmaIdx f => some (0xB0#8, .t f)
  | .taskAmp f => some (0xC8#8, .k f)
  | .primEmit f => some (0xC9#8, .k f)
  | .visMin f => some (0xCA#8, .x f)
  | .occBegin f => some (0xCB#8, .k f)
  | .occEnd f => some (0xCC#8, .k f)
  | .pxDiscard f => some (0xCD#8, .r f)
  | .pxDepth f => some (0xCE#8, .r f)
  | .tstBox f => some (0xCF#8, .x f)
  | .tstTri f => some (0xD0#8, .x f)
  | .stkPush f => some (0xD1#8, .k f)
  | .stkPop f => some (0xD2#8, .k f)
  | .recPush f => some (0xD3#8, .k f)
  | .recPop f => some (0xD4#8, .k f)
  | .sstep f => some (0xE8#8, .r f)
  | .nbrSend f => some (0xE9#8, .k f)
  | .nbrReduce f => some (0xEA#8, .k f)
  | .bdeGather f => some (0xEB#8, .k f)
  | .bdeReduce f => some (0xEC#8, .k f)
  | .bdeCvt f => some (0xED#8, .k f)
  | .sregRd f => some (0xF4#8, .k f)
  | .sregWr f => some (0xF5#8, .k f)
  | .trap f => some (0xF6#8, .i f)
  | .sys f => some (0xF7#8, .i f)
  | .eret f => some (0xF8#8, .r f)
  | .brk f => some (0xF9#8, .i f)
  | .nop f => some (0xFA#8, .r f)
  | _ => none

/-- The instruction of an opcode and its words, by the opcode map of R196; none for an unassigned opcode (R197). -/
def instrOfOp (op : Nat) (w w2 : Word) : Option Instr :=
  match op with
  | 0x01 => some (.addI (rfOf w))
  | 0x02 => some (.addIImm (ifOf w))
  | 0x03 => some (.subI (rfOf w))
  | 0x04 => some (.addcN (rfOf w))
  | 0x05 => some (.subbN (rfOf w))
  | 0x06 => some (.mulI (rfOf w))
  | 0x07 => some (.mulhiI (rfOf w))
  | 0x08 => some (.mulhiN (rfOf w))
  | 0x09 => some (.madI (xfOf w w2))
  | 0x0A => some (.divI (rfOf w))
  | 0x0B => some (.divN (rfOf w))
  | 0x0C => some (.remI (rfOf w))
  | 0x0D => some (.remN (rfOf w))
  | 0x0E => some (.minI (rfOf w))
  | 0x0F => some (.maxI (rfOf w))
  | 0x10 => some (.minN (rfOf w))
  | 0x11 => some (.maxN (rfOf w))
  | 0x12 => some (.absI (rfOf w))
  | 0x13 => some (.addI16x2 (rfOf w))
  | 0x14 => some (.subI16x2 (rfOf w))
  | 0x15 => some (.addN16x2 (rfOf w))
  | 0x16 => some (.subN16x2 (rfOf w))
  | 0x17 => some (.addI8x4 (rfOf w))
  | 0x18 => some (.subI8x4 (rfOf w))
  | 0x19 => some (.addN8x4 (rfOf w))
  | 0x1A => some (.subN8x4 (rfOf w))
  | 0x1B => some (.and (rfOf w))
  | 0x1C => some (.or (rfOf w))
  | 0x1D => some (.xor (rfOf w))
  | 0x1E => some (.andn (rfOf w))
  | 0x1F => some (.andImm (ifOf w))
  | 0x20 => some (.orImm (ifOf w))
  | 0x21 => some (.xorImm (ifOf w))
  | 0x22 => some (.shl (rfOf w))
  | 0x23 => some (.shrN (rfOf w))
  | 0x24 => some (.shrI (rfOf w))
  | 0x25 => some (.shlImm (ifOf w))
  | 0x26 => some (.shrNImm (ifOf w))
  | 0x27 => some (.shrIImm (ifOf w))
  | 0x28 => some (.bfxN (xfOf w w2))
  | 0x29 => some (.bfxI (xfOf w w2))
  | 0x2A => some (.bfi (xfOf w w2))
  | 0x2B => some (.popc (rfOf w))
  | 0x2C => some (.clz (rfOf w))
  | 0x2D => some (.brev (rfOf w))
  | 0x2E => some (.lea (xfOf w w2))
  | 0x2F => some (.setpI (xfOf w w2))
  | 0x30 => some (.setpN (xfOf w w2))
  | 0x31 => some (.sel (xfOf w w2))
  | 0x32 => some (.mov (rfOf w))
  | 0x33 => some (.movImm (ifOf w))
  | 0x34 => some (.movLit (lfOf w w2))
  | 0x35 => some (.shfl (xfOf w w2))
  | 0x36 => some (.vote (kfOf w))
  | 0x37 => some (.xint (xfOf w w2))
  | 0x38 => some (.addF (rfOf w))
  | 0x39 => some (.subF (rfOf w))
  | 0x3A => some (.mulF (rfOf w))
  | 0x3B => some (.fmaF (xfOf w w2))
  | 0x3C => some (.minF (rfOf w))
  | 0x3D => some (.maxF (rfOf w))
  | 0x3E => some (.absF (rfOf w))
  | 0x3F => some (.negF (rfOf w))
  | 0x40 => some (.divF (rfOf w))
  | 0x41 => some (.setpF (xfOf w w2))
  | 0x42 => some (.addF16x2 (rfOf w))
  | 0x43 => some (.mulF16x2 (rfOf w))
  | 0x44 => some (.fmaF16x2 (xfOf w w2))
  | 0x45 => some (.minF16x2 (rfOf w))
  | 0x46 => some (.maxF16x2 (rfOf w))
  | 0x47 => some (.setpF16x2 (xfOf w w2))
  | 0x48 => some (.addBf16x2 (rfOf w))
  | 0x49 => some (.mulBf16x2 (rfOf w))
  | 0x4A => some (.fmaBf16x2 (xfOf w w2))
  | 0x4B => some (.minBf16x2 (rfOf w))
  | 0x4C => some (.maxBf16x2 (rfOf w))
  | 0x4D => some (.setpBf16x2 (xfOf w w2))
  | 0x4E => some (.addF64 (rfOf w))
  | 0x4F => some (.subF64 (rfOf w))
  | 0x50 => some (.mulF64 (rfOf w))
  | 0x51 => some (.fmaF64 (xfOf w w2))
  | 0x52 => some (.minF64 (rfOf w))
  | 0x53 => some (.maxF64 (rfOf w))
  | 0x54 => some (.divF64 (rfOf w))
  | 0x55 => some (.setpF64 (xfOf w w2))
  | 0x56 => some (.rcpF (rfOf w))
  | 0x57 => some (.sqrtF (rfOf w))
  | 0x58 => some (.rsqrtF (rfOf w))
  | 0x59 => some (.exp2F (rfOf w))
  | 0x5A => some (.log2F (rfOf w))
  | 0x5B => some (.rcpF64 (rfOf w))
  | 0x5C => some (.sqrtF64 (rfOf w))
  | 0x5D => some (.rintF (xfOf w w2))
  | 0x5E => some (.rintF64 (xfOf w w2))
  | 0x5F => some (.crel (xfOf w w2))
  | 0x60 => some (.dot4 (xfOf w w2))
  | 0x61 => some (.cvt (xfOf w w2))
  | 0x6F => some (.xflt (xfOf w w2))
  | 0x70 => some (.ld (xfOf w w2))
  | 0x71 => some (.ldw (mfOf w))
  | 0x72 => some (.st (xfOf w w2))
  | 0x73 => some (.stw (mfOf w))
  | 0x74 => some (.lds (xfOf w w2))
  | 0x75 => some (.sts (xfOf w w2))
  | 0x76 => some (.atom (xfOf w w2))
  | 0x77 => some (.red (xfOf w w2))
  | 0x78 => some (.cas (xfOf w w2))
  | 0x79 => some (.atoms (xfOf w w2))
  | 0x7A => some (.standSub (kfOf w))
  | 0x7B => some (.standRead (kfOf w))
  | 0x7C => some (.standSeq (kfOf w))
  | 0x7D => some (.standWait (kfOf w))
  | 0x7E => some (.standDrop (kfOf w))
  | 0x7F => some (.copy (kfOf w))
  | 0x8F => some (.fence (rfOf w))
  | 0x90 => some (.bra (bfOf w))
  | 0x91 => some (.call (bfOf w))
  | 0x92 => some (.brx (rfOf w))
  | 0x93 => some (.ret (rfOf w))
  | 0x94 => some (.exit (rfOf w))
  | 0x95 => some (.mjoin (kfOf w))
  | 0x96 => some (.mleave (kfOf w))
  | 0x97 => some (.mwait (kfOf w))
  | 0x98 => some (.mrd (kfOf w))
  | 0x99 => some (.barArrive (kfOf w))
  | 0x9A => some (.barSync (kfOf w))
  | 0x9B => some (.barWait (kfOf w))
  | 0x9C => some (.signDecl (kfOf w))
  | 0x9D => some (.wait (xfOf w w2))
  | 0x9E => some (.condArm (kfOf w))
  | 0x9F => some (.condSet (kfOf w))
  | 0xA8 => some (.tileSet (kfOf w))
  | 0xA9 => some (.accAlloc (kfOf w))
  | 0xAA => some (.accFree (kfOf w))
  | 0xAB => some (.accBand (kfOf w))
  | 0xAC => some (.accRead (kfOf w))
  | 0xAD => some (.accDrain (kfOf w))
  | 0xAE => some (.mma (tfOf w))
  | 0xAF => some (.mmaSpec (tfOf w))
  | 0xB0 => some (.mmaIdx (tfOf w))
  | 0xC8 => some (.taskAmp (kfOf w))
  | 0xC9 => some (.primEmit (kfOf w))
  | 0xCA => some (.visMin (xfOf w w2))
  | 0xCB => some (.occBegin (kfOf w))
  | 0xCC => some (.occEnd (kfOf w))
  | 0xCD => some (.pxDiscard (rfOf w))
  | 0xCE => some (.pxDepth (rfOf w))
  | 0xCF => some (.tstBox (xfOf w w2))
  | 0xD0 => some (.tstTri (xfOf w w2))
  | 0xD1 => some (.stkPush (kfOf w))
  | 0xD2 => some (.stkPop (kfOf w))
  | 0xD3 => some (.recPush (kfOf w))
  | 0xD4 => some (.recPop (kfOf w))
  | 0xE8 => some (.sstep (rfOf w))
  | 0xE9 => some (.nbrSend (kfOf w))
  | 0xEA => some (.nbrReduce (kfOf w))
  | 0xEB => some (.bdeGather (kfOf w))
  | 0xEC => some (.bdeReduce (kfOf w))
  | 0xED => some (.bdeCvt (kfOf w))
  | 0xF4 => some (.sregRd (kfOf w))
  | 0xF5 => some (.sregWr (kfOf w))
  | 0xF6 => some (.trap (ifOf w))
  | 0xF7 => some (.sys (ifOf w))
  | 0xF8 => some (.eret (rfOf w))
  | 0xF9 => some (.brk (ifOf w))
  | 0xFA => some (.nop (rfOf w))
  | _ => none

/-- Whether the opcode takes a second word: formats XA, XM, XC and L (R188). -/
def twoWords (op : Nat) : Bool :=
  match op with
  | 0x09 | 0x28 | 0x29 | 0x2A | 0x2E | 0x2F | 0x30 | 0x31 | 0x34 | 0x35 | 0x37 | 0x3B | 0x41 | 0x44 | 0x47 | 0x4A | 0x4D | 0x51 | 0x55 | 0x5D | 0x5E | 0x5F | 0x60 | 0x61 | 0x6F | 0x70 | 0x72 | 0x74 | 0x75 | 0x76 | 0x77 | 0x78 | 0x79 | 0x9D | 0xCA | 0xCF | 0xD0 => true
  | _ => false

/-- Bits of word 1 that no form of the opcode uses (R195, R275): they must be zero. -/
def rsvMask1 (op : Nat) : Word :=
  match op with
  | 0x12 => 0x000003F8#32
  | 0x2B => 0x000003F8#32
  | 0x2C => 0x000003F8#32
  | 0x2D => 0x000003F8#32
  | 0x32 => 0x000003F8#32
  | 0x33 => 0x0001FC00#32
  | 0x34 => 0x0001FD80#32
  | 0x36 => 0x00F00000#32
  | 0x3E => 0x000003F8#32
  | 0x3F => 0x000003F8#32
  | 0x56 => 0x000003F8#32
  | 0x57 => 0x000003F8#32
  | 0x58 => 0x000003F8#32
  | 0x59 => 0x000003F8#32
  | 0x5A => 0x000003F8#32
  | 0x5B => 0x000003F8#32
  | 0x5C => 0x000003F8#32
  | 0x5D => 0x000003F8#32
  | 0x5E => 0x000003F8#32
  | 0x7A => 0x00000030#32
  | 0x7B => 0x00F00038#32
  | 0x7C => 0x00F00030#32
  | 0x7D => 0x00F00038#32
  | 0x7E => 0x00001FF8#32
  | 0x8F => 0x000003C0#32
  | 0x92 => 0x00FE03F8#32
  | 0x93 => 0x00FFFFF8#32
  | 0x94 => 0x00FFFFF8#32
  | 0x95 => 0x000FFFF8#32
  | 0x96 => 0x000FFFF8#32
  | 0x97 => 0x000FFFF8#32
  | 0x98 => 0x00001FF8#32
  | 0x99 => 0x00001FC0#32
  | 0x9B => 0x000FE038#32
  | 0x9D => 0x00FFFFF8#32
  | 0x9E => 0x00F00000#32
  | 0x9F => 0x00FFE000#32
  | 0xA8 => 0x00001FF8#32
  | 0xA9 => 0x00000038#32
  | 0xAA => 0x000FFFF8#32
  | 0xAB => 0x00000030#32
  | 0xAC => 0x00000020#32
  | 0xAD => 0x00001FC0#32
  | 0xAE => 0x00000006#32
  | 0xAF => 0x00000006#32
  | 0xB0 => 0x00000006#32
  | 0xC8 => 0x00F01FF8#32
  | 0xC9 => 0x00000038#32
  | 0xCB => 0x00F01FF8#32
  | 0xCC => 0x00F01FF8#32
  | 0xCD => 0x00FFFFF8#32
  | 0xCE => 0x00FE03F8#32
  | 0xD1 => 0x00F01FF8#32
  | 0xD2 => 0x00001FF8#32
  | 0xD3 => 0x00F01FF8#32
  | 0xD4 => 0x00001FF0#32
  | 0xE8 => 0x00FFFFF8#32
  | 0xE9 => 0x00001FF8#32
  | 0xEA => 0x00000038#32
  | 0xED => 0x00000038#32
  | 0xF4 => 0x00F00030#32
  | 0xF5 => 0x00F00030#32
  | 0xF6 => 0x00FFFC00#32
  | 0xF7 => 0x00FE0000#32
  | 0xF8 => 0x00FFFFF8#32
  | 0xF9 => 0x00FFFC00#32
  | 0xFA => 0x00FFFFF8#32
  | _ => 0

/-- Bits of the second word that no form of the opcode uses (R191 to R193, R209): they must be zero. -/
def rsvMask2 (op : Nat) : Word :=
  match op with
  | 0x09 => 0xE001FFFF#32
  | 0x28 => 0xF1FFFFFF#32
  | 0x29 => 0xF1FFFFFF#32
  | 0x2A => 0xF001FFFF#32
  | 0x2E => 0xF1FFFFF0#32
  | 0x2F => 0xF001FF00#32
  | 0x30 => 0xF001FF00#32
  | 0x31 => 0xF001FFFF#32
  | 0x35 => 0xF1FFFFFC#32
  | 0x37 => 0x01FFFF00#32
  | 0x3B => 0x0001FFFF#32
  | 0x41 => 0xF001FF00#32
  | 0x44 => 0x0001FFFF#32
  | 0x47 => 0xF001FF00#32
  | 0x4A => 0x0001FFFF#32
  | 0x4D => 0xF001FF00#32
  | 0x51 => 0x0001FFFF#32
  | 0x55 => 0xF001FF00#32
  | 0x5D => 0x11FFFFFF#32
  | 0x5E => 0x11FFFFFF#32
  | 0x5F => 0xF1FFFFFF#32
  | 0x60 => 0x00000100#32
  | 0x61 => 0x00000100#32
  | 0x6F => 0x01FFFF00#32
  | 0x70 => 0x00030000#32
  | 0x72 => 0x03FF0000#32
  | 0x74 => 0xC0030000#32
  | 0x75 => 0xC3FF0000#32
  | 0x76 => 0x00030000#32
  | 0x77 => 0x00030000#32
  | 0x78 => 0x00030000#32
  | 0x79 => 0xC0030000#32
  | 0x9D => 0xC000000F#32
  | 0xCA => 0x00030000#32
  | 0xCF => 0x00FFFFFF#32
  | 0xD0 => 0x00FFFFFF#32
  | _ => 0
/-! ### Control words -/

/-- XA control word (R191). -/
def xRnd (c : Word) : Nat := bits c 29 3
def xSat (c : Word) : Bool := bit c 28
def xKA (c : Word) : Bool := bit c 27
def xKB (c : Word) : Bool := bit c 26
def xKD (c : Word) : Bool := bit c 25
def xC (c : Word) : Nat := bits c 18 7
def xKC (c : Word) : Bool := bit c 17
def xTag (c : Word) : Nat := bits c 9 8
def xFunc (c : Word) : Nat := bits c 0 8

/-- XM control word (R192). -/
def mHint (c : Word) : Nat := bits c 30 2
def mKB (c : Word) : Bool := bit c 29
def mSize (c : Word) : Nat := bits c 26 3
def mF8 (c : Word) : Nat := bits c 18 8
def mOff (c : Word) : BitVec 16 := c.extractLsb' 0 16
/-- Operation and type of an atomic's F8 field (R251). -/
def mOp (c : Word) : Nat := bits c 22 4
def mTy (c : Word) : Nat := bits c 18 4

/-- Control word of wait (R271). -/
def wLdt (c : Word) : Nat := bits c 24 6
def wStt (c : Word) : Nat := bits c 18 6
def wTlt (c : Word) : Nat := bits c 12 6
def wTok (c : Word) : Nat := bits c 4 8

/-- Control word of tst.box and tst.tri (R296). -/
def tN (c : Word) : Nat := bits c 25 7
def tKN (c : Word) : Bool := bit c 24

/-! ### Field values (R195 step 5) -/

/-- A tag value that R146 does not reserve. -/
def tagKnown (t : Nat) : Bool :=
  decide (t ≤ 0xB) || t == 0xF || (decide (0x80 ≤ t ∧ t ≤ 0xFF) && (t / 16 % 8 != 0) && decide (t % 4 ≤ 1))

/-- A B8X4 tag with precision 1 to 7 and no scale (R235). -/
def b8Unscaled (t : Nat) : Bool := decide (0x80 ≤ t ∧ t ≤ 0xFF) && (t / 16 % 8 != 0) && t % 4 == 0

/-- A B8X4 tag with precision 1 to 7 and scale mode 0b00 or 0b01 (R239). -/
def b8Known (t : Nat) : Bool := decide (0x80 ≤ t ∧ t ≤ 0xFF) && (t / 16 % 8 != 0) && decide (t % 4 ≤ 1)

/-- Whether the tag names a scaled binary8 format (R146). -/
def b8Scaled (t : Nat) : Bool := t % 4 == 1

/-- R-format integer opcodes that xint may name (R191, R196). -/
def xintFuncs : List Nat :=
  [0x01, 0x03, 0x04, 0x05, 0x06, 0x07, 0x08, 0x0A, 0x0B, 0x0C, 0x0D, 0x0E, 0x0F, 0x10, 0x11, 0x12, 0x13, 0x14,
   0x15, 0x16, 0x17, 0x18, 0x19, 0x1A, 0x1B, 0x1C, 0x1D, 0x1E, 0x22, 0x23, 0x24, 0x2B, 0x2C, 0x2D, 0x32]

/-- R-format floating-point opcodes that xflt may name (R191, R196). -/
def xfltFuncs : List Nat :=
  [0x38, 0x39, 0x3A, 0x3C, 0x3D, 0x3E, 0x3F, 0x40, 0x42, 0x43, 0x45, 0x46, 0x48, 0x49, 0x4B, 0x4C, 0x4E, 0x4F,
   0x50, 0x52, 0x53, 0x54, 0x56, 0x57, 0x58, 0x59, 0x5A, 0x5B, 0x5C]

/-- Unary R-format opcodes: field b is zero (R211, R219, R224, R227, R233). -/
def unaryFuncs : List Nat :=
  [0x12, 0x2B, 0x2C, 0x2D, 0x32, 0x3E, 0x3F, 0x56, 0x57, 0x58, 0x59, 0x5A, 0x5B, 0x5C]

/-- Operations on which xint may set SAT (R214, R215). -/
def xintSat : List Nat := [0x01, 0x03, 0x12, 0x13, 0x14, 0x15, 0x16, 0x17, 0x18, 0x19, 0x1A]

/-- Operations that round, on which xflt may set RND and SAT (R227, R230, R231, R233). -/
def xfltRound : List Nat :=
  [0x38, 0x39, 0x3A, 0x40, 0x42, 0x43, 0x48, 0x49, 0x4E, 0x4F, 0x50, 0x54, 0x56, 0x57, 0x58, 0x59, 0x5A, 0x5B, 0x5C]

/-- KD is set only when every source read is uniform (R191). -/
def kdOk (c : Word) (ka kb kc : Bool) : Bool := !xKD c || (ka && kb && kc)

/-- xint and xflt (R191, R209, R210). -/
def xopOk (f : XF) (fns sats : List Nat) (rounds : Bool) : Bool :=
  let fn := xFunc f.c
  fns.contains fn &&
  (if sats.contains fn then (if rounds then decide (xRnd f.c ≤ 4) else xRnd f.c == 0)
   else xRnd f.c == 0 && !xSat f.c) &&
  (if unaryFuncs.contains fn then !xKB f.c && kdOk f.c (xKA f.c) true true
   else kdOk f.c (xKA f.c) (xKB f.c) true)

/-- setp (R209, R221). -/
def setpOk (f : XF) (packed float : Bool) : Bool :=
  let fn := xFunc f.c
  let cmp := fn % 8
  let u := fn / 8 % 2
  let pk := fn / 64
  !xKD f.c && !xKC f.c && (packed || pk == 0) &&
  (if float then decide (u = 0 ∨ cmp < 6) else decide (u = 0 ∧ cmp < 6))

/-- Element width of a cvt kind (R237). -/
def kindWidth (k : Nat) : Nat :=
  match k with
  | 0 | 1 | 2 => 32
  | 3 => 64
  | 4 | 5 | 6 | 7 => 16
  | _ => 8

/-- cvt (R237, R239). -/
def cvtOk (f : XF) : Bool :=
  let sk := xFunc f.c / 16
  let dk := xFunc f.c % 16
  let tag := xTag f.c
  let stag := 0x80 + f.b.toNat
  let both := sk == 0xA && dk == 0xA
  let any := sk == 0xA || dk == 0xA
  decide (sk ≤ 0xA ∧ dk ≤ 0xA) && (sk != dk || both) &&
  !(sk == 3 && decide (8 ≤ dk)) && !(dk == 3 && decide (8 ≤ sk)) &&
  decide (xRnd f.c ≤ 5) && !xKB f.c && kdOk f.c (xKA f.c) true true &&
  (if any then b8Known tag else tag == 0) &&
  (!both || b8Known stag) &&
  (if (any && b8Scaled tag) || (both && b8Scaled stag) then xKC f.c else !xKC f.c)

/-- SIZE and F8 of ld and lds (R192, R246). -/
def loadOk (c : Word) : Bool :=
  let t := mF8 c
  match mSize c with
  | 0 | 1 => decide (t ≤ 2)
  | 2 => tagKnown t && t != 0xF
  | 3 | 4 => t == 6 || (tagKnown t && t != 0xF && t != 7)
  | _ => false

/-- Operation and type of global atomics and reductions (R251). -/
def atomOk (c : Word) : Bool :=
  match mTy c with
  | 0 => decide (3 ≤ mOp c ∧ mOp c ≤ 6) && mSize c == 2
  | 1 | 2 | 3 => decide (mOp c ≤ 2) && mSize c == 2
  | 4 | 9 => mOp c == 0 && mSize c == 2
  | 5 => decide (3 ≤ mOp c ∧ mOp c ≤ 6) && mSize c == 3
  | 6 | 7 | 8 => decide (mOp c ≤ 2) && mSize c == 3
  | _ => false

/-- Operation and type of bank atomics (R251). -/
def atomsOk (c : Word) : Bool :=
  match mTy c with
  | 0 => decide (3 ≤ mOp c ∧ mOp c ≤ 7) && mSize c == 2
  | 1 | 2 | 3 => decide (mOp c ≤ 2) && mSize c == 2
  | 4 => mOp c == 0 && mSize c == 2
  | _ => false

/-- cas (R251). -/
def casOk (c : Word) : Bool :=
  mOp c == 0 && ((mTy c == 0 && mSize c == 2) || (mTy c == 5 && mSize c == 3))

/-- Special registers of R313, and which of them are per thread. -/
def sregKnown (n : Nat) : Bool := decide (n ≤ 0xB) || decide (0x10 ≤ n ∧ n ≤ 0x17)
def sregThread (n : Nat) : Bool := [0x00, 0x01, 0x0B, 0x12, 0x15].contains n
def sregWide (n : Nat) : Bool := [0x12, 0x13, 0x15, 0x16].contains n

/-- The fields that an instruction does not use in the form that its other fields choose (R195 step 4): C of a setp that combines
nothing (R221), b of a unary operation that xint or xflt names (R191, R195), b and C of a cvt without a second format or a
scale (R239), the tag of a mov L to a uniform register, b of a sign.decl with f3 0 (R270). They are zero (assumption 17). -/
def Instr.unusedOk : Instr → Bool
  | .setpI f | .setpN f | .setpF f | .setpF64 f | .setpF16x2 f | .setpBf16x2 f => xFunc f.c / 16 % 4 != 0 || xC f.c == 0
  | .xint f | .xflt f => !unaryFuncs.contains (xFunc f.c) || f.b == 0
  | .cvt f =>
    let sb := xFunc f.c / 16 == 0xA
    let db := xFunc f.c % 16 == 0xA
    ((sb && db) || f.b == 0) &&
      (((sb || db) && b8Scaled (xTag f.c)) || (sb && db && b8Scaled (0x80 + f.b.toNat)) || xC f.c == 0)
  | .movLit f => !bit f.f7 6 || bits f.f7 0 4 == 0
  | .signDecl f => f.f != 0 || f.b == 0
  | _ => true

/-- Reserved field values of an instruction (R195 step 5): true when every used field holds a defined value. -/
def Instr.fieldsOk : Instr → Bool
  | .madI f => kdOk f.c (xKA f.c) (xKB f.c) (xKC f.c)
  | .bfxN f | .bfxI f | .lea f | .crel f => kdOk f.c (xKA f.c) (xKB f.c) true
  | .bfi f => kdOk f.c (xKA f.c) (xKB f.c) (xKC f.c)
  | .setpI f | .setpN f => setpOk f false false
  | .setpF f | .setpF64 f => setpOk f false true
  | .setpF16x2 f | .setpBf16x2 f => setpOk f true true
  | .sel f => !xKD f.c && !xKC f.c
  | .shfl f => !xKA f.c && !xKD f.c
  | .xint f => xopOk f xintFuncs xintSat false
  | .xflt f => xopOk f xfltFuncs xfltRound true
  | .fmaF f | .fmaF16x2 f | .fmaBf16x2 f | .fmaF64 f =>
    decide (xRnd f.c ≤ 4) && kdOk f.c (xKA f.c) (xKB f.c) (xKC f.c)
  | .rintF f | .rintF64 f => decide (xRnd f.c ≤ 4) && !xKB f.c && kdOk f.c (xKA f.c) true true
  | .dot4 f =>
    decide (xRnd f.c ≤ 4) && b8Unscaled (xTag f.c) && b8Unscaled (xFunc f.c) &&
    kdOk f.c (xKA f.c) (xKB f.c) (xKC f.c)
  | .cvt f => cvtOk f
  | .movLit f =>
    decide (bits f.f7 0 4 ≤ 0xB)
  | .vote f => decide (f.f.toNat ≤ 5)
  | .ld f | .lds f => loadOk f.c
  | .st f | .sts f => decide (mSize f.c ≤ 4)
  | .atom f | .red f => atomOk f.c
  | .cas f => casOk f.c
  | .atoms f => atomsOk f.c
  | .visMin f => mSize f.c == 3 && mF8 f.c == 0
  | .fence f => bits f.b 0 3 != 7
  | .barArrive f | .barSync f => decide (f.f.toNat ≤ 3)
  | .signDecl f => decide (f.f.toNat ≤ 1)
  | .condArm f | .condSet f => decide (f.f.toNat ≤ 3)
  | .accAlloc f => decide (1 ≤ f.a.toNat ∧ f.a.toNat ≤ 32)
  | .accBand f => bit f.f 0 || decide (f.a.toNat < 32 ∧ f.b.toNat < 32)
  | .mma f => f.h == 7
  | .mmaSpec f => decide (f.h.toNat ≤ 3)
  | .mmaIdx f => decide (f.h.toNat ≤ 3) || f.h == 7
  | .nbrSend f => decide (f.x.toNat ≤ 5)
  | .nbrReduce f => decide (f.x.toNat ≤ 5 ∧ f.b.toNat ≤ 11)
  | .bdeReduce f => bits f.f 0 2 != 3
  | .sregRd f => sregKnown f.b.toNat && !(bit f.f 0 && sregThread f.b.toNat)
  | .sregWr f =>
    sregKnown f.b.toNat && (bit f.f 0 || (f.b.toNat != 0x10 && f.b.toNat != 0x11))
  | _ => true

/-! ### Encoding -/

/-- The first word of an instruction (R188). -/
def Fmt.word (op : BitVec 8) : Fmt → Word
  | .r f => op ++ f.d ++ f.a ++ f.b ++ f.g
  | .i f => op ++ f.d ++ f.a ++ f.imm
  | .m f => op ++ f.d ++ f.a ++ f.hint ++ f.off ++ f.g
  | .b f => op ++ f.g ++ f.off
  | .k f => op ++ f.x ++ f.a ++ f.b ++ f.f ++ f.g
  | .t f => op ++ f.tA ++ f.tB ++ f.acc ++ f.k ++ f.f ++ f.h ++ f.flags
  | .x f => op ++ f.d ++ f.a ++ f.b ++ f.g
  | .l f => op ++ f.d ++ f.a ++ f.f7 ++ f.g

/-- The second word of an instruction, zero where there is none (R188). -/
def Fmt.word2 : Fmt → Word
  | .x f => f.c
  | .l f => f.lit
  | _ => 0

/-- The words of an instruction: the first word and the second (zero for an instruction of one word). -/
def encode (i : Instr) : Option (Word × Word) :=
  match i.enc with
  | some (op, f) => some (f.word op, f.word2)
  | none => none

/-! ### Decoding (R195 steps 1, 4 and 5) -/

/-- Why a word is no instruction: the trap code of R199 that it raises. -/
inductive DecErr where
  | unassigned
  | reservedBits
  | reservedField
  deriving DecidableEq, Repr

/-- The opcode of a word (R188). -/
def opcode (w : Word) : Nat := bits w 24 8

/-- The instruction of a word and the word after it, whatever the second word holds where it is not used. -/
def decode (w w2 : Word) : Except DecErr Instr :=
  match instrOfOp (opcode w) w w2 with
  | none => .error .unassigned
  | some i =>
    if w &&& rsvMask1 (opcode w) ≠ 0 ∨ w2 &&& rsvMask2 (opcode w) ≠ 0 ∨ i.unusedOk = false then .error .reservedBits
    else if i.fieldsOk then .ok i
    else .error .reservedField

/-- The opcode table's reading: bits [31:0] are the first word, bits [63:32] the second. -/
def decodeTableWord (nbits w : Nat) : Option Instr :=
  match decode (BitVec.ofNat 32 w) (BitVec.ofNat 32 (w / 2 ^ 32)) with
  | .ok i => some i
  | .error _ => none

end Sys2Proof
end

