-- ==== Sys2Proof/Machine/State.lean ====
section
/-!
DEFINITION. The state of the machine as plain data: everything the manual gives threads, groups, workgroups, cores,
dies, the package, its links, its host port and its memories. Where an index space is large and mostly idle, it is
held as a sparse list of (index, value) pairs over a default value. `State.reset` is the device before 48 V is
applied: every register at the Reset column of its field map.
-/

set_option linter.unusedVariables false

namespace Sys2Proof.Machine

/-- A sparse table: entries by rising index, every other index at the default of the element. -/
abbrev Cells (α : Type) := List (Nat × α)

/-- Byte memory, canonical: addresses strictly rising, no byte equal to 0, which an unlisted address reads as
(21_bringup R432 step 5 writes zero to every byte; assumption 1). -/
abbrev Mem := List Host.Cell

/-! ### Threads -/

/-- One lane of one vector register: 32 bits and the format tag (03_kernel_memory R57). -/
structure VCell where
  val : Word := 0
  tag : Byte := 0
  deriving DecidableEq, Repr, Inhabited

/-- Whether a lane holds a thread (02_execution R26, R27). -/
inductive LaneSt where
  | empty
  | live
  | ended
  deriving DecidableEq, Repr, Inhabited

/-- Clause position (08_encoding R184, 19_traps R406): words left in the clause, its ECLASS, SOLO and YLD.
With no word left, the next word is a header. -/
structure Clause where
  left : Nat := 0
  ec : Nat := 0
  solo : Bool := false
  yld : Bool := false
  deriving DecidableEq, Repr, Inhabited

/-- What holds a thread (02_execution R29). -/
inductive Hold where
  | free
  | mask (n : Nat)
  | barrier (b dst : Nat)
  | superstep
  | sys (id : Nat)
  | fetch (id : Nat)
  | watch (id : Nat)
  deriving DecidableEq, Repr, Inhabited

/-- A thread: one lane of one group (02_execution R25). -/
structure Lane where
  st : LaneSt := .empty
  pc : DWord := 0
  cl : Clause := {}
  link : DWord := 0
  sstN : Nat := 0
  sstDone : Nat := 0
  epc : DWord := 0
  hold : Hold := .free
  pass : Nat := 0
  waited : Nat := 0
  inH : Bool := false
  resPc : DWord := 0
  resCl : Clause := {}
  resP : BitVec 7 := 0
  resHold : Hold := .free
  p : BitVec 7 := 0
  v : List VCell := []
  stk : Nat := 0
  top : Nat := 0
  spilled : Nat := 0
  px : Option Word := none
  deriving DecidableEq, Repr, Inhabited

/-! ### Groups -/

/-- Why a group is parked (02_execution R30). -/
inductive Park where
  | none
  | remote (a : Nat)
  | amp (rec : List Word) (emit : Nat)
  | standWait (slot : Nat) (val : Word)
  | recPush (rec : List Word) (graph : Nat)
  deriving DecidableEq, Repr, Inhabited

/-- When a pending register write is done: in a clock, or at the reply of an access (02_execution R29). -/
inductive Due where
  | clk (n : Nat)
  | acc (id : Nat)
  deriving DecidableEq, Repr, Inhabited

/-- A pending register write: kind 0 vector, 1 uniform, 2 predicate; index; lanes. -/
structure Busy where
  kind : Nat
  idx : Nat
  lanes : Word
  due : Due
  deriving DecidableEq, Repr, Inhabited

/-- A fence in force: scope, successor set, the threads whose later accesses it orders, and the predecessors not yet
performed (07_ordering R166). -/
structure FenceRec where
  scope : Nat
  succ : BitVec 7
  lanes : Word
  preds : List Nat
  deriving DecidableEq, Repr, Inhabited

/-- A group (02_execution R25); `phaseAt` is one more than the clock in which sreg.wr last wrote φ (11_isa R314). -/
structure Group where
  idx : Nat := 0
  age : Nat := 0
  pass : Nat := 0
  s : List Word := []
  m : List Word := []
  arr : List Word := []
  ld : Nat := 0
  stc : Nat := 0
  tl : Nat := 0
  fmode : Word := 0
  phase : BitVec 5 := 0
  phaseAt : Nat := 0
  handler : Bool := false
  ecause : Word := 0
  eaddr : DWord := 0
  eskid : Word := 0
  park : Park := .none
  busy : List Busy := []
  fences : List FenceRec := []
  seen : List Nat := []
  issued : Nat := 0
  lanes : List Lane := []
  deriving DecidableEq, Repr, Inhabited

/-! ### Workgroups -/

/-- State of a sign register (02_execution R39). -/
inductive SignSt where
  | idle
  | declared
  | signing
  | issuing
  deriving DecidableEq, Repr, Inhabited

/-- A sign register: declared and signed lane masks by group, the first signer's instruction, and the descriptors
captured at the first signature (R39, R41, 11_isa R277); `declAt` is one more than the clock of its latest declaration
(R40). -/
structure Sign where
  st : SignSt := .idle
  decl : List Word := []
  signed : List Word := []
  ins : Option Instr := none
  dA : BitVec 128 := 0
  dB : BitVec 128 := 0
  dI : BitVec 128 := 0
  banks : List Nat := []
  shadows : List Nat := []
  live : Bool := true
  id : Nat := 0
  after : List (Nat × Nat) := []
  declAt : Nat := 0
  deriving DecidableEq, Repr, Inhabited

/-- Where a thread stands at a barrier (R46): arrived, or with a result that it has not collected and the accesses
that its collection orders (07_ordering R170). -/
inductive BArr where
  | arrived
  | ready (v : Word) (tag : Byte) (preds : List Nat)
  deriving DecidableEq, Repr, Inhabited

/-- A barrier (02_execution R44): phase bit, operation of the phase, partial payload, its threads, and the accesses that
its arrivals put before the phase's completion (07_ordering R170). -/
structure Barrier where
  phase : Bool := false
  op : Option Nat := none
  part : Word := 0
  who : Cells BArr := []
  preds : List Nat := []
  deriving DecidableEq, Repr, Inhabited

/-- A band of a handle: its bank, its owner, the owner before the latest change and the clock of that change
(03_kernel_memory R70, R71, 11_isa R278). -/
structure Band where
  bank : Nat
  owner : Nat
  prev : Nat := 0
  since : Nat := 0
  deriving DecidableEq, Repr, Inhabited

/-- A condition: armed on a handle with one shadow bank for each band and its written mark (R50, R75). -/
structure Cond where
  armed : Bool := false
  handle : Nat := 0
  shadows : List (Nat × Bool) := []
  deriving DecidableEq, Repr, Inhabited

/-- Life of a resident workgroup: running, frozen at its freeze point, dropping its slots, or ending. -/
inductive WgSt where
  | running
  | frozen
  | dropping
  deriving DecidableEq, Repr, Inhabited

/-- A resident workgroup (02_execution R25). -/
structure Wg where
  id : Nat := 0
  launch : Nat := 0
  asid : Nat := 0
  index : Nat := 0
  die : Nat := 0
  core : Nat := 0
  st : WgSt := .running
  nthr : Nat := 0
  regs : Nat := 0
  scratch : Mem := []
  scrSize : Nat := 0
  scrBase : Nat := 0
  accMax : Nat := 0
  mctx : Option Nat := none
  producer : Nat := 0
  stage : Nat := 0
  cores : Bool := false
  meshl : Bool := false
  handler : DWord := 0
  nwg : Nat := 0
  lcore : Nat := 0
  lx : Nat := 0
  ly : Nat := 0
  ring : Nat := 0
  nring : Nat := 0
  stkBase : Nat := 0
  spillN : Nat := 0
  spillVa : DWord := 0
  spillG : Nat := 1
  ampMax : Nat := 0
  vmax : Nat := 0
  pmax : Nat := 0
  stream : Nat := 0
  draw : Nat := 0
  task : Nat := 0
  mesh : Nat := 0
  passId : Option Nat := none
  node : Nat := 0
  nd : Bool := false
  dw : Bool := false
  frag : Option Nat := none
  emits : Nat := 0
  prims : Nat := 0
  sstArr : Nat := 0
  sstDone : Nat := 0
  ks : List Sign := []
  bs : List Barrier := []
  qs : List Nat := []
  ts : List (BitVec 128) := []
  hs : List (List Band) := []
  cs : List Cond := []
  groups : List Group := []
  deriving DecidableEq, Repr, Inhabited

/-! ### Accesses and requests -/

/-- State of one lane's access: not yet translated, translated, faulting with its code of class 4, driver identifier
and address, bound or performed, or discarded. -/
inductive LaneAccSt where
  | wait
  | ok
  | fault (code : Nat) (id : Nat) (va : DWord)
  | done
  | dropped
  deriving DecidableEq, Repr, Inhabited

/-- One lane of an access: virtual address, operand words, the physical byte addresses of its bytes (those from 2^52
up are the host's, less 2^52), those of its lines that lie on a render-target page, the bytes of a load that are bound
already, and whether its store has entered the group's queue and the L1. -/
structure LaneAcc where
  lane : Nat
  va : DWord
  ops : List Word := []
  st : LaneAccSt := .wait
  pa : List Nat := []
  rt : List Nat := []
  part : List (Nat × Byte) := []
  inq : Bool := false
  l1 : Bool := false
  deriving DecidableEq, Repr, Inhabited

/-- A register write that waits for a reply: kind 0 vector, 1 uniform, 2 predicate; lane, index, value, tag. -/
structure RegWr where
  kind : Nat
  lane : Nat
  idx : Nat
  val : Word
  tag : Byte := 0
  deriving DecidableEq, Repr, Inhabited

/-- What an outstanding access does: reads into registers, stores, home atomics with or without a result,
a subscription, the reply of an access already performed, a stack spill or refill, or an instruction fetch. -/
inductive AccKind where
  | load
  | store
  | atomic
  | reduce
  | sub
  | reply
  | spill
  | refill
  | fetch
  deriving DecidableEq, Repr, Inhabited

/-- An outstanding access of a group, with the operand-log content when it faults (19_traps R410). `after` holds the
accesses that must be performed first, each at a scope (07_ordering R166); `skid0` counts the group's instructions at
its issue; `at_` is its place in the store queue. -/
structure Access where
  id : Nat
  wg : Nat
  grp : Nat
  ins : Instr
  kind : AccKind
  pc : DWord := 0
  width : Nat := 0
  hint : Nat := 0
  lanes : List LaneAcc := []
  res : List RegWr := []
  after : List (Nat × Nat) := []
  skid0 : Nat := 0
  skid : Nat := 0
  at_ : Nat := 0
  sent : List Nat := []
  aux : Nat := 0
  deriving DecidableEq, Repr, Inhabited

/-- A request of a unit: copy, bde, stand.drop, nbr.send or nbr.reduce, and acc.drain (R78, R132, R286). `done` is 0 before
it starts, 1 from then on, and 2 once all of it has been moved; `parts` are the ranges moved, first place and the place
after the last; `out` are the lines whose writes are under way to their homes, with the virtual address written there
(07_ordering R175); `buf` is the band that a drain has read (03_kernel_memory R73); `dead` says that its fault has been
delivered, so that nothing more of it is moved. -/
structure Req where
  id : Nat
  wg : Nat
  grp : Nat
  asid : Nat
  die : Nat
  ins : Instr
  pc : DWord := 0
  ops : List Word := []
  tok : Option Nat := none
  after : List (Nat × Nat) := []
  phase : BitVec 5 := 0
  done : Nat := 0
  parts : List (Nat × Nat) := []
  buf : List Word := []
  dead : Bool := false
  out : List (Nat × DWord) := []
  wrote : List Nat := []
  sst : Nat := 0
  peer : Option Nat := none
  bank : Nat := 0
  idx : Nat := 0
  fault : Option (Nat × DWord × Nat) := none
  deriving DecidableEq, Repr, Inhabited

/-! ### Cores -/

/-- An accumulator bank: free, held, or zeroing until a clock (03_kernel_memory R70). -/
inductive BankSt where
  | free
  | held
  | releasing (after : List Nat)
  | zeroing (until_ : Nat)
  deriving DecidableEq, Repr, Inhabited

/-- Where a tile operation writes: its handle's banks, its shadow banks, or nowhere (R51, R285). -/
inductive MDest where
  | primary
  | shadow
  | nowhere
  deriving DecidableEq, Repr, Inhabited

/-- A matrix operation in a context's queue (11_isa R283); `part` are the elements that it has written so far, which enter
the accumulator as it completes (02_execution R42). -/
structure MOp where
  id : Nat
  wg : Nat
  ins : Instr
  dA : BitVec 128
  dB : BitVec 128
  dI : BitVec 128
  z : Bool
  cond : Option Nat
  handle : Nat
  banks : List Nat
  shadows : List Nat
  dest : MDest
  signers : List Nat
  after : List (Nat × Nat) := []
  started : Bool := false
  pos : Nat := 0
  steps : List (Nat × Nat × Nat × Nat) := []
  part : Cells Word := []
  deriving DecidableEq, Repr, Inhabited

/-- State of a standing-table entry (03_kernel_memory R84, 10_isa R257). -/
inductive StandSt where
  | pending
  | active
  | dropping
  deriving DecidableEq, Repr, Inhabited

/-- A standing-table entry with the header of R86. -/
structure Stand where
  wg : Nat
  slot : Nat
  st : StandSt
  every : Bool
  va : DWord
  line : Nat
  acc : Nat := 0
  seq : Word := 0
  folded : Nat := 0
  lost : Bool := false
  resync : Bool := false
  overrun : Bool := false
  deriving DecidableEq, Repr, Inhabited

/-- A cached translation (16_translation R367): one page of any size. -/
structure Tlb where
  asid : Nat
  vpn : Nat
  size : Nat
  pte : DWord
  deriving DecidableEq, Repr, Inhabited

/-- A line tag of an L1 with its hint and recency (03_kernel_memory R76, R77). -/
structure L1Ent where
  line : Nat
  hint : Nat
  used : Nat
  deriving DecidableEq, Repr, Inhabited

/-- A record of a work graph: its number, the tag of its graph launch, the pass whose launch pushed it, its 16 words, and
its entry in the ring in memory once it has been spilled (04_render_mesh R120, R121). -/
structure GRec where
  id : Nat := 0
  graph : Nat
  pass : Option Nat := none
  words : List Word
  slot : Option Nat := none
  deriving DecidableEq, Repr, Inhabited

/-- A core's steal for a graph (R123): attempt number, the ring position asked next, and the clock it waits for. -/
structure Steal where
  graph : Nat
  attempt : Nat := 0
  pos : Nat := 0
  waitTo : Option Nat := none
  deriving DecidableEq, Repr, Inhabited

/-- Stores of some lanes to one line that have reached the L1 and are not performed at the home yet: `sent` when they
have left as a WrThru (07_ordering R163, 17_coherence R371, R372). -/
structure WtEnt where
  id : Nat
  lanes : Word
  line : Nat
  sent : Bool := false
  deriving DecidableEq, Repr, Inhabited

/-- A core (01_machine R16). `kept`: partitions that stay reserved for a request of a saved workgroup, with the request,
the base and the length in granules (19_traps R419). `busy` is the first clock in which each scheduler's datapath is
free, `last` one more than the clock in which it last selected a group (02_execution R32). -/
structure Core where
  busy : List Nat := [0, 0, 0, 0]
  last : List Nat := [0, 0, 0, 0]
  banks : Cells BankSt := []
  acc : Cells Word := []
  mq : List MOp := []
  mq1 : List MOp := []
  turn : Nat := 0
  stand : Cells Stand := []
  wt : List WtEnt := []
  l1 : List L1Ent := []
  tlb : List Tlb := []
  deque : List GRec := []
  rings : List GRec := []
  steals : List Steal := []
  kept : List (Nat × Nat × Nat) := []
  deriving DecidableEq, Repr, Inhabited

/-! ### Execution state -/

/-- An instruction selected for issue: its workgroup, group, lanes and PC, the clause that its header opens when it
stands first in one, and, for the instruction at the second PC, the group's shared registers as they stood before the
clock (02_execution R33, 08_encoding R184, 09_isa R207). -/
structure Slot where
  wg : Nat
  grp : Nat
  lanes : Word
  pc : DWord
  hdr : Option Clause := none
  second : Bool := false
  preS : List Word := []
  preM : List Word := []
  preF : Word := 0
  prePhase : BitVec 5 := 0
  deriving DecidableEq, Repr, Inhabited

/-- Everything the instructions of programs act on: resident workgroups, cores, accesses and requests, and the clock
of the arithmetic domain (00_scope R4). -/
structure Exec where
  wgs : List Wg := []
  cores : Cells Core := []
  accs : List Access := []
  reqs : List Req := []
  clk : Nat := 0
  nextId : Nat := 1
  nextAge : Nat := 0
  cur : Option Slot := none
  free : Nat := 0
  deriving DecidableEq, Repr, Inhabited

/-! ### Coherence fabric -/

/-- An agent that sends and receives messages (17_coherence R378); a port gathers its device's answers to a slice (R389). -/
inductive Agent where
  | die (d : Nat)
  | core (d c : Nat)
  | slice (k : Nat)
  | remote (dev d : Nat)
  | port (dev k : Nat)
  | host
  deriving DecidableEq, Repr, Inhabited

/-- One lane's operation of an Atom message: unit address, width, operation and type, operands (10_isa R251). -/
structure AtomOp where
  lane : Nat
  pa : Nat
  width : Nat
  op : Nat
  ty : Nat
  a : BitVec 64
  b : BitVec 64 := 0
  deriving DecidableEq, Repr, Inhabited

/-- On whose behalf a write is performed: the context and virtual pages for the Rime log, its class of R368, the retention
hint of the access (03_kernel_memory R76), and whether the page is a render target (04_render_mesh R109). -/
structure Origin where
  asid : Option Nat := none
  vpages : List Nat := []
  cls : Nat := 0
  hint : Nat := 0
  rt : Bool := false
  deriving DecidableEq, Repr, Inhabited

/-- The messages of R378 and what each carries. A Retry or NackLost names the access or request whose WrThru, Atom or Sub
it answers, and 0 for a request of the LLC. -/
inductive MsgK where
  | getS
  | getM
  | upg
  | putM (data : BitVec 1024)
  | putO (data : BitVec 1024)
  | putE
  | mod
  | wrThru (mask : BitVec 128) (data : BitVec 1024) (acc : Nat) (org : Origin)
  | atom (acc : Nat) (ops : List AtomOp) (org : Origin)
  | sub (core idx : Nat) (acc : Nat) (every rt : Bool)
  | unsub (core idx : Nat) (req : Nat)
  | fwdGetS (r : Agent)
  | fwdGetM (r : Agent) (acks : Nat)
  | inv (r : Agent)
  | backInv
  | data (st : Nat) (data : BitVec 1024) (acks : Nat)
  | invAck
  | backInvAck (data : Option (BitVec 1024))
  | putAck
  | wtAck (acc : Nat)
  | atomRsp (acc : Nat) (olds : List (Nat × BitVec 64))
  | retry (acc : Nat)
  | nackWT
  | nackLost (acc : Nat)
  | push (idx : Nat) (img : BitVec 1024) (seq : Word) (folded : Nat)
  | pushAck (core idx : Nat)
  | unsubAck (idx : Nat) (req : Nat)
  | subRsp (idx : Nat) (acc : Nat) (status : Nat)
  | pushLost (idx : Nat)
  deriving DecidableEq, Repr, Inhabited

/-- A message in flight: messages of one pair of dies arrive in the order sent (05_tensor_mesh R129). -/
structure Msg where
  id : Nat
  src : Agent
  dst : Agent
  line : Nat
  k : MsgK
  deriving DecidableEq, Repr, Inhabited

/-- States of an LLC line: stable (R371) and transient (R380). -/
inductive LineSt where
  | M | O | E | S | SWT
  | ISD | ISDI | IMAD | SMAD | IMA | SMA | MIA | EIA | OIA | IIA
  deriving DecidableEq, Repr, Inhabited

/-- A line of a die's LLC (R371, R372, R380, 04_render_mesh R109). `own` marks a line in a transient state whose data
stand in for memory: owned in O with its Upg under way, or granted in M with acknowledgements to come. `late` are the
lanes, by access, that waited for the data when an Inv made the line IS_DI. Way 99 is none: a line on its way out, or
one that a bypass load asked for (03_kernel_memory R76). -/
structure Line where
  st : LineSt
  data : BitVec 1024 := 0
  acks : Nat := 0
  got : Nat := 0
  way : Nat := 0
  hint : Nat := 0
  used : Nat := 0
  rt : Bool := false
  own : Bool := false
  l1 : BitVec 16 := 0
  fwds : List Msg := []
  late : List (Nat × Nat) := []
  retryAt : Option Nat := none
  deriving DecidableEq, Repr, Inhabited

/-- Directory state of a line (R374). -/
inductive DirSt where
  | S | X | O | lost
  deriving DecidableEq, Repr, Inhabited

/-- A directory entry (R374); owner 48 is the governing switch slice. -/
structure Dir where
  st : DirSt
  sharers : BitVec 48 := 0
  owner : Nat := 0
  xd : Bool := false
  d : Bool := false
  sub : Bool := false
  since : Nat := 0
  deriving DecidableEq, Repr, Inhabited

/-- A subscriber of a line (R377). -/
structure Subscr where
  dev : Nat := 0
  die : Nat
  core : Nat
  idx : Nat
  p : Bool := false
  n : Nat := 0
  deriving DecidableEq, Repr, Inhabited

/-- The subscriptions of one line: the head's SEQ and the subscribers, eight to a table entry (R377). -/
structure SubLine where
  seq : Word := 0
  subs : List (Option Subscr) := []
  deriving DecidableEq, Repr, Inhabited

/-- An eviction-buffer entry: the line, the acknowledgements awaited, data received, and the owner (R375). -/
structure Evict where
  line : Nat
  acks : Nat
  data : Option (BitVec 1024) := none
  owner : Option Agent := none
  deriving DecidableEq, Repr, Inhabited

/-- The caches, directory and tables of a die (01_machine R15). `lostOvf` are the directory sets whose overflow bit is set
(17_coherence R376); `again` are the die's writes, atomics and subscriptions that the home answered with Retry, with
the clock of their reissue once the Retry has arrived (R375). -/
structure Die where
  llc : Cells Line := []
  dir : Cells Dir := []
  evb : List Evict := []
  lostArea : List Nat := []
  lostOvf : List Nat := []
  again : List (Option Nat × Msg) := []
  subs : Cells SubLine := []
  tlb : List Tlb := []
  waitq : List Msg := []
  rtBusy : Bool := false
  rtReject : Bool := false
  rtWays : Nat := 0
  rtNew : Nat := 0
  fpq4 : DWord := 0
  fpq4Head : Nat := 0
  fpq4Tail : Nat := 0
  fpq2 : DWord := 0
  fpq2Head : Nat := 0
  fpq2Tail : Nat := 0
  recBusy : Bool := false
  recDone : Bool := false
  recNot : Bool := false
  recLine : Nat := 0
  lostCnt : Nat := 0
  biasBase : DWord := 0
  biasBusy : Bool := false
  biasReject : Bool := false
  biasPage : Nat := 0
  biasTarget : Bool := false
  flipPage : Nat := 0
  flipHost : Bool := false
  held : List Msg := []
  snoops : List Nat := []
  dringBase : DWord := 0
  dringCtl : DWord := 0
  dringWp : Nat := 0
  dringRd : Nat := 0
  pchMap : BitVec 64 := 0
  pchFail : BitVec 64 := 0
  deriving DecidableEq, Repr, Inhabited

/-- The copy that a switch slice holds of a line (R388, R390). -/
inductive SliceSt where
  | none | S | SWT | E | M | O
  deriving DecidableEq, Repr, Inhabited

/-- A switch slice's entry of a line that stands for requesters outside the line's device (R388 to R390): its own
copy, the vector of the remote devices that may hold copies and the die that owns it (by number), the request it has
under way to the home with the acknowledgements, the message that it answers once every copy is recalled, the requests
that wait, whether it is being evicted or returned to the home (R389), and its latest use. -/
structure SliceEnt where
  st : SliceSt := .none
  data : BitVec 1024 := 0
  sharers : BitVec 64 := 0
  owner : Option Nat := none
  asked : Nat := 0
  acks : Option Nat := none
  got : Nat := 0
  recalls : Option Msg := none
  pendAcks : Nat := 0
  waits : List Msg := []
  evict : Bool := false
  putting : Bool := false
  used : Nat := 0
  retryAt : Option Nat := none
  deriving DecidableEq, Repr, Inhabited

/-- What a port gathers for its slice: the answers of its device's dies to an Inv or a BackInv of a line (R389). `dst` is
where the one acknowledgement goes. -/
structure Gather where
  dev : Nat
  port : Nat
  line : Nat
  left : Nat
  back : Bool
  data : Option (BitVec 1024) := none
  dst : Agent
  deriving DecidableEq, Repr, Inhabited

/-- The fabric: dies, messages in flight, switch slices, ports, and the requests of the host agent (R388, R395). -/
structure Fabric where
  dies : Cells Die := []
  net : List Msg := []
  slices : Cells SliceEnt := []
  gathers : List Gather := []
  hostReqs : List Msg := []
  reads : List (Nat × BitVec 512) := []
  deriving DecidableEq, Repr, Inhabited

/-! ### Launches -/

/-- An event ring of a context, as its table entry set it (15_launch R353), with its pointers. -/
structure Ring where
  base : DWord := 0
  log2n : Nat := 0
  c : Nat := 0
  t : Nat := 0
  wpa : DWord := 0
  vec : Nat := 0
  wp : Nat := 0
  rp : Nat := 0
  since : Nat := 0
  oldest : Option Nat := none
  deriving DecidableEq, Repr, Inhabited

/-- A context's registers (15_launch R352, 16_translation R369, 19_traps R409), with the root and event-ring tables as
read at its registration (R352, R353). -/
structure Ctx where
  live : Bool := false
  reject : Bool := false
  roots : DWord := 0
  rootTab : List DWord := []
  evt : DWord := 0
  rings : List Ring := []
  rimeBase : DWord := 0
  rimeEn : Bool := false
  rimeOvf : Bool := false
  rimeLog2 : Nat := 0
  rimeCur : DWord := 0
  rimeRd : DWord := 0
  rimeOpen : List (Nat × BitVec 4 × BitVec 32 × Nat) := []
  step : Bool := false
  watch : Bool := false
  wlo : List DWord := [0, 0, 0, 0]
  whi : List DWord := [0, 0, 0, 0]
  lcores : List (Nat × List Nat) := []
  deriving DecidableEq, Repr, Inhabited

/-- A launch queue (15_launch R328, R329, R351). -/
structure Queue where
  desc : DWord := 0
  run : Bool := false
  stopped : Bool := false
  reject : Bool := false
  base : DWord := 0
  log2n : Nat := 0
  asid : Nat := 0
  evr : Nat := 0
  rptra : DWord := 0
  rd : Nat := 0
  wr : Nat := 0
  deriving DecidableEq, Repr, Inhabited

/-- An RCB of a launch's chain, as read at acceptance: address, own WGMAX where the node sets one, own FDOM bit. -/
structure RcbRef where
  addr : DWord
  wgmax : Nat := 0
  fdom : Bool := false
  deriving DecidableEq, Repr, Inhabited

/-- Life of a launch: being dealt, all dealt, ended with its record pending, record written. -/
inductive LaunchSt where
  | dealing
  | dealt
  | ended
  | recorded
  deriving DecidableEq, Repr, Inhabited

/-- An accepted launch (15_launch R332 to R341, R454). -/
structure Launch where
  id : Nat
  queue : Nat
  pidx : Nat
  asid : Nat
  pkt : BitVec 1024
  tmpl : BitVec 1024 := 0
  nodes : List (BitVec 1024) := []
  rcbs : List RcbRef := []
  prio : Nat := 0
  handler : DWord := 0
  st : LaunchSt := .dealing
  next : Nat := 0
  ended : Nat := 0
  serial : Bool := false
  dep : Option (Nat × Nat) := none
  evr : Nat := 0
  pass : Option Nat := none
  cpass : Option Nat := none
  fed : Nat := 0
  skipped : Nat := 0
  ring : List Nat := []
  chosen : Bool := false
  deriving DecidableEq, Repr, Inhabited

/-- A record waiting for its event ring: ring number, bytes without TIME, the launch it reports, the group it
releases and the accesses it follows (15_launch R345, R347, 11_isa R310). -/
structure PendRec where
  ring : Nat
  body : BitVec 256
  launch : Option Nat := none
  wake : Option (Nat × Nat × Nat) := none
  after : List (Nat × Nat) := []
  deriving DecidableEq, Repr, Inhabited

/-- A command the context engine runs (19_traps R415): 1 DRAIN, 2 FREEZE, 3 KILL, 4 RESUME; `was` are the launches of
the context that were in progress when it began. -/
structure CtxCmd where
  cmd : Nat
  asid : Nat
  due : Nat
  was : List Nat := []
  deriving DecidableEq, Repr, Inhabited

/-- The records of a Firn image (19_traps R422), by logical names: launches, workgroups with their groups and lanes, the
contents of the banks that they hold by workgroup and bank, logged accesses, unfinished requests, slots, and deque and
wait-list records by logical core. `next` bounds the identifiers that the records use. -/
structure Image where
  asid : Nat := 0
  launches : List Launch := []
  wgs : List Wg := []
  banks : List (Nat × Nat × List Word) := []
  accs : List Access := []
  reqs : List Req := []
  stands : List Stand := []
  deque : List (Nat × List GRec) := []
  rime : DWord := 0
  next : Nat := 0
  deriving DecidableEq, Repr, Inhabited

/-- The launch machinery of the package controller. -/
structure Sched where
  queues : Cells Queue := []
  ctxs : Cells Ctx := []
  launches : List Launch := []
  nextLaunch : Nat := 0
  cursor : Nat := 0
  lastq : List Nat := [4095, 4095, 4095, 4095, 4095, 4095, 4095, 4095]
  pend : List PendRec := []
  ints : List Nat := []
  fltBase : DWord := 0
  fltCtl : DWord := 0
  fltWp : Nat := 0
  fltRd : Nat := 0
  fltSince : Nat := 0
  fltOldest : Option Nat := none
  dieSince : Cells Nat := []
  dieOldest : Cells Nat := []
  fltReject : Bool := false
  cmd : Option CtxCmd := none
  cmdDone : Bool := false
  cmdReject : Bool := false
  cmdAsid : Nat := 0
  cmdDeadline : Nat := 0
  imgBase : DWord := 0
  imgPages : Nat := 0
  images : List (List Byte × Image) := []
  resuming : List (Nat × Image) := []
  slots : List Stand := []
  deriving DecidableEq, Repr, Inhabited

/-! ### Table-update engine -/

/-- A collapse of a replicated page: its writes wait until it ends (05_tensor_mesh R137). -/
structure Collapse where
  asid : Nat
  va : Nat
  home : Nat
  acc : Nat
  deriving DecidableEq, Repr, Inhabited

/-- The table-update engine (16_translation R365, R366): the command that it executes with its index, and the accesses
translated with the old entries that are still to be performed; `hold` is the 4 KiB frame whose accesses a MIGRATE or a
FLUSH holds at its home, by number (R370). -/
structure Tue where
  base : DWord := 0
  log2n : Nat := 0
  stopped : Bool := false
  rd : Nat := 0
  wr : Nat := 0
  doing : Option (Nat × BitVec 256) := none
  wait : List Nat := []
  hold : Option Nat := none
  collapse : List Collapse := []
  deriving DecidableEq, Repr, Inhabited

/-! ### Graphics -/

/-- A mesh child waiting in an amplification queue, or in an entry of the overflow ring in memory (04_render_mesh R99). -/
structure Child where
  launch : Nat
  task : Nat
  emit : Nat
  words : List Word
  slot : Option Nat := none
  deriving DecidableEq, Repr, Inhabited

/-- What travels in a token stream: a primitive packet, or an occlusion marker with its cell (R101, R118). -/
inductive PktK where
  | prim (bytes : BitVec 512)
  | occBegin (cell : Nat)
  | occEnd (cell : Nat)
  deriving DecidableEq, Repr, Inhabited

/-- A packet or marker of a pass with its stream and token (R101, R102), and its place in the owner's reorder area in
memory if it is not held on die (R105). -/
structure Pkt where
  pass : Nat
  stream : Nat
  token : Nat
  k : PktK
  slot : Option Nat := none
  deriving DecidableEq, Repr, Inhabited

/-- A message of the graphics fabric: a packet, a frontier, a contribution to a cell (R104, R118). -/
inductive GMsgK where
  | pkt (p : Pkt)
  | frontier (pass stream value : Nat)
  | contrib (pass cell count n : Nat) (asid vpage : Nat)
  deriving DecidableEq, Repr, Inhabited

/-- A message of the graphics fabric between two dies. -/
structure GMsg where
  id : Nat := 0
  src : Nat
  dst : Nat
  k : GMsgK
  deriving DecidableEq, Repr, Inhabited

/-- State of a fragment: waiting for its early test, ready for its shader, in its shader, left by its shader and
waiting for its late test or update, done (R108, R113). -/
inductive FragSt where
  | wait
  | ready
  | shading
  | left
  | done
  deriving DecidableEq, Repr, Inhabited

/-- One sample of a released primitive on its owner die (R107, R108). `trapped`: its thread has raised a trap of R114;
`fault` is the identifier, address and code of a fault of its depth access that waits for the driver (19_traps R413). -/
structure Frag where
  id : Nat
  pass : Nat
  stream : Nat
  token : Nat
  x : Nat
  y : Nat
  smp : Nat
  depth : Word
  primid : Word
  attr : DWord
  st : FragSt := .wait
  launch : Option Nat := none
  wg : Option Nat := none
  lane : Nat := 0
  counted : Bool := false
  trapped : Bool := false
  fault : Option (Nat × DWord × Nat) := none
  deriving DecidableEq, Repr, Inhabited

/-- An occlusion query on an owner die (R118). -/
structure Query where
  pass : Nat
  stream : Nat
  cell : Nat
  first : Nat
  last : Option Nat := none
  count : Nat := 0
  deriving DecidableEq, Repr, Inhabited

/-- The zero of an occ.begin (`zero`) or a contribution, at the home of its cell and not performed yet; `fault` is a fault
of its page that waits for the driver (R118, 19_traps R413). -/
structure CellOp where
  id : Nat
  pass : Nat
  cell : Nat
  count : Nat := 0
  zero : Bool := false
  asid : Nat
  fault : Option (Nat × DWord × Nat) := none
  deriving DecidableEq, Repr, Inhabited

/-- A frontier that a source has sent, and when (R104). -/
structure Sent where
  pass : Nat
  stream : Nat
  value : Nat
  at_ : Nat
  deriving DecidableEq, Repr, Inhabited

/-- The graphics units of a die. -/
structure GDie where
  amp : List Child := []
  ring : List Child := []
  store : List Pkt := []
  fronts : List (Nat × Nat × Nat × Nat) := []
  frags : List Frag := []
  queries : List Query := []
  cells : List CellOp := []
  sent : List Sent := []
  waits : List (Nat × Nat × GRec) := []
  hz : Cells (Word × Word) := []
  deriving DecidableEq, Repr, Inhabited

/-- A render pass in progress (15_launch R334, 04_render_mesh R95). `opened` are its open queries by stream and cell, with 1
once their occ.end has issued: a query stays open until its cell shows FINAL (R118, R119). -/
structure Pass where
  id : Nat
  desc : DWord
  asid : Nat
  bytes : BitVec 512
  active : List Nat
  culled : Nat := 0
  skipped : Nat := 0
  opened : List (Nat × Nat × Nat) := []
  contribs : List (Nat × Nat) := []
  fed : Bool := false
  ended : Bool := false
  deriving DecidableEq, Repr, Inhabited

/-- The graphics part of the package. -/
structure Gfx where
  dies : Cells GDie := []
  net : List GMsg := []
  passes : List Pass := []
  deriving DecidableEq, Repr, Inhabited

/-! ### Package, power and links -/

/-- An island (21_bringup R444): its registers and its failed phases. -/
structure Island where
  on : Bool := false
  gated : Bool := false
  degraded : Bool := false
  slots : Nat := 7
  waits : Nat := 0
  mv : Nat := 0xFFFF
  time : Nat := 0
  fails : Nat := 0
  failedAt : Nat := 0
  asked : Option Nat := none
  deriving DecidableEq, Repr, Inhabited

/-- The package controller's registers and boot state (21_bringup R433, R435, 22_fleet R447 to R452). -/
structure Pkg where
  power : Bool := false
  ready : Bool := false
  fail : Bool := false
  step : Nat := 0
  fcode : Nat := 0
  gen : Nat := 0
  dmap : Cells DWord := []
  coreMask : Cells Nat := []
  linksOut : List Nat := []
  mgmtOut : Nat := 0
  attBusy : Bool := false
  attDone : Bool := false
  attReject : Bool := false
  attAddr : Nat := 0
  attAt : Nat := 0
  fwBusy : Bool := false
  fwDone : Bool := false
  fwStatus : Nat := 0
  fwAddr : Nat := 0
  fwAt : Nat := 0
  fwSlots : List (List Byte) := [[], []]
  fwBoot : Nat := 0
  fwSlot : Nat := 0
  fwRun : BitVec 256 := 0
  fwStage : BitVec 256 := 0
  minSvn : Nat := 0
  dev : Nat := 0
  islands : Cells Island := []
  timeOff : Nat := 0
  deriving DecidableEq, Repr, Inhabited

/-- One direction of a link: the sender's numbers and replay buffer, the receiver's expected number and NAK state,
the flits on the wire, the payloads delivered (17_coherence R392 to R394). -/
structure Link where
  tx : Nat := 0
  replay : List (Nat × BitVec 2048) := []
  wire : List (Nat × BitVec 2048) := []
  exp : Nat := 0
  bad : Bool := false
  sinceNak : Nat := 0
  naks : Nat := 0
  nakOut : Option Nat := none
  nakIn : Option Nat := none
  fails : Nat := 0
  training : Bool := false
  out : Bool := false
  got : List (BitVec 1984) := []
  deriving DecidableEq, Repr, Inhabited

/-! ### The machine -/

/-- The state of the machine. `slots` are the instructions selected in the current clock, `agenda` is the order in
which agents act and the outside's inputs (each with the number that `sel` shows to a step without one), `x` the
execution state, `mem` the pod's memory by 52-bit physical address, `host` the host's memory. -/
structure State where
  slots : List Slot
  agenda : List (Nat × Instr)
  sel : Nat
  x : Exec
  mem : Mem
  host : Mem
  fab : Fabric
  sch : Sched
  tue : Tue
  gfx : Gfx
  pkg : Pkg
  links : Cells Link
  deriving DecidableEq, Repr, Inhabited

/-- Why the machine stops. -/
inductive Fault where
  /-- Raised by the meanings of the device's own engines (queue enable, context registration, launch fetch, table
  update, bring-up and image steps) when a register or table entry names a physical address at which no memory
  exists (16_translation R357, 21_bringup R438). Safe: the run ends where the manual gives the access no meaning. -/
  | noMemory (pa : Nat)
  deriving DecidableEq, Repr

/-- Why an instruction has no meaning. -/
inductive Refusal where
  /-- Raised by the dispatcher for an operation whose meaning is not written yet. Safe: nothing is claimed. -/
  | notModelled (mnemonic : String)
  deriving DecidableEq, Repr

/-- The machine right after reset, before 48 V is applied: every register at its Reset column, memory listing
nothing, no message, no resident work (assumptions 1 to 10 name the values that no rule gives). -/
def State.reset : State where
  slots := []
  agenda := []
  sel := 0
  x := {}
  mem := []
  host := []
  fab := {}
  sch := {}
  tue := {}
  gfx := {}
  pkg := {}
  links := []

end Sys2Proof.Machine
end

