-- ==== Sys2Proof/Machine/Cells.lean ====
section
/-!
DEFINITION. Sparse tables and byte memories: one read, one canonical write, and the wider accesses built from them
once, little-endian (00_scope R2).
-/

set_option linter.unusedVariables false

namespace Sys2Proof.Machine

/-- The entry at an index, if it is listed. -/
def cfind {α : Type} (a : Nat) : Cells α → Option α
  | [] => none
  | (k, v) :: r => if k = a then some v else cfind a r

/-- The element at an index over a default. -/
def cget {α : Type} (d : α) (a : Nat) (l : Cells α) : α := (cfind a l).getD d

/-- The table with an index set. -/
def cset {α : Type} (a : Nat) (v : α) : Cells α → Cells α
  | [] => [(a, v)]
  | (k, u) :: r => if k = a then (a, v) :: r else if a < k then (a, v) :: (k, u) :: r else (k, u) :: cset a v r

/-- The table without an index. -/
def cdel {α : Type} (a : Nat) : Cells α → Cells α
  | [] => []
  | (k, u) :: r => if k = a then cdel a r else (k, u) :: cdel a r

/-- The canonical write: writing the default removes the entry. -/
def cput {α : Type} [DecidableEq α] (d : α) (a : Nat) (v : α) (l : Cells α) : Cells α :=
  if v = d then cdel a l else cset a v l

/-- The indices of a table rise strictly above a bound, and no element is the default. -/
def cwfFrom {α : Type} [DecidableEq α] (d : α) : Option Nat → Cells α → Bool
  | _, [] => true
  | b, (k, v) :: r =>
    (match b with
      | none => true
      | some j => decide (j < k)) && decide (v ≠ d) && cwfFrom d (some k) r

/-- The canonical form of a sparse table. -/
def cwf {α : Type} [DecidableEq α] (d : α) (l : Cells α) : Bool := cwfFrom d none l

/-! ### Byte memories -/

/-- The canonical form of a memory. -/
def Mem.wf (m : Mem) : Bool := cwf (0 : Byte) m

/-- One byte of a memory. -/
def Mem.get (m : Mem) (a : Nat) : Byte := cget (0 : Byte) a m

/-- A memory with one byte written. -/
def Mem.set (m : Mem) (a : Nat) (v : Byte) : Mem := cput (0 : Byte) a v m

/-- n bytes from an address upwards, as a list. -/
def Mem.bytes (m : Mem) (a : Nat) : Nat → List Byte
  | 0 => []
  | n + 1 => m.get a :: Mem.bytes m (a + 1) n

/-- A list of bytes written from an address upwards. -/
def Mem.putBytes (m : Mem) (a : Nat) : List Byte → Mem
  | [] => m
  | b :: r => Mem.putBytes (m.set a b) (a + 1) r

/-- The number whose little-endian bytes are given. -/
def leNat : List Byte → Nat
  | [] => 0
  | b :: r => b.toNat + 256 * leNat r

/-- The n little-endian bytes of a number. -/
def natLe : Nat → Nat → List Byte
  | 0, _ => []
  | n + 1, v => BitVec.ofNat 8 v :: natLe n (v / 256)

/-- A little-endian number of n bytes. -/
def Mem.num (m : Mem) (a n : Nat) : Nat := leNat (m.bytes a n)

/-- A memory with a little-endian number of n bytes written. -/
def Mem.putNum (m : Mem) (a n v : Nat) : Mem := m.putBytes a (natLe n v)

/-! ### Lists -/

/-- The list with the first element that satisfies the test changed. -/
def updFirst {α : Type} (p : α → Bool) (f : α → α) : List α → List α
  | [] => []
  | x :: r => if p x then f x :: r else x :: updFirst p f r

/-- The list with every element that satisfies the test changed. -/
def updAll {α : Type} (p : α → Bool) (f : α → α) (l : List α) : List α := l.map (fun x => if p x then f x else x)

/-- The list without its first element that satisfies the test. -/
def delFirst {α : Type} (p : α → Bool) : List α → List α
  | [] => []
  | x :: r => if p x then r else x :: delFirst p r

/-- The element with the smallest key, the earliest on a tie. -/
def minBy {α : Type} (key : α → Nat) : List α → Option α
  | [] => none
  | x :: r =>
    match minBy key r with
    | none => some x
    | some y => if key x ≤ key y then some x else some y

/-- The element with the largest key, the earliest on a tie. -/
def maxBy {α : Type} (key : α → Nat) : List α → Option α
  | [] => none
  | x :: r =>
    match maxBy key r with
    | none => some x
    | some y => if key y ≤ key x then some x else some y

/-- Sign extension of the low n bits of a number to a 64-bit value. -/
def sext64 (n v : Nat) : DWord := (BitVec.ofNat n v).signExtend 64

/-- {hi, lo} of two words (00_scope R2). -/
def pair (lo hi : Word) : DWord := hi ++ lo

/-- The low and high word of a 64-bit value. -/
def loWord (x : DWord) : Word := x.extractLsb' 0 32
def hiWord (x : DWord) : Word := x.extractLsb' 32 32

/-- Bits [63:57] all equal bit 56 (16_translation R356). -/
def canonicalVa (a : DWord) : Bool := (a.extractLsb' 56 8 == 0) || (a.extractLsb' 56 8 == 0xFF)

end Sys2Proof.Machine
end

