-- ==== Sys2Proof/Machine/Num.lean ====
section
/-!
DEFINITION. Number formats, exact values and the one rounding function (06_numbers). A finite value is a sign and a
quotient of natural numbers, so every operation is computed exactly and rounded once.
-/

set_option linter.unusedVariables false

namespace Sys2Proof.Machine

/-- An exact value: NaN, an infinity, or a signed quotient num / den with den above 0; zeros keep their sign. -/
inductive XR where
  | nan
  | inf (neg : Bool)
  | fin (neg : Bool) (num den : Nat)
  deriving DecidableEq, Repr

/-- Exception flags, as bits [4:0] of sp.fmode (R150): IV DZ OF UF NX. -/
abbrev Flags := BitVec 5

def flIV : Flags := 0b10000
def flDZ : Flags := 0b01000
def flOF : Flags := 0b00100
def flUF : Flags := 0b00010
def flNX : Flags := 0b00001

/-- A floating-point format (R140, R142, R143): precision, exponent of the smallest normal, width, position of the
largest finite magnitude on the grid, and its special codes. -/
structure FFmt where
  p : Nat
  emin : Int
  width : Nat
  maxPos : Nat
  hasInf : Bool
  signed : Bool
  ieee : Bool
  deriving DecidableEq, Repr

def fp64 : FFmt := { p := 53, emin := -1022, width := 64, maxPos := 0x7FEFFFFFFFFFFFFF, hasInf := true, signed := true, ieee := true }
def fp32 : FFmt := { p := 24, emin := -126, width := 32, maxPos := 0x7F7FFFFF, hasInf := true, signed := true, ieee := true }
def fp16 : FFmt := { p := 11, emin := -14, width := 16, maxPos := 0x7BFF, hasInf := true, signed := true, ieee := true }
def bf16 : FFmt := { p := 8, emin := -126, width := 16, maxPos := 0x7F7F, hasInf := true, signed := true, ieee := true }

/-- The binary8 format of a B8X4 tag (R142 to R144, R146). -/
def b8fmt (tag : Nat) : FFmt :=
  let p := tag / 16 % 8
  let u := tag / 8 % 2 == 1
  let i := tag / 4 % 2 == 1
  let b : Int := if u then 2 ^ (8 - p) else 2 ^ (7 - p)
  { p := p, emin := 1 - b, width := 8,
    maxPos := (if u then 0xFE else 0x7F) - (if i then 1 else 0), hasInf := i, signed := !u, ieee := false }

/-- The canonical NaN of a format (R140, R142, R143). -/
def FFmt.nan (f : FFmt) : Nat :=
  if f.ieee then f.maxPos + 1 + 2 ^ (f.p - 2) else if f.signed then 0x80 else 0xFF

/-- The magnitude n × 2^e. -/
def xScale (neg : Bool) (n : Nat) (e : Int) : XR :=
  if 0 ≤ e then .fin neg (n * 2 ^ e.toNat) 1 else .fin neg n (2 ^ (-e).toNat)

/-- The magnitude at a position of the grid (R153: positions count grid points from magnitude 0). -/
def FFmt.atPos (f : FFmt) (neg : Bool) (pos : Nat) : XR :=
  let h := 2 ^ (f.p - 1)
  if pos < h then xScale neg pos (f.emin - (f.p - 1 : Nat))
  else xScale neg (h + pos % h) (f.emin + ((pos / h : Nat) : Int) - 1 - (f.p - 1 : Nat))

/-- The value of an encoding (R140, R144). -/
def FFmt.value (f : FFmt) (c : Nat) : XR :=
  if f.ieee then
    let neg := c / 2 ^ (f.width - 1) % 2 == 1
    let mag := c % 2 ^ (f.width - 1)
    if mag > f.maxPos + 1 then .nan
    else if mag = f.maxPos + 1 then .inf neg
    else f.atPos neg mag
  else if f.signed then
    if c % 256 = 0x80 then .nan
    else
      let neg := c / 128 % 2 == 1
      let mag := c % 128
      if mag > f.maxPos then .inf neg else f.atPos neg mag
  else if c % 256 = 0xFF then .nan
  else if c % 256 > f.maxPos then .inf false
  else f.atPos false (c % 256)

/-- A signalling NaN of an IEEE format (R141). -/
def FFmt.isSnan (f : FFmt) (c : Nat) : Bool :=
  f.ieee && decide (c % 2 ^ (f.width - 1) > f.maxPos + 1) && c / 2 ^ (f.p - 2) % 2 == 0

/-- The invalid flag of a signalling NaN operand. -/
def FFmt.snanFlag (f : FFmt) (c : Nat) : Flags := if f.isSnan c then flIV else 0

/-- The encoding of a sign and a position (R153: every binary8 zero is 0x00). -/
def FFmt.encode (f : FFmt) (neg : Bool) (pos : Nat) : Nat :=
  if f.ieee then (if neg then 2 ^ (f.width - 1) else 0) + pos
  else if f.signed && neg && pos != 0 then 128 + pos
  else pos

/-- floor(log2(num / den)) for num and den above 0. -/
def ilog2 (num den : Nat) : Int :=
  let e : Int := (Nat.log2 num : Int) - (Nat.log2 den : Int)
  if 0 ≤ e then (if num ≥ den * 2 ^ e.toNat then e else e - 1)
  else (if num * 2 ^ (-e).toNat ≥ den then e else e - 1)

/-- Rounding modes of R152 by their code. -/
def mRNE : Nat := 0
def mRTZ : Nat := 1
def mRDN : Nat := 2
def mRUP : Nat := 3
def mRNA : Nat := 4
def mODR : Nat := 5

/-- Whether the rounding of R153 takes the upper neighbour b: r / d is the distance from a in grid steps, `odd`
LastBit of a, `thr` the threshold of R154. -/
def roundUp (mode : Nat) (neg odd : Bool) (r d thr : Nat) : Bool :=
  if r = 0 then false
  else match mode with
    | 0 => decide (2 * r > d) || (2 * r == d && odd)
    | 1 => false
    | 2 => neg
    | 3 => !neg
    | 4 => decide (2 * r ≥ d)
    | _ => decide (32 * r / d > thr)

/-- The magnitude num / den in units of 2^u: quotient, remainder and divisor. -/
def inUnits (num den : Nat) (u : Int) : Nat × Nat × Nat :=
  let n := if 0 ≤ u then num else num * 2 ^ (-u).toNat
  let d := if 0 ≤ u then den * 2 ^ u.toNat else den
  (n / d, n % d, d)

/-- Whether a magnitude below 2^emin is still below it once rounded with unbounded exponent (R150: tiny after
rounding). -/
def FFmt.tiny (f : FFmt) (mode : Nat) (neg : Bool) (num den thr : Nat) : Bool :=
  let e := ilog2 num den
  if e ≥ f.emin then false
  else
    let (q, r, d) := inUnits num den (e - (f.p - 1 : Nat))
    let odd := ((q : Int) + (e - f.emin) * 2 ^ (f.p - 1)) % 2 == 1
    let q' := if roundUp mode neg odd r d thr then q + 1 else q
    !(e == f.emin - 1 && q' == 2 ^ f.p)

/-- The limit of a format on overflow (R153 Overflow). -/
def FFmt.overflow (f : FFmt) (neg : Bool) (mode : Nat) (sat : Bool) : Nat :=
  if sat || mode == mRTZ || (mode == mRUP && neg) || (mode == mRDN && !neg) then f.encode neg f.maxPos
  else if f.hasInf then f.encode neg (f.maxPos + 1)
  else f.nan

/-- RoundTo of R153 onto a floating-point format, with the exceptions of R150, R228 and R241. -/
def roundTo (f : FFmt) (x : XR) (mode : Nat) (sat : Bool) (thr : Nat := 0) : Nat × Flags :=
  match x with
  | .nan => (f.nan, 0)
  | .inf neg =>
    if !f.signed && neg then (if sat then (0, flNX) else (f.nan, flIV))
    else if sat || !f.hasInf then (f.encode neg f.maxPos, flNX)
    else (f.encode neg (f.maxPos + 1), 0)
  | .fin neg num den =>
    if num = 0 then (f.encode neg 0, 0)
    else if !f.signed && neg then (if sat then (0, flNX) else (f.nan, flIV))
    else
      let e := max (ilog2 num den) f.emin
      let (q, r, d) := inUnits num den (e - (f.p - 1 : Nat))
      let pos := q + (e - f.emin).toNat * 2 ^ (f.p - 1)
      let pos' := if roundUp mode neg (pos % 2 == 1) r d thr then pos + 1 else pos
      if pos' > f.maxPos then (f.overflow neg mode sat, flOF ||| flNX)
      else
        (f.encode neg pos',
          (if r = 0 then 0 else flNX) ||| (if r ≠ 0 && f.tiny mode neg num den thr then flUF else 0))

/-- RoundTo onto the integers from lo to hi, the range applied after rounding (R153, R156, R241). -/
def roundInt (lo hi : Int) (x : XR) (mode : Nat) (thr : Nat := 0) : Int × Flags :=
  match x with
  | .nan => (0, flIV)
  | .inf neg => (if neg then lo else hi, flIV)
  | .fin neg num den =>
    let q := num / den
    let r := num % den
    let m : Nat := if roundUp mode neg (q % 2 == 1) r den thr then q + 1 else q
    let v : Int := if neg then -(m : Int) else m
    if v < lo then (lo, flIV) else if v > hi then (hi, flIV) else (v, if r = 0 then 0 else flNX)

/-! ### Exact arithmetic -/

/-- Whether the value is NaN, infinite, or zero. -/
def XR.isNan : XR → Bool
  | .nan => true
  | _ => false
def XR.isInf : XR → Bool
  | .inf _ => true
  | _ => false
def XR.isZero : XR → Bool
  | .fin _ n _ => n == 0
  | _ => false

/-- The sign of a value that is not NaN. -/
def XR.neg : XR → Bool
  | .nan => false
  | .inf s => s
  | .fin s _ _ => s

/-- The negated value. -/
def XR.flip : XR → XR
  | .nan => .nan
  | .inf s => .inf (!s)
  | .fin s n d => .fin (!s) n d

/-- A finite value from an exact signed quotient; a zero takes the sign given. -/
def xOfInt (zneg : Bool) (n : Int) (d : Nat) : XR :=
  if n = 0 then .fin zneg 0 1 else .fin (decide (n < 0)) n.natAbs d

/-- The signed numerator of a finite value. -/
def sgn (neg : Bool) (n : Nat) : Int := if neg then -(n : Int) else n

/-- Exact sum with the zero signs and the invalid case of R228. -/
def xAdd (mode : Nat) (a b : XR) : XR × Flags :=
  match a, b with
  | .nan, _ => (.nan, 0)
  | _, .nan => (.nan, 0)
  | .inf s, .inf t => if s = t then (.inf s, 0) else (.nan, flIV)
  | .inf s, _ => (.inf s, 0)
  | _, .inf t => (.inf t, 0)
  | .fin s n d, .fin t m e =>
    let z := if n = 0 ∧ m = 0 ∧ s = t then s else mode == mRDN
    (xOfInt z (sgn s n * e + sgn t m * d) (d * e), 0)

/-- Exact product (R228). -/
def xMul (a b : XR) : XR × Flags :=
  match a, b with
  | .nan, _ => (.nan, 0)
  | _, .nan => (.nan, 0)
  | .inf s, .inf t => (.inf (s != t), 0)
  | .inf s, .fin t n _ => if n = 0 then (.nan, flIV) else (.inf (s != t), 0)
  | .fin s n _, .inf t => if n = 0 then (.nan, flIV) else (.inf (s != t), 0)
  | .fin s n d, .fin t m e => (.fin (s != t) (n * m) (d * e), 0)

/-- Whether a product is of the form 0 × ∞. -/
def zeroInf (a b : XR) : Bool := (a.isZero && b.isInf) || (a.isInf && b.isZero)

/-- a × b + c with one rounding to come (R228: 0 × ∞ is invalid whatever c holds). -/
def xFma (mode : Nat) (a b c : XR) : XR × Flags :=
  if zeroInf a b then (.nan, flIV) else xAdd mode (xMul a b).1 c

/-- Exact quotient (R228). -/
def xDiv (a b : XR) : XR × Flags :=
  match a, b with
  | .nan, _ => (.nan, 0)
  | _, .nan => (.nan, 0)
  | .inf _, .inf _ => (.nan, flIV)
  | .inf s, .fin t _ _ => (.inf (s != t), 0)
  | .fin s _ _, .inf t => (.fin (s != t) 0 1, 0)
  | .fin s n d, .fin t m e =>
    if m = 0 then (if n = 0 then (.nan, flIV) else (.inf (s != t), flDZ))
    else (.fin (s != t) (n * e) (d * m), 0)

/-- The exact value times 2^k. -/
def xMulPow (x : XR) (k : Int) : XR :=
  match x with
  | .fin s n d => if 0 ≤ k then .fin s (n * 2 ^ k.toNat) d else .fin s n (d * 2 ^ (-k).toNat)
  | y => y

/-- Order of two values that are not NaN, with −0 equal to +0. -/
def xLt (a b : XR) : Bool :=
  match a, b with
  | .nan, _ => false
  | _, .nan => false
  | .inf s, .inf t => s && !t
  | .inf s, _ => s
  | _, .inf t => !t
  | .fin s n d, .fin t m e => decide (sgn s n * e < sgn t m * d)

def xEq (a b : XR) : Bool :=
  match a, b with
  | .nan, _ => false
  | _, .nan => false
  | .inf s, .inf t => s == t
  | .inf _, _ => false
  | _, .inf _ => false
  | .fin s n d, .fin t m e => decide (sgn s n * e = sgn t m * d)

def xLe (a b : XR) : Bool := xLt a b || xEq a b

/-- The smaller value, with −0 below +0 (R228), of two that are not NaN. -/
def xMin (a b : XR) : XR := if xLt a b then a else if xLt b a then b else if a.neg then a else b
def xMax (a b : XR) : XR := if xLt a b then b else if xLt b a then a else if a.neg then b else a

/-! ### Roots, exponential and logarithm (R233) -/

/-- floor(sqrt n), one bit at a time. -/
def isqrtGo (n : Nat) : Nat → Nat → Nat
  | 0, r => r
  | i + 1, r => isqrtGo n i (if (r + 2 ^ i) * (r + 2 ^ i) ≤ n then r + 2 ^ i else r)

def isqrt (n : Nat) : Nat := isqrtGo n (Nat.log2 n / 2 + 1) 0

/-- Bits kept below the binary point by the irrational functions, beyond the last grid midpoint of FP64 roots. -/
def fracBits : Nat := 700

/-- A value strictly between q / 2^k and (q + 1) / 2^k, which rounds as every value of that open interval does
(assumption 12), or q / 2^k itself. -/
def between (neg exact : Bool) (q k : Nat) : XR :=
  if exact then .fin neg q (2 ^ k) else .fin neg (2 * q + 1) (2 ^ (k + 1))

/-- Square root of a positive finite magnitude. -/
def xSqrtMag (n d : Nat) : XR :=
  let t := n * 4 ^ fracBits
  let q := isqrt (t / d)
  between false (q * q * d == t) q fracBits

/-- sqrt (R233). -/
def xSqrt (x : XR) : XR × Flags :=
  match x with
  | .nan => (.nan, 0)
  | .inf s => if s then (.nan, flIV) else (.inf false, 0)
  | .fin s n d => if n = 0 then (.fin s 0 1, 0) else if s then (.nan, flIV) else (xSqrtMag n d, 0)

/-- rsqrt (R233). -/
def xRsqrt (x : XR) : XR × Flags :=
  match x with
  | .nan => (.nan, 0)
  | .inf s => if s then (.nan, flIV) else (.fin false 0 1, 0)
  | .fin s n d => if n = 0 then (.inf s, flDZ) else if s then (.nan, flIV) else (xSqrtMag d n, 0)

/-- rcp (R233). -/
def xRcp (x : XR) : XR × Flags :=
  match x with
  | .nan => (.nan, 0)
  | .inf s => (.fin s 0 1, 0)
  | .fin s n d => if n = 0 then (.inf s, flDZ) else (.fin s d n, 0)

/-- Fixed-point precision of exp2 and log2. -/
def fixBits : Nat := 400

/-- Sum over k from n down to 1 of 2^fixBits / (k × 2^k): ln 2 in fixed point. -/
def ln2Go : Nat → Nat
  | 0 => 0
  | k + 1 => ln2Go k + 2 ^ fixBits / ((k + 1) * 2 ^ (k + 1))

def ln2Fix : Nat := ln2Go 410

/-- Taylor sum of exp: term t of index i, with steps left. -/
def expGo (y : Nat) : Nat → Nat → Nat → Nat
  | 0, _, t => t
  | n + 1, i, t => t + expGo y n (i + 1) (t * y / (2 ^ fixBits * i))

/-- 2^f in fixed point, f a fraction in fixed point. -/
def exp2Fix (f : Nat) : Nat := expGo (f * ln2Fix / 2 ^ fixBits) 90 1 (2 ^ fixBits)

/-- exp2 (R233): 2 to a fraction that is not an integer is irrational, so its surrogate lies inside one cell of the
fixed-point grid (assumption 12). -/
def xExp2 (x : XR) : XR × Flags :=
  match x with
  | .nan => (.nan, 0)
  | .inf s => (if s then .fin false 0 1 else .inf false, 0)
  | .fin s n d =>
    let v := sgn s n
    let i : Int := v / d
    let r : Nat := (v % d).toNat
    if i ≥ 1100 then (.fin false (2 ^ 1100) 1, 0)
    else if i < -1200 then (.fin false 1 (2 ^ 1200), 0)
    else if r = 0 then (xScale false 1 i, 0)
    else
      let q := exp2Fix (r * 2 ^ fixBits / d) / 2 ^ 100
      (xMulPow (between false false q (fixBits - 100)) i, 0)

/-- Binary digits of log2 of m / 2^prec, m from 2^prec to 2^(prec+1), by repeated squaring. -/
def log2Go (prec : Nat) : Nat → Nat → Nat → Nat
  | 0, _, acc => acc
  | n + 1, m, acc =>
    let sq := m * m / 2 ^ prec
    if sq ≥ 2 ^ (prec + 1) then log2Go prec n (sq / 2) (2 * acc + 1) else log2Go prec n sq (2 * acc)

/-- log2 (R233); log2 of 1 is +0. -/
def xLog2 (x : XR) : XR × Flags :=
  match x with
  | .nan => (.nan, 0)
  | .inf s => if s then (.nan, flIV) else (.inf false, 0)
  | .fin s n d =>
    if n = 0 then (.inf true, flDZ)
    else if s then (.nan, flIV)
    else
      let e := ilog2 n d
      let (a, b) : Nat × Nat := if 0 ≤ e then (n, d * 2 ^ e.toNat) else (n * 2 ^ (-e).toNat, d)
      if a = b then (xOfInt false e 1, 0)
      else
        let q := log2Go 512 160 (a * 2 ^ 512 / b) 0
        (xOfInt false ((e * 2 ^ 160 + q) * 2 + 1) (2 ^ 161), 0)

/-! ### Ordered dither (R154) -/

/-- BitRev5(i) XOR φ. -/
def odrThr (i : Nat) (phase : BitVec 5) : Nat :=
  (BitVec.ofNat 5 i).reverse.toNat ^^^ phase.toNat

/-! ### The matrix step (R158, R159) -/

/-- An element as the engine takes it: NaN, infinity, or sign, significand and exponent of its last bit. -/
inductive MEl where
  | nan
  | inf (neg : Bool)
  | fin (neg : Bool) (sig : Nat) (e : Int)
  deriving DecidableEq, Repr

/-- A product of two elements (R158 step 1); none for ∞ × 0 and NaN. -/
def MEl.mul (a b : MEl) : MEl :=
  match a, b with
  | .nan, _ => .nan
  | _, .nan => .nan
  | .inf s, .inf t => .inf (s != t)
  | .inf s, .fin t n _ => if n = 0 then .nan else .inf (s != t)
  | .fin s n _, .inf t => if n = 0 then .nan else .inf (s != t)
  | .fin s n e, .fin t m f => .fin (s != t) (n * m) (e + f)

/-- floor(log2 |p|) of the non-zero products, the largest. -/
def mEmax : List MEl → Option Int
  | [] => none
  | .fin _ n e :: ps =>
    if n = 0 then mEmax ps
    else
      let k := (Nat.log2 n : Int) + e
      match mEmax ps with
      | none => some k
      | some m => some (max k m)
  | _ :: ps => mEmax ps

/-- Sum of the products, each truncated towards zero to a multiple of 2^u, in units of 2^u (R158 steps 2 and 3). -/
def mSum (u : Int) : List MEl → Int
  | [] => 0
  | .fin s n e :: ps =>
    let t : Nat := if e ≥ u then n * 2 ^ (e - u).toNat else n / 2 ^ (u - e).toNat
    sgn s t + mSum u ps
  | _ :: ps => mSum u ps

/-- The step result before it is added (R158 step 4, R159). -/
def mStep (ps : List MEl) : Nat :=
  if ps.any (fun p => p == .nan) || (ps.any (fun p => p == .inf true) && ps.any (fun p => p == .inf false)) then fp32.nan
  else if ps.any (fun p => p == .inf true) then fp32.encode true (fp32.maxPos + 1)
  else if ps.any (fun p => p == .inf false) then fp32.encode false (fp32.maxPos + 1)
  else match mEmax ps with
    | none => 0
    | some em =>
      let t := mSum (em - 50) ps
      (roundTo fp32 (xMulPow (xOfInt false t 1) (em - 50)) mRNE false).1

/-- acc + step, rounded to FP32 (R158 step 5). -/
def fAdd32 (a b : Nat) : Nat := (roundTo fp32 (xAdd mRNE (fp32.value a) (fp32.value b)).1 mRNE false).1

end Sys2Proof.Machine
end

