-- ==== Sys2Proof/Machine/Alu.lean ====
section
/-!
DEFINITION. What each operation of the arithmetic reference (09_isa_arith) computes from the values of its operands
in one lane: the integer, packed, logic, shift, floating-point and conversion functions, without reading or writing
any register. Every form of an operation, the xint and xflt forms among them, uses the same function.
-/

set_option linter.unusedVariables false

namespace Sys2Proof.Machine

/-! ### Tags (R146) -/

def tRAW : Byte := 0x00
def tI32 : Byte := 0x01
def tN32 : Byte := 0x02
def tF32 : Byte := 0x03
def tF16 : Byte := 0x04
def tBF16 : Byte := 0x05
def tF64L : Byte := 0x06
def tF64H : Byte := 0x07
def tI16 : Byte := 0x08
def tN16 : Byte := 0x09
def tI8 : Byte := 0x0A
def tN8 : Byte := 0x0B
def tVOID : Byte := 0x0F

/-- The class in which an operand is read (R147). -/
inductive Cls where
  | int
  | p16
  | p8
  | f32
  | f16
  | bf16
  | f64
  | b8 (tag : Nat)
  | bits
  deriving DecidableEq, Repr

/-- Whether a class accepts a tag; `odd` marks the odd register of an FP64 pair. VOID is checked apart (R147). -/
def clsOk (c : Cls) (odd : Bool) (t : Byte) : Bool :=
  match c with
  | .int => t == tI32 || t == tN32 || t == tRAW
  | .p16 => t == tI16 || t == tN16 || t == tRAW
  | .p8 => t == tI8 || t == tN8 || t == tRAW
  | .f32 => t == tF32 || t == tRAW
  | .f16 => t == tF16 || t == tRAW
  | .bf16 => t == tBF16 || t == tRAW
  | .f64 => t == (if odd then tF64H else tF64L) || t == tRAW
  | .b8 f => t.toNat == f || t == tRAW
  | .bits => true

/-- The value of the i-th register of an operand. -/
def vw (l : List VCell) (i : Nat) : Word := ((l[i]?).getD {}).val

/-- A result of one register. -/
def one (v : Word) (t : Byte) : List VCell × Flags := ([{ val := v, tag := t }], 0)

/-! ### Integer operations -/

/-- The low 32 bits of an exact value, or the value clamped to the signed range (R214). -/
def satI (sat : Bool) (x : Int) : Word :=
  BitVec.ofInt 32 (if sat then max (-2147483648) (min 2147483647 x) else x)

/-- Element j of width w. -/
def elem (w j : Nat) (x : Word) : Nat := x.toNat / 2 ^ (w * j) % 2 ^ w

/-- A packed operation on 32 / w elements (R215): signed or unsigned elements, an exact operation on them, the
clamp of SAT, then the low w bits. -/
def packed (w : Nat) (signed sat : Bool) (f : Int → Int → Int) (a b : Word) : Word :=
  let rd (x : Nat) : Int := if signed && decide (2 ^ (w - 1) ≤ x) then (x : Int) - 2 ^ w else x
  let lo : Int := if signed then -(2 ^ (w - 1)) else 0
  let hi : Int := if signed then 2 ^ (w - 1) - 1 else 2 ^ w - 1
  let el (j : Nat) : Nat :=
    let v := f (rd (elem w j a)) (rd (elem w j b))
    let c := if sat then max lo (min hi v) else v
    (c % 2 ^ w).toNat * 2 ^ (w * j)
  BitVec.ofNat 32 ((List.range (32 / w)).foldl (fun t j => t + el j) 0)

/-- div.i (R212). -/
def divI (a b : Word) : Word :=
  if b = 0 then 0xFFFFFFFF else BitVec.ofInt 32 (a.toInt.tdiv b.toInt)

/-- rem.i (R212): the sign of a. -/
def remI (a b : Word) : Word := if b = 0 then a else BitVec.ofInt 32 (a.toInt.tmod b.toInt)

def divN (a b : Word) : Word := if b = 0 then 0xFFFFFFFF else BitVec.ofNat 32 (a.toNat / b.toNat)
def remN (a b : Word) : Word := if b = 0 then a else BitVec.ofNat 32 (a.toNat % b.toNat)

/-- Shifts by any amount (R217). -/
def shlW (a : Word) (n : Nat) : Word := if n < 32 then a <<< n else 0
def shrNW (a : Word) (n : Nat) : Word := if n < 32 then a >>> n else 0
def shrIW (a : Word) (n : Nat) : Word := a.sshiftRight (min n 31)

/-- Number of one bits. -/
def popcount (x : Word) : Nat := (List.range 32).foldl (fun n i => if x.getLsbD i then n + 1 else n) 0

/-- Zero bits above the highest one bit, 32 for zero (R219). -/
def clzW (x : Word) : Nat := if x = 0 then 32 else 31 - Nat.log2 x.toNat

/-- bfx.n, bfx.i and bfi (R218): position and width from the control operand. -/
def bfPos (c : Word) : Nat := bits c 0 8
def bfWidth (c : Word) : Nat := min (bits c 8 8) 32
def bfxN (a c : Word) : Word :=
  let x := if bfPos c ≥ 32 then 0 else a.toNat / 2 ^ bfPos c
  BitVec.ofNat 32 (x % 2 ^ bfWidth c)
def bfxI (a c : Word) : Word :=
  if bfWidth c = 0 then 0
  else
    let x := a.sshiftRight (min (bfPos c) 31)
    let y := x.toNat % 2 ^ bfWidth c
    BitVec.ofInt 32 (if 2 ^ (bfWidth c - 1) ≤ y then (y : Int) - 2 ^ bfWidth c else y)
def bfiW (a b c : Word) : Word :=
  let w := min (bfWidth c) (32 - bfPos c)
  let m := shlW (BitVec.ofNat 32 (2 ^ w - 1)) (bfPos c)
  if bfPos c ≥ 32 then a else (a &&& ~~~m) ||| (shlW b (bfPos c) &&& m)

/-! ### Floating-point operations on encodings -/

/-- A rounding operation of two operands (R227, R228). -/
def fBin (f : FFmt) (op : XR → XR → XR × Flags) (rnd : Nat) (sat : Bool) (a b : Nat) : Nat × Flags :=
  let (x, fl) := op (f.value a) (f.value b)
  let (r, fl2) := roundTo f x rnd sat
  (r, fl ||| fl2 ||| f.snanFlag a ||| f.snanFlag b)

/-- A rounding operation of one operand (R233). -/
def fUn (f : FFmt) (op : XR → XR × Flags) (rnd : Nat) (sat : Bool) (a : Nat) : Nat × Flags :=
  let (x, fl) := op (f.value a)
  let (r, fl2) := roundTo f x rnd sat
  (r, fl ||| fl2 ||| f.snanFlag a)

/-- fma (R228). -/
def fFma (f : FFmt) (rnd : Nat) (sat : Bool) (a b c : Nat) : Nat × Flags :=
  let (x, fl) := xFma rnd (f.value a) (f.value b) (f.value c)
  let (r, fl2) := roundTo f x rnd sat
  (r, fl ||| fl2 ||| f.snanFlag a ||| f.snanFlag b ||| f.snanFlag c)

/-- min and max (R228). -/
def fMinMax (f : FFmt) (isMax : Bool) (a b : Nat) : Nat × Flags :=
  let x := f.value a
  let y := f.value b
  let r :=
    if x.isNan && y.isNan then f.nan
    else if x.isNan then b
    else if y.isNan then a
    else if xLt x y then (if isMax then b else a)
    else if xLt y x then (if isMax then a else b)
    else if x.neg then (if isMax then b else a) else (if isMax then a else b)
  (r, f.snanFlag a ||| f.snanFlag b)

/-- abs and neg (R228). -/
def fAbs (f : FFmt) (a : Nat) : Nat × Flags :=
  (if (f.value a).isNan then f.nan else a % 2 ^ (f.width - 1), f.snanFlag a)
def fNeg (f : FFmt) (a : Nat) : Nat × Flags :=
  (if (f.value a).isNan then f.nan else (a + 2 ^ (f.width - 1)) % 2 ^ f.width, f.snanFlag a)

def fAdd (f : FFmt) (rnd : Nat) (sat : Bool) := fBin f (xAdd rnd) rnd sat
def fSub (f : FFmt) (rnd : Nat) (sat : Bool) := fBin f (fun x y => xAdd rnd x y.flip) rnd sat
def fMul (f : FFmt) (rnd : Nat) (sat : Bool) := fBin f xMul rnd sat
def fDiv (f : FFmt) (rnd : Nat) (sat : Bool) := fBin f xDiv rnd sat

/-- rint (R234). -/
def fRint (f : FFmt) (rnd : Nat) (a : Nat) : Nat × Flags :=
  match f.value a with
  | .fin neg n d =>
    if n = 0 then (a, 0)
    else
      let q := n / d
      let m := if roundUp rnd neg (q % 2 == 1) (n % d) d 0 then q + 1 else q
      ((roundTo f (.fin neg m 1) rnd false).1, 0)
  | .inf _ => (a, 0)
  | .nan => (f.nan, f.snanFlag a)

/-- The FP64 encoding of a pair of registers, and the registers of an FP64 result (R141, R148). -/
def d64 (l : List VCell) : Nat := (vw l 0).toNat + 2 ^ 32 * (vw l 1).toNat
def r64 (v : Nat) : List VCell :=
  [{ val := BitVec.ofNat 32 v, tag := tF64L }, { val := BitVec.ofNat 32 (v / 2 ^ 32), tag := tF64H }]

/-- A packed 16-bit floating-point operation: the flags of the two elements are ORed (R230). -/
def f16x2 (op : Nat → Nat → Nat × Flags) (t : Byte) (a b : List VCell) : List VCell × Flags :=
  let (r0, e0) := op (elem 16 0 (vw a 0)) (elem 16 0 (vw b 0))
  let (r1, e1) := op (elem 16 1 (vw a 0)) (elem 16 1 (vw b 0))
  ([{ val := BitVec.ofNat 32 (r0 + 65536 * r1), tag := t }], e0 ||| e1)

/-! ### R-format operations (R196, R210) -/

/-- An R-format operation: operand classes, registers to an operand, and its function of rounding, SAT and operands. -/
structure ROp where
  ca : Cls
  cb : Cls
  n : Nat := 1
  unary : Bool := false
  ev : Nat → Bool → List VCell → List VCell → List VCell × Flags

def iOp (t : Byte) (f : Word → Word → Word) : ROp :=
  { ca := .int, cb := .int, ev := fun _ _ a b => one (f (vw a 0) (vw b 0)) t }
def iUn (t : Byte) (f : Word → Word) : ROp :=
  { ca := .int, cb := .int, unary := true, ev := fun _ _ a _ => one (f (vw a 0)) t }
def lOp (f : Word → Word → Word) : ROp :=
  { ca := .bits, cb := .bits, ev := fun _ _ a b => one (f (vw a 0) (vw b 0)) tRAW }
def lUn (f : Word → Word) : ROp :=
  { ca := .bits, cb := .bits, unary := true, ev := fun _ _ a _ => one (f (vw a 0)) tRAW }
def sOp (f : Word → Nat → Word) : ROp :=
  { ca := .bits, cb := .int, ev := fun _ _ a b => one (f (vw a 0) (vw b 0).toNat) tRAW }
def pOp (c : Cls) (w : Nat) (signed : Bool) (t : Byte) (f : Int → Int → Int) : ROp :=
  { ca := c, cb := c, ev := fun _ s a b => one (packed w signed s f (vw a 0) (vw b 0)) t }
def f32Op (f : Nat → Bool → Nat → Nat → Nat × Flags) : ROp :=
  { ca := .f32, cb := .f32,
    ev := fun r s a b =>
      let (v, e) := f r s (vw a 0).toNat (vw b 0).toNat
      ([{ val := BitVec.ofNat 32 v, tag := tF32 }], e) }
def f32Un (f : Nat → Bool → Nat → Nat × Flags) : ROp :=
  { ca := .f32, cb := .f32, unary := true,
    ev := fun r s a _ =>
      let (v, e) := f r s (vw a 0).toNat
      ([{ val := BitVec.ofNat 32 v, tag := tF32 }], e) }
def f64Op (f : Nat → Bool → Nat → Nat → Nat × Flags) : ROp :=
  { ca := .f64, cb := .f64, n := 2,
    ev := fun r s a b => let (v, e) := f r s (d64 a) (d64 b); (r64 v, e) }
def f64Un (f : Nat → Bool → Nat → Nat × Flags) : ROp :=
  { ca := .f64, cb := .f64, n := 2, unary := true,
    ev := fun r s a _ => let (v, e) := f r s (d64 a); (r64 v, e) }
def h16Op (c : Cls) (t : Byte) (f : Nat → Bool → Nat → Nat → Nat × Flags) : ROp :=
  { ca := c, cb := c, ev := fun r s a b => f16x2 (f r s) t a b }

/-- Scalar integers (R211, R212, R214). -/
def opAddI : ROp := { ca := .int, cb := .int, ev := fun _ s a b => one (satI s ((vw a 0).toInt + (vw b 0).toInt)) tI32 }
def opSubI : ROp := { ca := .int, cb := .int, ev := fun _ s a b => one (satI s ((vw a 0).toInt - (vw b 0).toInt)) tI32 }
def opAddcN : ROp := iOp tN32 (fun a b => if a.toNat + b.toNat ≥ 2 ^ 32 then 1 else 0)
def opSubbN : ROp := iOp tN32 (fun a b => if a.toNat < b.toNat then 1 else 0)
def opMulI : ROp := iOp tI32 (fun a b => a * b)
def opMulhiI : ROp := iOp tI32 (fun a b => BitVec.ofInt 32 (a.toInt * b.toInt / 2 ^ 32))
def opMulhiN : ROp := iOp tN32 (fun a b => BitVec.ofNat 32 (a.toNat * b.toNat / 2 ^ 32))
def opDivI : ROp := iOp tI32 divI
def opDivN : ROp := iOp tN32 divN
def opRemI : ROp := iOp tI32 remI
def opRemN : ROp := iOp tN32 remN
def opMinI : ROp := iOp tI32 (fun a b => if a.toInt ≤ b.toInt then a else b)
def opMaxI : ROp := iOp tI32 (fun a b => if a.toInt ≤ b.toInt then b else a)
def opMinN : ROp := iOp tN32 (fun a b => if a.toNat ≤ b.toNat then a else b)
def opMaxN : ROp := iOp tN32 (fun a b => if a.toNat ≤ b.toNat then b else a)
def opAbsI : ROp :=
  { ca := .int, cb := .int, unary := true, ev := fun _ s a _ => one (satI s ((vw a 0).toInt.natAbs : Int)) tI32 }

/-- Packed integers (R215). -/
def opAddI16 : ROp := pOp .p16 16 true tI16 (· + ·)
def opSubI16 : ROp := pOp .p16 16 true tI16 (· - ·)
def opAddN16 : ROp := pOp .p16 16 false tN16 (· + ·)
def opSubN16 : ROp := pOp .p16 16 false tN16 (· - ·)
def opAddI8 : ROp := pOp .p8 8 true tI8 (· + ·)
def opSubI8 : ROp := pOp .p8 8 true tI8 (· - ·)
def opAddN8 : ROp := pOp .p8 8 false tN8 (· + ·)
def opSubN8 : ROp := pOp .p8 8 false tN8 (· - ·)

/-- Logic, shifts and bit counts (R216, R217, R219). -/
def opAnd : ROp := lOp (· &&& ·)
def opOr : ROp := lOp (· ||| ·)
def opXor : ROp := lOp (· ^^^ ·)
def opAndn : ROp := lOp (fun a b => a &&& ~~~b)
def opShl : ROp := sOp shlW
def opShrN : ROp := sOp shrNW
def opShrI : ROp := sOp shrIW
def opPopc : ROp := lUn (fun a => BitVec.ofNat 32 (popcount a))
def opClz : ROp := lUn (fun a => BitVec.ofNat 32 (clzW a))
def opBrev : ROp := lUn (fun a => a.reverse)

/-- mov (R224): the value keeps its tag. -/
def opMov : ROp := { ca := .bits, cb := .bits, unary := true, ev := fun _ _ a _ => ([(a[0]?).getD {}], 0) }

/-- FP32 (R227, R233). -/
def opAddF : ROp := f32Op (fAdd fp32)
def opSubF : ROp := f32Op (fSub fp32)
def opMulF : ROp := f32Op (fMul fp32)
def opDivF : ROp := f32Op (fDiv fp32)
def opMinF : ROp := f32Op (fun _ _ => fMinMax fp32 false)
def opMaxF : ROp := f32Op (fun _ _ => fMinMax fp32 true)
def opAbsF : ROp := f32Un (fun _ _ => fAbs fp32)
def opNegF : ROp := f32Un (fun _ _ => fNeg fp32)
def opRcpF : ROp := f32Un (fUn fp32 xRcp)
def opSqrtF : ROp := f32Un (fUn fp32 xSqrt)
def opRsqrtF : ROp := f32Un (fUn fp32 xRsqrt)
def opExp2F : ROp := f32Un (fUn fp32 xExp2)
def opLog2F : ROp := f32Un (fUn fp32 xLog2)

/-- Packed FP16 and BF16 (R230). -/
def opAddF16 : ROp := h16Op .f16 tF16 (fAdd fp16)
def opMulF16 : ROp := h16Op .f16 tF16 (fMul fp16)
def opMinF16 : ROp := h16Op .f16 tF16 (fun _ _ => fMinMax fp16 false)
def opMaxF16 : ROp := h16Op .f16 tF16 (fun _ _ => fMinMax fp16 true)
def opAddBf16 : ROp := h16Op .bf16 tBF16 (fAdd bf16)
def opMulBf16 : ROp := h16Op .bf16 tBF16 (fMul bf16)
def opMinBf16 : ROp := h16Op .bf16 tBF16 (fun _ _ => fMinMax bf16 false)
def opMaxBf16 : ROp := h16Op .bf16 tBF16 (fun _ _ => fMinMax bf16 true)

/-- FP64 (R231, R233). -/
def opAddF64 : ROp := f64Op (fAdd fp64)
def opSubF64 : ROp := f64Op (fSub fp64)
def opMulF64 : ROp := f64Op (fMul fp64)
def opDivF64 : ROp := f64Op (fDiv fp64)
def opMinF64 : ROp := f64Op (fun _ _ => fMinMax fp64 false)
def opMaxF64 : ROp := f64Op (fun _ _ => fMinMax fp64 true)
def opRcpF64 : ROp := f64Un (fUn fp64 xRcp)
def opSqrtF64 : ROp := f64Un (fUn fp64 xSqrt)

/-- The R-format operation of an opcode (R196), as xint and xflt name it. -/
def ropOf (op : Nat) : ROp :=
  match op with
  | 0x01 => opAddI | 0x03 => opSubI | 0x04 => opAddcN | 0x05 => opSubbN | 0x06 => opMulI | 0x07 => opMulhiI
  | 0x08 => opMulhiN | 0x0A => opDivI | 0x0B => opDivN | 0x0C => opRemI | 0x0D => opRemN | 0x0E => opMinI
  | 0x0F => opMaxI | 0x10 => opMinN | 0x11 => opMaxN | 0x12 => opAbsI | 0x13 => opAddI16 | 0x14 => opSubI16
  | 0x15 => opAddN16 | 0x16 => opSubN16 | 0x17 => opAddI8 | 0x18 => opSubI8 | 0x19 => opAddN8 | 0x1A => opSubN8
  | 0x1B => opAnd | 0x1C => opOr | 0x1D => opXor | 0x1E => opAndn | 0x22 => opShl | 0x23 => opShrN | 0x24 => opShrI
  | 0x2B => opPopc | 0x2C => opClz | 0x2D => opBrev | 0x32 => opMov
  | 0x38 => opAddF | 0x39 => opSubF | 0x3A => opMulF | 0x3C => opMinF | 0x3D => opMaxF | 0x3E => opAbsF
  | 0x3F => opNegF | 0x40 => opDivF | 0x42 => opAddF16 | 0x43 => opMulF16 | 0x45 => opMinF16 | 0x46 => opMaxF16
  | 0x48 => opAddBf16 | 0x49 => opMulBf16 | 0x4B => opMinBf16 | 0x4C => opMaxBf16 | 0x4E => opAddF64
  | 0x4F => opSubF64 | 0x50 => opMulF64 | 0x52 => opMinF64 | 0x53 => opMaxF64 | 0x54 => opDivF64 | 0x56 => opRcpF
  | 0x57 => opSqrtF | 0x58 => opRsqrtF | 0x59 => opExp2F | 0x5A => opLog2F | 0x5B => opRcpF64 | 0x5C => opSqrtF64
  | _ => opMov

/-! ### XA operations -/

/-- mad.i (R213). -/
def madI (sat : Bool) (a b c : Word) : Word := satI sat (a.toInt * b.toInt + c.toInt)

/-- The relation CMP of R221 on integers. -/
def cmpInt (cmp : Nat) (a b : Int) : Bool :=
  match cmp with
  | 0 => a == b | 1 => a != b | 2 => decide (a < b) | 3 => decide (a ≤ b) | 4 => decide (a > b) | _ => decide (a ≥ b)

/-- A floating-point comparison with its invalid flag (R222). -/
def cmpFloat (f : FFmt) (cmp : Nat) (u : Bool) (a b : Nat) : Bool × Flags :=
  let x := f.value a
  let y := f.value b
  let un := x.isNan || y.isNan
  let c :=
    match cmp with
    | 0 => xEq x y || (un && u)
    | 1 => !xEq x y
    | 2 => xLt x y || (un && u)
    | 3 => xLe x y || (un && u)
    | 4 => xLt y x || (un && u)
    | 5 => xLe y x || (un && u)
    | 6 => !un
    | _ => un
  let iv := if un && !u && decide (2 ≤ cmp ∧ cmp ≤ 5) then flIV else f.snanFlag a ||| f.snanFlag b
  (c, iv)

/-- COMB of R221. -/
def combine (comb : Nat) (c p : Bool) : Bool :=
  match comb with
  | 0 => c | 1 => c && p | 2 => c || p | _ => c != p

/-- The packing option PK of R221. -/
def packSel (pk : Nat) (c0 c1 : Bool) : Bool :=
  match pk with
  | 0 => c0 && c1 | 1 => c0 || c1 | 2 => c0 | _ => c1

/-- dot4 (R236). -/
def dot4Val (ta tb : Nat) (rnd : Nat) (sat : Bool) (a b c : Word) : Nat × Flags :=
  let term (j : Nat) : XR × Bool :=
    let x := (b8fmt ta).value (elem 8 j a)
    let y := (b8fmt tb).value (elem 8 j b)
    ((xMul x y).1, zeroInf x y)
  let cv := fp32.value c.toNat
  let ts := [term 0, term 1, term 2, term 3]
  let anyNan := cv.isNan || (List.range 4).any (fun j =>
    ((b8fmt ta).value (elem 8 j a)).isNan || ((b8fmt tb).value (elem 8 j b)).isNan)
  let zi := ts.any (fun t => t.2)
  let all := cv :: ts.map (fun t => t.1)
  let infs := all.filter XR.isInf
  let mixed := infs.any XR.neg && infs.any (fun t => !t.neg)
  let sn := fp32.snanFlag c.toNat
  if anyNan || zi || mixed then (fp32.nan, (if zi || mixed then flIV else 0) ||| sn)
  else
    match infs with
    | i :: _ => let (r, e) := roundTo fp32 i rnd sat; (r, e ||| sn)
    | [] =>
      let s := all.foldl (fun t x => (xAdd rnd t x).1) (XR.fin false 0 1)
      let s' := if s.isZero then XR.fin (rnd == mRDN) 0 1 else s
      let (r, e) := roundTo fp32 s' rnd sat
      (r, e ||| sn)

/-! ### Conversion (R237 to R241) -/

/-- Whether a kind is an integer kind, and its limits. -/
def kindInt (k : Nat) : Bool := decide (k ≤ 1) || decide (6 ≤ k ∧ k ≤ 9)
def kindLo (k : Nat) : Int := if k = 0 then -2147483648 else if k = 6 then -32768 else if k = 8 then -128 else 0
def kindHi (k : Nat) : Int :=
  match k with
  | 0 => 2147483647 | 1 => 4294967295 | 6 => 32767 | 7 => 65535 | 8 => 127 | _ => 255

/-- The floating-point format of a kind. -/
def kindFmt (k tag : Nat) : FFmt :=
  match k with
  | 2 => fp32 | 3 => fp64 | 4 => fp16 | 5 => bf16 | _ => b8fmt tag

/-- The tag of an element's register and the class in which a source is read. -/
def kindTag (k tag : Nat) : Byte :=
  match k with
  | 0 => tI32 | 1 => tN32 | 2 => tF32 | 4 => tF16 | 5 => tBF16 | 6 => tI16 | 7 => tN16 | 8 => tI8 | 9 => tN8
  | _ => BitVec.ofNat 8 tag
def kindCls (k tag : Nat) : Cls :=
  match k with
  | 0 | 1 => .int | 2 => .f32 | 3 => .f64 | 4 => .f16 | 5 => .bf16 | 6 | 7 => .p16 | 8 | 9 => .p8 | _ => .b8 tag

/-- The signed value of an integer element. -/
def kindSigned (k c : Nat) : Int :=
  if kindLo k < 0 ∧ kindHi k < (c : Int) then (c : Int) - 2 ^ kindWidth k else c

/-- x × 2^(e − 127), NaN for e = 0xFF (R145), and the inverse scale. -/
def scaleUp (e : Nat) (x : XR) : XR := if e = 0xFF then .nan else xMulPow x ((e : Int) - 127)
def scaleDown (e : Nat) (x : XR) : XR := if e = 0xFF then .nan else xMulPow x (127 - (e : Int))

/-- The encoding of an exact value in a destination kind (R156, R240). -/
def toKind (dk dtag : Nat) (x : XR) (rnd : Nat) (sat : Bool) (thr : Nat) : Nat × Flags :=
  if kindInt dk then
    let (v, e) := roundInt (kindLo dk) (kindHi dk) x rnd thr
    ((v % 2 ^ kindWidth dk).toNat, e)
  else roundTo (kindFmt dk dtag) x rnd sat thr

/-- Whether R156 calls for RoundTo in a conversion from one kind to another: neither an integer-to-integer conversion
nor an exact widening of an IEEE format. -/
def cvtRounds (sk dk : Nat) : Bool :=
  !(kindInt sk && kindInt dk) && !((sk == 2 && dk == 3) || ((sk == 4 || sk == 5) && (dk == 2 || dk == 3)))

/-- An integer of one kind in another (R156, R240): to a wider kind extended, else with SAT the nearest value in range, without
it the low-order bits. -/
def intToInt (sk dk : Nat) (sat : Bool) (v : Int) : Nat :=
  let w := if sat && decide (kindWidth dk ≤ kindWidth sk) then max (kindLo dk) (min (kindHi dk) v) else v
  (w % 2 ^ kindWidth dk).toNat

/-- One element of a conversion: source encoding c of kind sk, scale bytes es and ed where the side is scaled. An
exact widening rounds and saturates nothing (R156); a NaN binary8 source and a scale byte of 0xFF signal nothing (R241). -/
def convElem (sk stag dk dtag : Nat) (es ed : Option Nat) (rnd : Nat) (sat : Bool) (thr c : Nat) : Nat × Flags :=
  if kindInt sk then
    let v := kindSigned sk c
    if kindInt dk then (intToInt sk dk sat v, 0)
    else
      let x := xOfInt false v 1
      let x' := match ed with
        | some e => scaleDown e x
        | none => x
      toKind dk dtag x' rnd sat thr
  else
    let f := kindFmt sk stag
    let x := f.value c
    let x1 := match es with
      | some e => scaleUp e x
      | none => x
    let x2 := match ed with
      | some e => scaleDown e x1
      | none => x1
    let (r, e) := toKind dk dtag x2 rnd (sat && cvtRounds sk dk) thr
    (r, (if kindInt dk && decide (10 ≤ sk) && x2.isNan then 0 else e) ||| f.snanFlag c)

/-- Elements to a lane (R238). -/
def cvtCount (sk dk : Nat) : Nat :=
  if kindWidth sk = 8 ∨ kindWidth dk = 8 then 4 else if kindWidth sk = 16 ∨ kindWidth dk = 16 then 2 else 1

/-- Element j of a register group (R238): an FP64 element is a pair. -/
def groupElem (k j : Nat) (l : List VCell) : Nat :=
  let w := kindWidth k
  if k = 3 then (vw l (2 * j)).toNat + 2 ^ 32 * (vw l (2 * j + 1)).toNat
  else elem w (j % (32 / w)) (vw l (j * w / 32))

/-- The registers of a destination group from its elements. -/
def packElems (k tag : Nat) (es : List Nat) : List VCell :=
  if k = 3 then es.flatMap r64
  else
    let w := kindWidth k
    let per := 32 / w
    (List.range ((es.length + per - 1) / per)).map (fun r =>
      { val := BitVec.ofNat 32 ((List.range per).foldl (fun t j => t + ((es[r * per + j]?).getD 0) * 2 ^ (w * j)) 0),
        tag := kindTag k tag })

/-- The whole conversion of one lane (R240). -/
def cvtLane (sk stag dk dtag : Nat) (es ed : Option Nat) (rnd : Nat) (sat : Bool) (phase : BitVec 5) (lane : Nat)
    (src : List VCell) : List VCell × Flags :=
  let n := cvtCount sk dk
  let rs := (List.range n).map (fun j =>
    convElem sk stag dk dtag es ed rnd sat (odrThr ((n * lane + j) % 32) phase) (groupElem sk j src))
  (packElems dk dtag (rs.map (fun r => r.1)), rs.foldl (fun e r => e ||| r.2) 0)

end Sys2Proof.Machine
end

