-- ==== Sys2Proof/Machine/Look.lean ====
section
/-!
DEFINITION. Finding and replacing the parts of the state by their numbers: workgroups, groups, threads, cores, dies,
contexts, launches, accesses, requests; the package time base; event records (15_launch R345).
-/

set_option linter.unusedVariables false

namespace Sys2Proof.Machine

/-! ### Execution state -/

def Exec.wg? (x : Exec) (i : Nat) : Option Wg := x.wgs.find? (fun w => w.id == i)

/-- Replaces the workgroup of the same number. -/
def Exec.setWg (x : Exec) (w : Wg) : Exec := { x with wgs := updFirst (fun u => u.id == w.id) (fun _ => w) x.wgs }

/-- The number of a core: 16 × die + core. -/
def coreNo (d c : Nat) : Nat := 16 * d + c

def Exec.core (x : Exec) (d c : Nat) : Core := cget {} (coreNo d c) x.cores
def Exec.setCore (x : Exec) (d c : Nat) (k : Core) : Exec := { x with cores := cset (coreNo d c) k x.cores }

def Exec.acc? (x : Exec) (i : Nat) : Option Access := x.accs.find? (fun a => a.id == i)
def Exec.setAcc (x : Exec) (a : Access) : Exec := { x with accs := updFirst (fun u => u.id == a.id) (fun _ => a) x.accs }
def Exec.delAcc (x : Exec) (i : Nat) : Exec := { x with accs := delFirst (fun u => u.id == i) x.accs }

def Exec.req? (x : Exec) (i : Nat) : Option Req := x.reqs.find? (fun r => r.id == i)
def Exec.setReq (x : Exec) (r : Req) : Exec := { x with reqs := updFirst (fun u => u.id == r.id) (fun _ => r) x.reqs }
def Exec.delReq (x : Exec) (i : Nat) : Exec := { x with reqs := delFirst (fun u => u.id == i) x.reqs }

def Wg.grp? (w : Wg) (i : Nat) : Option Group := w.groups[i]?
def Wg.setGrp (w : Wg) (g : Group) : Wg := { w with groups := w.groups.set g.idx g }

def Group.lane (g : Group) (l : Nat) : Lane := (g.lanes[l]?).getD {}
def Group.setLane (g : Group) (l : Nat) (t : Lane) : Group := { g with lanes := g.lanes.set l t }

/-- The group with the lanes of a list changed. -/
def Group.onLanes (g : Group) (ls : List Nat) (f : Nat → Lane → Lane) : Group :=
  { g with lanes := g.lanes.mapIdx (fun i t => if ls.contains i then f i t else t) }

/-- The lane numbers of a mask, ascending. -/
def lanesOf (m : Word) : List Nat := (List.range 32).filter (fun l => m.getLsbD l)

/-- The mask of a list of lanes. -/
def maskOf (ls : List Nat) : Word := ls.foldl (fun m l => m ||| (1#32 <<< l)) 0

/-- The lanes of a group that hold live threads. -/
def Group.live (g : Group) : List Nat := (List.range 32).filter (fun l => (g.lane l).st == .live)

/-- A fresh identifier of an access, request, message or fault. -/
def Exec.fresh (x : Exec) : Nat × Exec := (x.nextId, { x with nextId := x.nextId + 1 })

/-- The next free value, and the state that has used it (assumption 10). -/
def State.freeNum (s : State) : BitVec 64 × State :=
  (Config.freeValue s.x.free, { s with x := { s.x with free := s.x.free + 1 } })

/-- A fresh age stamp, younger than every other (02_execution R31). -/
def Exec.freshAge (x : Exec) : Nat × Exec := (x.nextAge, { x with nextAge := x.nextAge + 1 })

/-! ### The rest of the state -/

def State.die (s : State) (d : Nat) : Die := cget {} d s.fab.dies
def State.setDie (s : State) (d : Nat) (k : Die) : State :=
  { s with fab := { s.fab with dies := cset d k s.fab.dies } }

def State.ctx (s : State) (a : Nat) : Ctx := cget {} a s.sch.ctxs
def State.setCtx (s : State) (a : Nat) (c : Ctx) : State :=
  { s with sch := { s.sch with ctxs := cset a c s.sch.ctxs } }

def State.queue (s : State) (q : Nat) : Queue := cget {} q s.sch.queues
def State.setQueue (s : State) (q : Nat) (k : Queue) : State :=
  { s with sch := { s.sch with queues := cset q k s.sch.queues } }

def State.launch? (s : State) (l : Nat) : Option Launch := s.sch.launches.find? (fun k => k.id == l)
def State.setLaunch (s : State) (l : Launch) : State :=
  { s with sch := { s.sch with launches := updFirst (fun k => k.id == l.id) (fun _ => l) s.sch.launches } }

def State.gdie (s : State) (d : Nat) : GDie := cget {} d s.gfx.dies
def State.setGdie (s : State) (d : Nat) (k : GDie) : State :=
  { s with gfx := { s.gfx with dies := cset d k s.gfx.dies } }

def State.pass? (s : State) (p : Nat) : Option Pass := s.gfx.passes.find? (fun k => k.id == p)
def State.setPass (s : State) (p : Pass) : State :=
  { s with gfx := { s.gfx with passes := updFirst (fun k => k.id == p.id) (fun _ => p) s.gfx.passes } }

def State.island (s : State) (i : Nat) : Island := cget {} i s.pkg.islands
def State.setIsland (s : State) (i : Nat) (k : Island) : State :=
  { s with pkg := { s.pkg with islands := cset i k s.pkg.islands } }

def State.link (s : State) (i : Nat) : Link := cget {} i s.links
def State.setLink (s : State) (i : Nat) (k : Link) : State := { s with links := cset i k s.links }

/-! ### The die map (21_bringup R434, R435) -/

/-- DMAP_ENT[d]. -/
def State.dmap (s : State) (d : Nat) : DWord := cget 0 d s.pkg.dmap

/-- WORK of DMAP_ENT: the die is mapped in. -/
def State.working (s : State) (d : Nat) : Bool := decide (d < Config.nDies) && bit (s.dmap d) 0

/-- CORES of DMAP_ENT: the core is working. -/
def State.coreWorks (s : State) (d c : Nat) : Bool :=
  s.working d && decide (c < Config.nCores) && bit (s.dmap d) (48 + c)

/-- Die-map order: the working dies in ascending 8 × ly + lx, which is the physical number (R434). -/
def State.dieOrder (s : State) : List Nat := (List.range Config.nDies).filter s.working

/-- Whether a physical address names memory (16_translation R357, 21_bringup R438): a die from 0 to 47, bits [39:36]
zero, and on this device an offset below its stack's capacity. A die that is mapped out keeps its addresses: what is asked
of them is answered as lost (17_coherence R385). -/
def State.paExists (s : State) (pa : Nat) : Bool :=
  let d := pa / 2 ^ 40 % 64
  decide (pa < 2 ^ 52) && decide (d < Config.nDies) && pa / 2 ^ 36 % 16 == 0 &&
  (decide (pa / 2 ^ 46 ≠ s.pkg.dev) ||
    decide (pa % 2 ^ 36 < (64 - bits (s.dmap d) 24 7) * 2 ^ 30))

/-- The die of a physical address. -/
def paDie (pa : Nat) : Nat := pa / 2 ^ 40 % 64
/-- The device of a physical address. -/
def paDev (pa : Nat) : Nat := pa / 2 ^ 46
/-- The line of a physical address. -/
def lineOf (pa : Nat) : Nat := pa / 128

/-! ### Time -/

/-- The package time base: 1 GHz against the 1.5 GHz clock of the model (00_scope R4; assumption 6). -/
def State.time (s : State) : Nat := (2 * s.x.clk / 3 + s.pkg.timeOff) % 2 ^ 64

/-! ### Event records (15_launch R345 to R347) -/

/-- Numbers of the event rings: context rings by ASID and index, then die rings, then the driver fault ring. -/
def ctxRing (asid r : Nat) : Nat := asid * 1024 + r
def dieRing (d : Nat) : Nat := 262144 + d
def faultRing : Nat := 262208

/-- A 32-byte record without its TIME (R345). -/
def recBody (status fault queue src die packet : Nat) (detail : DWord) : BitVec 256 :=
  BitVec.ofNat 256
    ((status % 256) * 2 ^ 64 + (fault % 65536) * 2 ^ 80 + (queue % 4096 + src % 4 * 4096) * 2 ^ 96 +
      (die % 64) * 2 ^ 112 + (packet % 2 ^ 64) * 2 ^ 128 + detail.toNat * 2 ^ 192)

/-- A record queued behind every earlier record of its ring (R347). -/
def State.post (s : State) (r : PendRec) : State := { s with sch := { s.sch with pend := s.sch.pend ++ [r] } }

/-- STATUS codes of R346. -/
def stOK : Nat := 0
def stFAULT : Nat := 1
def stKILLED : Nat := 2
def stSAVED : Nat := 3
def stDEADLINE : Nat := 4
def stOVERRUN : Nat := 5
def stDIE_LOST : Nat := 6
def stNO_FIT : Nat := 7
def stBAD_PACKET : Nat := 8
def stSYS_POST : Nat := 9
def stRT_CARVE : Nat := 10
def stREPL_COLLAPSE : Nat := 11

/-- The completion record of a launch, in the ring EVR of its queue's descriptor (R345, R346). -/
def State.postLaunch (s : State) (l : Launch) (status fault : Nat) (detail : DWord) : State :=
  s.post { ring := ctxRing l.asid l.evr, body := recBody status fault l.queue 0 0 l.pidx detail, launch := some l.id }

/-- A record of a context command, in ring 0 of the context (19_traps R415). -/
def State.postCmd (s : State) (asid status fault : Nat) (detail : DWord) : State :=
  s.post { ring := ctxRing asid 0, body := recBody status fault 0 2 0 0 detail }

/-- An entry of the driver fault ring without its TIME (19_traps R413). -/
def faultBody (fault asid die id : Nat) (va : DWord) (kind lcore orig : Nat) : BitVec 256 :=
  BitVec.ofNat 256
    ((fault % 65536) * 2 ^ 64 + (asid % 256) * 2 ^ 80 + (die % 64) * 2 ^ 88 + (id % 2 ^ 32) * 2 ^ 96 +
      va.toNat * 2 ^ 128 + (kind % 16) * 2 ^ 192 + (lcore % 65536) * 2 ^ 208 + (orig % 65536) * 2 ^ 224)

/-- An entry for the driver fault ring. -/
def State.postFault (s : State) (fault asid die id : Nat) (va : DWord) (kind lcore orig : Nat) : State :=
  s.post { ring := faultRing, body := faultBody fault asid die id va kind lcore orig }

/-! ### Messages (17_coherence R378) -/

/-- The number under which an agent's die record is held: dies of this device from 0, of device e from 64 (e + 1). -/
def agKey : Agent → Nat
  | .die d => d
  | .core d _ => d
  | .remote e d => 64 * (e + 1) + d
  | .slice k => 100000 + k
  | .host => 200000
  | .port e k => 300000 + 24 * e + k

/-- The virtual channel of a message: 0 requests, 1 forwards, 2 responses (R378). Every message is accepted in the event
of its arrival, so no response waits at a receiver and a forward is never refused. -/
def MsgK.channel : MsgK → Nat
  | .getS | .getM | .upg | .putM _ | .putO _ | .putE | .mod | .wrThru _ _ _ _ | .atom _ _ _ | .sub _ _ _ _ _ | .unsub _ _ _ => 0
  | .fwdGetS _ | .fwdGetM _ _ | .inv _ | .backInv => 1
  | _ => 2

/-- Two messages travel one route: between one pair of dies (05_tensor_mesh R129), or, within a die, one pair of agents. -/
def Msg.samePath (a b : Msg) : Bool :=
  if agKey a.src = agKey a.dst then a.src == b.src && a.dst == b.dst
  else agKey a.src == agKey b.src && agKey a.dst == agKey b.dst

/-- A message sent: it stands behind every earlier message of its pair of dies (05_tensor_mesh R129). -/
def State.send (s : State) (src dst : Agent) (line : Nat) (k : MsgK) : State :=
  { s with fab := { s.fab with net := s.fab.net ++ [{ id := s.x.nextId, src := src, dst := dst, line := line, k := k }] },
           x := { s.x with nextId := s.x.nextId + 1 } }

/-- The message of a number, if no earlier message of its route is still in flight. -/
def deliverable (i : Nat) : List Msg → Option Msg
  | [] => none
  | m :: r =>
    if m.id = i then some m
    else match deliverable i r with
      | none => none
      | some n => if n.samePath m then none else some n

/-- A message of the graphics fabric that was sent before a given number from one die to another is still in flight
(05_tensor_mesh R129). -/
def State.gfxBefore (s : State) (i a b : Nat) : Bool := a != b && s.gfx.net.any (fun g => g.id < i && g.src == a && g.dst == b)

/-- A message of the coherence fabric that was sent before a given number from one die to another is still in flight
(05_tensor_mesh R129). -/
def State.netBefore (s : State) (i a b : Nat) : Bool :=
  a != b && s.fab.net.any (fun m => m.id < i && agKey m.src == a && agKey m.dst == b)

/-- The state without a message that has arrived. -/
def State.take (s : State) (i : Nat) : State :=
  { s with fab := { s.fab with net := delFirst (fun m => m.id == i) s.fab.net } }

end Sys2Proof.Machine
end

