-- ==== Sys2Proof/Machine/Operands.lean ====
section
/-!
DEFINITION. The operands of every instruction form: which fields name registers, of which kind and in groups of how
many (08_encoding R189), which registers a form reads and in which class (06_numbers R147), its guard (R190), its
latency class (R200), and reading and writing registers.
-/

set_option linter.unusedVariables false

namespace Sys2Proof.Machine

/-- Kinds of register field that a value can exceed (R189). -/
inductive RKind where
  | v | s | p | m | tok | hdl | desc
  deriving DecidableEq, Repr

/-- A register field: kind, index, and 2 for a pair or 4 for a group of four. -/
structure RegF where
  kind : RKind
  idx : Nat
  n : Nat := 1
  deriving DecidableEq, Repr

/-- A source operand: uniform or vector, first register, registers, class. -/
structure Src where
  uni : Bool
  idx : Nat
  n : Nat := 1
  cls : Cls
  deriving DecidableEq, Repr

/-- Registers that a kind has; `regs` is the launch's count of vector registers (R55). -/
def kindLimit (regs : Nat) : RKind → Nat
  | .v => regs
  | .s => 64
  | .p => 8
  | .m => 12
  | .tok => 8
  | .hdl => 8
  | .desc => 16

def rv (i : BitVec 7) (n : Nat := 1) : RegF := { kind := .v, idx := i.toNat, n := n }
def rs (i : BitVec 7) (n : Nat := 1) : RegF := { kind := .s, idx := i.toNat, n := n }
def rp (i : Nat) : RegF := { kind := .p, idx := i }
def rtok (i : BitVec 4) : RegF := { kind := .tok, idx := i.toNat }
def rhdl (i : Nat) : RegF := { kind := .hdl, idx := i }
def rmask (i : BitVec 4) : RegF := { kind := .m, idx := i.toNat }
/-- A field that a K bit makes uniform (R191). -/
def ru (uni : Bool) (i : BitVec 7) (n : Nat := 1) : RegF := if uni then rs i n else rv i n
def ruN (uni : Bool) (i : Nat) (n : Nat := 1) : RegF := { kind := if uni then .s else .v, idx := i, n := n }

def sv (i : BitVec 7) (c : Cls) (n : Nat := 1) : Src := { uni := false, idx := i.toNat, n := n, cls := c }
def su (uni : Bool) (i : BitVec 7) (c : Cls) (n : Nat := 1) : Src := { uni := uni, idx := i.toNat, n := n, cls := c }
def suN (uni : Bool) (i : Nat) (c : Cls) (n : Nat := 1) : Src := { uni := uni, idx := i, n := n, cls := c }

/-- Registers of a memory access's data group (R245). -/
def sizeRegs (size : Nat) : Nat := if size = 3 then 2 else if size = 4 then 4 else 1

/-- Class of an atomic's operands (R252). -/
def atomCls (ty : Nat) : Cls :=
  match ty with
  | 1 | 2 | 6 | 7 => .int
  | 3 => .f32
  | 4 => .bf16
  | 8 => .f64
  | 9 => .f16
  | _ => .bits

/-- Whether the atomic's type is 64 bits wide (R251). -/
def atomWide (ty : Nat) : Bool := decide (5 ≤ ty ∧ ty ≤ 8)

/-- Registers of the operand group of a compare-and-swap (R252). -/
def casRegs (ty : Nat) : Nat := if atomWide ty then 4 else 2

/-- cvt: source and destination registers (R238). -/
def cvtSrcRegs (c : Word) : Nat := cvtCount (xFunc c / 16) (xFunc c % 16) * kindWidth (xFunc c / 16) / 32
def cvtDstRegs (c : Word) : Nat := cvtCount (xFunc c / 16) (xFunc c % 16) * kindWidth (xFunc c % 16) / 32
/-- cvt: the binary8 tag of the source and of the destination (R239). -/
def cvtSTag (f : XF) : Nat :=
  if xFunc f.c = 0xAA then 0x80 + f.b.toNat else xTag f.c
def cvtDTag (f : XF) : Nat := xTag f.c

/-- Pair width of a special register (R313). -/
def sregN (b : BitVec 7) : Nat := if sregWide b.toNat then 2 else 1

/-- The register fields in the order of R195 step 6: d, a, b, C, x4 and the T fields. -/
def regFields : Instr → List RegF
  | .addI f | .subI f | .addcN f | .subbN f | .mulI f | .mulhiI f | .mulhiN f | .divI f | .divN f | .remI f
  | .remN f | .minI f | .maxI f | .minN f | .maxN f | .addI16x2 f | .subI16x2 f | .addN16x2 f | .subN16x2 f
  | .addI8x4 f | .subI8x4 f | .addN8x4 f | .subN8x4 f | .and f | .or f | .xor f | .andn f | .shl f | .shrN f
  | .shrI f | .addF f | .subF f | .mulF f | .minF f | .maxF f | .divF f | .addF16x2 f | .mulF16x2 f | .minF16x2 f
  | .maxF16x2 f | .addBf16x2 f | .mulBf16x2 f | .minBf16x2 f | .maxBf16x2 f => [rv f.d, rv f.a, rv f.b]
  | .addF64 f | .subF64 f | .mulF64 f | .minF64 f | .maxF64 f | .divF64 f => [rv f.d 2, rv f.a 2, rv f.b 2]
  | .absI f | .popc f | .clz f | .brev f | .mov f | .absF f | .negF f | .rcpF f | .sqrtF f | .rsqrtF f | .exp2F f
  | .log2F f => [rv f.d, rv f.a]
  | .rcpF64 f | .sqrtF64 f => [rv f.d 2, rv f.a 2]
  | .addIImm f | .andImm f | .orImm f | .xorImm f | .shlImm f | .shrNImm f | .shrIImm f => [rv f.d, rv f.a]
  | .movImm f => [rv f.d]
  | .madI f | .bfi f | .fmaF f | .fmaF16x2 f | .fmaBf16x2 f | .dot4 f =>
    [ru (xKD f.c) f.d, ru (xKA f.c) f.a, ru (xKB f.c) f.b, ruN (xKC f.c) (xC f.c)]
  | .fmaF64 f => [ru (xKD f.c) f.d 2, ru (xKA f.c) f.a 2, ru (xKB f.c) f.b 2, ruN (xKC f.c) (xC f.c) 2]
  | .bfxN f | .bfxI f => [ru (xKD f.c) f.d, ru (xKA f.c) f.a, ru (xKB f.c) f.b]
  | .lea f => [ru (xKD f.c) f.d 2, ru (xKA f.c) f.a 2, ru (xKB f.c) f.b]
  | .crel f => [ru (xKD f.c) f.d, ru (xKA f.c) f.a 2, ru (xKB f.c) f.b 2]
  | .setpI f | .setpN f | .setpF f | .setpF16x2 f | .setpBf16x2 f =>
    [rp f.d.toNat, ru (xKA f.c) f.a, ru (xKB f.c) f.b, rp (xC f.c)]
  | .setpF64 f => [rp f.d.toNat, ru (xKA f.c) f.a 2, ru (xKB f.c) f.b 2, rp (xC f.c)]
  | .sel f => [rv f.d, ru (xKA f.c) f.a, ru (xKB f.c) f.b, rp (xC f.c)]
  | .movLit f => [ru (bit f.f7 6) f.d]
  | .shfl f => [rv f.d, rv f.a, ru (xKB f.c) f.b]
  | .vote f => [rs f.a, if f.f.toNat ≤ 3 then rp f.b.toNat else rv f.b]
  | .xint f | .xflt f =>
    let o := ropOf (xFunc f.c)
    [ru (xKD f.c) f.d o.n, ru (xKA f.c) f.a o.n] ++ (if o.unary then [] else [ru (xKB f.c) f.b o.n])
  | .rintF f => [ru (xKD f.c) f.d, ru (xKA f.c) f.a]
  | .rintF64 f => [ru (xKD f.c) f.d 2, ru (xKA f.c) f.a 2]
  | .cvt f =>
    [ru (xKD f.c) f.d (cvtDstRegs f.c), ru (xKA f.c) f.a (cvtSrcRegs f.c)] ++
      (if xKC f.c then [ruN true (xC f.c)] else [])
  | .ld f | .st f => [rv f.d (sizeRegs (mSize f.c)), rs f.a 2, ru (mKB f.c) f.b]
  | .atom f | .red f | .visMin f => [rv f.d (sizeRegs (mSize f.c)), rs f.a 2, ru (mKB f.c) f.b]
  | .cas f => [rv f.d (casRegs (mTy f.c)), rs f.a 2, ru (mKB f.c) f.b]
  | .lds f | .sts f => [rv f.d (sizeRegs (mSize f.c)), rs f.a, ru (mKB f.c) f.b]
  | .atoms f => [rv f.d (if mOp f.c = 7 then 2 else 1), rs f.a, ru (mKB f.c) f.b]
  | .ldw f | .stw f => [rv f.d, rv f.a 2]
  | .standSub f => [rs f.a, rs f.b 2]
  | .standRead f => [rs f.a, rv f.b]
  | .standSeq f => [rs f.a, rs f.b 2]
  | .standWait f => [rs f.a, rs f.b]
  | .standDrop f => [rs f.a, rtok f.x]
  | .copy f => [rs f.a 4, rs f.b, rtok f.x]
  | .brx f => [rv f.a 2]
  | .mjoin f | .mleave f | .mwait f => [rmask f.x]
  | .mrd f => [rs f.a, rmask f.x]
  | .barArrive f => [rv f.a]
  | .barSync f => [rv f.a, rv f.b]
  | .barWait f => [rv f.b]
  | .signDecl f => [rs f.a] ++ (if f.f = 1 then [rs f.b] else [])
  | .condArm f => [rhdl f.a.toNat, rs f.b]
  | .condSet f => [rs f.b]
  | .tileSet f => [rs f.a 4]
  | .accAlloc f => [rs f.b, rhdl f.x.toNat]
  | .accFree f => [rhdl f.x.toNat]
  | .accBand f => (if bit f.f 0 then [rs f.a, rs f.b] else []) ++ [rhdl f.x.toNat]
  | .accRead f => [rv f.a, rs f.b, rhdl f.x.toNat]
  | .accDrain f => [rs f.a 4, rhdl f.x.toNat]
  | .taskAmp f => [rv f.a]
  | .primEmit f => [rv f.a, rv f.b]
  | .occBegin f | .occEnd f => [rs f.a 2]
  | .pxDepth f => [rv f.a]
  | .tstBox f | .tstTri f => [rv f.d 4, rv f.a 4, rv f.b 4, ruN (tKN f.c) (tN f.c) 2]
  | .stkPush f => [rv f.a 2]
  | .stkPop f => [rv f.a 2, rp f.x.toNat]
  | .recPush f => [rv f.a]
  | .recPop f => [rv f.a, rp f.x.toNat]
  | .nbrSend f | .nbrReduce f => [rs f.a 4]
  | .bdeGather f | .bdeReduce f | .bdeCvt f => [rs f.a 4, rs f.b 4, rtok f.x]
  | .sregRd f => [ru (bit f.f 0) f.a (sregN f.b)]
  | .sregWr f => [ru (bit f.f 0) f.a (sregN f.b)]
  | .sys f => [rs f.a 4]
  | .mmaIdx f => [{ kind := .desc, idx := f.tA.toNat, n := 2 }]
  | _ => []

/-- The source operands that are checked for tags, in the order a, b, then any further operand (R147). -/
def srcOps : Instr → List Src
  | .addI f | .subI f | .addcN f | .subbN f | .mulI f | .mulhiI f | .mulhiN f | .divI f | .divN f | .remI f
  | .remN f | .minI f | .maxI f | .minN f | .maxN f => [sv f.a .int, sv f.b .int]
  | .absI f => [sv f.a .int]
  | .addI16x2 f | .subI16x2 f | .addN16x2 f | .subN16x2 f => [sv f.a .p16, sv f.b .p16]
  | .addI8x4 f | .subI8x4 f | .addN8x4 f | .subN8x4 f => [sv f.a .p8, sv f.b .p8]
  | .and f | .or f | .xor f | .andn f => [sv f.a .bits, sv f.b .bits]
  | .shl f | .shrN f | .shrI f => [sv f.a .bits, sv f.b .int]
  | .popc f | .clz f | .brev f | .mov f => [sv f.a .bits]
  | .addF f | .subF f | .mulF f | .minF f | .maxF f | .divF f => [sv f.a .f32, sv f.b .f32]
  | .absF f | .negF f | .rcpF f | .sqrtF f | .rsqrtF f | .exp2F f | .log2F f => [sv f.a .f32]
  | .addF16x2 f | .mulF16x2 f | .minF16x2 f | .maxF16x2 f => [sv f.a .f16, sv f.b .f16]
  | .addBf16x2 f | .mulBf16x2 f | .minBf16x2 f | .maxBf16x2 f => [sv f.a .bf16, sv f.b .bf16]
  | .addF64 f | .subF64 f | .mulF64 f | .minF64 f | .maxF64 f | .divF64 f => [sv f.a .f64 2, sv f.b .f64 2]
  | .rcpF64 f | .sqrtF64 f => [sv f.a .f64 2]
  | .addIImm f => [sv f.a .int]
  | .andImm f | .orImm f | .xorImm f | .shlImm f | .shrNImm f | .shrIImm f => [sv f.a .bits]
  | .madI f => [su (xKA f.c) f.a .int, su (xKB f.c) f.b .int, suN (xKC f.c) (xC f.c) .int]
  | .bfi f => [su (xKA f.c) f.a .bits, su (xKB f.c) f.b .bits, suN (xKC f.c) (xC f.c) .int]
  | .bfxN f | .bfxI f => [su (xKA f.c) f.a .bits, su (xKB f.c) f.b .int]
  | .lea f => [su (xKA f.c) f.a .int 2, su (xKB f.c) f.b .int]
  | .crel f => [su (xKA f.c) f.a .f64 2, su (xKB f.c) f.b .f64 2]
  | .fmaF f => [su (xKA f.c) f.a .f32, su (xKB f.c) f.b .f32, suN (xKC f.c) (xC f.c) .f32]
  | .fmaF16x2 f => [su (xKA f.c) f.a .f16, su (xKB f.c) f.b .f16, suN (xKC f.c) (xC f.c) .f16]
  | .fmaBf16x2 f => [su (xKA f.c) f.a .bf16, su (xKB f.c) f.b .bf16, suN (xKC f.c) (xC f.c) .bf16]
  | .fmaF64 f => [su (xKA f.c) f.a .f64 2, su (xKB f.c) f.b .f64 2, suN (xKC f.c) (xC f.c) .f64 2]
  | .dot4 f =>
    [su (xKA f.c) f.a (.b8 (xTag f.c)), su (xKB f.c) f.b (.b8 (xFunc f.c)), suN (xKC f.c) (xC f.c) .f32]
  | .setpI f | .setpN f => [su (xKA f.c) f.a .int, su (xKB f.c) f.b .int]
  | .setpF f => [su (xKA f.c) f.a .f32, su (xKB f.c) f.b .f32]
  | .setpF16x2 f => [su (xKA f.c) f.a .f16, su (xKB f.c) f.b .f16]
  | .setpBf16x2 f => [su (xKA f.c) f.a .bf16, su (xKB f.c) f.b .bf16]
  | .setpF64 f => [su (xKA f.c) f.a .f64 2, su (xKB f.c) f.b .f64 2]
  | .sel f => [su (xKA f.c) f.a .bits, su (xKB f.c) f.b .bits]
  | .shfl f => [sv f.a .bits, su (xKB f.c) f.b .int]
  | .vote f => if f.f.toNat ≤ 3 then [] else [sv f.b .bits]
  | .xint f | .xflt f =>
    let o := ropOf (xFunc f.c)
    [su (xKA f.c) f.a o.ca o.n] ++ (if o.unary then [] else [su (xKB f.c) f.b o.cb o.n])
  | .rintF f => [su (xKA f.c) f.a .f32]
  | .rintF64 f => [su (xKA f.c) f.a .f64 2]
  | .cvt f => [su (xKA f.c) f.a (kindCls (xFunc f.c / 16) (cvtSTag f)) (cvtSrcRegs f.c)]
  | .ld f | .lds f => [su true f.a .int, su (mKB f.c) f.b .int]
  | .st f | .sts f => [su true f.a .int, su (mKB f.c) f.b .int, sv f.d .bits (sizeRegs (mSize f.c))]
  | .visMin f => [su true f.a .int, su (mKB f.c) f.b .int, sv f.d .bits 2]
  | .atom f | .red f =>
    [su true f.a .int, su (mKB f.c) f.b .int, sv f.d (atomCls (mTy f.c)) (sizeRegs (mSize f.c))]
  | .cas f => [su true f.a .int, su (mKB f.c) f.b .int, sv f.d .bits (casRegs (mTy f.c))]
  | .atoms f =>
    [su true f.a .int, su (mKB f.c) f.b .int, sv f.d (atomCls (mTy f.c)) (if mOp f.c = 7 then 2 else 1)]
  | .ldw f => [sv f.a .int 2]
  | .stw f => [sv f.a .int 2, sv f.d .bits]
  | .brx f => [sv f.a .int 2]
  | .barArrive f | .barSync f => [sv f.a .bits]
  | .taskAmp f | .recPush f => [sv f.a .bits]
  | .primEmit f => [sv f.a .int, sv f.b .bits]
  | .pxDepth f => [sv f.a .f32]
  | .tstBox f | .tstTri f => [sv f.a .f32 4, sv f.b .f32 4, suN (tKN f.c) (tN f.c) .int 2]
  | .stkPush f => [sv f.a .bits 2]
  | .sregWr f => if bit f.f 0 then [] else [sv f.a .bits (sregN f.b)]
  | _ => []

/-- Uniform registers that the instruction reads besides those in `srcOps`, for readiness (R29): first and count. -/
def uniReads : Instr → List (Nat × Nat)
  | .ld f | .st f | .atom f | .red f | .cas f | .visMin f => [(f.a.toNat, 2)]
  | .lds f | .sts f | .atoms f => [(f.a.toNat, 1)]
  | .standSub f => [(f.a.toNat, 1), (f.b.toNat, 2)]
  | .standRead f | .standDrop f | .standSeq f => [(f.a.toNat, 1)]
  | .standWait f => [(f.a.toNat, 1), (f.b.toNat, 1)]
  | .copy f => [(f.a.toNat, 4), (f.b.toNat, 1)]
  | .signDecl f => if f.f = 1 then [(f.a.toNat, 1), (f.b.toNat, 32)] else [(f.a.toNat, 1)]
  | .condSet f => [(f.b.toNat, 1)]
  | .tileSet f | .accDrain f | .nbrSend f | .nbrReduce f | .sys f => [(f.a.toNat, 4)]
  | .accBand f => if bit f.f 0 then [(f.a.toNat, 1), (f.b.toNat, 1)] else []
  | .accRead f => [(f.b.toNat, 1)]
  | .primEmit f => [(4 * f.x.toNat, 4)]
  | .occBegin f | .occEnd f => [(f.a.toNat, 2)]
  | .bdeGather f | .bdeReduce f | .bdeCvt f => [(f.a.toNat, 4), (f.b.toNat, 4)]
  | .sregWr f => if bit f.f 0 then [(f.a.toNat, sregN f.b)] else []
  | .cvt f => if xKC f.c then [(xC f.c, 1)] else []
  | _ => []

/-- Predicates that the instruction reads as operands (R222, R223, R226). -/
def predReads : Instr → List Nat
  | .setpI f | .setpN f | .setpF f | .setpF16x2 f | .setpBf16x2 f | .setpF64 f =>
    if xFunc f.c / 16 % 4 = 0 then [] else [xC f.c]
  | .sel f => [xC f.c]
  | .vote f => if f.f.toNat ≤ 3 then [f.b.toNat] else []
  | _ => []

/-- The guard field of the instruction's format (R190): 7, always, for I and T words. -/
def guardOf (i : Instr) : Nat :=
  match i.enc with
  | some (_, .r f) => f.g.toNat
  | some (_, .m f) => f.g.toNat
  | some (_, .b f) => f.g.toNat
  | some (_, .k f) => f.g.toNat
  | some (_, .x f) => f.g.toNat
  | some (_, .l f) => f.g.toNat
  | _ => 7

/-- Words of the instruction (R188). -/
def wordsOf (i : Instr) : Nat :=
  match i.enc with
  | some (_, .x _) => 2
  | some (_, .l _) => 2
  | _ => 1

/-- The opcode of an encoded instruction, 0 for a hardware step. -/
def opOf (i : Instr) : Nat :=
  match i.enc with
  | some (op, _) => op.toNat
  | none => 0

/-- Execution class of an opcode (R185). -/
def eclassOf (op : Nat) : Nat :=
  if op ≤ 0x37 then 0 else if op ≤ 0x6F then 1 else if op ≤ 0x8F then 2 else if op ≤ 0xA7 then 3
  else if op ≤ 0xC7 then 4 else if op ≤ 0xE7 then 5 else 6

/-- FP64 opcodes of class C and E (R200). -/
def classC : List Nat := [0x4E, 0x4F, 0x50, 0x51, 0x52, 0x53, 0x55, 0x5E, 0x5F]
def classE : List Nat := [0x54, 0x5B, 0x5C]
def classD : List Nat := [0x0A, 0x0B, 0x0C, 0x0D, 0x40, 0x56, 0x57, 0x58, 0x59, 0x5A]
def classB : List Nat :=
  [0x06, 0x07, 0x08, 0x09, 0x13, 0x14, 0x15, 0x16, 0x17, 0x18, 0x19, 0x1A, 0x38, 0x39, 0x3A, 0x3B, 0x3C, 0x3D, 0x3E,
   0x3F, 0x41, 0x42, 0x43, 0x44, 0x45, 0x46, 0x47, 0x48, 0x49, 0x4A, 0x4B, 0x4C, 0x4D, 0x5D, 0x60, 0x61]

/-- The opcode whose latency counts: the FUNC of xint and xflt. -/
def latOp (i : Instr) : Nat :=
  match i with
  | .xint f => xFunc f.c
  | .xflt f => xFunc f.c
  | j => opOf j

/-- Issue clocks that the instruction takes of its datapath (R19, R200). -/
def occupancy (i : Instr) : Nat :=
  let op := latOp i
  if classC.contains op || classE.contains op then 4 else 1

/-- Clocks after issue in which the destination is written (R200). -/
def latency (i : Instr) : Nat :=
  let op := latOp i
  if classE.contains op then 40 else if classD.contains op then 20 else if classC.contains op then 12
  else if classB.contains op then 6 else 2

/-! ### Reading and writing registers -/

/-- A lane without a thread, as the one computation of a uniform result sees it. -/
def Lane.nil : Lane := {}

/-- A group with its sp.fmode replaced. -/
def Group.withFmode (g : Group) (f : Word) : Group := { g with fmode := f }

/-- p7 reads as true in every lane (R189). -/
def Lane.pred (t : Lane) (i : Nat) : Bool := if i ≥ 7 then true else t.p.getLsbD i

/-- A write to p7 is discarded (R189). -/
def Lane.setPred (t : Lane) (i : Nat) (b : Bool) : Lane :=
  if i ≥ 7 then t
  else { t with p := if b then t.p ||| (1#7 <<< i) else t.p &&& ~~~(1#7 <<< i) }

def Lane.reg (t : Lane) (i : Nat) : VCell := (t.v[i]?).getD {}
def Lane.setReg (t : Lane) (i : Nat) (c : VCell) : Lane := { t with v := t.v.set i c }

/-- Consecutive registers written from an index upwards. -/
def Lane.setRegs (t : Lane) (i : Nat) : List VCell → Lane
  | [] => t
  | c :: r => (t.setReg i c).setRegs (i + 1) r

/-- The uniform registers as the instruction in the slot reads them (R207): as before the clock at the second PC. -/
def uniOf (sl : Slot) (g : Group) : List Word := if sl.second then sl.preS else g.s

def uniAt (s : List Word) (i : Nat) : Word := (s[i]?).getD 0

/-- Consecutive uniform registers written from an index upwards. -/
def Group.setUni (g : Group) (i : Nat) : List Word → Group
  | [] => g
  | c :: r => Group.setUni { g with s := g.s.set i c } (i + 1) r

/-- A 64-bit value of an even uniform pair. -/
def uniPair (s : List Word) (i : Nat) : DWord := pair (uniAt s i) (uniAt s (i + 1))

/-- The registers of a source operand in a lane; a uniform source is broadcast and read as RAW (R191). -/
def srcVal (s : List Word) (t : Lane) (o : Src) : List VCell :=
  (List.range o.n).map (fun j => if o.uni then { val := uniAt s (o.idx + j), tag := tRAW } else t.reg (o.idx + j))

end Sys2Proof.Machine
end

