-- ==== Sys2Proof/Machine/Flags.lean ====
section
/-!
DEFINITION. The floating-point status register sp.fmode (06_numbers R150, R151): the flags that an instruction sets,
and the enabled exception that it raises instead.
-/

set_option linter.unusedVariables false

namespace Sys2Proof.Machine

/-- The enable bits [12:8] of sp.fmode, in the order of the flags. -/
def enables (fmode : Word) : Flags := fmode.extractLsb' 8 5

/-- The ARITH code of the enabled exception of highest bit among those signalled (R151), if one is enabled. -/
def arithCode (fmode : Word) (fl : Flags) : Option Nat :=
  let e := enables fmode &&& fl
  if e.getLsbD 4 then some 1 else if e.getLsbD 3 then some 2 else if e.getLsbD 2 then some 3
  else if e.getLsbD 1 then some 4 else if e.getLsbD 0 then some 5 else none

/-- sp.fmode with the flags of an instruction set (R151). -/
def setFlags (fmode : Word) (fl : Flags) : Word := fmode ||| fl.setWidth 32

/-- The bits of sp.fmode that sreg.wr writes; its reserved bits are ignored (R150, R314). -/
def fmodeMask : Word := 0x00001F1F

end Sys2Proof.Machine
end

