-- ==== Sys2Proof/Machine/Kill.lean ====
section
/-!
DEFINITION. Ending work: releasing accumulator banks (03_kernel_memory R70), removing a workgroup with everything it
holds, and killing launches with their records (19_traps R408, R420, 07_ordering R176).
-/

set_option linter.unusedVariables false

namespace Sys2Proof.Machine

/-- A bank released: zeroing for 32 clocks before it returns to the pool (R70). -/
def Core.zeroBank (k : Core) (clk b : Nat) : Core := { k with banks := cset b (.zeroing (clk + 32)) k.banks }

/-- The banks of a handle and the shadow banks of a condition. -/
def bankList (bs : List Band) : List Nat := bs.map (fun b => b.bank)
def shadowList (c : Cond) : List Nat := c.shadows.map (fun p => p.1)

/-- Every bank that a workgroup holds, shadows included. -/
def Wg.allBanks (w : Wg) : List Nat := w.hs.flatMap bankList ++ w.cs.flatMap shadowList

/-- Removes the subscription of a core's standing entry from every home (19_traps R420). -/
def dropSubscr (d c idx : Nat) (k : Die) : Die :=
  { k with subs := k.subs.map (fun e =>
      (e.1, { e.2 with subs := e.2.subs.map (fun o =>
        match o with
        | some u => if u.die = d ∧ u.core = c ∧ u.idx = idx then none else some u
        | none => none) })) }

/-- The access that a message carries a write or an atomic of. -/
def msgAcc : MsgK → Option Nat
  | .wrThru _ _ a _ => some a
  | .atom a _ _ => some a
  | .sub _ _ a _ _ => some a
  | _ => none

/-- The fabric without what some accesses and requests have under way: no write of theirs is performed later (R176). -/
def Fabric.without (f : Fabric) (ids : List Nat) : Fabric :=
  let keep (m : Msg) : Bool := match msgAcc m.k with
    | some a => !ids.contains a
    | none => true
  { f with
    net := f.net.filter keep
    hostReqs := f.hostReqs.filter keep
    dies := f.dies.map (fun e => (e.1, { e.2 with
      waitq := e.2.waitq.filter keep
      held := e.2.held.filter keep
      again := e.2.again.filter (fun m => keep m.2) }))
    slices := f.slices.map (fun e => (e.1, { e.2 with waits := e.2.waits.filter keep, recalls := e.2.recalls.filter keep })) }

/-- A workgroup removed with its accesses, requests, queued operations, banks, subscriptions and fragments: nothing
of it is performed later (R176, R420), and no push on its way reaches the partition (03_kernel_memory R82). -/
def State.dropWg (s : State) (w : Wg) : State :=
  let k := s.x.core w.die w.core
  let ids := (s.x.accs.filter (fun a => a.wg == w.id)).map (fun a => a.id)
  let mine := k.stand.filter (fun e => e.2.wg == w.id)
  let k1 := w.allBanks.foldl (fun k b => k.zeroBank s.x.clk b) k
  let k2 := { k1 with
    mq := k1.mq.filter (fun o => o.wg != w.id)
    mq1 := k1.mq1.filter (fun o => o.wg != w.id)
    stand := k1.stand.filter (fun e => e.2.wg != w.id)
    wt := k1.wt.filter (fun a => !ids.contains a.id) }
  let x := { s.x.setCore w.die w.core k2 with
    wgs := s.x.wgs.filter (fun u => u.id != w.id)
    accs := s.x.accs.filter (fun a => a.wg != w.id)
    reqs := s.x.reqs.filter (fun r => r.wg != w.id) }
  let rids := (s.x.reqs.filter (fun r => r.wg == w.id)).map (fun r => r.id)
  let fab0 := s.fab.without (ids ++ rids)
  let stale (m : Msg) : Bool := m.dst == .core w.die w.core && (match m.k with
    | .push i _ _ _ | .subRsp i _ _ | .pushLost i | .unsubAck i _ => mine.any (fun p => p.1 == i)
    | _ => false)
  let fab := { fab0 with net := fab0.net.filter (fun m => !stale m), dies := fab0.dies.map (fun e => (e.1, mine.foldl (fun k p => dropSubscr w.die w.core p.1 k) e.2)) }
  let gfx := { s.gfx with dies := s.gfx.dies.map (fun e =>
    (e.1, { e.2 with frags := e.2.frags.filter (fun f => f.wg != some w.id) })) }
  { s with x := x, fab := fab, gfx := gfx, slots := s.slots.filter (fun l => l.wg != w.id) }

/-- Every workgroup of a launch removed, with its children and its graph's records. -/
def State.dropLaunch (s : State) (l : Launch) : State :=
  let s1 := (s.x.wgs.filter (fun w => w.launch == l.id)).foldl (fun s w => s.dropWg w) s
  let gd := s1.gfx.dies.map (fun e =>
    (e.1, { e.2 with
      amp := e.2.amp.filter (fun c => c.launch != l.id)
      ring := e.2.ring.filter (fun c => c.launch != l.id)
      waits := e.2.waits.filter (fun w => w.2.2.graph != l.id) }))
  let cores := s1.x.cores.map (fun e =>
    (e.1, { e.2 with
      deque := e.2.deque.filter (fun r => r.graph != l.id)
      rings := e.2.rings.filter (fun r => r.graph != l.id)
      steals := e.2.steals.filter (fun t => t.graph != l.id) }))
  { s1 with gfx := { s1.gfx with dies := gd }, x := { s1.x with cores := cores } }

/-- A launch ended with a completion record of the status given. -/
def State.endLaunch (s : State) (l : Launch) (status fault : Nat) (detail : DWord) : State :=
  let s1 := s.dropLaunch l
  (s1.setLaunch { l with st := .ended }).postLaunch l status fault detail

/-- A launch is still in progress. -/
def Launch.open (l : Launch) : Bool := l.st == .dealing || l.st == .dealt

/-- Whether the launch is resident or partly dealt (R420): a pixel or graph launch is from its acceptance. -/
def State.begun (s : State) (l : Launch) : Bool :=
  l.open && (l.st == .dealt || decide (0 < l.next) || s.x.wgs.any (fun w => w.launch == l.id))

/-- The root of a launch's fault domain: the nearest RCB of its chain whose own FDOM is 1, else the root (R408). -/
def domainRoot (l : Launch) : DWord :=
  match l.rcbs.find? (fun r => r.fdom) with
  | some r => r.addr
  | none => ((l.rcbs.getLast?).map (fun r => r.addr)).getD 0

/-- An unhandled trap (R408): every launch of the fault domain ends, the trapping one with FAULT. -/
def State.endDomain (s : State) (launch cause : Nat) (detail : DWord) : State :=
  match s.launch? launch with
  | none => s
  | some l0 =>
    let root := domainRoot l0
    let hit := s.sch.launches.filter (fun l =>
      l.open && l.asid == l0.asid && l.rcbs.any (fun r => r.addr == root))
    hit.foldl (fun s l =>
      if l.id = launch then s.endLaunch l stFAULT cause detail else s.endLaunch l stKILLED 0 0) s

/-- The SYS entry of an unhandled trap in the driver fault ring (R408, R413). -/
def State.postSys (s : State) (w : Wg) (code orig : Nat) : State :=
  s.postFault (0xA000 + code) w.asid w.die 0 0 0 w.lcore orig

end Sys2Proof.Machine
end

