-- ==== Sys2Proof/Machine/Tile.lean ====
section
/-!
DEFINITION. Tile operations: the descriptor fields (11_isa R276), operand blocks in bit planes (03_kernel_memory R65
to R67), the order of block pairs (R282, R284), and one tile step on the accumulator (R283, 06_numbers R158, R159).
-/

set_option linter.unusedVariables false

namespace Sys2Proof.Machine

/-! ### Descriptors (R276) -/

def dBase (d : BitVec 128) : Nat := bits d 0 32
def dNI (d : BitVec 128) : Nat := bits d 32 7
def dNJ (d : BitVec 128) : Nat := bits d 40 7
def dTag (d : BitVec 128) : Nat := bits d 48 8
def dSTI (d : BitVec 128) : Nat := bits d 64 16
def dSTJ (d : BitVec 128) : Nat := bits d 80 16
def dACCO (d : BitVec 128) : Nat := bits d 96 10

/-- Blk(D, i, j) (R276). -/
def dBlk (d : BitVec 128) (i j : Nat) : Nat := (dBase d + 128 * (i * dSTI d + j * dSTJ d)) % 2 ^ 32

/-- Whether a tag names a 16-bit operand format, or a binary8 operand format (R149, R146). -/
def tile16 (t : Nat) : Bool := t == 4 || t == 5
def tile8 (t : Nat) : Bool := b8Known t

/-- The format check of R149. -/
def tileFormatOk (ta tb : Nat) : Bool :=
  if tile16 ta || tile16 tb then ta == tb else tile8 ta && tile8 tb

/-- The format of an operand tag. -/
def tileFmt (t : Nat) : FFmt := if t = 4 then fp16 else if t = 5 then bf16 else b8fmt t

/-- Bytes of the head area, and of a whole block (R65). -/
def tileHead (t : Nat) : Nat := if tile16 t then 2048 else 1024
def tileScaled (t : Nat) : Bool := !tile16 t && b8Scaled t
def tileSize (t : Nat) : Nat := tileHead t + 128 * (tileFmt t).p + (if tileScaled t then 128 else 0)

/-- The declared precision P' of an operation (R280). -/
def tilePrec (f3 ta : Nat) : Nat := if f3 = 0 ∨ (tileFmt ta).p < f3 then (tileFmt ta).p else f3

/-! ### Block elements (R66, R67) -/

/-- The significand of element e: its bits in planes 0 to n - 1, in the weights of all P planes. -/
def tileSig (m : Mem) (base head p e : Nat) : Nat → Nat
  | 0 => 0
  | n + 1 =>
    tileSig m base head p e n +
      (if (m.get ((base + head + 128 * n + e / 8) % 2 ^ 32)).getLsbD (e % 8) then 2 ^ (p - 1 - n) else 0)

/-- An element's head encoding. -/
def tileCode (m : Mem) (base t e : Nat) : Nat :=
  if tile16 t then
    (m.get ((base + 2 * e) % 2 ^ 32)).toNat + 256 * (m.get ((base + 2 * e + 1) % 2 ^ 32)).toNat
  else (m.get ((base + e) % 2 ^ 32)).toNat

/-- An element: sign, exponent and special codes from its head, the significand from its planes (R67). -/
def tileEl (m : Mem) (base t prec e : Nat) : MEl :=
  let f := tileFmt t
  let c := tileCode m base t e
  match f.value c with
  | .nan => .nan
  | .inf s => .inf s
  | .fin s _ _ =>
    let mag := if f.signed then c % 2 ^ (f.width - 1) else c
    let ef := mag / 2 ^ (f.p - 1)
    let x : Int := if ef = 0 then f.emin else f.emin + (ef : Int) - 1
    .fin s (tileSig m base (tileHead t) f.p e prec) (x - ((f.p - 1 : Nat) : Int))

/-- An element under its block scale (R145): scale byte i of the block. -/
def tileScale (m : Mem) (base t i : Nat) (x : MEl) : MEl :=
  if tileScaled t then
    let s := (m.get ((base + tileHead t + 128 * (tileFmt t).p + i) % 2 ^ 32)).toNat
    if s = 0xFF then .nan
    else match x with
      | .fin n v e => .fin n v (e + (s : Int) - 127)
      | y => y
  else x

/-- Row r of an A block and column c of a B block. -/
def tileRow (m : Mem) (base t prec r : Nat) : List MEl :=
  (List.range 32).map (fun k => tileScale m base t r (tileEl m base t prec (32 * r + k)))
def tileCol (m : Mem) (base t c : Nat) : List MEl :=
  (List.range 32).map (fun k => tileScale m base t c (tileEl m base t (tileFmt t).p (32 * k + c)))

/-- The step result of one element (R158, R159). -/
def kstep (row col : List MEl) : Nat := mStep (List.zipWith MEl.mul row col)

/-! ### Block pairs (R282, R284) -/

/-- The tile steps of mma and mma.spec in order: output block (i, n) and the addresses of the A and the B block. -/
def mmaSteps (dA dB : BitVec 128) : List (Nat × Nat × Nat × Nat) :=
  (List.range (dNI dA + 1)).flatMap (fun i => (List.range (dNJ dB + 1)).flatMap (fun n =>
    (List.range (dNJ dA + 1)).map (fun j => (i, n, dBlk dA i j, dBlk dB j n))))

/-- A 16-bit entry of the index table. -/
def idxEntry (m : Mem) (base i : Nat) : Nat :=
  (m.get (base + 2 * i)).toNat + 256 * (m.get (base + 2 * i + 1)).toNat

/-- The tile steps of mma.idx (R282): row pointers, then column entries, read when the operation enters the queue. -/
def idxSteps (m : Mem) (dA dB dI : BitVec 128) : List (Nat × Nat × Nat × Nat) :=
  let mb := dNI dA + 1
  let nb := dNJ dB + 1
  let t := dBase dI
  let lim := min (idxEntry m t mb) (32 / nb)
  (List.range mb).flatMap (fun i =>
    let es := (List.range lim).filter (fun e => decide (idxEntry m t i ≤ e ∧ e < idxEntry m t (i + 1)))
    (List.range nb).flatMap (fun n => es.flatMap (fun e =>
      let k := idxEntry m t (mb + 1 + e)
      if k ≤ dNI dB then [(i, n, dBlk dA 0 e, dBlk dB k n)] else [])))

/-! ### The accumulator (R68, R70) -/

/-- The index of an element of a bank among a core's accumulator elements. -/
def accIdx (bank row col : Nat) : Nat := 4096 * bank + 128 * (row % 32) + col

def Core.accGet (k : Core) (bank row col : Nat) : Word := cget 0 (accIdx bank row col) k.acc
def Core.accPut (k : Core) (bank row col : Nat) (v : Word) : Core :=
  { k with acc := cput 0 (accIdx bank row col) v k.acc }

/-- Consecutive elements of a row of a bank set. -/
def Core.accFill (k : Core) (bank row col : Nat) : List Word → Core
  | [] => k
  | v :: r => (k.accPut bank row col v).accFill bank row (col + 1) r

/-- The bank that the operation writes for band j, and the one that it reads (R283). -/
def MOp.wBank (o : MOp) (j : Nat) : Nat :=
  match o.dest with
  | .shadow => (o.shadows[j]?).getD 0
  | _ => (o.banks[j]?).getD 0
def MOp.rBank (o : MOp) (written : Nat → Bool) (j : Nat) : Nat :=
  match o.dest with
  | .shadow => if written j then (o.shadows[j]?).getD 0 else (o.banks[j]?).getD 0
  | _ => (o.banks[j]?).getD 0

/-- Consecutive elements of a row written by an operation. -/
def MOp.fill (o : MOp) (bank row col : Nat) : List Word → MOp
  | [] => o
  | v :: r => ({ o with part := cset (accIdx bank row col) v o.part }).fill bank row (col + 1) r

/-- The output tile set to +0.0 before the first step (R283). -/
def MOp.zero (o : MOp) : MOp :=
  if o.dest = .nowhere then o
  else
    (List.range (32 * (dNI o.dA + 1))).foldl (fun o r =>
      let row := dACCO o.dA + r
      o.fill (o.wBank (row / 32)) row (dACCO o.dB) (List.replicate (32 * (dNJ o.dB + 1)) 0)) o

/-- An element as an operation reads it: what it has written there itself, else the accumulator's. -/
def MOp.get (o : MOp) (k : Core) (bank row col : Nat) : Word := (cfind (accIdx bank row col) o.part).getD (k.accGet bank row col)

/-- The elements of a completed operation enter the accumulator (R285). -/
def Core.mmaCommit (k : Core) (o : MOp) : Core := { k with acc := o.part.foldl (fun m e => cput 0 e.1 e.2 m) k.acc }

/-- The value that a queued operation has given an element, once every step of its output block is done: until the operation
completes, a read of the accumulator returns either this or the value before (02_execution R42, R279). -/
def Core.mmaAhead (k : Core) (bank row col : Nat) : Option Word :=
  (k.mq ++ k.mq1).findSome? (fun o =>
    if (o.steps.drop o.pos).any (fun st => (dACCO o.dA + 32 * st.1) / 32 == row / 32 &&
        (List.range 32).contains (col - (dACCO o.dB + 32 * st.2.1)) && decide (dACCO o.dB + 32 * st.2.1 ≤ col)) then none
    else cfind (accIdx bank row col) o.part)

/-- The bands that an operation writes. -/
def MOp.bands (o : MOp) : List Nat := (List.range (dNI o.dA + 1)).map (fun i => dACCO o.dA / 32 + i)

/-- The precision of A that the operation declares (R280). -/
def MOp.prec (o : MOp) : Nat :=
  match o.ins with
  | .mma f => tilePrec f.f.toNat (dTag o.dA)
  | .mmaSpec f => tilePrec f.f.toNat (dTag o.dA)
  | .mmaIdx f => tilePrec f.f.toNat (dTag o.dA)
  | _ => (tileFmt (dTag o.dA)).p

/-- One tile step (R283): every element of the output block reads its accumulator and writes it. The step reads all
its elements before it writes any (DEDUCED, assumption 13). -/
def MOp.step (o : MOp) (k : Core) (m : Mem) (written : Nat → Bool) (st : Nat × Nat × Nat × Nat) : MOp :=
  if o.dest = .nowhere then o
  else
    let cols := (List.range 32).map (fun c => tileCol m st.2.2.2 (dTag o.dB) c)
    (List.range 32).foldl (fun o2 r =>
      let row := dACCO o.dA + 32 * st.1 + r
      let col := dACCO o.dB + 32 * st.2.1
      let a := tileRow m st.2.2.1 (dTag o.dA) o.prec r
      let vs := cols.mapIdx (fun c b =>
        BitVec.ofNat 32 (fAdd32 (o.get k (o.rBank written (row / 32)) row (col + c)).toNat (kstep a b)))
      o2.fill (o.wBank (row / 32)) row col vs) o

/-- An operation or a drain done: the banks that waited for it and for nothing else are zeroed (R74, R70). -/
def Core.bankDone (k : Core) (clk id : Nat) : Core :=
  { k with banks := k.banks.map (fun e =>
      (e.1, match e.2 with
        | .releasing l =>
          let r := l.filter (fun i => i != id)
          if r = [] then .zeroing (clk + 32) else .releasing r
        | b => b)) }

end Sys2Proof.Machine
end

