-- ==== Sys2Proof/Machine/Sync.lean ====
section
/-!
DEFINITION. What joins threads and orders accesses: which accesses are performed at a scope and what a fence orders
(07_ordering R162 to R170), masks (02_execution R38), sign registers (R39 to R43), barriers (R44 to R46), supersteps
(R52), and what the end of a thread releases (R28).
-/

set_option linter.unusedVariables false

namespace Sys2Proof.Machine

/-! ### Performed accesses and fences -/

/-- The set of R165 that an instruction's accesses belong to, if it has any. -/
def fenceSet : Instr → Option Nat
  | .ld _ | .ldw _ | .lds _ | .tstBox _ | .tstTri _ => some 0
  | .st _ | .stw _ | .sts _ | .accDrain _ => some 1
  | .atom _ | .red _ | .cas _ | .atoms _ | .visMin _ => some 2
  | .copy _ | .bdeGather _ | .bdeReduce _ | .bdeCvt _ => some 3
  | .mma _ | .mmaSpec _ | .mmaIdx _ | .accRead _ => some 4
  | .standSub _ | .standRead _ | .standSeq _ | .standWait _ | .standDrop _ => some 5
  | .nbrSend _ | .nbrReduce _ => some 6
  | _ => none

/-- Whether an instruction accesses the scratchpad and not global memory. -/
def isScratch : Instr → Bool
  | .lds _ | .sts _ | .atoms _ => true
  | _ => false

/-- An access that goes by the scratchpad and not by memory: a held stack operation has not reached its spill or refill
yet. -/
def Access.inScratch (a : Access) : Bool :=
  isScratch a.ins || (match a.ins with
    | .stkPush _ | .stkPop _ => a.kind == .load || a.kind == .store
    | _ => false)

/-- An access that younger scratchpad accesses of its group follow: held there, or bringing stack entries back
(03_kernel_memory R61, 11_isa R299). -/
def Access.onScratch (a : Access) : Bool := a.kind == .refill || (a.inScratch && a.kind != .reply)

/-- A lane's access is over: performed, or discarded. -/
def LaneAcc.over (a : LaneAcc) : Bool :=
  match a.st with
  | .done => true
  | .dropped => true
  | _ => false

/-- A lane's access still waits for its translation: not walked yet, or held with a fault (19_traps R410). -/
def LaneAcc.logged (a : LaneAcc) : Bool :=
  match a.st with
  | .wait => true
  | .fault _ _ _ => true
  | _ => false

/-- A lane's access is held with a fault (19_traps R410). -/
def LaneAcc.faulted (a : LaneAcc) : Bool :=
  match a.st with
  | .fault _ _ _ => true
  | _ => false

/-- The lanes of an access. -/
def Access.laneMask (a : Access) : Word := maskOf (a.lanes.map (fun l => l.lane))

/-- Whether an access is performed at a scope (R162): a store is performed at the group once it is in its queue, at
the workgroup and the core once it is in the L1, beyond them once it is done; a read when its value is bound. -/
def Access.performed (a : Access) (scope : Nat) : Bool :=
  match a.kind with
  | .store =>
    a.lanes.all (fun l => l.over || (!a.inScratch && !l.logged && ((scope == 0 && l.inq) || (decide (scope ≤ 2) && l.l1))))
  | .reply => true
  | _ => a.lanes.all LaneAcc.over

/-- Whether a request, a queued tile operation or a round being signed has an identifier. -/
def Exec.pending (x : Exec) (id : Nat) : Bool :=
  x.reqs.any (fun r => r.id == id) ||
  x.cores.any (fun e => e.2.mq.any (fun o => o.id == id) || e.2.mq1.any (fun o => o.id == id)) ||
  x.wgs.any (fun w => w.ks.any (fun k => k.id == id && (k.st == .signing || k.st == .issuing)))

/-- Whether what an identifier names is performed at a scope. -/
def Exec.performed (x : Exec) (id scope : Nat) : Bool :=
  match x.acc? id with
  | some a => a.performed scope
  | none => !x.pending id

/-- Whether a request is a neighbour send or reduction. -/
def Req.isNbr (r : Req) : Bool :=
  match r.ins with
  | .nbrSend _ | .nbrReduce _ => true
  | _ => false

/-- The predecessors that an access still waits for. -/
def Exec.waits (x : Exec) (l : List (Nat × Nat)) : List (Nat × Nat) := l.filter (fun p => !x.performed p.1 p.2)

/-- The accesses of some threads of a group in the sets of a mask that are not performed at a scope, with the stores
that the group's loads returned and that are not performed either (R165, R166). -/
def Exec.preds (x : Exec) (w : Wg) (g : Group) (set : BitVec 7) (lanes : Word) (scope : Nat) : List Nat :=
  let inSet (i : Instr) : Bool := match fenceSet i with
    | some n => set.getLsbD n
    | none => false
  let accs := (x.accs.filter (fun a =>
    a.wg == w.id && a.grp == g.idx && inSet a.ins && (a.laneMask &&& lanes != 0))).map (fun a => a.id)
  let reqs := (x.reqs.filter (fun r => r.wg == w.id && r.grp == g.idx && inSet r.ins)).map (fun r => r.id)
  let k := x.core w.die w.core
  let ops := ((k.mq ++ k.mq1).filter (fun o => o.wg == w.id && o.signers.contains g.idx && inSet o.ins)).map (fun o => o.id)
  let sgs := (w.ks.filter (fun k =>
    (k.st == .signing || k.st == .issuing) && ((k.signed[g.idx]?).getD 0 &&& lanes != 0) && set.getLsbD 4)).map
      (fun k => k.id)
  (accs ++ reqs ++ ops ++ sgs ++ (if set.getLsbD 0 then g.seen else [])).filter (fun i => !x.performed i scope)

/-- A fence placed in a group (R166). -/
def Group.addFence (g : Group) (scope : Nat) (succ : BitVec 7) (lanes : Word) (preds : List Nat) : Group :=
  if preds = [] ∨ succ = 0 then g
  else { g with fences := g.fences ++ [{ scope := scope, succ := succ, lanes := lanes, preds := preds }] }

/-- What an access of a set by some threads of a group must wait for. -/
def Exec.afterOf (x : Exec) (g : Group) (set : Nat) (lanes : Word) : List (Nat × Nat) :=
  x.waits (g.fences.flatMap (fun f =>
    if f.succ.getLsbD set && (f.lanes &&& lanes != 0) then f.preds.map (fun p => (p, f.scope)) else []))

/-- The fences of a group without those whose predecessors are all performed. -/
def Exec.pruneFences (x : Exec) (g : Group) : Group :=
  { g with
    fences := g.fences.filter (fun f => f.preds.any (fun p => !x.performed p f.scope))
    seen := g.seen.filter (fun i => !x.performed i 5) }

/-- A load has returned stores that are not performed yet: they stand beside it in every fence (R166). -/
def Exec.observe (x : Exec) (load : Nat) (stores : List Nat) : Exec :=
  if stores = [] then x
  else
    let app (l : List Nat) : List Nat := if l.contains load then l ++ stores else l
    let appA (l : List (Nat × Nat)) : List (Nat × Nat) :=
      l ++ (l.filter (fun p => p.1 == load)).flatMap (fun p => stores.map (fun i => (i, p.2)))
    { x with
      wgs := x.wgs.map (fun w => { w with
        groups := w.groups.map (fun g => { g with
          fences := g.fences.map (fun f => { f with preds := app f.preds }) })
        ks := w.ks.map (fun k => { k with after := appA k.after })
        bs := w.bs.map (fun b => { b with
          preds := app b.preds
          who := b.who.map (fun e => (e.1, match e.2 with
            | .ready v tag preds => .ready v tag (app preds)
            | y => y)) }) })
      accs := x.accs.map (fun a => { a with after := appA a.after })
      reqs := x.reqs.map (fun r => { r with after := appA r.after })
      cores := x.cores.map (fun e => (e.1, { e.2 with
        mq := e.2.mq.map (fun o => { o with after := appA o.after })
        mq1 := e.2.mq1.map (fun o => { o with after := appA o.after }) })) }

/-- The sets LD, ST and AT, and those of a superstep (R170). -/
def setLSA : BitVec 7 := 0b0000111
def setLSAN : BitVec 7 := 0b1000111
def setLSAM : BitVec 7 := 0b0010111

/-! ### Masks (R38) -/

def Group.mreg (g : Group) (n : Nat) : Word := (g.m[n]?).getD 0
def Group.areg (g : Group) (n : Nat) : Word := (g.arr[n]?).getD 0

/-- A hold lifted wherever a thread keeps it, in its saved state of a handler too. -/
def Lane.lift (t : Lane) (h : Hold) : Lane :=
  let t1 := if t.hold = h then { t with hold := .free } else t
  if t1.resHold = h then { t1 with resHold := .free } else t1

/-- MaskRelease(n) (R38), with the fence of R170 for the threads released. -/
def Exec.maskRelease (x : Exec) (w : Wg) (g : Group) (n : Nat) : Group :=
  let m := g.mreg n
  let a := g.areg n
  if m ≠ 0 ∧ a &&& m = m then
    let p := x.preds w g setLSA a 0
    let g1 := { g with arr := g.arr.set n 0, lanes := g.lanes.map (fun (t : Lane) => t.lift (.mask n)) }
    g1.addFence 0 setLSA a p
  else g

/-- MaskRelease of every mask. -/
def Exec.maskReleaseAll (x : Exec) (w : Wg) (g : Group) : Group :=
  (List.range 12).foldl (fun g n => x.maskRelease w g n) g

/-! ### Barriers (R44 to R46) -/

/-- A thread's number in its workgroup. -/
def threadNo (g l : Nat) : Nat := 32 * g + l

/-- The live threads of a workgroup. -/
def Wg.liveThreads (w : Wg) : List Nat := w.groups.flatMap (fun g => g.live.map (threadNo g.idx))

/-- Identity, contribution and tag of a payload operation (R45, R268). -/
def barIdentity (op : Nat) : Word := if op = 0 then 0xFFFFFFFF else 0
def barAdd (op : Nat) (a v : Word) : Word :=
  match op with
  | 0 => a &&& v
  | 1 => a ||| v
  | 2 => a + v
  | _ => if v = 0 then a else a + 1
def barTag (op : Nat) : Byte := if op = 2 then tI32 else if op = 3 then tN32 else tRAW

def Wg.bar (w : Wg) (b : Nat) : Barrier := (w.bs[b]?).getD {}

/-- Whether a thread has arrived in the phase. -/
def Barrier.arrived (r : Barrier) (t : Nat) : Bool := cfind t r.who == some .arrived

/-- The result delivered to a thread of the phase: to its destination if it is held, else kept for its wait. -/
def Lane.deliver (t : Lane) (b : Nat) (c : VCell) : Lane :=
  match t.hold, t.resHold with
  | .barrier k d, h =>
    if k = b then { t.setReg d c with hold := .free }
    else match h with
      | .barrier j e => if j = b then { t.setReg e c with resHold := .free } else t
      | _ => t
  | _, .barrier j e => if j = b then { t.setReg e c with resHold := .free } else t
  | _, _ => t

/-- Whether a thread is held at a barrier. -/
def Lane.atBar (t : Lane) (b : Nat) : Bool :=
  (match t.hold with
    | .barrier k _ => k == b
    | _ => false) ||
  (match t.resHold with
    | .barrier k _ => k == b
    | _ => false)

/-- Completes the phase of barrier b if every live thread has arrived (R46), with the fence of R170. -/
def Exec.barCheck (x : Exec) (w : Wg) (b : Nat) : Wg :=
  let r := w.bar b
  let live := w.liveThreads
  match r.op with
  | none => w
  | some op =>
    if live ≠ [] ∧ live.all r.arrived then
      let c : VCell := { val := r.part, tag := barTag op }
      let preds := r.preds.filter (fun i => !x.performed i 1)
      let gs := w.groups.map (fun g =>
        let held := g.live.filter (fun l => (g.lane l).atBar b)
        (g.onLanes held (fun _ t => t.deliver b c)).addFence 1 setLSA (maskOf held) preds)
      let who := r.who.filterMap (fun e =>
        match e.2 with
        | .arrived =>
          let g := (w.grp? (e.1 / 32)).getD {}
          if live.contains e.1 && !(g.lane (e.1 % 32)).atBar b then some (e.1, BArr.ready r.part c.tag preds) else none
        | y => some (e.1, y))
      { w with groups := gs, bs := w.bs.set b { phase := !r.phase, op := none, part := 0, who := who, preds := [] } }
    else w

def Exec.barCheckAll (x : Exec) (w : Wg) : Wg := (List.range 16).foldl (fun w b => x.barCheck w b) w

/-! ### Sign registers (R39 to R43) -/

def Wg.sign (w : Wg) (k : Nat) : Sign := (w.ks[k]?).getD {}

/-- The register is fully signed: every remaining member of the declared set has signed (R41, R43). -/
def Sign.full (k : Sign) : Bool :=
  k.st == .signing && (List.range 32).all (fun i => (k.decl[i]?).getD 0 &&& ~~~((k.signed[i]?).getD 0) == 0)

/-- The fields of a tile operation's word. -/
def tileWord : Instr → Option TF
  | .mma f => some f
  | .mmaSpec f => some f
  | .mmaIdx f => some f
  | _ => none

/-- The condition that a tile operation's word names. -/
def tileCond : Instr → Option Nat
  | .mmaSpec f => some f.h.toNat
  | .mmaIdx f => if f.h = 7 then none else some f.h.toNat
  | _ => none

/-- The operation of a fully signed register, as it enters the queue (R282, R283, R285). -/
def Sign.op (k : Sign) (w : Wg) : MOp :=
  let i := k.ins.getD (.nop default)
  let f := (tileWord i).getD default
  { id := k.id, wg := w.id, ins := i, dA := k.dA, dB := k.dB, dI := k.dI, z := bit f.flags 0, cond := tileCond i,
    handle := f.acc.toNat, banks := k.banks, shadows := k.shadows,
    dest := if !k.live then .nowhere else if (tileCond i).isSome then .shadow else .primary
    signers := (List.range 32).filter (fun g => (k.signed[g]?).getD 0 != 0)
    after := k.after
    steps := match i with
      | .mmaIdx _ => idxSteps w.scratch k.dA k.dB k.dI
      | _ => mmaSteps k.dA k.dB }

/-- The register after its round has entered the queue: DECLARED with the same set, or IDLE when that is empty. -/
def Sign.next (k : Sign) : Sign :=
  { st := if k.decl.all (fun m => m == 0) then .idle else .declared, decl := k.decl, signed := List.replicate 32 0,
    declAt := k.declAt }

/-- The queue of a matrix context. -/
def Core.queueOf (k : Core) (c : Nat) : List MOp := if c = 0 then k.mq else k.mq1
def Core.setQueueOf (k : Core) (c : Nat) (q : List MOp) : Core := if c = 0 then { k with mq := q } else { k with mq1 := q }

/-- A round that is fully signed enters its context's queue, or waits in ISSUING for a free entry (R41). -/
def Exec.signTry (x : Exec) (w : Wg) (n : Nat) : Exec × Wg :=
  let k := w.sign n
  if k.full || k.st == .issuing then
    let c := w.mctx.getD 0
    let core := x.core w.die w.core
    if (core.queueOf c).length < 8 then
      (x.setCore w.die w.core (core.setQueueOf c (core.queueOf c ++ [k.op w])), { w with ks := w.ks.set n k.next })
    else (x, { w with ks := w.ks.set n { k with st := .issuing } })
  else (x, w)

def Exec.signTryAll (x : Exec) (w : Wg) : Exec × Wg :=
  (List.range 16).foldl (fun p n => if (p.2.sign n).full then p.1.signTry p.2 n else p) (x, w)

/-- A register without the ended threads of a group (R28, R39). -/
def Sign.drop (k : Sign) (g : Nat) (m : Word) : Sign :=
  let d := k.decl.set g ((k.decl[g]?).getD 0 &&& ~~~m)
  let k1 := { k with decl := d }
  if k.st = .declared ∧ d.all (fun v => v == 0) then { k1 with st := .idle } else k1

/-- A declaration cleared of empty lanes, missing groups and ended threads (R39). -/
def Wg.clearDecl (w : Wg) (d : List Word) : List Word :=
  (List.range 32).map (fun i => (d[i]?).getD 0 &&& maskOf (((w.grp? i).map Group.live).getD []))

/-! ### Supersteps (R52) -/

/-- The superstep barriers that the workgroup has arrived at: every live thread has executed that many sstep. -/
def Wg.sstUpdate (w : Wg) : Wg :=
  match minBy (fun n => n) (w.groups.flatMap (fun g => g.live.map (fun l => (g.lane l).sstN))) with
  | none => w
  | some n => { w with sstArr := max w.sstArr n }

/-! ### Handler mode (19_traps R406) -/

/-- Handler mode ends when no live handler thread is left; the exception registers read zero again (R313). -/
def Group.handlerEnd (g : Group) : Group :=
  if g.handler && (g.live.all (fun l => !(g.lane l).inH)) then
    { g with handler := false, ecause := 0, eaddr := 0, eskid := 0,
             lanes := g.lanes.map (fun t => { t with inH := false, epc := 0 }) }
  else g

/-! ### The end of threads (R28) -/

/-- The workgroup without the ended threads of a group: masks, declarations, barriers, superstep, handler mode. -/
def Exec.endLanes (x : Exec) (w : Wg) (gi : Nat) (ls : List Nat) : Exec × Wg :=
  match w.grp? gi with
  | none => (x, w)
  | some g =>
    let m := maskOf ls
    let g1 := { (g.onLanes ls (fun _ t => { t with st := .ended, hold := .free, inH := false })) with
      m := g.m.map (fun v => v &&& ~~~m)
      arr := g.arr.map (fun v => v &&& ~~~m) }
    let g2 := (x.maskReleaseAll w g1).handlerEnd
    let w1 := (w.setGrp g2)
    let w2 := { w1 with ks := w1.ks.map (fun k => k.drop gi m) }
    let (x3, w3) := x.signTryAll w2
    (x3, (x3.barCheckAll w3).sstUpdate)

/-- The fragments of threads that leave their pixel shader, with the depth they supplied (04_render_mesh R108). -/
def leaveFrags (w : Wg) (gi : Nat) (ls : List Nat) (fs : List Frag) : List Frag :=
  fs.map (fun f =>
    if f.wg = some w.id ∧ f.st = .shading ∧ ls.contains (f.lane % 32) ∧ f.lane / 32 = gi then
      { f with st := .left, depth := (((w.grp? gi).getD {}).lane (f.lane % 32)).px.getD f.depth }
    else f)

/-- Threads ended in the current clock, with the effects of R28 and the fragments they shaded. -/
def State.endThreads (s : State) (wi gi : Nat) (ls : List Nat) : State :=
  match s.x.wg? wi with
  | none => s
  | some w =>
    let (x1, w1) := s.x.endLanes w gi ls
    let s1 := { s with x := x1.setWg w1 }
    if w.stage = 3 then s1.setGdie w.die { s1.gdie w.die with frags := leaveFrags w gi ls (s1.gdie w.die).frags }
    else s1

end Sys2Proof.Machine
end

