-- ==== Sys2Proof/Machine/Ops.lean ====
section
/-!
DEFINITION. Issuing an instruction: its executing lanes (09_isa R206), the register and tag checks (08_encoding R195
steps 6 and 7), the advance of its threads through their clause (R184), taking a trap and returning from a handler
(19_traps R404 to R408), and the readiness of what it writes (R200).
-/

set_option linter.unusedVariables false

namespace Sys2Proof.Machine

/-! ### Traps -/

/-- A precise trap (08_encoding R199): class, code, the number of trap and brk, the faulting address of class 4, and
whether the instruction has taken effect (19_traps R406 step 2). -/
structure Trap where
  cls : Nat
  code : Nat
  n : Nat := 0
  addr : DWord := 0
  after : Bool := false
  deriving DecidableEq, Repr

/-- Class in bits [15:12], code in bits [11:0] (R198). -/
def Trap.value (t : Trap) : Nat := 4096 * t.cls + t.code

def trapRegRange : Trap := { cls := 1, code := 7 }
def trapRegPair : Trap := { cls := 1, code := 8 }
def trapField : Trap := { cls := 1, code := 6 }
def trapBadTarget : Trap := { cls := 1, code := 9 }
def trapMem (code : Nat) (a : DWord) : Trap := { cls := 4, code := code, addr := a }
def trapRights (code : Nat) : Trap := { cls := 5, code := code }
def trapSync (code : Nat) : Trap := { cls := 6, code := code }
def trapMatrix (code : Nat) : Trap := { cls := 7, code := code }
def trapGfx (code : Nat) : Trap := { cls := 8, code := code }

/-- A thread enters the handler (R406): it saves its resume point, clause position, predicates and hold, and
continues at HANDLER, which is taken as a clause header. -/
def Lane.enter (t : Lane) (handler epc : DWord) : Lane :=
  { t with inH := true, epc := epc, resPc := t.pc, resCl := t.cl, resP := t.p, resHold := t.hold, hold := .free,
           pc := handler, cl := {}, waited := 0 }

/-- A trap delivered to threads that stand at their resume points (R405, R406, R408): handler mode, or the end of the
fault domain with a SYS entry. `epc` gives each thread's sp.epc, `skid` sp.eskid. -/
def State.deliverTrap (s : State) (wi gi : Nat) (ls : List Nat) (t : Trap) (epc : Nat → DWord) (skid : Nat) : State :=
  match s.x.wg? wi with
  | none => s
  | some w =>
    match w.grp? gi with
    | none => s
    | some g =>
      if w.handler ≠ 0 ∧ g.handler = false then
        let g1 := g.onLanes ls (fun l u => u.enter w.handler (epc l))
        let g2 := { g1 with
          handler := true
          ecause := BitVec.ofNat 32 (t.value + 65536 * t.n)
          eaddr := t.addr
          eskid := BitVec.ofNat 32 skid }
        { s with x := s.x.setWg (w.setGrp g2) }
      else
        let detail := if t.cls = 4 then t.addr else ((ls.head?).map epc).getD 0
        (s.endDomain w.launch t.value detail).postSys w (if w.handler = 0 then 2 else 1) t.value

/-- A thread returns from the handler (11_isa R311, R406): resume point, clause position, predicates and hold. -/
def Lane.leave (t : Lane) : Lane :=
  { t with inH := false, pc := t.resPc, cl := t.resCl, p := t.resP, hold := t.resHold,
           resPc := 0, resCl := {}, resP := 0, resHold := .free, waited := 0 }

/-! ### Issue -/

/-- What an issued instruction sees: its slot, its workgroup and group with the issuing threads advanced past it, the
issuing and the executing threads, its address, the clock, and whether a thread completes a clause with YLD. -/
structure Cx where
  sl : Slot
  w : Wg
  g : Group
  iss : List Nat
  ex : List Nat
  pc : DWord
  clk : Nat
  yld : Bool
  deriving DecidableEq, Repr

/-- The uniform registers that the instruction reads (R207). -/
def Cx.uni (c : Cx) : List Word := uniOf c.sl c.g

/-- The clock's first effects are not seen at the second PC (R207). -/
def Cx.masks (c : Cx) : List Word := if c.sl.second then c.sl.preM else c.g.m
def Cx.fmode (c : Cx) : Word := if c.sl.second then c.sl.preF else c.g.fmode

/-- Whether the instruction at the first PC has written φ in this clock: the second one uses the old φ, and the value
written stands (11_isa R314). -/
def Cx.phaseSet (c : Cx) : Bool := c.sl.second && c.g.phaseAt == c.clk + 1

/-- The φ that the instruction uses: at the second PC, behind the advance of the first (06_numbers R155). -/
def Cx.phase (c : Cx) : BitVec 5 := if c.phaseSet then c.sl.prePhase else c.g.phase

/-- The group with φ advanced by an instruction that uses it (R155). -/
def Cx.advPhase (c : Cx) (g : Group) : Group := if c.phaseSet then g else { g with phase := g.phase + 1 }

/-- Whether any lane executes the instruction. -/
def Cx.any (c : Cx) : Bool := c.ex ≠ []

/-- The group replaced in the state. -/
def State.putGrp (s : State) (wi : Nat) (g : Group) : State :=
  match s.x.wg? wi with
  | none => s
  | some w => { s with x := s.x.setWg (w.setGrp g) }

/-- The workgroup replaced in the state. -/
def State.putWg (s : State) (w : Wg) : State := { s with x := s.x.setWg w }

/-- The state with its current slot used up. -/
def State.clearCur (s : State) : State := { s with x := { s.x with cur := none } }

/-- Register fields checked in order, each for range and then for pairing (R195 step 6, R189). -/
def regCheck (regs : Nat) : List RegF → Option Trap
  | [] => none
  | r :: rs =>
    if kindLimit regs r.kind ≤ r.idx then some trapRegRange
    else if r.idx % r.n ≠ 0 then some trapRegPair
    else regCheck regs rs

/-- The tags of one source operand in one lane (R147). -/
def tagFault (c : Cls) : Nat → List VCell → Option Trap
  | _, [] => none
  | j, v :: r =>
    if v.tag = tVOID then some { cls := 2, code := 2 }
    else if !clsOk c (j % 2 == 1) v.tag then some { cls := 2, code := 1 }
    else tagFault c (j + 1) r

/-- The tags of the source operands in the executing lanes, operand by operand (R147). -/
def tagCheck (u : List Word) (g : Group) (ex : List Nat) (srcs : List Src) : Option Trap :=
  srcs.findSome? (fun o =>
    if o.uni then none else ex.findSome? (fun l => tagFault o.cls 0 (srcVal u (g.lane l) o)))

/-- A thread with the header of its clause consumed, if the instruction is the first of a clause (R184). -/
def Lane.open_ (t : Lane) : Option Clause → Lane
  | none => t
  | some c => { t with pc := t.pc + 4, cl := c }

/-- A thread advanced past an instruction of n words (R184): its pass-over counts start again (R34, R49). -/
def Lane.advance (t : Lane) (n : Nat) : Lane :=
  { t with pc := t.pc + BitVec.ofNat 64 (4 * n),
           cl := if t.cl.left ≤ n then {} else { t.cl with left := t.cl.left - n }, pass := 0, waited := 0 }

/-- A thread that completes a clause with YLD (R31). -/
def Lane.yields (t : Lane) (n : Nat) : Bool := t.cl.yld && decide (t.cl.left ≤ n)

/-- The registers that an instruction writes at the end of its latency: kind 0 vector, 1 uniform, 2 predicate. -/
def dests : Instr → List (Nat × Nat)
  | i =>
    match i.enc with
    | some (op, .r f) =>
      if eclassOf op.toNat ≤ 1 then
        let o := ropOf op.toNat
        (List.range o.n).map (fun j => (0, f.d.toNat + j))
      else []
    | some (op, .i f) => if eclassOf op.toNat ≤ 1 then [(0, f.d.toNat)] else []
    | some (_, .l f) => [(if bit f.f7 6 then 1 else 0, f.d.toNat)]
    | some (op, .x f) =>
      let k := if xKD f.c then 1 else 0
      match i with
      | .setpI _ | .setpN _ | .setpF _ | .setpF16x2 _ | .setpBf16x2 _ | .setpF64 _ => [(2, f.d.toNat)]
      | .xint _ | .xflt _ => (List.range (ropOf (xFunc f.c)).n).map (fun j => (k, f.d.toNat + j))
      | .cvt _ => (List.range (cvtDstRegs f.c)).map (fun j => (k, f.d.toNat + j))
      | .fmaF64 _ | .rintF64 _ | .lea _ => [(k, f.d.toNat), (k, f.d.toNat + 1)]
      | _ => if eclassOf op.toNat ≤ 1 then [(k, f.d.toNat)] else []
    | some (_, .k f) =>
      match i with
      | .vote _ | .mrd _ => [(1, f.a.toNat)]
      | .condArm _ | .accAlloc _ => [(1, f.b.toNat)]
      | .sregRd _ => (List.range (sregN f.b)).map (fun j => (if bit f.f 0 then 1 else 0, f.a.toNat + j))
      | .sregWr _ => []
      | _ => []
    | _ => []

/-- The pending writes of an issued instruction (R29, R200). -/
def pendWrites (i : Instr) (clk : Nat) (ex : List Nat) : List Busy :=
  if ex = [] then []
  else (dests i).map (fun d => { kind := d.1, idx := d.2, lanes := maskOf ex, due := .clk (clk + latency i) })

/-- The pending writes of a group that are not done in a clock. -/
def Group.prune (g : Group) (clk : Nat) : Group :=
  { g with busy := g.busy.filter (fun b =>
      match b.due with
      | .clk n => decide (clk < n)
      | .acc _ => true) }

/-- What follows an instruction that has taken effect: the skid count, the pending writes, the datapath's clocks, the
age stamp of YLD, and a single-step trap (19_traps R409, R411, R31, R32). -/
def State.issued (s : State) (i : Instr) (c : Cx) (yld step : Bool) : State :=
  match s.x.wg? c.w.id with
  | none => s
  | some w =>
    match w.grp? c.g.idx with
    | none => s
    | some g =>
      let x0 := s.x
      let k := x0.core w.die w.core
      let q := g.idx % 4
      let until_ := max ((k.busy[q]?).getD 0) (x0.clk + occupancy i)
      let x1 := x0.setCore w.die w.core { k with busy := k.busy.set q until_ }
      let age := if yld then x1.nextAge else g.age
      let x2 := if yld then { x1 with nextAge := x1.nextAge + 1 } else x1
      let g1 := { g with issued := g.issued + 1, age := age, busy := g.busy ++ pendWrites i x0.clk c.ex }
      let s1 := { s with x := x2.setWg (w.setGrp g1) }
      let alive := c.ex.filter (fun l => (g1.lane l).st == .live)
      let watched := alive.any (fun l => match (g1.lane l).hold with
        | .watch _ => true
        | _ => false)
      if step && !watched && decide (alive ≠ []) then
        s1.deliverTrap w.id g.idx alive { cls := 9, code := 3 } (fun _ => c.pc) 0
      else s1

/-- The group of a trapping instruction with its threads at their resume points, and the state: an instruction that has
taken effect and completes a clause with YLD makes the group the youngest (R31). -/
def State.resumePoint (s : State) (gh ga : Group) (after yld : Bool) : State × Group :=
  if after && yld then ({ s with x := { s.x with nextAge := s.x.nextAge + 1 } }, { ga with age := s.x.nextAge })
  else (s, if after then ga else gh)

/-- The fragments of some lanes of a group of pixel work. -/
def fragOf (w : Wg) (gi : Nat) (ls : List Nat) (fr : Frag) : Bool :=
  fr.wg == some w.id && fr.st == .shading && fr.lane / 32 == gi && ls.contains (fr.lane % 32)

/-- The fragments whose threads raise a trap of 04_render_mesh R114 write nothing from then on. -/
def State.markFrags (s : State) (wi gi : Nat) (ls : List Nat) (t : Trap) : State :=
  match s.x.wg? wi with
  | none => s
  | some w =>
    if w.stage = 3 ∧ t.cls = 8 ∧ (t.code = 4 ∨ t.code = 5) then
      let k := s.gdie w.die
      s.setGdie w.die { k with frags := updAll (fragOf w gi ls) (fun fr => { fr with trapped := true }) k.frags }
    else s

/-- A precise trap of the instruction in a slot (R404, R406): raised at the second PC in the clock in which the first
PC's trap took the group into its handler, the instruction counts as not issued. `gs` holds the threads at their
resume points. -/
def State.trapAt (s : State) (sl : Slot) (wi : Nat) (g0 gs : Group) (l0 : Nat) (ht : List Nat) (pc : DWord)
    (t : Trap) : State :=
  if sl.second && g0.handler && !(g0.lane l0).inH then s
  else ((s.markFrags wi g0.idx ht t).putGrp wi gs).deliverTrap wi g0.idx ht t (fun _ => pc) 0

/-- Issues an instruction for the threads of the selected slot (R206, R195 steps 6 to 8, R404): register fields,
tags, then its own checks and effect. A precise trap leaves no effect of the instruction; its threads stand at it, or
after it for the traps of R406 step 2. -/
def State.issue (i : Instr) (body : State → Cx → Except Trap State) (s : State) : Host.Outcome State Fault Refusal :=
  match s.x.cur with
  | none => .next s
  | some sl =>
    let s0 := s.clearCur
    match s0.x.wg? sl.wg with
    | none => .next s0
    | some w =>
      match w.grp? sl.grp with
      | none => .next s0
      | some g0 =>
        let iss := (lanesOf sl.lanes).filter (fun l => (g0.lane l).st == .live)
        match iss with
        | [] => .next s0
        | l0 :: _ =>
          let gh := g0.onLanes iss (fun _ t => t.open_ sl.hdr)
          let n := wordsOf i
          let pc := (gh.lane l0).pc
          let ex := iss.filter (fun l => (gh.lane l).pred (guardOf i))
          let ga := gh.onLanes iss (fun _ t => t.advance n)
          let c : Cx := { sl := sl, w := w.setGrp ga, g := ga, iss := iss, ex := ex, pc := pc, clk := s0.x.clk, yld := iss.any (fun l => (gh.lane l).yields n) }
          let r : Except Trap State :=
            match regCheck w.regs (regFields i) with
            | some t => .error t
            | none =>
              match tagCheck (uniOf sl g0) gh ex (srcOps i) with
              | some t => .error t
              | none => body (s0.putWg c.w) c
          match r with
          | .ok s1 =>
            let step := (s0.ctx w.asid).step && !g0.handler && (match i with
              | .eret _ => false
              | _ => true)
            .next (s1.issued i c c.yld step)
          | .error t =>
            let r := s0.resumePoint gh ga t.after c.yld
            .next (r.1.trapAt sl w.id g0 r.2 l0 (if ex = [] then iss else ex) pc t)

/-! ### Results -/

/-- The lanes' results written to vector registers from d upwards. -/
def Group.putVec (g : Group) (ls : List Nat) (d : Nat) (f : Nat → List VCell) : Group :=
  g.onLanes ls (fun l t => t.setRegs d (f l))

/-- An operation computed in each executing lane, or once for a uniform destination (R206, R191), with its exceptions
(06_numbers R151). -/
def computeBody (d : Nat) (uniD : Bool) (f : List Word → Nat → Lane → List VCell × Flags) (s : State) (c : Cx) :
    Except Trap State :=
  if uniD then
    if c.ex = [] then .ok s
    else
      let r := f c.uni 0 Lane.nil
      match arithCode c.fmode r.2 with
      | some k => .error { cls := 3, code := k }
      | none => .ok (s.putGrp c.w.id ((c.g.setUni d (r.1.map (fun v => v.val))).withFmode (setFlags c.g.fmode r.2)))
  else
    let e := c.ex.foldl (fun e l => e ||| (f c.uni l (c.g.lane l)).2) 0
    match arithCode c.fmode e with
    | some k => .error { cls := 3, code := k }
    | none => .ok (s.putGrp c.w.id
        ((c.g.putVec c.ex d (fun l => (f c.uni l (c.g.lane l)).1)).withFmode (setFlags c.g.fmode e)))

/-- A predicate computed in each executing lane (R221). -/
def predBody (d : Nat) (f : List Word → Nat → Lane → Bool × Flags) (s : State) (c : Cx) : Except Trap State :=
  let e := c.ex.foldl (fun e l => e ||| (f c.uni l (c.g.lane l)).2) 0
  match arithCode c.fmode e with
  | some k => .error { cls := 3, code := k }
  | none => .ok (s.putGrp c.w.id
      ((c.g.onLanes c.ex (fun l t => t.setPred d (f c.uni l (c.g.lane l)).1)).withFmode (setFlags c.g.fmode e)))

/-- An effect on the group, once per issue if a lane executes the instruction. -/
def onceBody (f : State → Cx → Except Trap State) (s : State) (c : Cx) : Except Trap State :=
  if c.ex = [] then .ok s else f s c

/-- Nothing beyond issuing. -/
def idleBody (s : State) (c : Cx) : Except Trap State := .ok s

end Sys2Proof.Machine
end

