-- ==== Sys2Proof/Machine/Integer.lean ====
section
/-!
DEFINITION. The meanings of the integer instructions, opcodes 0x01 to 0x37 (09_isa_arith R206 to R226): every form
reads its operands in the class of R147, computes its function of `Alu` in each executing lane, and writes the tag of
its table; the xint forms use the same functions (R210).
-/

set_option linter.unusedVariables false

namespace Sys2Proof.Machine

/-- The values of the i-th source operand in a lane. -/
def opnd (i : Instr) (u : List Word) (t : Lane) (n : Nat) : List VCell :=
  match (srcOps i)[n]? with
  | some o => srcVal u t o
  | none => []

/-- The value of a source operand of one register. -/
def opw (i : Instr) (u : List Word) (t : Lane) (n : Nat) : Word := vw (opnd i u t n) 0

/-- An R-format operation: RNE, no SAT, a vector destination (R191, R210). -/
def rBody (i : Instr) (o : ROp) (d : BitVec 7) : State → Cx → Except Trap State :=
  computeBody d.toNat false (fun u _ t => o.ev 0 false (opnd i u t 0) (opnd i u t 1))

/-- xint and xflt: the operation named in FUNC with the rounding, SAT and destination of the control word (R210). -/
def xBody (i : Instr) (f : XF) : State → Cx → Except Trap State :=
  computeBody f.d.toNat (xKD f.c)
    (fun u _ t => (ropOf (xFunc f.c)).ev (xRnd f.c) (xSat f.c) (opnd i u t 0) (opnd i u t 1))

/-- A result of one register without exceptions, to the destination that KD selects. -/
def xOne (i : Instr) (f : XF) (g : List Word → Lane → List VCell) : State → Cx → Except Trap State :=
  computeBody f.d.toNat (xKD f.c) (fun u _ t => (g u t, 0))

/-- A vector destination of an I-format word. -/
def iBody (d : BitVec 7) (g : List Word → Lane → VCell) : State → Cx → Except Trap State :=
  computeBody d.toNat false (fun u _ t => ([g u t], 0))

/-- The immediate sign-extended and zero-extended (R194). -/
def IF.sx (f : IF) : Word := f.imm.signExtend 32
def IF.zx (f : IF) : Word := f.imm.setWidth 32

/-- add.i: a + b (R211). -/
def execAddI (f : RF) (s : State) : Host.Outcome State Fault Refusal :=
  s.issue (.addI f) (rBody (.addI f) opAddI f.d)

/-- sub.i: a - b (R211). -/
def execSubI (f : RF) (s : State) : Host.Outcome State Fault Refusal :=
  s.issue (.subI f) (rBody (.subI f) opSubI f.d)

/-- addc.n: the carry of U(a) + U(b) (R211). -/
def execAddcN (f : RF) (s : State) : Host.Outcome State Fault Refusal :=
  s.issue (.addcN f) (rBody (.addcN f) opAddcN f.d)

/-- subb.n: the borrow of U(a) - U(b) (R211). -/
def execSubbN (f : RF) (s : State) : Host.Outcome State Fault Refusal :=
  s.issue (.subbN f) (rBody (.subbN f) opSubbN f.d)

/-- mul.i: the low half of the product (R211). -/
def execMulI (f : RF) (s : State) : Host.Outcome State Fault Refusal :=
  s.issue (.mulI f) (rBody (.mulI f) opMulI f.d)

/-- mulhi.i: bits [63:32] of the signed product (R211). -/
def execMulhiI (f : RF) (s : State) : Host.Outcome State Fault Refusal :=
  s.issue (.mulhiI f) (rBody (.mulhiI f) opMulhiI f.d)

/-- mulhi.n: bits [63:32] of the unsigned product (R211). -/
def execMulhiN (f : RF) (s : State) : Host.Outcome State Fault Refusal :=
  s.issue (.mulhiN f) (rBody (.mulhiN f) opMulhiN f.d)

/-- div.i, by zero too (R212). -/
def execDivI (f : RF) (s : State) : Host.Outcome State Fault Refusal :=
  s.issue (.divI f) (rBody (.divI f) opDivI f.d)

/-- div.n, by zero too (R212). -/
def execDivN (f : RF) (s : State) : Host.Outcome State Fault Refusal :=
  s.issue (.divN f) (rBody (.divN f) opDivN f.d)

/-- rem.i, by zero too (R212). -/
def execRemI (f : RF) (s : State) : Host.Outcome State Fault Refusal :=
  s.issue (.remI f) (rBody (.remI f) opRemI f.d)

/-- rem.n, by zero too (R212). -/
def execRemN (f : RF) (s : State) : Host.Outcome State Fault Refusal :=
  s.issue (.remN f) (rBody (.remN f) opRemN f.d)

/-- min.i (R211). -/
def execMinI (f : RF) (s : State) : Host.Outcome State Fault Refusal :=
  s.issue (.minI f) (rBody (.minI f) opMinI f.d)

/-- max.i (R211). -/
def execMaxI (f : RF) (s : State) : Host.Outcome State Fault Refusal :=
  s.issue (.maxI f) (rBody (.maxI f) opMaxI f.d)

/-- min.n (R211). -/
def execMinN (f : RF) (s : State) : Host.Outcome State Fault Refusal :=
  s.issue (.minN f) (rBody (.minN f) opMinN f.d)

/-- max.n (R211). -/
def execMaxN (f : RF) (s : State) : Host.Outcome State Fault Refusal :=
  s.issue (.maxN f) (rBody (.maxN f) opMaxN f.d)

/-- abs.i (R211). -/
def execAbsI (f : RF) (s : State) : Host.Outcome State Fault Refusal :=
  s.issue (.absI f) (rBody (.absI f) opAbsI f.d)

/-- add.i16x2 (R215). -/
def execAddI16x2 (f : RF) (s : State) : Host.Outcome State Fault Refusal :=
  s.issue (.addI16x2 f) (rBody (.addI16x2 f) opAddI16 f.d)

/-- sub.i16x2 (R215). -/
def execSubI16x2 (f : RF) (s : State) : Host.Outcome State Fault Refusal :=
  s.issue (.subI16x2 f) (rBody (.subI16x2 f) opSubI16 f.d)

/-- add.n16x2 (R215). -/
def execAddN16x2 (f : RF) (s : State) : Host.Outcome State Fault Refusal :=
  s.issue (.addN16x2 f) (rBody (.addN16x2 f) opAddN16 f.d)

/-- sub.n16x2 (R215). -/
def execSubN16x2 (f : RF) (s : State) : Host.Outcome State Fault Refusal :=
  s.issue (.subN16x2 f) (rBody (.subN16x2 f) opSubN16 f.d)

/-- add.i8x4 (R215). -/
def execAddI8x4 (f : RF) (s : State) : Host.Outcome State Fault Refusal :=
  s.issue (.addI8x4 f) (rBody (.addI8x4 f) opAddI8 f.d)

/-- sub.i8x4 (R215). -/
def execSubI8x4 (f : RF) (s : State) : Host.Outcome State Fault Refusal :=
  s.issue (.subI8x4 f) (rBody (.subI8x4 f) opSubI8 f.d)

/-- add.n8x4 (R215). -/
def execAddN8x4 (f : RF) (s : State) : Host.Outcome State Fault Refusal :=
  s.issue (.addN8x4 f) (rBody (.addN8x4 f) opAddN8 f.d)

/-- sub.n8x4 (R215). -/
def execSubN8x4 (f : RF) (s : State) : Host.Outcome State Fault Refusal :=
  s.issue (.subN8x4 f) (rBody (.subN8x4 f) opSubN8 f.d)

/-- and (R216). -/
def execAnd (f : RF) (s : State) : Host.Outcome State Fault Refusal :=
  s.issue (.and f) (rBody (.and f) opAnd f.d)

/-- or (R216). -/
def execOr (f : RF) (s : State) : Host.Outcome State Fault Refusal :=
  s.issue (.or f) (rBody (.or f) opOr f.d)

/-- xor (R216). -/
def execXor (f : RF) (s : State) : Host.Outcome State Fault Refusal :=
  s.issue (.xor f) (rBody (.xor f) opXor f.d)

/-- andn (R216). -/
def execAndn (f : RF) (s : State) : Host.Outcome State Fault Refusal :=
  s.issue (.andn f) (rBody (.andn f) opAndn f.d)

/-- shl by the whole value of b (R217). -/
def execShl (f : RF) (s : State) : Host.Outcome State Fault Refusal :=
  s.issue (.shl f) (rBody (.shl f) opShl f.d)

/-- shr.n (R217). -/
def execShrN (f : RF) (s : State) : Host.Outcome State Fault Refusal :=
  s.issue (.shrN f) (rBody (.shrN f) opShrN f.d)

/-- shr.i (R217). -/
def execShrI (f : RF) (s : State) : Host.Outcome State Fault Refusal :=
  s.issue (.shrI f) (rBody (.shrI f) opShrI f.d)

/-- popc (R219). -/
def execPopc (f : RF) (s : State) : Host.Outcome State Fault Refusal :=
  s.issue (.popc f) (rBody (.popc f) opPopc f.d)

/-- clz (R219). -/
def execClz (f : RF) (s : State) : Host.Outcome State Fault Refusal :=
  s.issue (.clz f) (rBody (.clz f) opClz f.d)

/-- brev (R219). -/
def execBrev (f : RF) (s : State) : Host.Outcome State Fault Refusal :=
  s.issue (.brev f) (rBody (.brev f) opBrev f.d)

/-- mov of a register with its tag (R224). -/
def execMov (f : RF) (s : State) : Host.Outcome State Fault Refusal :=
  s.issue (.mov f) (rBody (.mov f) opMov f.d)

/-- add.i with a sign-extended immediate (R211). -/
def execAddIImm (f : IF) (s : State) : Host.Outcome State Fault Refusal :=
  s.issue (.addIImm f) (iBody f.d (fun u t => { val := opw (.addIImm f) u t 0 + IF.sx f, tag := tI32 }))

/-- and with a zero-extended immediate (R216). -/
def execAndImm (f : IF) (s : State) : Host.Outcome State Fault Refusal :=
  s.issue (.andImm f) (iBody f.d (fun u t => { val := opw (.andImm f) u t 0 &&& IF.zx f, tag := tRAW }))

/-- or with a zero-extended immediate (R216). -/
def execOrImm (f : IF) (s : State) : Host.Outcome State Fault Refusal :=
  s.issue (.orImm f) (iBody f.d (fun u t => { val := opw (.orImm f) u t 0 ||| IF.zx f, tag := tRAW }))

/-- xor with a zero-extended immediate (R216). -/
def execXorImm (f : IF) (s : State) : Host.Outcome State Fault Refusal :=
  s.issue (.xorImm f) (iBody f.d (fun u t => { val := opw (.xorImm f) u t 0 ^^^ IF.zx f, tag := tRAW }))

/-- shl by an immediate (R217). -/
def execShlImm (f : IF) (s : State) : Host.Outcome State Fault Refusal :=
  s.issue (.shlImm f) (iBody f.d (fun u t => { val := shlW (opw (.shlImm f) u t 0) f.imm.toNat, tag := tRAW }))

/-- shr.n by an immediate (R217). -/
def execShrNImm (f : IF) (s : State) : Host.Outcome State Fault Refusal :=
  s.issue (.shrNImm f) (iBody f.d (fun u t => { val := shrNW (opw (.shrNImm f) u t 0) f.imm.toNat, tag := tRAW }))

/-- shr.i by an immediate (R217). -/
def execShrIImm (f : IF) (s : State) : Host.Outcome State Fault Refusal :=
  s.issue (.shrIImm f) (iBody f.d (fun u t => { val := shrIW (opw (.shrIImm f) u t 0) f.imm.toNat, tag := tRAW }))

/-- mov of a sign-extended immediate (R224). -/
def execMovImm (f : IF) (s : State) : Host.Outcome State Fault Refusal :=
  s.issue (.movImm f) (iBody f.d (fun _ _ => { val := IF.sx f, tag := tRAW }))

/-- mov of a literal with the tag of f7, or to a uniform register (R224). -/
def execMovLit (f : LF) (s : State) : Host.Outcome State Fault Refusal :=
  s.issue (.movLit f) (computeBody f.d.toNat (bit f.f7 6)
    (fun _ _ _ => ([{ val := f.lit, tag := BitVec.ofNat 8 (bits f.f7 0 4) }], 0)))

/-- mad.i (R213). -/
def execMadI (f : XF) (s : State) : Host.Outcome State Fault Refusal :=
  s.issue (.madI f) (xOne (.madI f) f (fun u t =>
    [{ val := madI (xSat f.c) (opw (.madI f) u t 0) (opw (.madI f) u t 1) (opw (.madI f) u t 2), tag := tI32 }]))

/-- bfx.n (R218). -/
def execBfxN (f : XF) (s : State) : Host.Outcome State Fault Refusal :=
  s.issue (.bfxN f) (xOne (.bfxN f) f (fun u t =>
    [{ val := bfxN (opw (.bfxN f) u t 0) (opw (.bfxN f) u t 1), tag := tRAW }]))

/-- bfx.i (R218). -/
def execBfxI (f : XF) (s : State) : Host.Outcome State Fault Refusal :=
  s.issue (.bfxI f) (xOne (.bfxI f) f (fun u t =>
    [{ val := bfxI (opw (.bfxI f) u t 0) (opw (.bfxI f) u t 1), tag := tRAW }]))

/-- bfi (R218). -/
def execBfi (f : XF) (s : State) : Host.Outcome State Fault Refusal :=
  s.issue (.bfi f) (xOne (.bfi f) f (fun u t =>
    [{ val := bfiW (opw (.bfi f) u t 0) (opw (.bfi f) u t 1) (opw (.bfi f) u t 2), tag := tRAW }]))

/-- The 64-bit address of lea.n and lea.i (R220). -/
def leaVal (func : Nat) (a : DWord) (b : Word) : DWord :=
  let x : DWord := if func / 8 % 2 = 1 then b.signExtend 64 else b.setWidth 64
  a + x <<< (func % 8)

/-- lea.n and lea.i (R220). -/
def execLea (f : XF) (s : State) : Host.Outcome State Fault Refusal :=
  s.issue (.lea f) (xOne (.lea f) f (fun u t =>
    let a := opnd (.lea f) u t 0
    let r := leaVal (xFunc f.c) (pair (vw a 0) (vw a 1)) (opw (.lea f) u t 1)
    [{ val := loWord r, tag := tN32 }, { val := hiWord r, tag := tN32 }]))

/-- The predicate that setp writes from a comparison result (R222). -/
def setpOut (f : XF) (t : Lane) (c : Bool) : Bool := combine (xFunc f.c / 16 % 4) c (t.pred (xC f.c))

/-- setp.i (R221, R222). -/
def execSetpI (f : XF) (s : State) : Host.Outcome State Fault Refusal :=
  s.issue (.setpI f) (predBody f.d.toNat (fun u _ t =>
    (setpOut f t (cmpInt (xFunc f.c % 8) (opw (.setpI f) u t 0).toInt (opw (.setpI f) u t 1).toInt), 0)))

/-- setp.n (R221, R222). -/
def execSetpN (f : XF) (s : State) : Host.Outcome State Fault Refusal :=
  s.issue (.setpN f) (predBody f.d.toNat (fun u _ t =>
    (setpOut f t (cmpInt (xFunc f.c % 8) (opw (.setpN f) u t 0).toNat (opw (.setpN f) u t 1).toNat), 0)))

/-- sel: the value copied keeps its tag (R223). -/
def execSel (f : XF) (s : State) : Host.Outcome State Fault Refusal :=
  s.issue (.sel f) (xOne (.sel f) f (fun u t => if t.pred (xC f.c) then opnd (.sel f) u t 0 else opnd (.sel f) u t 1))

/-- The source lane of shfl (R225). -/
def shflLane (mode l : Nat) (n : Word) : Int :=
  match mode with
  | 0 => (n.toNat % 32 : Nat)
  | 1 => (l : Int) - n.toNat
  | 2 => (l : Int) + n.toNat
  | _ => (l ^^^ (n.toNat % 32) : Nat)

/-- shfl (R225): a lane of the same issue gives its register, with its tag. -/
def execShfl (f : XF) (s : State) : Host.Outcome State Fault Refusal :=
  s.issue (.shfl f) (fun s c =>
    computeBody f.d.toNat false (fun u l t =>
      let j := shflLane (xFunc f.c % 4) l (opw (.shfl f) u t 1)
      let src := if 0 ≤ j ∧ j < 32 ∧ c.ex.contains j.toNat then j.toNat else l
      ([(c.g.lane src).reg f.a.toNat], 0)) s c)

/-- The value of a vote over the executing lanes (R226). -/
def voteVal (f : KF) (g : Group) (ex : List Nat) : Word :=
  let p (l : Nat) : Bool := (g.lane l).pred f.b.toNat
  let v (l : Nat) : Word := ((g.lane l).reg f.b.toNat).val
  match f.f.toNat with
  | 0 => if ex.any p then 1 else 0
  | 1 => if ex.all p then 1 else 0
  | 2 => maskOf (ex.filter p)
  | 3 => BitVec.ofNat 32 (ex.filter p).length
  | 4 => ((ex.head?).map v).getD 0
  | _ => if ex.all (fun l => some (v l) == (ex.head?).map v) then 1 else 0

/-- vote: once, to a uniform register, if a lane executes it (R226). -/
def execVote (f : KF) (s : State) : Host.Outcome State Fault Refusal :=
  s.issue (.vote f) (onceBody (fun s c => .ok (s.putGrp c.w.id (c.g.setUni f.a.toNat [voteVal f c.g c.ex]))))

/-- xint: the integer operation named in FUNC (R210). -/
def execXint (f : XF) (s : State) : Host.Outcome State Fault Refusal := s.issue (.xint f) (xBody (.xint f) f)

end Sys2Proof.Machine
end

