-- ==== Sys2Proof/Machine/Float.lean ====
section
/-!
DEFINITION. The meanings of the floating-point instructions, opcodes 0x38 to 0x6F (09_isa_arith R227 to R242), with
the flags and traps of 06_numbers R150 and R151 and the dither phase of R155.
-/

set_option linter.unusedVariables false

namespace Sys2Proof.Machine

/-- add.f (R227, R228). -/
def execAddF (f : RF) (s : State) : Host.Outcome State Fault Refusal :=
  s.issue (.addF f) (rBody (.addF f) opAddF f.d)

/-- sub.f (R227, R228). -/
def execSubF (f : RF) (s : State) : Host.Outcome State Fault Refusal :=
  s.issue (.subF f) (rBody (.subF f) opSubF f.d)

/-- mul.f (R227, R228). -/
def execMulF (f : RF) (s : State) : Host.Outcome State Fault Refusal :=
  s.issue (.mulF f) (rBody (.mulF f) opMulF f.d)

/-- min.f (R228). -/
def execMinF (f : RF) (s : State) : Host.Outcome State Fault Refusal :=
  s.issue (.minF f) (rBody (.minF f) opMinF f.d)

/-- max.f (R228). -/
def execMaxF (f : RF) (s : State) : Host.Outcome State Fault Refusal :=
  s.issue (.maxF f) (rBody (.maxF f) opMaxF f.d)

/-- abs.f (R228). -/
def execAbsF (f : RF) (s : State) : Host.Outcome State Fault Refusal :=
  s.issue (.absF f) (rBody (.absF f) opAbsF f.d)

/-- neg.f (R228). -/
def execNegF (f : RF) (s : State) : Host.Outcome State Fault Refusal :=
  s.issue (.negF f) (rBody (.negF f) opNegF f.d)

/-- div.f (R227, R228). -/
def execDivF (f : RF) (s : State) : Host.Outcome State Fault Refusal :=
  s.issue (.divF f) (rBody (.divF f) opDivF f.d)

/-- add.f16x2 (R230). -/
def execAddF16x2 (f : RF) (s : State) : Host.Outcome State Fault Refusal :=
  s.issue (.addF16x2 f) (rBody (.addF16x2 f) opAddF16 f.d)

/-- mul.f16x2 (R230). -/
def execMulF16x2 (f : RF) (s : State) : Host.Outcome State Fault Refusal :=
  s.issue (.mulF16x2 f) (rBody (.mulF16x2 f) opMulF16 f.d)

/-- min.f16x2 (R230). -/
def execMinF16x2 (f : RF) (s : State) : Host.Outcome State Fault Refusal :=
  s.issue (.minF16x2 f) (rBody (.minF16x2 f) opMinF16 f.d)

/-- max.f16x2 (R230). -/
def execMaxF16x2 (f : RF) (s : State) : Host.Outcome State Fault Refusal :=
  s.issue (.maxF16x2 f) (rBody (.maxF16x2 f) opMaxF16 f.d)

/-- add.bf16x2 (R230). -/
def execAddBf16x2 (f : RF) (s : State) : Host.Outcome State Fault Refusal :=
  s.issue (.addBf16x2 f) (rBody (.addBf16x2 f) opAddBf16 f.d)

/-- mul.bf16x2 (R230). -/
def execMulBf16x2 (f : RF) (s : State) : Host.Outcome State Fault Refusal :=
  s.issue (.mulBf16x2 f) (rBody (.mulBf16x2 f) opMulBf16 f.d)

/-- min.bf16x2 (R230). -/
def execMinBf16x2 (f : RF) (s : State) : Host.Outcome State Fault Refusal :=
  s.issue (.minBf16x2 f) (rBody (.minBf16x2 f) opMinBf16 f.d)

/-- max.bf16x2 (R230). -/
def execMaxBf16x2 (f : RF) (s : State) : Host.Outcome State Fault Refusal :=
  s.issue (.maxBf16x2 f) (rBody (.maxBf16x2 f) opMaxBf16 f.d)

/-- add.f64 (R231). -/
def execAddF64 (f : RF) (s : State) : Host.Outcome State Fault Refusal :=
  s.issue (.addF64 f) (rBody (.addF64 f) opAddF64 f.d)

/-- sub.f64 (R231). -/
def execSubF64 (f : RF) (s : State) : Host.Outcome State Fault Refusal :=
  s.issue (.subF64 f) (rBody (.subF64 f) opSubF64 f.d)

/-- mul.f64 (R231). -/
def execMulF64 (f : RF) (s : State) : Host.Outcome State Fault Refusal :=
  s.issue (.mulF64 f) (rBody (.mulF64 f) opMulF64 f.d)

/-- min.f64 (R231). -/
def execMinF64 (f : RF) (s : State) : Host.Outcome State Fault Refusal :=
  s.issue (.minF64 f) (rBody (.minF64 f) opMinF64 f.d)

/-- max.f64 (R231). -/
def execMaxF64 (f : RF) (s : State) : Host.Outcome State Fault Refusal :=
  s.issue (.maxF64 f) (rBody (.maxF64 f) opMaxF64 f.d)

/-- div.f64 (R231). -/
def execDivF64 (f : RF) (s : State) : Host.Outcome State Fault Refusal :=
  s.issue (.divF64 f) (rBody (.divF64 f) opDivF64 f.d)

/-- rcp.f (R233). -/
def execRcpF (f : RF) (s : State) : Host.Outcome State Fault Refusal :=
  s.issue (.rcpF f) (rBody (.rcpF f) opRcpF f.d)

/-- sqrt.f (R233). -/
def execSqrtF (f : RF) (s : State) : Host.Outcome State Fault Refusal :=
  s.issue (.sqrtF f) (rBody (.sqrtF f) opSqrtF f.d)

/-- rsqrt.f (R233). -/
def execRsqrtF (f : RF) (s : State) : Host.Outcome State Fault Refusal :=
  s.issue (.rsqrtF f) (rBody (.rsqrtF f) opRsqrtF f.d)

/-- exp2.f (R233). -/
def execExp2F (f : RF) (s : State) : Host.Outcome State Fault Refusal :=
  s.issue (.exp2F f) (rBody (.exp2F f) opExp2F f.d)

/-- log2.f (R233). -/
def execLog2F (f : RF) (s : State) : Host.Outcome State Fault Refusal :=
  s.issue (.log2F f) (rBody (.log2F f) opLog2F f.d)

/-- rcp.f64 (R233). -/
def execRcpF64 (f : RF) (s : State) : Host.Outcome State Fault Refusal :=
  s.issue (.rcpF64 f) (rBody (.rcpF64 f) opRcpF64 f.d)

/-- sqrt.f64 (R233). -/
def execSqrtF64 (f : RF) (s : State) : Host.Outcome State Fault Refusal :=
  s.issue (.sqrtF64 f) (rBody (.sqrtF64 f) opSqrtF64 f.d)

/-- fma in one format on the elements of its registers (R227, R228, R230). -/
def fmaBody (i : Instr) (f : XF) (g : List VCell → List VCell → List VCell → List VCell × Flags) :
    State → Cx → Except Trap State :=
  computeBody f.d.toNat (xKD f.c) (fun u _ t => g (opnd i u t 0) (opnd i u t 1) (opnd i u t 2))

/-- fma on two 16-bit elements (R230). -/
def fma16 (m : FFmt) (t : Byte) (rnd : Nat) (sat : Bool) (a b c : List VCell) : List VCell × Flags :=
  let el (j : Nat) := fFma m rnd sat (elem 16 j (vw a 0)) (elem 16 j (vw b 0)) (elem 16 j (vw c 0))
  ([{ val := BitVec.ofNat 32 ((el 0).1 + 65536 * (el 1).1), tag := t }], (el 0).2 ||| (el 1).2)

/-- fma.f: one rounding (R227). -/
def execFmaF (f : XF) (s : State) : Host.Outcome State Fault Refusal :=
  s.issue (.fmaF f) (fmaBody (.fmaF f) f (fun a b c =>
    let r := fFma fp32 (xRnd f.c) (xSat f.c) (vw a 0).toNat (vw b 0).toNat (vw c 0).toNat
    ([{ val := BitVec.ofNat 32 r.1, tag := tF32 }], r.2)))

/-- fma.f16x2 (R230). -/
def execFmaF16x2 (f : XF) (s : State) : Host.Outcome State Fault Refusal :=
  s.issue (.fmaF16x2 f) (fmaBody (.fmaF16x2 f) f (fma16 fp16 tF16 (xRnd f.c) (xSat f.c)))

/-- fma.bf16x2 (R230). -/
def execFmaBf16x2 (f : XF) (s : State) : Host.Outcome State Fault Refusal :=
  s.issue (.fmaBf16x2 f) (fmaBody (.fmaBf16x2 f) f (fma16 bf16 tBF16 (xRnd f.c) (xSat f.c)))

/-- fma.f64 (R231). -/
def execFmaF64 (f : XF) (s : State) : Host.Outcome State Fault Refusal :=
  s.issue (.fmaF64 f) (fmaBody (.fmaF64 f) f (fun a b c =>
    let r := fFma fp64 (xRnd f.c) (xSat f.c) (d64 a) (d64 b) (d64 c)
    (r64 r.1, r.2)))

/-- setp.f (R221, R222). -/
def execSetpF (f : XF) (s : State) : Host.Outcome State Fault Refusal :=
  s.issue (.setpF f) (predBody f.d.toNat (fun u _ t =>
    let r := cmpFloat fp32 (xFunc f.c % 8) (bit f.c 3) (opw (.setpF f) u t 0).toNat (opw (.setpF f) u t 1).toNat
    (setpOut f t r.1, r.2)))

/-- A packed comparison: the two elements combined under PK (R222, R230). -/
def setp16 (i : Instr) (m : FFmt) (f : XF) (u : List Word) (t : Lane) : Bool × Flags :=
  let el (j : Nat) := cmpFloat m (xFunc f.c % 8) (bit f.c 3) (elem 16 j (opw i u t 0)) (elem 16 j (opw i u t 1))
  (setpOut f t (packSel (xFunc f.c / 64) (el 0).1 (el 1).1), (el 0).2 ||| (el 1).2)

/-- setp.f16x2 (R222, R230). -/
def execSetpF16x2 (f : XF) (s : State) : Host.Outcome State Fault Refusal :=
  s.issue (.setpF16x2 f) (predBody f.d.toNat (fun u _ t => setp16 (.setpF16x2 f) fp16 f u t))

/-- setp.bf16x2 (R222, R230). -/
def execSetpBf16x2 (f : XF) (s : State) : Host.Outcome State Fault Refusal :=
  s.issue (.setpBf16x2 f) (predBody f.d.toNat (fun u _ t => setp16 (.setpBf16x2 f) bf16 f u t))

/-- setp.f64 (R222, R231). -/
def execSetpF64 (f : XF) (s : State) : Host.Outcome State Fault Refusal :=
  s.issue (.setpF64 f) (predBody f.d.toNat (fun u _ t =>
    let r := cmpFloat fp64 (xFunc f.c % 8) (bit f.c 3) (d64 (opnd (.setpF64 f) u t 0)) (d64 (opnd (.setpF64 f) u t 1))
    (setpOut f t r.1, r.2)))

/-- rint.f (R234). -/
def execRintF (f : XF) (s : State) : Host.Outcome State Fault Refusal :=
  s.issue (.rintF f) (computeBody f.d.toNat (xKD f.c) (fun u _ t =>
    let r := fRint fp32 (xRnd f.c) (opw (.rintF f) u t 0).toNat
    ([{ val := BitVec.ofNat 32 r.1, tag := tF32 }], r.2)))

/-- rint.f64 (R234, R231). -/
def execRintF64 (f : XF) (s : State) : Host.Outcome State Fault Refusal :=
  s.issue (.rintF64 f) (computeBody f.d.toNat (xKD f.c) (fun u _ t =>
    let r := fRint fp64 (xRnd f.c) (d64 (opnd (.rintF64 f) u t 0))
    (r64 r.1, r.2)))

/-- The FP32 rounding of an exact FP64 difference (R232). -/
def crelVal (a b : Nat) : Nat × Flags :=
  let d := xAdd mRNE (fp64.value a) (fp64.value b).flip
  let r := roundTo fp32 d.1 mRNE false
  (r.1, d.2 ||| r.2 ||| fp64.snanFlag a ||| fp64.snanFlag b)

/-- crel (R232). -/
def execCrel (f : XF) (s : State) : Host.Outcome State Fault Refusal :=
  s.issue (.crel f) (computeBody f.d.toNat (xKD f.c) (fun u _ t =>
    let r := crelVal (d64 (opnd (.crel f) u t 0)) (d64 (opnd (.crel f) u t 1))
    ([{ val := BitVec.ofNat 32 r.1, tag := tF32 }], r.2)))

/-- dot4 (R235, R236). -/
def execDot4 (f : XF) (s : State) : Host.Outcome State Fault Refusal :=
  s.issue (.dot4 f) (computeBody f.d.toNat (xKD f.c) (fun u _ t =>
    let r := dot4Val (xTag f.c) (xFunc f.c) (xRnd f.c) (xSat f.c) (opw (.dot4 f) u t 0) (opw (.dot4 f) u t 1)
      (opw (.dot4 f) u t 2)
    ([{ val := BitVec.ofNat 32 r.1, tag := tF32 }], r.2)))

/-- The scale bytes of cvt (R239): destination in [7:0], source in [15:8] of s[C]. -/
def cvtScales (f : XF) (u : List Word) : Option Nat × Option Nat :=
  let w := uniAt u (xC f.c)
  let sk := xFunc f.c / 16
  let dk := xFunc f.c % 16
  (if sk = 0xA ∧ b8Scaled (cvtSTag f) then some (bits w 8 8) else none,
   if dk = 0xA ∧ b8Scaled (cvtDTag f) then some (bits w 0 8) else none)

/-- cvt (R237 to R241): the dither phase advances when the conversion rounds in ODR (R155). -/
def execCvt (f : XF) (s : State) : Host.Outcome State Fault Refusal :=
  s.issue (.cvt f) (fun s c =>
    match computeBody f.d.toNat (xKD f.c) (fun u l t =>
        cvtLane (xFunc f.c / 16) (cvtSTag f) (xFunc f.c % 16) (cvtDTag f) (cvtScales f u).1 (cvtScales f u).2
          (xRnd f.c) (xSat f.c) c.phase l (opnd (.cvt f) u t 0)) s c with
    | .error t => .error t
    | .ok s1 =>
      if c.any && xRnd f.c == 5 && cvtRounds (xFunc f.c / 16) (xFunc f.c % 16) then
        match s1.x.wg? c.w.id with
        | none => .ok s1
        | some w =>
          match w.grp? c.g.idx with
          | none => .ok s1
          | some g => .ok (s1.putGrp w.id (c.advPhase g))
      else .ok s1)

/-- xflt: the floating-point operation named in FUNC (R210). -/
def execXflt (f : XF) (s : State) : Host.Outcome State Fault Refusal := s.issue (.xflt f) (xBody (.xflt f) f)

end Sys2Proof.Machine
end

