-- ==== Sys2Proof/Machine/Xlate.lean ====
section
/-!
DEFINITION. Address translation (16_translation R356 to R360, R367): page-table entries, the walk of a die's own
replica, the TLBs, and the current value of the pod's memory as any agent of the package reads it.
-/

set_option linter.unusedVariables false

namespace Sys2Proof.Machine

/-! ### Current contents of memory (17_coherence R371, R379) -/

/-- The 128 bytes of a line as one value, byte 0 in bits [7:0]. -/
def Mem.line (m : Mem) (l : Nat) : BitVec 1024 := BitVec.ofNat 1024 (m.num (128 * l) 128)
def Mem.putLine (m : Mem) (l : Nat) (d : BitVec 1024) : Mem := m.putNum (128 * l) 128 d.toNat

/-- Byte k of a line. -/
def lineByte (d : BitVec 1024) (k : Nat) : Byte := d.extractLsb' (8 * k) 8

/-- A line with the bytes of a mask replaced. -/
def lineMerge (old new : BitVec 1024) (mask : BitVec 128) : BitVec 1024 :=
  (List.range 128).foldl (fun d k =>
    if mask.getLsbD k then
      (d &&& ~~~((0xFF#1024) <<< (8 * k))) ||| (((lineByte new k).setWidth 1024) <<< (8 * k))
    else d) old

/-- Data that a message carries of a line that its sender owned. -/
def msgData : MsgK → Option (BitVec 1024)
  | .putM d => some d
  | .putO d => some d
  | .backInvAck d => d
  | .data st d _ => if st = 3 then some d else none
  | _ => none

/-- The value of a line that an agent holds in place of memory: the owner's copy, what is in flight from an owner, the
eviction buffer's, or a slice's (R371, R375, R379, R380, R388). -/
def State.ownedLine (s : State) (l : Nat) : Option (BitVec 1024) :=
  let own := s.fab.dies.findSome? (fun e =>
    match cfind l e.2.llc with
    | some k => if k.st = .M ∨ k.st = .O ∨ k.own then some k.data else none
    | none => none)
  match own with
  | some d => some d
  | none =>
    match s.fab.net.reverse.findSome? (fun m => if m.line = l then msgData m.k else none) with
    | some d => some d
    | none =>
      match s.fab.dies.findSome? (fun e => e.2.evb.findSome? (fun v => if v.line = l then v.data else none)) with
      | some d => some d
      | none =>
        match cfind l s.fab.slices with
        | some v => if v.st = .M ∨ v.st = .O then some v.data else none
        | none => none

/-- The current value of a line. -/
def State.freshLine (s : State) (l : Nat) : BitVec 1024 := (s.ownedLine l).getD (s.mem.line l)

/-- A byte and n bytes of the pod's memory. -/
def State.freshByte (s : State) (pa : Nat) : Byte :=
  match s.ownedLine (pa / 128) with
  | some d => lineByte d (pa % 128)
  | none => s.mem.get pa
def State.freshBytes (s : State) (pa : Nat) : Nat → List Byte
  | 0 => []
  | n + 1 => s.freshByte pa :: s.freshBytes (pa + 1) n
def State.freshNum (s : State) (pa n : Nat) : Nat := leNat (s.freshBytes pa n)

/-! ### Page-table entries (R358) -/

def pteNX (e : DWord) : Bool := bit e 63
def pteRT (e : DWord) : Bool := bit e 62
def pteHome (e : DWord) : Nat := bits e 53 6
def pteLoc (e : DWord) : Bool := bit e 52
def pteFrame (e : DWord) : Nat := bits e 12 40 * 4096
def pteTarget (e : DWord) : Nat := bits e 12 6
def ptePlc (e : DWord) : Nat := bits e 10 2
def pteFta (e : DWord) : Bool := bit e 9
def pteSz64 (e : DWord) : Bool := bit e 8
def pteLeaf (e : DWord) : Bool := bit e 7
def pteW (e : DWord) : Bool := bit e 2
def pteV (e : DWord) : Bool := bit e 0

/-- Bits [61:59], [6:3] and [1] of an entry, which must be zero. -/
def pteRsvOk (e : DWord) : Bool := bits e 59 3 == 0 && bits e 3 4 == 0 && !bit e 1

/-- The significant bits of a virtual address. -/
def va57 (va : DWord) : Nat := va.toNat % 2 ^ 57

/-- What a walk meets: no valid translation, a leaf to bind in hardware (R361), or a valid leaf. -/
inductive WalkRes where
  | notMapped
  | bind (size : Nat) (pte : DWord)
  | ok (e : Tlb)
  deriving DecidableEq, Repr

/-- The result at a leaf of 2^size bytes (R359, R361). -/
def walkLeaf (s : State) (asid va size : Nat) (e : DWord) : WalkRes :=
  let plc := ptePlc e
  if !pteRsvOk e || (size != 12 && plc == 2) then .notMapped
  else if !pteV e then
    if pteFta e && plc != 3 && (size == 12 || size == 21) then .bind size e else .notMapped
  else if !pteLoc e && !s.paExists (pteFrame e) then .notMapped
  else if size == 16 && pteFrame e % 65536 != 0 then .notMapped
  else .ok { asid := asid, vpn := va / 2 ^ size, size := size, pte := e }

/-- The physical address of the entry of a table for a virtual address at a level (R356). -/
def entryPa (table va level : Nat) : Nat := table + 8 * (va / 2 ^ (12 + 9 * level) % 512)

/-- The walk from a table at a level downwards (R356, R359); `fuel` is the level itself. -/
def walkFrom (s : State) (asid va : Nat) : Nat → Nat → WalkRes
  | 0, table =>
    let e0 := BitVec.ofNat 64 (s.freshNum (entryPa table (va / 65536 * 65536) 0) 8)
    if pteSz64 e0 then walkLeaf s asid va 16 e0
    else
      let e := BitVec.ofNat 64 (s.freshNum (entryPa table va 0) 8)
      if pteSz64 e then .notMapped else walkLeaf s asid va 12 e
  | level + 1, table =>
    let e := BitVec.ofNat 64 (s.freshNum (entryPa table va (level + 1)) 8)
    if pteSz64 e then .notMapped
    else if pteLeaf e then
      if level + 1 ≤ 2 then walkLeaf s asid va (12 + 9 * (level + 1)) e else .notMapped
    else if !pteRsvOk e || !pteV e || pteLoc e || !s.paExists (pteFrame e) then .notMapped
    else walkFrom s asid va level (pteFrame e)

/-- The root of a context's tables on a die, as read at its registration; none if it has none there (R352, R364). -/
def State.root (s : State) (asid d : Nat) : Option Nat :=
  let c := s.ctx asid
  let r := ((c.rootTab[d]?).getD 0).toNat
  if c.live ∧ r ≠ 0 then some (s.pkg.dev * 2 ^ 46 + r % 2 ^ 46) else none

/-- A walk of die d's replica (R359, R364). -/
def State.walk (s : State) (d asid : Nat) (va : DWord) : WalkRes :=
  match s.root asid d with
  | none => .notMapped
  | some r => if s.paExists r then walkFrom s asid (va57 va) 4 r else .notMapped

/-! ### TLBs (R367) -/

/-- The cached translation of an address. -/
def tlbFind (asid : Nat) (va : DWord) (l : List Tlb) : Option Tlb :=
  l.find? (fun e => e.asid == asid && e.vpn == va57 va / 2 ^ e.size)

/-- A translation cached; the oldest is dropped when the TLB is full (assumption 20). -/
def tlbAdd (cap : Nat) (e : Tlb) (l : List Tlb) : List Tlb := (e :: l.filter (fun u => u != e)).take cap

/-- The physical address of a virtual address under a leaf. -/
def Tlb.pa (e : Tlb) (va : DWord) : Nat := pteFrame e.pte + va57 va % 2 ^ e.size

/-- What translating an address for a core gives: a physical address and its leaf, a fault of class 4, or a bind. -/
inductive XlateRes where
  | ok (e : Tlb) (pa : Nat)
  | fault (code : Nat)
  | bind
  deriving DecidableEq, Repr

/-- The permission checks of a leaf (R358, R359). -/
def xlateLeaf (e : Tlb) (va : DWord) (write fetch : Bool) : XlateRes :=
  if fetch && pteNX e.pte then .fault 3
  else if write && !pteW e.pte then .fault 2
  else .ok e (e.pa va)

/-- The cached translation of an address at a core: its own TLB, then its die's (R367). -/
def State.cached (s : State) (d c asid : Nat) (va : DWord) : Option Tlb :=
  match tlbFind asid va (s.x.core d c).tlb with
  | some e => some e
  | none => tlbFind asid va (s.die d).tlb

/-- A translation cached at a core and its die. -/
def State.cache (s : State) (d c : Nat) (e : Tlb) : State :=
  let k := s.x.core d c
  let v := s.die d
  ({ s with x := s.x.setCore d c { k with tlb := tlbAdd Config.tlbCore e k.tlb } }).setDie d
    { v with tlb := tlbAdd Config.tlbDie e v.tlb }

/-- Translation by the TLBs, else by a walk of the die's replica; a walk's valid entry is cached (R367). -/
def State.xlate (s : State) (d c asid : Nat) (va : DWord) (write fetch : Bool) : XlateRes × State :=
  if !canonicalVa va then (.fault 4, s)
  else match s.cached d c asid va with
    | some e => (xlateLeaf e va write fetch, s)
    | none =>
      match s.walk d asid va with
      | .notMapped => (.fault 1, s)
      | .bind _ _ => (.bind, s)
      | .ok e =>
        match xlateLeaf e va write fetch with
        | .fault k => (.fault k, s)
        | r => (r, s.cache d c e)

/-! ### Accesses of the device's own engines by virtual address -/

/-- The lowest working die: its replica serves the package controller's accesses (assumption 21). -/
def State.ctlDie (s : State) : Nat := (s.dieOrder.head?).getD 0

/-- The physical address that an engine of die d uses for a virtual address of a context, and whether it is the host's. -/
def State.diePa (s : State) (d asid : Nat) (va : DWord) (write : Bool) : Option (Nat × Bool) :=
  if !canonicalVa va then none
  else match s.walk d asid va with
    | .ok e => if write && !pteW e.pte then none else some (e.pa va, pteLoc e.pte)
    | _ => none

/-- n bytes at a virtual address of a context, read by an engine of die d. -/
def State.dieRead (s : State) (d asid : Nat) (va : DWord) : Nat → Option (List Byte)
  | 0 => some []
  | n + 1 =>
    match s.diePa d asid va false with
    | none => none
    | some (pa, host) =>
      match s.dieRead d asid (va + 1) n with
      | none => none
      | some r => some ((if host then s.host.get pa else s.freshByte pa) :: r)

/-- The physical address that the package controller uses; writes go to the home frame of a replicated page
(assumption 21). -/
def State.ctlPa (s : State) (asid : Nat) (va : DWord) (write : Bool) : Option (Nat × Bool) := s.diePa s.ctlDie asid va write

/-- n bytes at a virtual address of a context, read by the package controller. -/
def State.ctlRead (s : State) (asid : Nat) (va : DWord) (n : Nat) : Option (List Byte) := s.dieRead s.ctlDie asid va n

/-- A little-endian number at a virtual address. -/
def State.ctlNum (s : State) (asid : Nat) (va : DWord) (n : Nat) : Option Nat := (s.ctlRead asid va n).map leNat

end Sys2Proof.Machine
end

