-- ==== Sys2Proof/Machine/Access.lean ====
section
/-!
DEFINITION. Accesses in flight: translation of their lanes with the waits and faults of the operand log (19_traps R410
to R413, 07_ordering R164), parking (02_execution R30), watch ranges (R409), the registers that a reply writes
(10_isa R245, R246, R252), and the end of an access (R48).
-/

set_option linter.unusedVariables false

namespace Sys2Proof.Machine

/-! ### Addresses -/

/-- Physical addresses of the host are held from 2^52 up (16_translation R357). -/
def hostBase : Nat := 2 ^ 52
def isHost (pa : Nat) : Bool := decide (hostBase ≤ pa)

/-- The parts of a range of less than a page that lie on one 4 KiB page each. -/
def pieces (va : DWord) (n : Nat) : List (DWord × Nat) :=
  let k := 4096 - va.toNat % 4096
  if n ≤ k then [(va, n)] else [(va, k), (va + BitVec.ofNat 64 k, n - k)]

/-- The 4 KiB page of an address. -/
def pageOf (va : DWord) : Nat := va57 va / 4096

/-- An access of n bytes lies in the canonical space with its first and its last byte (R356). -/
def canonicalRange (va : DWord) (n : Nat) : Bool := canonicalVa va && canonicalVa (va + BitVec.ofNat 64 (n - 1))

/-- Kinds that need write permission and collapse a replicated page (R359, R360). -/
def AccKind.writes : AccKind → Bool
  | .store | .atomic | .reduce | .spill => true
  | _ => false

/-- Kinds that raise LD, and kinds that raise ST (R243). -/
def AccKind.raisesLd : AccKind → Bool
  | .load | .atomic | .sub | .reply | .refill => true
  | _ => false
def AccKind.raisesSt : AccKind → Bool
  | .store | .reduce | .spill => true
  | _ => false

/-- Kinds that reserve an entry of the operand log (R410). -/
def Access.logs (a : Access) : Bool :=
  !a.inScratch && (match a.kind with
    | .load | .store | .atomic | .reduce | .sub => true
    | _ => false)

/-- Entries of a group's operand log that are in use. -/
def Exec.logUsed (x : Exec) (w g : Nat) : Nat :=
  (x.accs.filter (fun a => a.wg == w && a.grp == g && a.logs && a.lanes.any LaneAcc.logged)).length

/-! ### Homes -/

/-- The die of a line's address, as the home's agent: on this device or on another of the pod. -/
def State.homeDie (s : State) (line : Nat) : Agent :=
  if line / 2 ^ 39 = s.pkg.dev then .die (line / 2 ^ 33 % 64) else .remote (line / 2 ^ 39) (line / 2 ^ 33 % 64)

/-- The device that an agent lies on; none for a slice and for the host. -/
def State.devOf (s : State) : Agent → Option Nat
  | .die _ => some s.pkg.dev
  | .core _ _ => some s.pkg.dev
  | .remote e _ => some e
  | _ => none

/-- The agent that acts as the home of a line for a requester: its home die, or the governing slice for a requester of
another device (17_coherence R388). -/
def State.homeAgent (s : State) (r : Agent) (line : Nat) : Agent :=
  match s.devOf r with
  | some e => if line / 2 ^ 39 = e then s.homeDie line else .slice (line % 24)
  | none => s.homeDie line

/-- Whether a line is homed on another device (R30). -/
def State.foreign (s : State) (pa : Nat) : Bool := !isHost pa && decide (paDev pa ≠ s.pkg.dev)

/-! ### Translation of a lane -/

/-- What translating the bytes of a lane gives: their physical addresses and their lines on render-target pages, a fault,
or a page to walk or collapse. -/
inductive LaneX where
  | ok (pa : List Nat) (rt : List Nat)
  | fault (code : Nat) (va : DWord)
  | walk (va : DWord)
  | collapse (va : DWord)
  deriving DecidableEq, Repr

/-- One part of a lane under the cached translations. -/
def State.pieceX (s : State) (d c asid : Nat) (write fetch : Bool) (p : DWord × Nat) : LaneX :=
  if !canonicalVa p.1 then .fault 4 p.1
  else match s.cached d c asid p.1 with
    | none => .walk p.1
    | some e =>
      match xlateLeaf e p.1 write fetch with
      | .fault k => .fault k p.1
      | .bind => .walk p.1
      | .ok e pa =>
        if write && ptePlc e.pte == 3 then .collapse p.1
        else
          let bs := (List.range p.2).map (fun k => (if pteLoc e.pte then hostBase else 0) + pa + k)
          .ok bs (if pteRT e.pte then (bs.map lineOf).eraseDups else [])

/-- The parts of a lane together: the first part that is not translated decides. -/
def joinX : List LaneX → LaneX
  | [] => .ok [] []
  | .ok pa rt :: r =>
    match joinX r with
    | .ok pb rb => .ok (pa ++ pb) (rt ++ rb)
    | y => y
  | y :: _ => y

/-- A range of a workgroup's context under the cached translations of its core. -/
def State.rangeX (s : State) (w : Wg) (write fetch : Bool) (va : DWord) (n : Nat) : LaneX :=
  joinX ((pieces va n).map (s.pieceX w.die w.core w.asid write fetch))

/-- An older access of the group to the same page is held in its log (R164, R411). -/
def Exec.blocked (x : Exec) (a : Access) (l : LaneAcc) : Bool :=
  x.accs.any (fun b => b.wg == a.wg && b.grp == a.grp && decide (b.id < a.id) && b.logs &&
    b.lanes.any (fun m => m.logged && (pieces m.va b.width).any (fun p =>
      (pieces l.va a.width).any (fun q => pageOf p.1 == pageOf q.1))))

/-- A lane is held in the operand log: it has met a fault, or waits behind an older access of its group to the page that
has (R164, R410). -/
def Exec.inLog (x : Exec) (a : Access) (l : LaneAcc) : Bool :=
  l.faulted || (l.st == .wait && x.accs.any (fun b => b.wg == a.wg && b.grp == a.grp && decide (b.id < a.id) && b.logs &&
    b.lanes.any (fun m => m.faulted && (pieces m.va b.width).any (fun p =>
      (pieces l.va a.width).any (fun q => pageOf p.1 == pageOf q.1)))))

/-- A lane of an access that has met a fault (R411, R412): the lanes of one access that meet it on one page share one
entry of the driver fault ring. -/
def State.accFault (s : State) (w : Wg) (a : Access) (k code : Nat) (va : DWord) : State :=
  let l := (a.lanes[k]?).getD { lane := 0, va := 0 }
  let old := a.lanes.findSome? (fun m =>
    match m.st with
    | .fault c i v => if c = code ∧ pageOf v = pageOf va then some i else none
    | _ => none)
  let g := (w.grp? a.grp).getD {}
  let skid := min 65535 (g.issued - a.skid0)
  match old with
  | some i =>
    { s with x := s.x.setAcc { a with lanes := a.lanes.set k { l with st := .fault code i va }, skid := skid } }
  | none =>
    let (i, x) := s.x.fresh
    let kind := (if a.kind.writes then 1 else 0) + (if a.kind = .fetch then 2 else 0) +
      (if a.kind = .atomic ∨ a.kind = .reduce then 4 else 0)
    { s with x := x.setAcc { a with lanes := a.lanes.set k { l with st := .fault code i va }, skid := skid } }.postFault
      (0x4000 + code) w.asid w.die i va kind w.lcore 0

/-- Translates a waiting lane of an access as far as the cached translations reach. -/
def State.accLane (s : State) (id k : Nat) : State :=
  match s.x.acc? id with
  | none => s
  | some a =>
    match s.x.wg? a.wg, a.lanes[k]? with
    | some w, some l =>
      if l.st ≠ .wait ∨ s.x.blocked a l = true then s
      else match s.rangeX w a.kind.writes (a.kind == .fetch) l.va a.width with
        | .ok pa rt =>
          { s with x := s.x.setAcc { a with lanes := a.lanes.set k { l with st := .ok, pa := pa, rt := rt } } }
        | .fault code va => s.accFault w a k code va
        | _ => s
    | _, _ => s

/-! ### Registers written by a reply -/

/-- Byte k of a word list, little-endian words of four bytes. -/
def leWord (bs : List Byte) (r : Nat) : Word := BitVec.ofNat 32 (leNat ((bs.drop (4 * r)).take 4))

/-- The registers that a load fills from its bytes (R245, R246). -/
def placeLoad (size : Nat) (f8 : Byte) (d lane : Nat) (bs : List Byte) : List RegWr :=
  if size ≤ 1 then
    let n := 8 * 2 ^ size
    let v := leWord bs 0
    let x : Word := if f8 = tI32 then (v <<< (32 - n)).sshiftRight (32 - n) else v
    [{ kind := 0, lane := lane, idx := d, val := x, tag := f8 }]
  else
    (List.range (sizeRegs size)).map (fun j =>
      { kind := 0, lane := lane, idx := d + j, val := leWord bs j,
        tag := if f8 = tF64L then (if j % 2 = 0 then tF64L else tF64H) else f8 })

/-- The tags of an atomic's old value (R252). -/
def atomTags (ty : Nat) : List Byte :=
  match ty with
  | 1 => [tI32]
  | 2 => [tN32]
  | 3 => [tF32]
  | 4 => [tBF16]
  | 5 => [tRAW, tRAW]
  | 6 => [tN32, tI32]
  | 7 => [tN32, tN32]
  | 8 => [tF64L, tF64H]
  | 9 => [tF16]
  | _ => [tRAW]

/-- The registers that an atomic writes with its old value. -/
def placeAtom (ty d lane : Nat) (old : BitVec 64) : List RegWr :=
  (atomTags ty).mapIdx (fun j t =>
    { kind := 0, lane := lane, idx := d + j, val := if j = 0 then loWord old else hiWord old, tag := t })

/-- A result written: the register of an ended lane keeps its value (R266). -/
def Group.putRes (g : Group) (r : RegWr) : Group :=
  match r.kind with
  | 0 =>
    let t := g.lane r.lane
    if t.st = .live then g.setLane r.lane (t.setReg r.idx { val := r.val, tag := r.tag }) else g
  | 1 => g.setUni r.idx [r.val]
  | _ =>
    let t := g.lane r.lane
    if t.st = .live then g.setLane r.lane (t.setPred r.idx (r.val ≠ 0)) else g

/-- The destination registers of some lanes of an access are written (R29). -/
def Group.unbusy (g : Group) (id : Nat) (m : Word) : Group :=
  { g with busy := (g.busy.map (fun b =>
      if b.due = .acc id ∧ b.kind ≠ 1 then { b with lanes := b.lanes &&& ~~~m } else b)).filter (fun b => b.lanes ≠ 0) }

/-! ### The end of an access -/

/-- Whether a lane's memory is homed on another device, by its translation or, before it has one, by its die's tables. -/
def State.laneForeign (s : State) (w : Wg) (a : Access) (l : LaneAcc) : Bool :=
  match l.st with
  | .ok => l.pa.any s.foreign
  | .wait => (pieces l.va a.width).any (fun p => match s.walk w.die w.asid p.1 with
    | .ok e => !pteLoc e.pte && s.foreign (e.pa p.1)
    | _ => false)
  | _ => false

/-- A load or atomic with a lane homed on another device (R30). -/
def State.awaitsRemote (s : State) (w : Wg) (a : Access) : Bool :=
  (a.kind == .load || a.kind == .atomic) && !a.inScratch && !a.lanes.isEmpty && a.lanes.any (s.laneForeign w a)

/-- What parks a group next when the access that parked it ends (R30). -/
def State.remotePark (s : State) (x : Exec) (w : Wg) (gi : Nat) : Park :=
  match x.accs.find? (fun a => a.wg == w.id && a.grp == gi && s.awaitsRemote w a) with
  | some a => .remote a.id
  | none => .none

/-- An access that is over leaves: its counter falls, its destinations are written, its group is no longer parked for
it, but for another one whose reply is still to come (R48, R30). -/
def State.accEnd (s : State) (id : Nat) : State :=
  match s.x.acc? id with
  | none => s
  | some a =>
    let x := s.x.delAcc id
    match x.wg? a.wg with
    | none => { s with x := x }
    | some w =>
      match w.grp? a.grp with
      | none => { s with x := x }
      | some g =>
        let g1 := { g with
          ld := if a.kind.raisesLd then g.ld - 1 else g.ld
          stc := if a.kind.raisesSt then g.stc - 1 else g.stc
          busy := g.busy.filter (fun b => b.due ≠ .acc id)
          park := if g.park = .remote id then s.remotePark x w a.grp else g.park }
        { s with x := x.setWg (w.setGrp g1) }

/-- The trap of a watched access, in the lanes that made it, once it is performed (R409). -/
def State.watchEnd (s : State) (wi gi id : Nat) (pc : DWord) : State :=
  match s.x.wg? wi with
  | none => s
  | some w =>
    match w.grp? gi with
    | none => s
    | some g =>
      let ls := g.live.filter (fun l => (g.lane l).hold == .watch id)
      let hs := g.live.filter (fun l => (g.lane l).resHold == .watch id)
      let g1 := { g with lanes := g.lanes.map (fun (t : Lane) => t.lift (.watch id)) }
      let s1 := { s with x := s.x.setWg (w.setGrp g1) }
      if ls ++ hs = [] then s1 else s1.deliverTrap wi gi (ls ++ hs) { cls := 9, code := 2 } (fun _ => pc) 0

/-- Ends an access whose lanes are all over. -/
def State.accSettle (s : State) (id : Nat) : State :=
  match s.x.acc? id with
  | none => s
  | some a =>
    if a.lanes.all LaneAcc.over then (s.accEnd id).watchEnd a.wg a.grp id a.pc else s

/-! ### Subscriptions at the core (03_kernel_memory R84, 10_isa R257) -/

/-- The standing-table entry of a workgroup's slot. -/
def Core.standOf (k : Core) (w slot : Nat) : Option (Nat × Stand) :=
  k.stand.find? (fun e => e.2.wg == w && e.2.slot == slot)

/-- The lowest free index of the standing table. -/
def Core.standFree (k : Core) : Option Nat :=
  (List.range Config.standEntries).find? (fun i => (cfind i k.stand).isNone)

/-- The status of a stand.sub written: any status but OK frees its entry (R84); with OK the header is reset, with the
sequence number of the initial push (R86). -/
def State.subStatus (s : State) (id status : Nat) (seq : Word) : State :=
  match s.x.acc? id with
  | none => s
  | some a =>
    match s.x.wg? a.wg with
    | none => s.accEnd id
    | some w =>
      let k := s.x.core w.die w.core
      let stand := k.stand.filterMap (fun e =>
        if e.2.acc = id ∧ e.2.st = .pending then
          (if status = 0 then some (e.1, { e.2 with st := .active, seq := seq }) else none)
        else some e)
      let x := s.x.setCore w.die w.core { k with stand := stand }
      let d := match a.ins with
        | .standSub f => f.x.toNat
        | _ => 0
      let g := ((w.grp? a.grp).getD {}).setUni d [BitVec.ofNat 32 status]
      let ac := { a with lanes := a.lanes.map (fun l => { l with st := .done }) }
      ({ s with x := (x.setWg (w.setGrp g)).setAcc ac }).accSettle id

/-- The physical address that a subscription names: on a replicated page, the frame at its HOME (R84, R360). -/
def State.subPa (s : State) (w : Wg) (va : DWord) (pa : Nat) : Nat :=
  match s.cached w.die w.core w.asid va with
  | none => pa
  | some e =>
    if ptePlc e.pte = 3 then
      match s.walk (pteHome e.pte) w.asid va with
      | .ok f => f.pa va
      | _ => pa
    else pa

/-- A Sub on its way to the home of its line; the core's own mesh router answers NackLost for a home that is mapped out
(17_coherence R385). -/
def State.subSend (s : State) (d c line : Nat) (q : MsgK) : State :=
  match s.homeDie line with
  | .die h => if s.working h then s.send (.core d c) (.die h) line q
    else s.send (.core d c) (.core d c) line (.nackLost ((msgAcc q).getD 0))
  | h => s.send (.core d c) h line q

/-- A translated stand.sub: the statuses that the core decides, in the order 3, 2, 4, else a Sub to the home once its
predecessors are performed (R84, R257). `aux` holds the status decided at issue. -/
def State.subGo (s : State) (id : Nat) : State :=
  match s.x.acc? id with
  | none => s
  | some a =>
    match a.kind, a.lanes, s.x.wg? a.wg with
    | .sub, l :: _, some w =>
      if l.st ≠ .ok then s
      else if a.aux ≠ 0 then s.subStatus id a.aux 0
      else
        let pa := s.subPa w l.va ((l.pa.head?).getD 0)
        if isHost pa then s.subStatus id 4 0
        else if a.sent ≠ [] ∨ s.x.waits a.after ≠ [] then s
        else
          let line := lineOf pa
          let k := s.x.core w.die w.core
          match k.stand.find? (fun e => e.2.acc == id && e.2.st == .pending) with
          | none => s
          | some e =>
            let x := (s.x.setCore w.die w.core { k with stand := cset e.1 { e.2 with line := line } k.stand }).setAcc
              { a with sent := [line] }
            ({ s with x := x }).subSend w.die w.core line (.sub w.core e.1 id e.2.every (l.rt.contains line))
    | _, _, _ => s

/-! ### Translation of an access -/

/-- A load or atomic with a lane homed on another device parks its group from its issue on (R30). -/
def State.accPark (s : State) (id : Nat) : State :=
  match s.x.acc? id with
  | none => s
  | some a =>
    match s.x.wg? a.wg with
    | none => s
    | some w =>
      match w.grp? a.grp with
      | none => s
      | some g =>
        if g.park = .none ∧ s.awaitsRemote w a = true then
          { s with x := s.x.setWg (w.setGrp { g with park := .remote id }) }
        else if g.park = .remote id ∧ s.awaitsRemote w a = false then
          { s with x := s.x.setWg (w.setGrp { g with park := s.remotePark (s.x.delAcc id) w a.grp }) }
        else s

/-- Every waiting lane of a global access translated as far as the cached translations reach, its group parked for a
lane homed on another device. -/
def State.accMove (s : State) (id : Nat) : State :=
  let n := ((s.x.acc? id).map (fun a => a.lanes.length)).getD 0
  ((List.range n).foldl (fun s k => s.accLane id k) s).accPark id

/-- The same for any access: a translated stand.sub goes on to its status or its home. -/
def State.accTry (s : State) (id : Nat) : State := (s.accMove id).subGo id

/-! ### Watch ranges (R409) -/

/-- Whether a range of bytes meets a watch range of the context in a direction. -/
def Ctx.watches (c : Ctx) (rd wr : Bool) (va : DWord) (n : Nat) : Bool :=
  c.watch && (List.range 4).any (fun i =>
    let lo := (c.wlo[i]?).getD 0
    let hi := bits ((c.whi[i]?).getD 0) 0 57
    ((wr && bit lo 63) || (rd && bit lo 62)) && decide (va57 va < hi) && decide (bits lo 0 57 < va57 va + n))

end Sys2Proof.Machine
end

