-- ==== Sys2Proof/Machine/Tables.lean ====
section
/-!
DEFINITION. The tables that the device's own engines write in place (assumption 23), and first-touch binds, which rewrite
the page tables of every die (16_translation R361 to R364). A write of a table counts as a store for the subscribers of its
line (17_coherence R383).
-/

set_option linter.unusedVariables false

namespace Sys2Proof.Machine

/-! ### Agents and pushes -/

def keyAgent (k : Nat) : Agent := if k < 64 then .die k else .remote (k / 64 - 1) (k % 64)

/-- The number of a line's home die. -/
def State.homeKey (s : State) (line : Nat) : Nat := agKey (s.homeDie line)

/-- The agent of a subscriber's core. -/
def State.subAgent (s : State) (u : Subscr) : Agent := if u.dev = s.pkg.dev then .core u.die u.core else .remote u.dev u.die

def Subscr.is (u : Subscr) (dev die core idx : Nat) : Bool := u.dev == dev && u.die == die && u.core == core && u.idx == idx

/-- SendPush (R383). -/
def State.sendPush (s : State) (h line : Nat) (u : Subscr) (img : BitVec 1024) : State :=
  match cfind line (s.die h).subs with
  | none => s
  | some v =>
    let v1 := { v with subs := v.subs.map (fun (o : Option Subscr) => match o with
      | some t => if t.is u.dev u.die u.core u.idx then some { t with n := 0, p := true } else some t
      | none => none) }
    (s.setDie h { s.die h with subs := cset line v1 (s.die h).subs }).send (keyAgent h) (s.subAgent u) line
      (.push u.idx img v.seq (min (u.n - 1) 65535))

/-- One store counted on a line with subscribers (R383). -/
def State.pushStore (s : State) (h line : Nat) (img : BitVec 1024) : State :=
  match cfind line (s.die h).subs with
  | none => s
  | some v =>
    let v1 := { v with
      seq := v.seq + 1
      subs := v.subs.map (fun o => o.map (fun u => { u with n := min (u.n + 1) 131071 })) }
    let s1 := s.setDie h { s.die h with subs := cset line v1 (s.die h).subs }
    v1.subs.foldl (fun s o => match o with
      | some u => if u.p then s else s.sendPush h line u img
      | none => s) s1

/-! ### Table writes -/

/-- A mask and the bytes under it. -/
def maskData (bs : List (Nat × Byte)) : BitVec 128 × BitVec 1024 :=
  bs.foldl (fun p b =>
    let k := b.1 % 128
    ((p.1 ||| (1#128 <<< k) : BitVec 128), ((p.2 &&& ~~~((0xFF#1024) <<< (8 * k))) ||| (((b.2.setWidth 1024) : BitVec 1024) <<< (8 * k)) : BitVec 1024))) (0, 0)

/-- The distinct lines of some bytes, in order. -/
def linesOf (bs : List (Nat × Byte)) : List Nat :=
  bs.foldl (fun t b => if t.contains (lineOf b.1) then t else t ++ [lineOf b.1]) []

/-- The data of a line with some of its bytes replaced. -/
def patchData (line : Nat) (bs : List (Nat × Byte)) (d : BitVec 1024) : BitVec 1024 :=
  let b := maskData (bs.filter (fun b => lineOf b.1 == line))
  lineMerge d b.2 b.1

/-- The data that a message carries replaced. -/
def MsgK.mapData (f : BitVec 1024 → BitVec 1024) : MsgK → MsgK
  | .putM d => .putM (f d)
  | .putO d => .putO (f d)
  | .data st d a => .data st (f d) a
  | .backInvAck d => .backInvAck (d.map f)
  | k => k

/-- One line of a device table written in one step: in memory, in every copy that an agent of the pod holds, and in the
data under way between them. It counts as a store for the line's subscribers (R383). -/
def State.pokeLine (s : State) (bs : List (Nat × Byte)) (line : Nat) : State :=
  let f := patchData line bs
  let onLine (m : Msg) : Msg := if m.line = line then { m with k := m.k.mapData f } else m
  let s1 := { s with
    mem := s.mem.putLine line (f (s.mem.line line))
    fab := { s.fab with
      net := s.fab.net.map onLine
      slices := s.fab.slices.map (fun (e : Nat × SliceEnt) => if e.1 = line then (e.1, { e.2 with data := f e.2.data }) else e)
      gathers := s.fab.gathers.map (fun (g : Gather) => if g.line = line then { g with data := g.data.map f } else g)
      dies := s.fab.dies.map (fun (e : Nat × Die) => (e.1, { e.2 with
        llc := e.2.llc.map (fun (v : Nat × Line) => if v.1 = line then (v.1, { v.2 with data := f v.2.data }) else v)
        evb := e.2.evb.map (fun (v : Evict) => if v.line = line then { v with data := v.data.map f } else v) })) } }
  s1.pushStore (s1.homeKey line) line (s1.freshLine line)

/-- n consecutive numbers from d upwards. -/
def regsFrom (d n : Nat) : List Nat := (List.range n).map (fun j => d + j)

/-- Bytes of a device table written in place. -/
def State.poke (s : State) (pa : Nat) (bs : List Byte) : State :=
  let ws := (regsFrom pa bs.length).zip bs
  (linesOf ws).foldl (fun s l => s.pokeLine ws l) s

/-! ### Replicas (R364, R366) -/

/-- The address of the leaf entry for a virtual address in a die's replica, and the leaf's level; the walk follows
valid next-table entries only. -/
def leafFrom (s : State) (va : Nat) : Nat → Nat → Option (Nat × Nat)
  | 0, table =>
    let e0 := BitVec.ofNat 64 (s.freshNum (entryPa table (va / 65536 * 65536) 0) 8)
    some (if pteSz64 e0 then entryPa table (va / 65536 * 65536) 0 else entryPa table va 0, 0)
  | level + 1, table =>
    let pa := entryPa table va (level + 1)
    let e := BitVec.ofNat 64 (s.freshNum pa 8)
    if pteLeaf e then some (pa, level + 1)
    else if !pteV e || pteLoc e || !s.paExists (pteFrame e) then none
    else leafFrom s va level (pteFrame e)

def State.leafOf (s : State) (d asid : Nat) (va : DWord) : Option (Nat × Nat) :=
  match s.root asid d with
  | some r => if s.paExists r then leafFrom s (va57 va) 4 r else none
  | none => none

/-- The engine writes the leaf of an address on every replica (R361, R366). -/
def State.setLeaf (s : State) (asid : Nat) (va : DWord) (f : Nat → DWord → DWord) : State :=
  s.dieOrder.foldl (fun s d => match s.leafOf d asid va with
    | some (pa, _) => s.poke pa (natLe 8 (f d (BitVec.ofNat 64 (s.freshNum pa 8))).toNat)
    | none => s) s

/-- An entry's fields replaced: valid leaf of a home and a frame, with a placement. -/
def ptePlace (e : DWord) (home frame plc : Nat) : DWord :=
  let keep := e.toNat - bits e 53 6 * 2 ^ 53 - bits e 12 40 * 4096 - bits e 10 2 * 1024 - (if pteFta e then 512 else 0) - (if pteV e then 1 else 0)
  BitVec.ofNat 64 (keep + home * 2 ^ 53 + frame / 4096 % 2 ^ 40 * 4096 + plc * 1024 + 1)

/-! ### First-touch binds (R361 to R363) -/

/-- The target die of a bind. -/
def State.bindDie (s : State) (d : Nat) (va : DWord) (e : DWord) : Nat :=
  match ptePlc e with
  | 0 => d
  | 1 => pteTarget e
  | _ => let o := s.dieOrder; (o[va57 va / 4096 % o.length]?).getD 0

/-- The pool of a size on a die: base, log2 of its entries, head, tail. -/
def Die.pool (k : Die) (size : Nat) : Nat × Nat × Nat × Nat :=
  if size = 12 then (bits k.fpq4 12 52 * 4096, bits k.fpq4 0 5, k.fpq4Head, k.fpq4Tail)
  else (bits k.fpq2 12 52 * 4096, bits k.fpq2 0 5, k.fpq2Head, k.fpq2Tail)

def Die.poolHead (k : Die) (size n : Nat) : Die := if size = 12 then { k with fpq4Head := n } else { k with fpq2Head := n }

/-- A range of memory as zeros, with no copy of it in any cache; lost lines stay lost (17_coherence R386). -/
def State.zeroRange (s : State) (pa n : Nat) : State :=
  let inR (line : Nat) : Bool := decide (pa ≤ 128 * line ∧ 128 * line < pa + n)
  { s with
    mem := s.mem.filter (fun c => !(decide (pa ≤ c.1 ∧ c.1 < pa + n)))
    x := { s.x with cores := s.x.cores.map (fun e => (e.1, { e.2 with l1 := e.2.l1.filter (fun t => !inR t.line) })) }
    fab := { s.fab with
      slices := s.fab.slices.filter (fun e => !inR e.1)
      dies := s.fab.dies.map (fun e => (e.1, { e.2 with
        llc := e.2.llc.filter (fun v => !inR v.1)
        dir := e.2.dir.filter (fun v => !inR v.1 || v.2.st == .lost) })) } }

/-- A page bound once, with a zero-filled frame of the target die's pool, on every replica; none if the pool is empty
or disabled, or the die is not mapped in. -/
def State.bindPage (s : State) (d asid : Nat) (va : DWord) (size : Nat) (e : DWord) : Option State :=
  let t := s.bindDie d va e
  let k := s.die t
  let (base, lg, head, tail) := k.pool size
  if !s.working t || lg = 0 || head == tail then none
  else
    let dev := s.pkg.dev * 2 ^ 46
    let frame := dev + s.freshNum (dev + (base % 2 ^ 46) + 8 * (head % 2 ^ lg)) 8 % 2 ^ 46 / 4096 * 4096
    let s1 := s.setDie t (k.poolHead size ((head + 1) % 2 ^ 32))
    some ((s1.zeroRange frame (2 ^ size)).setLeaf asid va (fun _ old => ptePlace old t frame (ptePlc e)))

/-- The home of a leaf: device and die, (64, 64) for the host. -/
def leafHome (e : Tlb) : Nat × Nat := if pteLoc e.pte then (64, 64) else (paDev (pteFrame e.pte), pteHome e.pte)

/-- A page of a request translated at issue by a walk of the die's replica, a first-touch page bound (R139): its home, none
where the page meets a translation fault. -/
def State.homeOf (s : State) (d asid : Nat) (va : DWord) : State × Option (Nat × Nat) :=
  match s.walk d asid va with
  | .ok e => (s, some (leafHome e))
  | .notMapped => (s, none)
  | .bind size e => match s.bindPage d asid va size e with
    | none => (s, none)
    | some s1 => (s1, match s1.walk d asid va with
      | .ok e => some (leafHome e)
      | _ => none)

/-- The page of an address bound at its first touch by an engine of die d; the state as it is where there is nothing to
bind. -/
def State.touch (s : State) (d asid : Nat) (va : DWord) : State :=
  if !canonicalVa va then s
  else match s.walk d asid va with
    | .bind size e => (s.bindPage d asid va size e).getD s
    | _ => s

/-- Every page of n bytes touched. -/
def State.touchAll (s : State) (d asid : Nat) (va : DWord) (n : Nat) : State :=
  if n = 0 then s
  else (List.range ((va.toNat % 4096 + n - 1) / 4096 + 1)).foldl (fun s i => s.touch d asid (va + BitVec.ofNat 64 (4096 * i))) s

/-! ### Records that the units keep in memory (04_render_mesh R99, R105, R120) -/

/-- The physical addresses of n bytes at a virtual address for an engine of die d; those from `hostBase` up are the
host's. -/
def State.diePas (s : State) (d asid : Nat) (va : DWord) (write : Bool) : Nat → Option (List Nat)
  | 0 => some []
  | n + 1 =>
    match s.diePa d asid va write with
    | none => none
    | some (pa, host) =>
      match s.diePas d asid (va + 1) write n with
      | none => none
      | some r => some ((if host then hostBase + pa else pa) :: r)

/-- Bytes written in place, as a device table's are. -/
def State.pokeAll (s : State) (bs : List (Nat × Byte)) : State :=
  let dev := bs.filter (fun b => decide (b.1 < hostBase))
  let s1 := (linesOf dev).foldl (fun (s : State) l => s.pokeLine dev l) s
  { s1 with host := (bs.filter (fun b => decide (hostBase ≤ b.1))).foldl (fun (m : Mem) b => m.set (b.1 - hostBase) b.2) s1.host }

/-- A record put into its entry of a ring: its pages are bound at first touch; a ring without a translation keeps nothing
in memory (assumption 34). -/
def State.ringPut (s : State) (d asid : Nat) (va : DWord) (bs : List Byte) : State :=
  let s1 := s.touchAll d asid va bs.length
  match s1.diePas d asid va true bs.length with
  | some pas => s1.pokeAll (pas.zip bs)
  | none => s1

/-- The words of a record of a ring as its entry holds them. -/
def State.ringGet (s : State) (d asid : Nat) (va : DWord) (ws : List Word) : List Word :=
  match s.dieRead d asid va 64 with
  | some bs => (List.range 16).map (fun i => BitVec.ofNat 32 (leNat ((bs.drop (4 * i)).take 4)))
  | none => ws

/-- The 64 bytes of a record. -/
def recBytes (ws : List Word) : List Byte := (ws ++ List.replicate 16 0).take 16 |>.flatMap (fun (w : Word) => natLe 4 w.toNat)

end Sys2Proof.Machine
end

