-- ==== Sys2Proof/Machine/Memory.lean ====
section
/-!
DEFINITION. The meanings of the memory instructions, opcodes 0x70 to 0x7F and 0x8F (10_isa R243 to R262, 07_ordering
R168): an instruction checks its addresses, raises its counter or token, and leaves an access or a request that the
hardware steps perform; a scratchpad access with no predecessor is performed at issue.
-/

set_option linter.unusedVariables false

namespace Sys2Proof.Machine

/-! ### Addresses (R244) -/

/-- The index register of an XM word in a lane. -/
def xmIndex (c : Cx) (f : XF) (l : Nat) : Word :=
  if mKB f.c then uniAt c.uni f.b.toNat else ((c.g.lane l).reg f.b.toNat).val

/-- A global address of an XM word, and a partition-relative one. -/
def xmVa (c : Cx) (f : XF) (l : Nat) : DWord :=
  uniPair c.uni f.a.toNat + (xmIndex c f l).setWidth 64 + (mOff f.c).signExtend 64
def xmScr (c : Cx) (f : XF) (l : Nat) : Nat :=
  (uniAt c.uni f.a.toNat + xmIndex c f l + (mOff f.c).signExtend 32).toNat

/-- The address of ldw and stw. -/
def mfVa (c : Cx) (f : MF) (l : Nat) : DWord :=
  let t := c.g.lane l
  pair (t.reg f.a.toNat).val (t.reg (f.a.toNat + 1)).val + 4 * f.off.setWidth 64

/-- The words of a data group in a lane. -/
def dataOf (c : Cx) (d n l : Nat) : List Word := (List.range n).map (fun j => ((c.g.lane l).reg (d + j)).val)

/-! ### New values of atomics (R253, 03_kernel_memory R62) -/

/-- Each 16-bit half of two words under a format's addition. -/
def addHalves (f : FFmt) (a b : Word) : Word :=
  let h (k : Nat) : Nat := (fAdd f mRNE false (a.toNat / 2 ^ k % 65536) (b.toNat / 2 ^ k % 65536)).1
  BitVec.ofNat 32 (h 0 + 65536 * h 16)

/-- An element of an add-on-store drain added to its destination: one exact sum, rounded once (03_kernel_memory R64). -/
def addStore (f : FFmt) (old : Nat) (x : Word) : Nat :=
  (roundTo f (xAdd mRNE (f.value old) (fp32.value x.toNat)).1 mRNE false).1

/-- The new value of an operation (0 add, 1 min, 2 max, 3 and, 4 or, 5 xor, 6 xchg, 7 cas) on a type of R251; 8 is the
addition of an add-on-store drain, in BF16 for type 4 and in FP32 otherwise. -/
def atomNew (op ty : Nat) (old a b : BitVec 64) : BitVec 64 :=
  let x := loWord old
  let y := loWord a
  match op with
  | 0 =>
    match ty with
    | 3 => BitVec.ofNat 64 (fAdd fp32 mRNE false x.toNat y.toNat).1
    | 4 => (addHalves bf16 x y).setWidth 64
    | 9 => (addHalves fp16 x y).setWidth 64
    | 8 => BitVec.ofNat 64 (fAdd fp64 mRNE false old.toNat a.toNat).1
    | 6 | 7 => old + a
    | _ => (x + y).setWidth 64
  | 1 | 2 =>
    let big := op == 2
    let pick (lt : Bool) : BitVec 64 := if lt == big then a else old
    match ty with
    | 1 => pick (decide (x.toInt < y.toInt))
    | 2 => pick (decide (x.toNat < y.toNat))
    | 3 => BitVec.ofNat 64 (fMinMax fp32 big x.toNat y.toNat).1
    | 6 => pick (decide (old.toInt < a.toInt))
    | 8 => BitVec.ofNat 64 (fMinMax fp64 big old.toNat a.toNat).1
    | _ => pick (decide (old.toNat < a.toNat))
  | 3 => old &&& a
  | 4 => old ||| a
  | 5 => old ^^^ a
  | 6 => a
  | 8 => BitVec.ofNat 64 (addStore (if ty = 4 then bf16 else fp32) old.toNat (loWord a))
  | _ => if old = a then b else old

/-- The bank operation of a code of R304 as operation and type: add.i, min.i, max.i, min.n, max.n, and, or, xor,
add.f, min.f, max.f, add.bf16x2. -/
def bankOp (code : Nat) (old v : Word) : Word :=
  let run (op ty : Nat) : Word := loWord (atomNew op ty (old.setWidth 64) (v.setWidth 64) 0)
  match code with
  | 0 => run 0 1
  | 1 => run 1 1
  | 2 => run 2 1
  | 3 => run 1 2
  | 4 => run 2 2
  | 5 => run 3 0
  | 6 => run 4 0
  | 7 => run 5 0
  | 8 => run 0 3
  | 9 => run 1 3
  | 10 => run 2 3
  | _ => run 0 4

/-- Operation and type of an atomic instruction: cas compares, vis.min takes the unsigned minimum (R251, R295). -/
def atomKind : Instr → Nat × Nat
  | .atom f | .red f | .atoms f => (mOp f.c, mTy f.c)
  | .cas f => (7, mTy f.c)
  | .visMin _ => (1, 7)
  | _ => (6, 0)

/-- Operand words of a 32-bit or 64-bit atomic as its two values (R252). -/
def atomArgs (wide : Bool) (ops : List Word) : BitVec 64 × BitVec 64 :=
  let w (n : Nat) : Word := (ops[n]?).getD 0
  if wide then (pair (w 0) (w 1), pair (w 2) (w 3)) else ((w 0).setWidth 64, (w 1).setWidth 64)

/-! ### Global accesses -/

/-- A global access issued for the executing lanes (R247 to R249): it enters the group's accesses behind the fences in
force, raises LD or ST once, makes its destinations unwritten, and takes the translations already cached. -/
def globalIssue (i : Instr) (kind : AccKind) (width hint : Nat) (dst : List Nat) (va : Nat → DWord)
    (ops : Nat → List Word) (s : State) (c : Cx) : Except Trap State :=
  if c.ex = [] then .ok s
  else match c.ex.find? (fun l => !canonicalRange (va l) width) with
    | some l => .error (trapMem 4 (va l))
    | none =>
      let (id, x) := s.x.fresh
      let k := s.ctx c.w.asid
      let rd := kind == .load || kind == .atomic
      let seen := c.ex.filter (fun l => k.watches rd kind.writes (va l) width)
      let a : Access := { id := id, wg := c.w.id, grp := c.g.idx, ins := i, kind := kind, pc := c.pc, width := width, hint := hint, lanes := c.ex.map (fun l => { lane := l, va := va l, ops := ops l }), after := s.x.afterOf c.g ((fenceSet i).getD 0) (maskOf c.ex), skid0 := c.g.issued + 1, at_ := id }
      let g := { (c.g.onLanes seen (fun _ t => { t with hold := .watch id })) with
        ld := if kind.raisesLd then c.g.ld + 1 else c.g.ld
        stc := if kind.raisesSt then c.g.stc + 1 else c.g.stc
        busy := c.g.busy ++ dst.map (fun r => { kind := 0, idx := r, lanes := maskOf c.ex, due := .acc id }) }
      .ok ((({ s with x := { x with accs := x.accs ++ [a] } }).putGrp c.w.id g).accMove id)

/-- ld (R247). -/
def execLd (f : XF) (s : State) : Host.Outcome State Fault Refusal :=
  s.issue (.ld f) (fun s c =>
    globalIssue (.ld f) .load (2 ^ mSize f.c) (mHint f.c) (regsFrom f.d.toNat (sizeRegs (mSize f.c))) (xmVa c f)
      (fun _ => []) s c)

/-- ldw: four bytes, tag RAW (R246, R247). -/
def execLdw (f : MF) (s : State) : Host.Outcome State Fault Refusal :=
  s.issue (.ldw f) (fun s c =>
    globalIssue (.ldw f) .load 4 f.hint.toNat [f.d.toNat] (mfVa c f) (fun _ => []) s c)

/-- st (R248). -/
def execSt (f : XF) (s : State) : Host.Outcome State Fault Refusal :=
  s.issue (.st f) (fun s c =>
    globalIssue (.st f) .store (2 ^ mSize f.c) (mHint f.c) [] (xmVa c f)
      (dataOf c f.d.toNat (sizeRegs (mSize f.c))) s c)

/-- stw (R248). -/
def execStw (f : MF) (s : State) : Host.Outcome State Fault Refusal :=
  s.issue (.stw f) (fun s c =>
    globalIssue (.stw f) .store 4 f.hint.toNat [] (mfVa c f) (dataOf c f.d.toNat 1) s c)

/-- A global atomic: natural alignment, then the access (R249, R254). -/
def atomIssue (i : Instr) (f : XF) (kind : AccKind) (n : Nat) (dst : List Nat) (s : State) (c : Cx) :
    Except Trap State :=
  let width := if atomWide (atomKind i).2 then 8 else 4
  match c.ex.find? (fun l => !canonicalRange (xmVa c f l) width) with
  | some l => .error (trapMem 4 (xmVa c f l))
  | none =>
    match c.ex.find? (fun l => (xmVa c f l).toNat % width != 0) with
    | some l => .error (trapMem 5 (xmVa c f l))
    | none => globalIssue i kind width (mHint f.c) dst (xmVa c f) (dataOf c f.d.toNat n) s c

/-- atom: the old value comes back (R251 to R254). -/
def execAtom (f : XF) (s : State) : Host.Outcome State Fault Refusal :=
  s.issue (.atom f) (fun s c =>
    let n := if atomWide (mTy f.c) then 2 else 1
    atomIssue (.atom f) f .atomic n (regsFrom f.d.toNat n) s c)

/-- red: nothing comes back (R252). -/
def execRed (f : XF) (s : State) : Host.Outcome State Fault Refusal :=
  s.issue (.red f) (fun s c => atomIssue (.red f) f .reduce (if atomWide (mTy f.c) then 2 else 1) [] s c)

/-- cas: compare value and new value in one group, the old value to its first half (R252). -/
def execCas (f : XF) (s : State) : Host.Outcome State Fault Refusal :=
  s.issue (.cas f) (fun s c =>
    atomIssue (.cas f) f .atomic (casRegs (mTy f.c)) (regsFrom f.d.toNat (casRegs (mTy f.c) / 2)) s c)

/-- vis.min: an unsigned 64-bit minimum that returns nothing (R295). -/
def execVisMin (f : XF) (s : State) : Host.Outcome State Fault Refusal :=
  s.issue (.visMin f) (fun s c => atomIssue (.visMin f) f .reduce 2 [] s c)

/-! ### The scratchpad (R60 to R63) -/

/-- One lane's access performed in its banks: the scratchpad after it and the registers that it writes. -/
def scratchLane (i : Instr) (m : Mem) (l : LaneAcc) : Mem × List RegWr :=
  let a := (l.pa.head?).getD 0
  match i with
  | .lds f => (m, placeLoad (mSize f.c) (BitVec.ofNat 8 (mF8 f.c)) f.d.toNat l.lane (m.bytes a (2 ^ mSize f.c)))
  | .sts f => (m.putBytes a ((l.ops.flatMap (fun w => natLe 4 w.toNat)).take (2 ^ mSize f.c)), [])
  | .atoms f =>
    let old := BitVec.ofNat 64 (m.num a 4)
    let k := atomKind (.atoms f)
    let v := atomArgs false l.ops
    (m.putNum a 4 (loWord (atomNew k.1 k.2 old v.1 v.2)).toNat, placeAtom (mTy f.c) f.d.toNat l.lane old)
  | _ => (m, [])

/-- The lanes in ascending order (R60, R63). -/
def scratchLanes (i : Instr) (m : Mem) (ls : List LaneAcc) : Mem × List RegWr :=
  ls.foldl (fun p l => let q := scratchLane i p.1 l; (q.1, p.2 ++ q.2)) (m, [])

/-- Whether an older scratchpad access of the group is still held behind a fence (R61, 07_ordering R163). -/
def Exec.scratchHeld (x : Exec) (w g : Nat) : Bool :=
  x.accs.any (fun a => a.wg == w && a.grp == g && a.onScratch)

/-- An access added to the state with its group. -/
def State.addAcc (s : State) (wi : Nat) (g : Group) (a : Access) : State :=
  let x := { s.x with nextId := s.x.nextId + 1, accs := s.x.accs ++ [a] }
  ({ s with x := x }).putGrp wi g

/-- The reply of an access performed at issue: LD until its registers are written (R48). -/
def replyIssue (i : Instr) (dst : List Nat) (res : List RegWr) (s : State) (c : Cx) : State :=
  let id := s.x.nextId
  let g := { c.g with
    ld := c.g.ld + 1
    busy := c.g.busy ++ dst.map (fun r => { kind := 0, idx := r, lanes := maskOf c.ex, due := .acc id }) }
  s.addAcc c.w.id g { id := id, wg := c.w.id, grp := c.g.idx, ins := i, kind := .reply, pc := c.pc, res := res, at_ := id }

/-- A scratchpad access: the range of every executing lane is checked, then it is performed at issue, or held behind
the fences in force (R59, R249). -/
def scratchIssue (i : Instr) (kind : AccKind) (width : Nat) (dst : List Nat) (ea : Nat → Nat) (ops : Nat → List Word)
    (s : State) (c : Cx) : Except Trap State :=
  if c.ex = [] then .ok s
  else match c.ex.find? (fun l => decide (c.w.scrSize < ea l + width)) with
    | some l => .error (trapMem 7 (BitVec.ofNat 64 (ea l)))
    | none =>
      let lanes := c.ex.map (fun l =>
        ({ lane := l, va := BitVec.ofNat 64 (ea l), ops := ops l, st := .ok, pa := regsFrom (ea l) width } : LaneAcc))
      let after := s.x.afterOf c.g ((fenceSet i).getD 0) (maskOf c.ex)
      if after = [] ∧ s.x.scratchHeld c.w.id c.g.idx = false then
        let r := scratchLanes i c.w.scratch lanes
        let s1 := s.putWg { c.w with scratch := r.1 }
        .ok (if kind.raisesLd then replyIssue i dst r.2 s1 c else s1)
      else
        let id := s.x.nextId
        let g := { c.g with
          ld := if kind.raisesLd then c.g.ld + 1 else c.g.ld
          stc := if kind.raisesSt then c.g.stc + 1 else c.g.stc
          busy := c.g.busy ++ dst.map (fun r => { kind := 0, idx := r, lanes := maskOf c.ex, due := .acc id }) }
        .ok (s.addAcc c.w.id g { id := id, wg := c.w.id, grp := c.g.idx, ins := i, kind := kind, pc := c.pc, width := width, lanes := lanes, after := after, at_ := id })

/-- lds (R247). -/
def execLds (f : XF) (s : State) : Host.Outcome State Fault Refusal :=
  s.issue (.lds f) (fun s c =>
    scratchIssue (.lds f) .load (2 ^ mSize f.c) (regsFrom f.d.toNat (sizeRegs (mSize f.c))) (xmScr c f)
      (fun _ => []) s c)

/-- sts (R248). -/
def execSts (f : XF) (s : State) : Host.Outcome State Fault Refusal :=
  s.issue (.sts f) (fun s c =>
    scratchIssue (.sts f) .store (2 ^ mSize f.c) [] (xmScr c f) (dataOf c f.d.toNat (sizeRegs (mSize f.c))) s c)

/-- atoms: aligned words, ascending lanes (R253, R254). -/
def execAtoms (f : XF) (s : State) : Host.Outcome State Fault Refusal :=
  s.issue (.atoms f) (fun s c =>
    match c.ex.find? (fun l => xmScr c f l % 4 != 0) with
    | some l => .error (trapMem 5 (BitVec.ofNat 64 (xmScr c f l)))
    | none =>
      scratchIssue (.atoms f) .atomic 4 [f.d.toNat] (xmScr c f)
        (dataOf c f.d.toNat (if mOp f.c = 7 then 2 else 1)) s c)

/-! ### Standing loads (R256 to R260, 03_kernel_memory R83 to R92) -/

/-- The slot checks of R256. -/
def slotCheck (w : Wg) (slot : Word) : Option Trap :=
  if slot.toNat % 128 ≠ 0 then some (trapMem 8 (slot.setWidth 64))
  else if w.scrSize < slot.toNat + 128 then some (trapMem 7 (slot.setWidth 64))
  else none

/-- The header of a slot (R86). -/
def Stand.header (e : Stand) : DWord :=
  e.seq ++ BitVec.ofNat 32 ((e.folded % 65536) * 65536 + (if e.lost then 4 else 0) + (if e.resync then 2 else 0) +
    (if e.overrun then 1 else 0))

/-- The standing-table entry of a slot that is active or being dropped: a pending one counts as neither (R257). -/
def Core.standLive (k : Core) (w slot : Nat) : Option (Nat × Stand) :=
  (k.standOf w slot).filter (fun e => e.2.st != .pending)

/-- stand.sub: SLOT_BUSY and CORE_FULL are settled at issue, the rest after translation (R84, R257). -/
def execStandSub (f : KF) (s : State) : Host.Outcome State Fault Refusal :=
  s.issue (.standSub f) (onceBody (fun s c =>
    let slot := uniAt c.uni f.a.toNat
    let va := uniPair c.uni f.b.toNat
    match slotCheck c.w slot with
    | some t => .error t
    | none =>
      if !canonicalVa va then .error (trapMem 4 va)
      else
        let k := s.x.core c.w.die c.w.core
        let id := s.x.nextId
        let busy := (k.standOf c.w.id slot.toNat).isSome
        let aux := if busy then 3 else if k.standFree.isNone then 2 else 0
        let e : Stand := { wg := c.w.id, slot := slot.toNat, st := .pending, every := bit f.f 0, va := va, line := 0, acc := id }
        let k1 := if aux = 0 then { k with stand := cset (k.standFree.getD 0) e k.stand } else k
        let seen := if (s.ctx c.w.asid).watches true false va 1 then c.ex else []
        let a : Access := { id := id, wg := c.w.id, grp := c.g.idx, ins := .standSub f, kind := .sub, pc := c.pc, width := 1, lanes := [{ lane := (c.ex.head?).getD 0, va := va }], after := s.x.afterOf c.g 5 (maskOf c.ex), skid0 := c.g.issued + 1, at_ := id, aux := aux }
        let g := { (c.g.onLanes seen (fun _ t => { t with hold := .watch id })) with
          ld := c.g.ld + 1
          busy := c.g.busy ++ [{ kind := 1, idx := f.x.toNat, lanes := maskOf c.ex, due := .acc id }] }
        .ok ((({ s with x := s.x.setCore c.w.die c.w.core k1 }).addAcc c.w.id g a).accTry id)))

/-- What a stand.read or stand.seq performs: the state after it and the registers that it writes (R88, R89). -/
def State.standPerform (s : State) (w : Wg) (i : Instr) (slot : Nat) (ls : List Nat) : State × List RegWr :=
  match i with
  | .standRead f =>
    (s, ls.map (fun l =>
      { kind := 0, lane := l, idx := f.b.toNat, val := BitVec.ofNat 32 (w.scratch.num (slot + 4 * l) 4), tag := tRAW }))
  | .standSeq f =>
    let k := s.x.core w.die w.core
    match k.standLive w.id slot with
    | none => (s, [{ kind := 1, lane := 0, idx := f.b.toNat, val := 0 }, { kind := 1, lane := 0, idx := f.b.toNat + 1, val := 0 }])
    | some e =>
      let h := e.2.header
      let e1 := if bit f.f 0 then { e.2 with lost := false, resync := false, overrun := false } else e.2
      ({ s with x := s.x.setCore w.die w.core { k with stand := cset e.1 e1 k.stand } },
        [{ kind := 1, lane := 0, idx := f.b.toNat, val := loWord h }, { kind := 1, lane := 0, idx := f.b.toNat + 1, val := hiWord h }])
  | _ => (s, [])

/-- stand.read and stand.seq: performed at issue with a reply to come, or held behind the fences in force. -/
def standIssue (i : Instr) (slot : Word) (dst : List (Nat × Nat)) (s : State) (c : Cx) : Except Trap State :=
  match slotCheck c.w slot with
  | some t => .error t
  | none =>
    let id := s.x.nextId
    let after := s.x.afterOf c.g 5 (maskOf c.ex)
    let g := { c.g with
      ld := c.g.ld + 1
      busy := c.g.busy ++ dst.map (fun r => { kind := r.1, idx := r.2, lanes := maskOf c.ex, due := .acc id }) }
    let a : Access := { id := id, wg := c.w.id, grp := c.g.idx, ins := i, kind := .reply, pc := c.pc, at_ := id }
    if after = [] ∧ s.x.scratchHeld c.w.id c.g.idx = false then
      let r := s.standPerform c.w i slot.toNat c.ex
      .ok (r.1.addAcc c.w.id g { a with res := r.2 })
    else
      .ok (s.addAcc c.w.id g { a with kind := .load, after := after, aux := slot.toNat, lanes := c.ex.map (fun l => { lane := l, va := slot.setWidth 64, st := .ok }) })

/-- stand.read: one snapshot of the image, tag RAW (R88, R258). -/
def execStandRead (f : KF) (s : State) : Host.Outcome State Fault Refusal :=
  s.issue (.standRead f) (onceBody (fun s c =>
    standIssue (.standRead f) (uniAt c.uni f.a.toNat) [(0, f.b.toNat)] s c))

/-- stand.seq: the header to a uniform pair, with the clear option (R89, R258). -/
def execStandSeq (f : KF) (s : State) : Host.Outcome State Fault Refusal :=
  s.issue (.standSeq f) (onceBody (fun s c =>
    standIssue (.standSeq f) (uniAt c.uni f.a.toNat) [(1, f.b.toNat), (1, f.b.toNat + 1)] s c))

/-- Whether a group parked by stand.wait is released: SEQ differs, RESYNC or LOST is set, or the slot is no longer
active (R90, R259), and every fence before it has its predecessors performed. -/
def Exec.standReady (x : Exec) (w : Wg) (g : Group) (slot : Nat) (val : Word) : Bool :=
  (match (x.core w.die w.core).standOf w.id slot with
    | none => true
    | some e => e.2.st != .active || e.2.seq != val || e.2.resync || e.2.lost) &&
  (x.afterOf g 5 0xFFFFFFFF == [])

/-- Every group parked by stand.wait released where its condition holds. -/
def Exec.standWake (x : Exec) : Exec :=
  { x with wgs := x.wgs.map (fun w => { w with groups := w.groups.map (fun g =>
      match g.park with
      | .standWait slot v => if x.standReady w g slot v then { g with park := .none } else g
      | _ => g) }) }

/-- stand.wait (R90, R259). -/
def execStandWait (f : KF) (s : State) : Host.Outcome State Fault Refusal :=
  s.issue (.standWait f) (onceBody (fun s c =>
    let slot := uniAt c.uni f.a.toNat
    let val := uniAt c.uni f.b.toNat
    match slotCheck c.w slot with
    | some t => .error t
    | none =>
      match (s.x.core c.w.die c.w.core).standOf c.w.id slot.toNat with
      | none => .error (trapMem 9 (slot.setWidth 64))
      | some e =>
        if e.2.st ≠ .active then .error (trapMem 9 (slot.setWidth 64))
        else if s.x.standReady c.w c.g slot.toNat val then .ok s
        else .ok (s.putGrp c.w.id { c.g with park := .standWait slot.toNat val })))

/-- A token raised, and lowered when its request completes (R78). -/
def Wg.tokUp (w : Wg) (q : Nat) : Wg := { w with qs := w.qs.set q ((w.qs[q]?).getD 0 + 1) }
def Wg.tokDown (w : Wg) (q : Nat) : Wg := { w with qs := w.qs.set q ((w.qs[q]?).getD 0 - 1) }

/-- A request added to the state. -/
def State.addReq (s : State) (r : Req) : State :=
  { s with x := { s.x with nextId := s.x.nextId + 1, reqs := s.x.reqs ++ [r] } }

/-- The Unsub of a drop, sent once its predecessors are performed (R384). -/
def State.dropGo (s : State) (id : Nat) : State :=
  match s.x.req? id with
  | none => s
  | some r =>
    match s.x.wg? r.wg with
    | none => s
    | some w =>
      if r.done ≠ 0 ∨ s.x.waits r.after ≠ [] then s
      else
        let e := (cfind r.idx (s.x.core w.die w.core).stand).getD { wg := 0, slot := 0, st := .dropping, every := false, va := 0, line := 0 }
        ({ s with x := s.x.setReq { r with done := 1 } }).send (.core w.die w.core) (s.homeDie e.line) e.line
          (.unsub w.core r.idx id)

/-- A drop of an active slot (R91): the entry stands until UnsubAck; a LOST slot has no subscriber record, and the
home acknowledges its Unsub all the same. -/
def State.dropSlot (s : State) (w : Wg) (grp idx : Nat) (i : Instr) (pc : DWord) (tok : Option Nat)
    (after : List (Nat × Nat)) : State :=
  let k := s.x.core w.die w.core
  let k1 := { k with stand := k.stand.map (fun e => if e.1 = idx then (e.1, { e.2 with st := .dropping }) else e) }
  let id := s.x.nextId
  let s1 := { s with x := (s.x.setCore w.die w.core k1) }
  let s2 := s1.addReq { id := id, wg := w.id, grp := grp, asid := w.asid, die := w.die, ins := i, pc := pc, tok := tok, after := after, idx := idx }
  let s3 := s2.dropGo id
  { s3 with x := s3.x.standWake }

/-- stand.drop (R91, R260). -/
def execStandDrop (f : KF) (s : State) : Host.Outcome State Fault Refusal :=
  s.issue (.standDrop f) (onceBody (fun s c =>
    let slot := uniAt c.uni f.a.toNat
    match slotCheck c.w slot with
    | some t => .error t
    | none =>
      match (s.x.core c.w.die c.w.core).standOf c.w.id slot.toNat with
      | none => .error (trapMem 9 (slot.setWidth 64))
      | some e =>
        if e.2.st ≠ .active then .error (trapMem 9 (slot.setWidth 64))
        else
          let w := c.w.tokUp f.x.toNat
          .ok ((s.putWg w).dropSlot w c.g.idx e.1 (.standDrop f) c.pc (some f.x.toNat)
            (s.x.afterOf c.g 5 (maskOf c.ex)))))

/-! ### Copies (R261, R262) -/

/-- A memory range is canonical and does not wrap past 2^64 (R262). -/
def rangeOk (va : DWord) (n : Nat) : Bool :=
  canonicalVa va && (n == 0 || (decide (va.toNat + n ≤ 2 ^ 64) && canonicalVa (va + BitVec.ofNat 64 (n - 1))))

/-- A scratchpad range of 64-bit address lies in the partition (R261). -/
def scrRangeOk (w : Wg) (a : DWord) (n : Nat) : Bool := decide (a.toNat + n ≤ w.scrSize)

/-- The held scratchpad writes of a group, which its copies follow (03_kernel_memory R80). -/
def Exec.heldWrites (x : Exec) (w g : Nat) : List (Nat × Nat) :=
  (x.accs.filter (fun a => a.wg == w && a.grp == g && a.onScratch && !(isScratch a.ins && a.kind == .load))).map
    (fun a => (a.id, 1))

/-- A request of the copy or bde set issued: its token rises and it waits behind the fences in force (R78, R166). -/
def reqIssue (i : Instr) (tok : Nat) (ops : List Word) (after : List (Nat × Nat)) (s : State) (c : Cx) : State :=
  (s.putWg (c.w.tokUp tok)).addReq { id := s.x.nextId, wg := c.w.id, grp := c.g.idx, asid := c.w.asid, die := c.w.die, ins := i, pc := c.pc, ops := ops, tok := some tok, after := s.x.afterOf c.g 3 (maskOf c.ex) ++ after, phase := c.phase }

/-- copy (R262). -/
def execCopy (f : KF) (s : State) : Host.Outcome State Fault Refusal :=
  s.issue (.copy f) (onceBody (fun s c =>
    let src := uniPair c.uni f.a.toNat
    let dst := uniPair c.uni (f.a.toNat + 2)
    let n := (uniAt c.uni f.b.toNat).toNat
    let kind := bits f.f 0 2
    let srcMem := kind == 0 || kind == 2
    let dstMem := kind == 1 || kind == 2
    if c.g.idx ≠ c.w.producer then .error (trapRights 1)
    else if srcMem && !rangeOk src n then .error (trapMem 4 src)
    else if dstMem && !rangeOk dst n then .error (trapMem 4 dst)
    else if !srcMem && !scrRangeOk c.w src n then .error (trapMem 7 src)
    else if !dstMem && !scrRangeOk c.w dst n then .error (trapMem 7 dst)
    else .ok (reqIssue (.copy f) f.x.toNat ((List.range 4).map (fun j => uniAt c.uni (f.a.toNat + j)) ++ [uniAt c.uni f.b.toNat])
      (if srcMem then [] else s.x.heldWrites c.w.id c.g.idx) s c)))

/-! ### Fences (07_ordering R168, R169) -/

/-- fence: it holds no thread and raises no counter (R166). -/
def execFence (f : RF) (s : State) : Host.Outcome State Fault Refusal :=
  s.issue (.fence f) (onceBody (fun s c =>
    let scope := bits f.b 0 3
    let m := maskOf c.ex
    .ok (s.putGrp c.w.id (c.g.addFence scope f.a m (s.x.preds c.w c.g f.d m scope)))))

end Sys2Proof.Machine
end

