-- ==== Sys2Proof/Machine/Control.lean ====
section
/-!
DEFINITION. The meanings of the control instructions, opcodes 0x90 to 0x9F (10_isa R263 to R273): transfers, the end
of threads, masks, barriers, sign declarations, waits and speculation conditions.
-/

set_option linter.unusedVariables false

namespace Sys2Proof.Machine

/-! ### Transfers (R263 to R266) -/

/-- A thread that transfers control: it leaves its clause and its target is taken as a header (08_encoding R184). -/
def Lane.goto (t : Lane) (target : DWord) : Lane := { t with pc := target, cl := {} }

/-- The target of a B-format word (08_encoding R194). -/
def bfTarget (pc : DWord) (f : BF) : DWord := pc + 4 * f.off.signExtend 64

/-- bra. -/
def execBra (f : BF) (s : State) : Host.Outcome State Fault Refusal :=
  s.issue (.bra f) (fun s c => .ok (s.putGrp c.w.id (c.g.onLanes c.ex (fun _ t => t.goto (bfTarget c.pc f)))))

/-- call: sp.link receives PC + 4. -/
def execCall (f : BF) (s : State) : Host.Outcome State Fault Refusal :=
  s.issue (.call f) (fun s c =>
    .ok (s.putGrp c.w.id (c.g.onLanes c.ex (fun _ t => { t.goto (bfTarget c.pc f) with link := c.pc + 4 }))))

/-- A transfer to a target of each lane; a target off a word traps and no lane transfers (R264). -/
def jumpBody (target : Lane → DWord) (s : State) (c : Cx) : Except Trap State :=
  if c.ex.any (fun l => (target (c.g.lane l)).toNat % 4 != 0) then .error trapBadTarget
  else .ok (s.putGrp c.w.id (c.g.onLanes c.ex (fun _ t => t.goto (target t))))

/-- brx: the target is a vector pair (R264). -/
def execBrx (f : RF) (s : State) : Host.Outcome State Fault Refusal :=
  s.issue (.brx f) (jumpBody (fun t => pair (t.reg f.a.toNat).val (t.reg (f.a.toNat + 1)).val))

/-- ret: the target is sp.link (R264). -/
def execRet (f : RF) (s : State) : Host.Outcome State Fault Refusal :=
  s.issue (.ret f) (jumpBody (fun t => t.link))

/-- exit (R266). -/
def execExit (f : RF) (s : State) : Host.Outcome State Fault Refusal :=
  s.issue (.exit f) (onceBody (fun s c => .ok (s.endThreads c.w.id c.g.idx c.ex)))

/-! ### Masks (R267, 02_execution R38) -/

/-- A mask register and its arrival set replaced. -/
def Group.setMask (g : Group) (n : Nat) (m a : Word) : Group := { g with m := g.m.set n m, arr := g.arr.set n a }

/-- mjoin. -/
def execMjoin (f : KF) (s : State) : Host.Outcome State Fault Refusal :=
  s.issue (.mjoin f) (fun s c =>
    let n := f.x.toNat
    .ok (s.putGrp c.w.id (c.g.setMask n (c.g.mreg n ||| maskOf c.ex) (c.g.areg n))))

/-- mleave: MaskRelease follows once, after every lane. -/
def execMleave (f : KF) (s : State) : Host.Outcome State Fault Refusal :=
  s.issue (.mleave f) (onceBody (fun s c =>
    let n := f.x.toNat
    let k := ~~~(maskOf c.ex)
    .ok (s.putGrp c.w.id (s.x.maskRelease c.w (c.g.setMask n (c.g.mreg n &&& k) (c.g.areg n &&& k)) n))))

/-- mwait: membership is checked in every lane before any arrives. -/
def execMwait (f : KF) (s : State) : Host.Outcome State Fault Refusal :=
  s.issue (.mwait f) (onceBody (fun s c =>
    let n := f.x.toNat
    let k := maskOf c.ex
    if k &&& ~~~(c.g.mreg n) ≠ 0 then .error (trapSync 1)
    else
      let g := (c.g.onLanes c.ex (fun _ t => { t with hold := .mask n })).setMask n (c.g.mreg n) (c.g.areg n ||| k)
      .ok (s.putGrp c.w.id (s.x.maskRelease c.w g n))))

/-- mrd: the mask as it stood before the clock's writes, to a uniform register. -/
def execMrd (f : KF) (s : State) : Host.Outcome State Fault Refusal :=
  s.issue (.mrd f) (onceBody (fun s c =>
    .ok (s.putGrp c.w.id (c.g.setUni f.a.toNat [(c.masks[f.x.toNat]?).getD 0]))))

/-! ### Barriers (R268, R269, 02_execution R44 to R46) -/

/-- The executing lanes arrive with their values, and what they accessed before stands before the phase's completion
(07_ordering R170); a result not collected is discarded (R46). -/
def Barrier.arrive (r : Barrier) (op : Nat) (who : List (Nat × Word)) (preds : List Nat) : Barrier :=
  let part := if r.op.isNone then barIdentity op else r.part
  { r with
    op := some op
    part := who.foldl (fun p v => barAdd op p v.2) part
    who := who.foldl (fun t v => cset v.1 .arrived t) r.who
    preds := r.preds ++ preds.filter (fun i => !r.preds.contains i) }

/-- The arrivals of one instruction: the operation of the phase must be the one named (R46). -/
def arriveBody (f : KF) (hold : Option Nat) (s : State) (c : Cx) : Except Trap State :=
  let b := f.x.toNat
  let op := f.f.toNat
  let r := c.w.bar b
  if r.op.isSome ∧ r.op ≠ some op then .error (trapSync 5)
  else
    let r1 := r.arrive op (c.ex.map (fun l => (threadNo c.g.idx l, ((c.g.lane l).reg f.a.toNat).val)))
      (s.x.preds c.w c.g setLSA (maskOf c.ex) 1)
    let g := match hold with
      | some d => c.g.onLanes c.ex (fun _ t => { t with hold := .barrier b d })
      | none => c.g
    let w := { c.w.setGrp g with bs := c.w.bs.set b r1 }
    .ok (s.putWg (s.x.barCheck w b))

/-- bar.arrive. -/
def execBarArrive (f : KF) (s : State) : Host.Outcome State Fault Refusal :=
  s.issue (.barArrive f) (onceBody (arriveBody f none))

/-- bar.sync. -/
def execBarSync (f : KF) (s : State) : Host.Outcome State Fault Refusal :=
  s.issue (.barSync f) (onceBody (arriveBody f (some f.b.toNat)))

/-- A wait at a barrier: a result that has come is taken at once, with the fence of 07_ordering R170. -/
def waitLane (b d : Nat) (p : Wg × Group) (l : Nat) : Wg × Group :=
  let t := threadNo p.2.idx l
  let r := p.1.bar b
  match cfind t r.who with
  | some (.ready v tag preds) =>
    ({ p.1 with bs := p.1.bs.set b { r with who := cdel t r.who } },
      ((p.2.setLane l ((p.2.lane l).setReg d { val := v, tag := tag })).addFence 1 setLSA (1#32 <<< l) preds))
  | _ => (p.1, p.2.setLane l { p.2.lane l with hold := .barrier b d })

/-- bar.wait. -/
def execBarWait (f : KF) (s : State) : Host.Outcome State Fault Refusal :=
  s.issue (.barWait f) (onceBody (fun s c =>
    let b := f.x.toNat
    if c.ex.any (fun l => (cfind (threadNo c.g.idx l) (c.w.bar b).who).isNone) then .error (trapSync 6)
    else
      let p := c.ex.foldl (waitLane b f.b.toNat) (c.w, c.g)
      .ok (s.putWg (p.1.setGrp p.2))))

/-! ### Sign declarations (R270) -/

/-- The declaration that the uniform registers give (R270). -/
def declOf (f : KF) (u : List Word) : List Word :=
  let m := uniAt u f.a.toNat
  ((List.range 32).foldl (fun (p : List Word × Nat) i =>
    if m.getLsbD i then
      (p.1 ++ [if f.f = 0 then 0xFFFFFFFF else uniAt u ((f.b.toNat + p.2) % 64)], p.2 + 1)
    else (p.1 ++ [0], p.2)) ([], 0)).1

/-- sign.decl: a declaration replaces the set of a register in IDLE or DECLARED (02_execution R39, R40). Of two
declarations of one clock, which groups on different schedulers make, either may stand: a free value says which. -/
def execSignDecl (f : KF) (s : State) : Host.Outcome State Fault Refusal :=
  s.issue (.signDecl f) (onceBody (fun s c =>
    let n := f.x.toNat
    let k := c.w.sign n
    if k.st = .signing ∨ k.st = .issuing then .error (trapSync 2)
    else
      let d := c.w.clearDecl (declOf f c.uni)
      let k1 : Sign := { st := if d.all (fun v => v == 0) then .idle else .declared, decl := d, signed := List.replicate 32 0, declAt := s.x.clk + 1 }
      if k.declAt = s.x.clk + 1 then
        let p := s.freeNum
        .ok (p.2.putWg { c.w with ks := c.w.ks.set n (if p.1.getLsbD 0 then k else k1) })
      else .ok (s.putWg { c.w with ks := c.w.ks.set n k1 })))

/-! ### Counter waits (R271) -/

/-- wait: its tests are readiness (R48), and what it waited for is performed, so it only issues. -/
def execWait (f : XF) (s : State) : Host.Outcome State Fault Refusal := s.issue (.wait f) idleBody

/-! ### Conditions (R272, R273, 03_kernel_memory R75, 02_execution R50, R51) -/

/-- The free banks of a matrix context (01_machine R20). -/
def Core.freeBanks (k : Core) (ctx : Nat) : List Nat :=
  ((List.range 32).map (fun i => 32 * ctx + i)).filter (fun b => (cfind b k.banks).isNone)

/-- Banks taken from the pool. -/
def Core.holdBanks (k : Core) (bs : List Nat) : Core := { k with banks := bs.foldl (fun t b => cset b .held t) k.banks }

/-- Whether a queued operation uses a bank. -/
def MOp.uses (o : MOp) (b : Nat) : Bool :=
  match o.dest with
  | .primary => o.banks.contains b
  | .shadow => o.banks.contains b || o.shadows.contains b
  | .nowhere => false

/-- The drain of a bank (R286). -/
def Req.drains (r : Req) (b : Nat) : Bool :=
  (match r.ins with
    | .accDrain _ => true
    | _ => false) && r.bank == b

/-- Banks that return to the pool once every operation and drain queued on them is done (R74, R70). -/
def Exec.release (x : Exec) (w : Wg) (bs : List Nat) : Exec :=
  let k := x.core w.die w.core
  x.setCore w.die w.core (bs.foldl (fun k b =>
    let ids := ((k.mq ++ k.mq1).filter (fun o => o.uses b)).map (fun o => o.id) ++
      (x.reqs.filter (fun r => r.drains b && r.wg == w.id)).map (fun r => r.id)
    if ids = [] then k.zeroBank x.clk b else { k with banks := cset b (.releasing ids) k.banks }) k)

/-- The operations in flight of a condition that resolves (R51). -/
def MOp.resolve (o : MOp) (w n : Nat) (dest : MDest) (banks : List Nat) : MOp :=
  if o.wg = w ∧ o.cond = some n then { o with cond := none, dest := dest, banks := banks, shadows := [] } else o

/-- The rounds that have not entered the queue when their condition resolves write nothing (11_isa R285). -/
def Sign.resolve (k : Sign) (n : Nat) : Sign :=
  if (k.ins.bind tileCond) = some n then { k with live := false } else k

/-- Whether a handle is bound to an ARMED condition. -/
def Wg.speculative (w : Wg) (h : Nat) : Bool := w.cs.any (fun c => c.armed && c.handle == h)

/-- The bands of a handle. -/
def Wg.bands (w : Wg) (h : Nat) : List Band := (w.hs[h]?).getD []

/-- cond.arm (R272). -/
def execCondArm (f : KF) (s : State) : Host.Outcome State Fault Refusal :=
  s.issue (.condArm f) (onceBody (fun s c =>
    let n := f.f.toNat
    let h := f.a.toNat
    let bs := c.w.bands h
    if ((c.w.cs[n]?).getD {}).armed then .error (trapSync 7)
    else if bs = [] then .error (trapMatrix 6)
    else if c.w.speculative h then .error (trapMatrix 8)
    else
      let k := s.x.core c.w.die c.w.core
      let free := k.freeBanks (c.w.mctx.getD 0)
      if free.length < bs.length then .ok (s.putGrp c.w.id (c.g.setUni f.b.toNat [1]))
      else
        let sh := free.take bs.length
        let w := { c.w.setGrp (c.g.setUni f.b.toNat [0]) with
          cs := c.w.cs.set n { armed := true, handle := h, shadows := sh.map (fun b => (b, false)) } }
        .ok ({ s with x := s.x.setCore c.w.die c.w.core (k.holdBanks sh) }.putWg w)))

/-- The bands of a handle after a commit: those whose shadow was written take it (R75). -/
def commitBands (bs : List Band) (sh : List (Nat × Bool)) : List Band :=
  bs.mapIdx (fun j b => match sh[j]? with
    | some (k, true) => { b with bank := k }
    | _ => b)

/-- A condition resolved: commit exchanges the written shadows with their primaries, discard drops them. -/
def State.condResolve (s : State) (w : Wg) (n : Nat) (commit : Bool) : State :=
  let c := (w.cs[n]?).getD {}
  let bs := w.bands c.handle
  let nb := if commit then commitBands bs c.shadows else bs
  let w1 := { w with
    cs := w.cs.set n {}
    hs := w.hs.set c.handle nb
    ks := w.ks.map (fun k => k.resolve n) }
  let k := s.x.core w.die w.core
  let dest : MDest := if commit then .primary else .nowhere
  let k1 := { k with
    mq := k.mq.map (fun o => o.resolve w.id n dest (bankList nb))
    mq1 := k.mq1.map (fun o => o.resolve w.id n dest (bankList nb)) }
  let old := (bankList bs ++ shadowList c).filter (fun b => !(bankList nb).contains b)
  { s with x := ((s.x.setCore w.die w.core k1).release w old).setWg w1 }

/-- cond.set (R273). -/
def execCondSet (f : KF) (s : State) : Host.Outcome State Fault Refusal :=
  s.issue (.condSet f) (onceBody (fun s c =>
    let n := f.f.toNat
    if !((c.w.cs[n]?).getD {}).armed then .error (trapSync 8)
    else .ok (s.condResolve c.w n (uniAt c.uni f.b.toNat ≠ 0))))

end Sys2Proof.Machine
end

