-- ==== Sys2Proof/Machine/Matrix.lean ====
section
/-!
DEFINITION. The meanings of the matrix instructions, opcodes 0xA8 to 0xB0 (11_isa R276 to R288): descriptors, handles
and bands, reads and drains of the accumulator, and the signing of tile operations. The tile steps themselves, and
the drain's writes, are hardware steps.
-/

set_option linter.unusedVariables false

namespace Sys2Proof.Machine

/-! ### Descriptors and handles (R276 to R278, 03_kernel_memory R69 to R74) -/

/-- Four words of a uniform group as one descriptor, word 0 lowest. -/
def desc4 (u : List Word) (a : Nat) : BitVec 128 := uniPair u (a + 2) ++ uniPair u a

/-- tile.set: the descriptor is written without checking its contents. -/
def execTileSet (f : KF) (s : State) : Host.Outcome State Fault Refusal :=
  s.issue (.tileSet f) (onceBody (fun s c =>
    .ok (s.putWg { c.w with ts := c.w.ts.set f.x.toNat (desc4 c.uni f.a.toNat) })))

/-- The status of acc.alloc, in the order HANDLE_BUSY, OVER_DECLARED, NO_BANKS (R69). -/
def allocStatus (w : Wg) (k : Core) (h n : Nat) : Nat :=
  if w.bands h ≠ [] then 2
  else if w.accMax < (w.hs.map (fun b => b.length)).sum + n then 3
  else if (k.freeBanks (w.mctx.getD 0)).length < n then 1
  else 0

/-- acc.alloc: the allocating group owns every band (R71). -/
def execAccAlloc (f : KF) (s : State) : Host.Outcome State Fault Refusal :=
  s.issue (.accAlloc f) (onceBody (fun s c =>
    let h := f.x.toNat
    let n := f.a.toNat
    let k := s.x.core c.w.die c.w.core
    let st := allocStatus c.w k h n
    let w := c.w.setGrp (c.g.setUni f.b.toNat [BitVec.ofNat 32 st])
    if st = 0 then
      let bs := (k.freeBanks (c.w.mctx.getD 0)).take n
      let hb := bs.map (fun b => ({ bank := b, owner := c.g.idx, prev := c.g.idx, since := s.x.clk } : Band))
      .ok ({ s with x := s.x.setCore c.w.die c.w.core (k.holdBanks bs) }.putWg { w with hs := w.hs.set h hb })
    else .ok (s.putWg w)))

/-- A round that names a freed handle and has not entered the queue writes nothing (R285). -/
def Sign.freed (k : Sign) (h : Nat) : Sign :=
  if ((k.ins.bind tileWord).map (fun f => f.acc.toNat)) = some h then { k with live := false } else k

/-- acc.free (R74): its banks return once everything queued on them is done. -/
def execAccFree (f : KF) (s : State) : Host.Outcome State Fault Refusal :=
  s.issue (.accFree f) (onceBody (fun s c =>
    let h := f.x.toNat
    if c.w.speculative h then .error (trapMatrix 8)
    else
      let w := { c.w with hs := c.w.hs.set h [], ks := c.w.ks.map (fun k => k.freed h) }
      .ok ({ s with x := s.x.release c.w (bankList (c.w.bands h)) }.putWg w)))

/-- The owner of a band as it stood before the clock (R278). -/
def Band.ownerAt (b : Band) (clk : Nat) : Nat := if b.since = clk then b.prev else b.owner

/-- acc.band: the owner hands a band to a group of the workgroup (R71, R278). -/
def execAccBand (f : KF) (s : State) : Host.Outcome State Fault Refusal :=
  s.issue (.accBand f) (onceBody (fun s c =>
    let h := f.x.toNat
    let u := bit f.f 0
    let j := if u then (uniAt c.uni f.a.toNat).toNat else f.a.toNat
    let g := if u then (uniAt c.uni f.b.toNat).toNat else f.b.toNat
    if c.w.speculative h then .error (trapMatrix 8)
    else match (c.w.bands h)[j]? with
      | none => .error (trapMatrix 4)
      | some b =>
        if b.ownerAt s.x.clk ≠ c.g.idx ∨ (c.w.grp? g).isNone then .error (trapMatrix 4)
        else
          let b1 := { b with owner := g, prev := b.ownerAt s.x.clk, since := s.x.clk }
          .ok (s.putWg { c.w with hs := c.w.hs.set h ((c.w.bands h).set j b1) })))

/-! ### Reading the accumulator (R279) -/

/-- The registers that acc.read writes: +0.0 with tag VOID outside the handle's banks (R72). While an operation that has
written an element is in flight, a free bit of each lane says whether the read returns that value or the one before. -/
def accReadRes (f : KF) (w : Wg) (k : Core) (row : Nat) (ls : List Nat) (free : BitVec 64) : List RegWr :=
  let b := (w.bands f.x.toNat)[row / 32]?
  ls.map (fun l => match b with
    | none => { kind := 0, lane := l, idx := f.a.toNat, val := 0, tag := tVOID }
    | some b =>
      let col := 32 * bits f.f 0 2 + l
      let old := k.accGet b.bank row col
      { kind := 0, lane := l, idx := f.a.toNat, val := if free.getLsbD l then (k.mmaAhead b.bank row col).getD old else old, tag := tF32 })

/-- acc.read: performed at issue with a reply to come, or held behind the fences in force. -/
def execAccRead (f : KF) (s : State) : Host.Outcome State Fault Refusal :=
  s.issue (.accRead f) (onceBody (fun s c =>
    let row := (uniAt c.uni f.b.toNat).toNat
    let after := s.x.afterOf c.g 4 (maskOf c.ex)
    if after = [] then
      let (b, s1) := s.freeNum
      .ok (replyIssue (.accRead f) [f.a.toNat] (accReadRes f c.w (s.x.core c.w.die c.w.core) row c.ex b) s1 c)
    else
      let id := s.x.nextId
      let g := { c.g with
        ld := c.g.ld + 1
        busy := c.g.busy ++ [{ kind := 0, idx := f.a.toNat, lanes := maskOf c.ex, due := .acc id }] }
      .ok (s.addAcc c.w.id g { id := id, wg := c.w.id, grp := c.g.idx, ins := .accRead f, kind := .load, pc := c.pc, after := after, aux := row, at_ := id, lanes := c.ex.map (fun l => { lane := l, va := 0, st := .ok }) })))

/-! ### Drains (R286, R287) -/

/-- Destination format of a drain, and its bytes per element. -/
def drFmt (w : Word) : Nat := bits w 26 2
def drEs (w : Word) : Nat := if drFmt w = 0 then 4 else 2

/-- Reserved values of the control word (R286). -/
def drainOk (mode : Nat) (w : Word) : Bool :=
  decide (bits w 29 3 ≤ 5) && drFmt w != 3 &&
    (decide (mode < 2) || (drFmt w != 2 && bits w 29 3 == 0 && !bit w 28))

/-- acc.drain: queued behind the handle's operations (R287, R288, R73). -/
def execAccDrain (f : KF) (s : State) : Host.Outcome State Fault Refusal :=
  s.issue (.accDrain f) (onceBody (fun s c =>
    let h := f.x.toNat
    let mode := bits f.f 0 2
    let base := uniPair c.uni f.a.toNat
    let ctl := uniAt c.uni (f.a.toNat + 2)
    let pitch := (uniAt c.uni (f.a.toNat + 3)).toNat
    let n := 31 * pitch + 128 * drEs ctl
    let j := bits ctl 0 5
    let mem := mode % 2 == 1
    if !drainOk mode ctl then .error trapField
    else if c.w.speculative h then .error (trapMatrix 8)
    else match (c.w.bands h)[j]? with
      | none => .error (trapMatrix 5)
      | some b =>
        if b.ownerAt s.x.clk ≠ c.g.idx then .error (trapMatrix 4)
        else if base.toNat % 4 ≠ 0 ∨ pitch % 4 ≠ 0 then .error (trapMem 5 base)
        else if mem && !rangeOk base n then .error (trapMem 4 base)
        else if !mem && !scrRangeOk c.w base n then .error (trapMem 7 base)
        else
          let k := s.x.core c.w.die c.w.core
          let ops := ((k.mq ++ k.mq1).filter (fun o => o.wg == c.w.id && o.handle == h)).map (fun o => (o.id, 0))
          let g := c.advPhase { c.g with stc := c.g.stc + 1 }
          .ok ((s.putGrp c.w.id g).addReq { id := s.x.nextId, wg := c.w.id, grp := c.g.idx, asid := c.w.asid, die := c.w.die, ins := .accDrain f, pc := c.pc, ops := (List.range 4).map (fun i => uniAt c.uni (f.a.toNat + i)), after := s.x.afterOf c.g 1 (maskOf c.ex) ++ ops, phase := c.phase, bank := b.bank, idx := j })))

/-! ### Signing (R280, R281, 02_execution R41) -/

/-- The blocks that a tile operation can read, and the index table: address and bytes. -/
def tileReads (i : Instr) (dA dB dI : BitVec 128) : List (Nat × Nat) :=
  let sa := tileSize (dTag dA)
  let sb := tileSize (dTag dB)
  let nb := dNJ dB + 1
  match i with
  | .mmaIdx _ =>
    [(dBase dI, 2 * (dNI dA + 1 + 33))] ++ (List.range (32 / nb)).map (fun e => (dBlk dA 0 e, sa)) ++
      (List.range (dNI dB + 1)).flatMap (fun i => (List.range nb).map (fun n => (dBlk dB i n, sb)))
  | _ =>
    (List.range (dNI dA + 1)).flatMap (fun i => (List.range (dNJ dA + 1)).map (fun j => (dBlk dA i j, sa))) ++
      (List.range (dNJ dA + 1)).flatMap (fun j => (List.range nb).map (fun n => (dBlk dB j n, sb)))

/-- Tile steps of an operation at most (R281, R282). -/
def tileExtent (i : Instr) (dA dB : BitVec 128) : Nat :=
  match i with
  | .mmaIdx _ => 32 / (dNJ dB + 1) * (dNJ dB + 1)
  | _ => (dNI dA + 1) * (dNJ dA + 1) * (dNJ dB + 1)

/-- The checks of a round's first signature, in order (R281). -/
def tileCheck (i : Instr) (f : TF) (w : Wg) (dA dB dI : BitVec 128) : Option Trap :=
  let h := f.acc.toNat
  let n := (w.bands h).length
  let cnd : Option Trap := match tileCond i with
    | some k =>
      let c := (w.cs[k]?).getD {}
      if !c.armed then some (trapMatrix 2) else if c.handle ≠ h then some (trapMatrix 7) else none
    | none => if w.speculative h then some (trapMatrix 8) else none
  let idx := match i with
    | .mmaIdx _ => true
    | _ => false
  if !tileFormatOk (dTag dA) (dTag dB) then some { cls := 2, code := 3 }
  else if cnd.isSome then cnd
  else if n = 0 then some (trapMatrix 6)
  else if dACCO dA % 32 ≠ 0 ∨ dACCO dB % 32 ≠ 0 ∨ 32 * n < dACCO dA + 32 * (dNI dA + 1) ∨
      128 < dACCO dB + 32 * (dNJ dB + 1) ∨ 32 < tileExtent i dA dB then some (trapMatrix 5)
  else if dBase dA % 128 ≠ 0 ∨ dBase dB % 128 ≠ 0 ∨ (idx && dBase dI % 128 != 0) = true then some (trapMatrix 3)
  else ((tileReads i dA dB dI).find? (fun r => decide (w.scrSize < r.1 + r.2))).map
    (fun r => trapMem 7 (BitVec.ofNat 64 r.1))

/-- The drains of a group to the scratchpad that are still to be performed: a signature's fence holds them with the signer's
other scratchpad writes (07_ordering R165, R170). -/
def Exec.scratchDrains (x : Exec) (w g : Nat) : List (Nat × Nat) :=
  (x.reqs.filter (fun r => r.wg == w && r.grp == g && (match r.ins with
    | .accDrain f => bits f.f 0 2 % 2 == 0
    | _ => false))).map (fun r => (r.id, 1))

/-- A tile operation signs its register for the executing threads (02_execution R41, R42). -/
def signBody (i : Instr) (f : TF) (s : State) (c : Cx) : Except Trap State :=
  let n := f.k.toNat
  let k := c.w.sign n
  let m := maskOf c.ex
  if k.st = .idle then .error (trapSync 3)
  else if m &&& ~~~((k.decl[c.g.idx]?).getD 0) ≠ 0 then .error (trapSync 4)
  else if k.st = .signing ∧ k.ins ≠ some i then .error (trapMatrix 1)
  else
    let first := k.st == .declared
    let t (j : Nat) : BitVec 128 := (c.w.ts[j]?).getD 0
    let dA := if first then t f.tA.toNat else k.dA
    let dB := if first then t f.tB.toNat else k.dB
    let dI := if first then t (f.tA.toNat + 1) else k.dI
    let chk : Option Trap := if first then tileCheck i f c.w dA dB dI else none
    match chk with
    | some e => .error e
    | none =>
      let signed := if first then List.replicate 32 (0 : Word) else k.signed
      let mine := (signed[c.g.idx]?).getD 0
      let id := if first then s.x.nextId else k.id
      let x0 := if first then { s.x with nextId := s.x.nextId + 1 } else s.x
      let sh := ((tileCond i).map (fun j => shadowList ((c.w.cs[j]?).getD {}))).getD []
      let k0 : Sign := if first then { k with ins := some i, dA := dA, dB := dB, dI := dI, banks := bankList (c.w.bands f.acc.toNat), shadows := sh, live := true, after := [] } else k
      let k1 := { k0 with
        st := .signing
        id := id
        signed := signed.set c.g.idx (mine ||| m)
        after := k0.after ++ s.x.afterOf c.g 4 m ++ s.x.heldWrites c.w.id c.g.idx ++ s.x.scratchDrains c.w.id c.g.idx }
      let g := { c.g with tl := if mine = 0 then c.g.tl + 1 else c.g.tl }
      let w := { c.w.setGrp g with ks := c.w.ks.set n k1 }
      let (x1, w1) := if k1.full then (x0.setWg w).signTry w n else (x0, w)
      .ok ({ s with x := x1.setWg w1 })

/-- mma. -/
def execMma (f : TF) (s : State) : Host.Outcome State Fault Refusal :=
  s.issue (.mma f) (onceBody (signBody (.mma f) f))

/-- mma.spec: into the shadows of an armed condition (R75). -/
def execMmaSpec (f : TF) (s : State) : Host.Outcome State Fault Refusal :=
  s.issue (.mmaSpec f) (onceBody (signBody (.mmaSpec f) f))

/-- mma.idx: block pairs of an index table (R282). -/
def execMmaIdx (f : TF) (s : State) : Host.Outcome State Fault Refusal :=
  s.issue (.mmaIdx f) (onceBody (signBody (.mmaIdx f) f))

end Sys2Proof.Machine
end

