-- ==== Sys2Proof/Machine/Graphics.lean ====
section
/-!
DEFINITION. The meanings of the graphics instructions, opcodes 0xC8 to 0xD4 (11_isa R289 to R301, 04_render_mesh): task
and mesh emits, the routing of primitives, occlusion markers, pixel exits, the traversal testers and stacks, and the
deques of work graphs.
-/

set_option linter.unusedVariables false

namespace Sys2Proof.Machine

/-! ### Task children (R98, R99, R290) -/

/-- The record of lanes 0 to 15: a lane that does not execute gives zero. -/
def recordOf (c : Cx) (a : Nat) : List Word :=
  (List.range 16).map (fun l => if c.ex.contains l then ((c.g.lane l).reg a).val else 0)

/-- A bit field of a launch packet at a byte. -/
def Launch.fld (l : Launch) (byte lo len : Nat) : Nat := bits l.pkt (8 * byte + lo) len

/-- Records that the amplification queue of a die holds (R99). -/
def ampQueueCap : Nat := 8192

/-- Records of the overflow ring of a task launch (R334). -/
def Launch.ringCap (l : Launch) : Nat := 2 ^ l.fld 88 9 5

/-- The entry behind those in use in a ring of n entries; the first one where none is in use. -/
def nextSlot (n : Nat) (last : Option Nat) : Nat :=
  match last with
  | none => 0
  | some k => (k + 1) % n

/-- The address of an entry of a task launch's overflow ring: the dies' rings follow one another from its base
(assumption 34). -/
def Launch.ampVa (l : Launch) (d slot : Nat) : DWord :=
  l.pkt.extractLsb' 640 64 + BitVec.ofNat 64 (64 * (l.ringCap * d + slot))

/-- A child placed in the queue of its die, or in the ring behind it; none if both are full (R99). -/
def State.ampPut (s : State) (d : Nat) (ch : Child) : Option State :=
  let k := s.gdie d
  let mine := k.ring.filter (fun x => x.launch == ch.launch)
  if k.amp.length < ampQueueCap ∧ mine = [] then some (s.setGdie d { k with amp := k.amp ++ [ch] })
  else match s.launch? ch.launch with
    | none => none
    | some l =>
      if mine.length < l.ringCap then
        let n := nextSlot l.ringCap ((mine.getLast?).bind (fun x => x.slot))
        some ((s.ringPut d l.asid (l.ampVa d n) (recBytes ch.words)).setGdie d { k with ring := k.ring ++ [{ ch with slot := some n }] })
      else none

/-- A child as it leaves the ring: with the words that its entry holds. -/
def State.ampGet (s : State) (d : Nat) (ch : Child) : Child :=
  match ch.slot, s.launch? ch.launch with
  | some n, some l => { ch with words := s.ringGet d l.asid (l.ampVa d n) ch.words, slot := none }
  | _, _ => ch

/-- task.amp: a child record with the next emit number, or a parked group (R99, R290). -/
def execTaskAmp (f : KF) (s : State) : Host.Outcome State Fault Refusal :=
  s.issue (.taskAmp f) (onceBody (fun s c =>
    if c.w.stage ≠ 1 then .error (trapGfx 9)
    else if c.w.ampMax ≤ c.w.emits then .error (trapGfx 1)
    else
      let rec16 := recordOf c f.a.toNat
      let ch : Child := { launch := c.w.launch, task := c.w.task, emit := c.w.emits, words := rec16 }
      let w := { c.w with emits := c.w.emits + 1 }
      match s.ampPut c.w.die ch with
      | some s1 => .ok (s1.putWg w)
      | none => .ok (s.putWg (w.setGrp { c.g with stc := c.g.stc + 1, park := .amp rec16 c.w.emits }))))

/-! ### Passes and regions (R94, R95, R334) -/

def Pass.l (p : Pass) : Nat := bits p.bytes 192 5
def Pass.depthFn (p : Pass) : Nat := bits p.bytes 197 3
def Pass.depthWr (p : Pass) : Bool := bit p.bytes 200
def Pass.four (p : Pass) : Bool := bit p.bytes 201
def Pass.bpp (p : Pass) : Nat := 4 * 2 ^ bits p.bytes 202 2
def Pass.width (p : Pass) : Nat := bits p.bytes 224 15 + 1
def Pass.height (p : Pass) : Nat := bits p.bytes 240 15 + 1
def Pass.depthVa (p : Pass) : DWord := p.bytes.extractLsb' 64 64
def Pass.cnt (p : Pass) : DWord := p.bytes.extractLsb' 256 64
def Pass.graphFld (p : Pass) : DWord := p.bytes.extractLsb' 320 64
/-- Regions per row. -/
def Pass.rows (p : Pass) : Nat := (p.width + 63) / 64

/-- Morton(u, v) (R94). -/
def morton (u v : Nat) : Nat :=
  (List.range 16).foldl (fun m i => m + 4 ^ i * (u / 2 ^ i % 2) + 2 * 4 ^ i * (v / 2 ^ i % 2)) 0

/-- The owner of a region (R95). -/
def Pass.owner (p : Pass) (rx ry : Nat) : Option Nat := p.active[morton rx ry % p.active.length]?

/-- A sequence token (R102). -/
def tokenOf (draw task mesh prim : Nat) : Nat :=
  (draw % 2 ^ 20) * 2 ^ 41 + (task % 2 ^ 24) * 2 ^ 17 + (mesh % 256) * 2 ^ 9 + prim % 512

/-! ### Primitives (R101, R103, R291) -/

/-- A finite FP32 value in units of 2^-149; none for NaN and infinities. -/
def fx (w : Word) : Option Int :=
  let e := bits w 23 8
  let m := bits w 0 23
  if e = 255 then none
  else
    let v : Int := if e = 0 then (m : Int) else ((2 ^ 23 + m : Nat) : Int) * 2 ^ (e - 1)
    some (if bit w 31 then -v else v)

def isNan32 (w : Word) : Bool := bits w 23 8 == 255 && bits w 0 23 != 0

/-- One pixel in units of 2^-149. -/
def fxOne : Int := 2 ^ 149

/-- The owners of the regions that a bounding box meets, in units of 2^-149; none if it meets no pixel of the target. -/
def Pass.ownersOf (p : Pass) (x0 x1 y0 y1 : Int) : List Nat :=
  let w : Int := p.width
  let h : Int := p.height
  if x1 < 0 ∨ y1 < 0 ∨ w * fxOne ≤ x0 ∨ h * fxOne ≤ y0 then []
  else
    let lo (v : Int) : Nat := (max 0 (v / fxOne)).toNat / 64
    let hi (v : Int) (n : Int) : Nat := (min (v / fxOne) (n - 1)).toNat / 64
    let xs := (List.range (hi x1 w + 1)).filter (fun r => decide (lo x0 ≤ r))
    let ys := (List.range (hi y1 h + 1)).filter (fun r => decide (lo y0 ≤ r))
    p.active.filter (fun d => ys.any (fun ry => xs.any (fun rx => p.owner rx ry == some d)))

/-- The owners that a primitive is sent to, [] when it is culled (R103): three vertices of x, y and z. -/
def Pass.route (p : Pass) (v : List Word) (cull cw : Bool) : List Nat :=
  if v.any isNan32 then []
  else
    let c (i : Nat) : Option Int := fx ((v[i]?).getD 0)
    match c 0, c 1, c 3, c 4, c 6, c 7 with
    | some x0, some y0, some x1, some y1, some x2, some y2 =>
      let lim : Int := 32768 * fxOne
      let out (a : Int) : Bool := decide (a < -lim) || decide (lim ≤ a)
      let area := (x1 - x0) * (y2 - y0) - (x2 - x0) * (y1 - y0)
      let front := (decide (0 < area) && cw) || (decide (area < 0) && !cw)
      if out x0 || out y0 || out x1 || out y1 || out x2 || out y2 then []
      else if area = 0 ∨ (cull && !front) = true then []
      else p.ownersOf (min x0 (min x1 x2)) (max x0 (max x1 x2)) (min y0 (min y1 y2)) (max y0 (max y1 y2))
    | _, _, _, _, _, _ => []

/-- The 64-byte packet of a primitive (R101). -/
def packetOf (token : Nat) (v : List Word) (primid : Word) (flags : Nat) (attr : DWord) (stream : Nat) : BitVec 512 :=
  BitVec.ofNat 512 (leNat (natLe 8 token ++ v.flatMap (fun w => natLe 4 w.toNat) ++ natLe 4 primid.toNat ++
    natLe 4 flags ++ natLe 8 attr.toNat ++ natLe 4 stream))

/-- Packets that a reorder store holds on die, whatever their passes (R105). -/
def onDieCap : Nat := 4096

/-- Packets on their way to an owner: of a pass, or of every other pass. -/
def State.pktsTo (s : State) (d p : Nat) (mine : Bool) : Nat :=
  (s.gfx.net.filter (fun m => m.dst == d && (match m.k with
    | .pkt q => (q.pass == p) == mine
    | _ => false))).length

/-- Packets of a die's store that it holds on die, and those in the area of a pass. -/
def GDie.onDie (g : GDie) : Nat := (g.store.filter (fun q => q.slot.isNone)).length
def GDie.area (g : GDie) (p : Nat) : List Pkt := g.store.filter (fun q => q.pass == p && q.slot.isSome)

/-- Packets of a pass that an owner's store still takes (R105, R106): its places on die serve every pass, and behind them
stands the pass's own area; packets on their way count as held. -/
def State.storeRoom (s : State) (p : Pass) (d : Nat) : Nat :=
  let g := s.gdie d
  (onDieCap - g.onDie - s.pktsTo d p.id false) + (2 ^ p.l - (g.area p.id).length) - s.pktsTo d p.id true

/-- The address of a place in the area of a pass on its owner d (R334). -/
def Pass.roaVa (p : Pass) (d slot : Nat) : DWord := p.bytes.extractLsb' 128 64 + BitVec.ofNat 64 (64 * (2 ^ p.l * d + slot))

/-- A graphics message sent: it follows every earlier one of its pair of dies (R105, 05_tensor_mesh R129). -/
def State.gsend (s : State) (src dst : Nat) (k : GMsgK) : State :=
  { s with
    gfx := { s.gfx with net := s.gfx.net ++ [{ id := s.x.nextId, src := src, dst := dst, k := k }] }
    x := { s.x with nextId := s.x.nextId + 1 } }

/-- One lane's primitive: vertex words, packet number, flags and id. -/
structure PrimIn where
  verts : List Word
  n : Nat
  flags : Nat
  id : Word
  deriving DecidableEq, Repr

/-- The scratchpad as the group's older accesses that are held leave it (R61). -/
def State.scratchAhead (s : State) (w : Wg) (gi : Nat) : Mem :=
  (s.x.accs.filter (fun a => a.wg == w.id && a.grp == gi && a.onScratch)).foldl (fun (m : Mem) a => match a.ins with
    | .lds _ | .sts _ | .atoms _ => (scratchLanes a.ins m a.lanes).1
    | .stkPush _ => (a.lanes.filter (fun l => l.ops.length == 3)).foldl (fun (m : Mem) l =>
        m.putBytes ((l.ops[0]?).getD 0).toNat ((l.ops.drop 1).flatMap (fun (v : Word) => natLe 4 v.toNat))) m
    | _ => m) w.scratch

/-- prim.emit (R291). -/
def execPrimEmit (f : KF) (s : State) : Host.Outcome State Fault Refusal :=
  s.issue (.primEmit f) (onceBody (fun s c =>
    let u (j : Nat) : Word := uniAt c.uni (4 * f.x.toNat + j)
    let idx (l : Nat) : List Nat :=
      let v := ((c.g.lane l).reg f.a.toNat).val
      [bits v 0 8, bits v 8 8, bits v 16 8]
    let at_ (i : Nat) : Nat := (u 2).toNat + 16 * i
    if c.w.stage ≠ 1 ∧ c.w.stage ≠ 2 then .error (trapGfx 9)
    else if c.ex.any (fun l => (idx l).any (fun i => decide (c.w.vmax ≤ i))) ∨ c.w.pmax < c.w.prims + c.ex.length then
      .error (trapGfx 2)
    else match (c.ex.flatMap idx).find? (fun i => decide (c.w.scrSize < at_ i + 12)) with
      | some i => .error (trapMem 7 (BitVec.ofNat 64 (at_ i)))
      | none =>
        match c.w.passId.bind s.pass? with
        | none => .ok (s.putWg { c.w with prims := c.w.prims + c.ex.length })
        | some p =>
          let scr := s.scratchAhead c.w c.g.idx
          let ins := c.ex.mapIdx (fun k l =>
            let v := ((c.g.lane l).reg f.a.toNat).val
            ({ verts := (idx l).flatMap (fun i => (List.range 3).map (fun j => BitVec.ofNat 32 (scr.num (at_ i + 4 * j) 4))), n := c.w.prims + k, flags := bits v 24 2, id := ((c.g.lane l).reg f.b.toNat).val } : PrimIn))
          let tos := ins.map (fun q => (q, p.route q.verts (q.flags % 2 == 1) (q.flags / 2 == 1)))
          let full := p.active.any (fun d =>
            let n := (tos.filter (fun t => t.2.contains d)).length
            decide (s.storeRoom p d < n))
          if full then .error (trapGfx 3)
          else
            let s1 := tos.foldl (fun s t =>
              let tok := tokenOf c.w.draw c.w.task c.w.mesh t.1.n
              let pk : Pkt := { pass := p.id, stream := c.w.stream, token := tok, k := .prim (packetOf tok t.1.verts t.1.id t.1.flags (pair (u 0) (u 1) + BitVec.ofNat 64 (64 * t.1.n)) c.w.stream) }
              t.2.foldl (fun s d => s.gsend c.w.die d (.pkt pk)) s) s
            let culled := (tos.filter (fun t => t.2 = [])).length
            .ok ((s1.setPass { p with culled := p.culled + culled }).putWg { c.w with prims := c.w.prims + c.ex.length })))

/-! ### Occlusion markers (R117 to R119, R292) -/

/-- A marker sent to every owner die of the pass, with the token of the workgroup's next primitive. DESIGN CHOICE
(assumption 99): after the 512th primitive the next index does not fit PRIM, and the token's PRIM is 0. -/
def State.marker (s : State) (w : Wg) (p : Pass) (k : PktK) : State :=
  let pk : Pkt := { pass := p.id, stream := w.stream, token := tokenOf w.draw w.task w.mesh w.prims, k := k }
  p.active.foldl (fun s d => s.gsend w.die d (.pkt pk)) s

/-- Queries of a stream that are open (R119). DESIGN CHOICE (assumption 100): a query is open from its occ.begin until its
cell shows FINAL. -/
def Pass.openIn (p : Pass) (stream : Nat) : List (Nat × Nat × Nat) := p.opened.filter (fun q => q.1 == stream)

/-- A cell whose query is open in a pass of the context (R119). -/
def State.cellOpen (s : State) (asid cell : Nat) : Bool :=
  s.gfx.passes.any (fun p => p.asid == asid && !p.ended && p.opened.any (fun q => q.2.1 == cell))

/-- The die that an update of a cell goes to: the home of its page, bound at first touch. A page of host memory, of another
device or without a translation is seen to by the sender's own die. -/
def State.cellHome (s : State) (d asid cell : Nat) : State × Nat :=
  let r := s.homeOf d asid (BitVec.ofNat 64 cell)
  (r.1, match r.2 with
    | some (dev, h) => if dev = s.pkg.dev ∧ h < Config.nDies then h else d
    | none => d)

/-- occ.begin: 0 goes to the cell's home, a marker to every owner. -/
def execOccBegin (f : KF) (s : State) : Host.Outcome State Fault Refusal :=
  s.issue (.occBegin f) (onceBody (fun s c =>
    let va := uniPair c.uni f.a.toNat
    if c.w.stage ≠ 1 ∧ c.w.stage ≠ 2 then .error (trapGfx 9)
    else if va.toNat % 4 ≠ 0 then .error (trapMem 5 va)
    else match c.w.passId.bind s.pass? with
      | none => .ok s
      | some p =>
        if 256 ≤ (p.openIn c.w.stream).length then .error (trapGfx 6)
        else if s.cellOpen p.asid va.toNat then .error (trapGfx 7)
        else
          let h := (s.setPass { p with opened := p.opened ++ [(c.w.stream, va.toNat, 0)], contribs := p.contribs.filter (fun q => q.1 != va.toNat) }).cellHome c.w.die c.w.asid va.toNat
          .ok ((h.1.gsend c.w.die h.2 (.contrib p.id va.toNat 0 0 c.w.asid (pageOf va))).marker c.w p (.occBegin va.toNat))))

/-- occ.end: its marker closes the interval of tokens of the open query. DESIGN CHOICE (assumption 101): on a cell without
an open query of the stream, the marker closes nothing and no trap is raised. -/
def execOccEnd (f : KF) (s : State) : Host.Outcome State Fault Refusal :=
  s.issue (.occEnd f) (onceBody (fun s c =>
    let va := uniPair c.uni f.a.toNat
    if c.w.stage ≠ 1 ∧ c.w.stage ≠ 2 then .error (trapGfx 9)
    else if va.toNat % 4 ≠ 0 then .error (trapMem 5 va)
    else match c.w.passId.bind s.pass? with
      | none => .ok s
      | some p =>
        let s1 := s.setPass { p with opened := updFirst (fun (q : Nat × Nat × Nat) => q.1 == c.w.stream && q.2.1 == va.toNat) (fun q => (q.1, q.2.1, 1)) p.opened }
        .ok (s1.marker c.w p (.occEnd va.toNat))))

/-! ### Pixel work (R293, R294) -/

/-- px.discard: the fragments are done and their threads end. -/
def execPxDiscard (f : RF) (s : State) : Host.Outcome State Fault Refusal :=
  s.issue (.pxDiscard f) (onceBody (fun s c =>
    if c.w.stage ≠ 3 then .error (trapGfx 9)
    else if c.w.nd then .error (trapGfx 4)
    else
      let k := s.gdie c.w.die
      let frags := updAll (fragOf c.w c.g.idx c.ex) (fun fr => { fr with st := .done, counted := false }) k.frags
      .ok ((s.setGdie c.w.die { k with frags := frags }).endThreads c.w.id c.g.idx c.ex)))

/-- A depth as px.depth takes it: clamped to [0, 1], −0.0 as +0.0, NaN as 1.0 (R294, R103). -/
def depthClamp (v : Word) : Word :=
  if isNan32 v then 0x3F800000
  else if bit v 31 then 0
  else if v.toNat > 0x3F800000 then 0x3F800000 else v

/-- px.depth: the output depth of each executing lane's fragment. -/
def execPxDepth (f : RF) (s : State) : Host.Outcome State Fault Refusal :=
  s.issue (.pxDepth f) (onceBody (fun s c =>
    if c.w.stage ≠ 3 then .error (trapGfx 9)
    else if !c.w.dw then .error (trapGfx 5)
    else .ok (s.putGrp c.w.id
      (c.g.onLanes c.ex (fun _ t => { t with px := some (depthClamp (t.reg f.a.toNat).val) })))))

/-! ### Traversal testers (R296 to R298) -/

/-- The FP32 word at a byte of a node. -/
def nodeWord (bs : List Byte) (byte : Nat) : Word := leWord (bs.drop byte) 0
def xr32 (w : Word) : XR := fp32.value w.toNat

/-- lo and hi of one axis of a box; none where the exact difference ∞ − ∞ has no value. -/
def boxAxis (mn mx o i : XR) : Option (XR × XR) :=
  let d1 := (xAdd mRNE mn o.flip).1
  let d2 := (xAdd mRNE mx o.flip).1
  if d1.isNan || d2.isNan then none
  else if zeroInf d1 i || zeroInf d2 i then some (.inf true, .inf false)
  else
    let t1 := (xMul d1 i).1
    let t2 := (xMul d2 i).1
    some (xMin t1 t2, xMax t1 t2)

/-- A zero without a sign. -/
def XR.plusZero (x : XR) : XR := if x.isZero then .fin false 0 1 else x

/-- The result of one box: +∞ for a miss; none where the manual states no value (R297). -/
def boxTest (bs : List Byte) (ray : List Word) (j : Nat) : Option Word :=
  let b (k : Nat) : XR := xr32 (nodeWord bs (24 * j + 4 * k))
  let r (k : Nat) : XR := xr32 ((ray[k]?).getD 0)
  let ks := List.range 6
  let rs := List.range 8
  if ks.any (fun k => (b k).isNan) || rs.any (fun k => (r k).isNan) then some 0x7F800000
  else if (List.range 3).any (fun k => xLt (b (k + 3)) (b k)) then some 0x7F800000
  else match boxAxis (b 0) (b 3) (r 0) (r 4), boxAxis (b 1) (b 4) (r 1) (r 5), boxAxis (b 2) (b 5) (r 2) (r 6) with
    | some x, some y, some z =>
      let tn := xMax (r 3) (xMax x.1 (xMax y.1 z.1))
      let tf := xMin (r 7) (xMin x.2 (xMin y.2 z.2))
      if xLe tn tf then some (BitVec.ofNat 32 (roundTo fp32 tn.plusZero mRDN false).1) else some 0x7F800000
    | _, _, _ => none

/-- Vectors of three exact integers. -/
abbrev V3 := Int × Int × Int
def V3.sub (a b : V3) : V3 := (a.1 - b.1, a.2.1 - b.2.1, a.2.2 - b.2.2)
def V3.dot (a b : V3) : Int := a.1 * b.1 + a.2.1 * b.2.1 + a.2.2 * b.2.2
def V3.cross (a b : V3) : V3 :=
  (a.2.1 * b.2.2 - a.2.2 * b.2.1, a.2.2 * b.1 - a.1 * b.2.2, a.1 * b.2.1 - a.2.1 * b.1)

/-- n / d rounded once to FP32. -/
def quot32 (n d : Int) : Word :=
  BitVec.ofNat 32 (roundTo fp32 (xOfInt false (if d < 0 then -n else n) d.natAbs) mRNE false).1

/-- The four results of a triangle test (R298): exact solution in units of 2^-149. -/
def triTest (bs : List Byte) (ray : List Word) : List Word :=
  let miss : List Word := [0x7F800000, 0, 0, 0xFFFFFFFF]
  let vs := (List.range 9).map (fun k => fx (nodeWord bs (4 * k)))
  let rs := ray.map fx
  if (vs ++ rs).any (fun x => x.isNone) then miss
  else
    let v (k : Nat) : Int := (((vs[k]?).getD none)).getD 0
    let r (k : Nat) : Int := (((rs[k]?).getD none)).getD 0
    let v0 : V3 := (v 0, v 1, v 2)
    let e1 := V3.sub (v 3, v 4, v 5) v0
    let e2 := V3.sub (v 6, v 7, v 8) v0
    let q := V3.sub (r 0, r 1, r 2) v0
    let d : V3 := (r 4, r 5, r 6)
    let n := V3.cross e1 e2
    let dt := V3.dot d n
    let sg : Int := if dt < 0 then -1 else 1
    let dd := sg * dt
    let u := sg * V3.dot (V3.cross q e2) d
    let w := sg * V3.dot (V3.cross e1 q) d
    let t := sg * -(V3.dot n q)
    let hit := decide (dt ≠ 0) && (decide (dt < 0) || !bit (nodeWord bs 40) 0) && decide (0 ≤ u) && decide (0 ≤ w) &&
      decide (u + w ≤ dd) && decide (r 3 * dd ≤ t * fxOne) && decide (t * fxOne ≤ r 7 * dd)
    if hit then [quot32 t dd, quot32 u dd, quot32 w dd, nodeWord bs 36] else miss

/-- The node address of a lane (R296). -/
def nodeVa (c : Cx) (f : XF) (l : Nat) : DWord :=
  if tKN f.c then uniPair c.uni (tN f.c)
  else pair ((c.g.lane l).reg (tN f.c)).val ((c.g.lane l).reg (tN f.c + 1)).val

/-- tst.box: a global load of 128 bytes whose reply is the four box results. -/
def execTstBox (f : XF) (s : State) : Host.Outcome State Fault Refusal :=
  s.issue (.tstBox f) (fun s c =>
    globalIssue (.tstBox f) .load 128 0 (regsFrom f.d.toNat 4) (nodeVa c f)
      (fun l => dataOf c f.a.toNat 4 l ++ dataOf c f.b.toNat 4 l) s c)

/-- tst.tri: a global load of 64 bytes whose reply is the triangle's result. -/
def execTstTri (f : XF) (s : State) : Host.Outcome State Fault Refusal :=
  s.issue (.tstTri f) (fun s c =>
    globalIssue (.tstTri f) .load 64 0 (regsFrom f.d.toNat 4) (nodeVa c f)
      (fun l => dataOf c f.a.toNat 4 l ++ dataOf c f.b.toNat 4 l) s c)

/-! ### Traversal stacks (R125, R299) -/

/-- Bytes of a group's stack area. -/
def stackBytes : Nat := 16384

/-- The scratchpad address of a stack slot, and the address of a spilled entry. -/
def stackAt (w : Wg) (j l : Nat) : Nat := w.stkBase + 256 * (j % 64) + 8 * l
def spillAt (w : Wg) (g e l : Nat) : DWord :=
  w.spillVa + BitVec.ofNat 64 (256 * w.spillN * (w.spillG * w.index + g) + 256 * e + 8 * l)

/-- A push of one lane: its 32 oldest entries leave a full stack. -/
def Lane.pushed (t : Lane) : Lane :=
  if t.stk = 64 then { t with stk := 33, top := (t.top + 1) % 64, spilled := t.spilled + 32 }
  else { t with stk := t.stk + 1, top := (t.top + 1) % 64 }

/-- The entries that a push moves out: slot i of the oldest 32, named by its address, to entry number spilled + i. -/
def pushSpill (c : Cx) (l : Nat) : List LaneAcc :=
  let t := c.g.lane l
  if t.stk = 64 then
    (List.range 32).map (fun i =>
      { lane := l, va := spillAt c.w c.g.idx (t.spilled + i) l, st := .ok, ops := [BitVec.ofNat 32 (stackAt c.w (t.top + i) l)] })
  else []

/-- The entry that a push writes: its slot's address and its two words. -/
def pushEntry (f : KF) (c : Cx) (l : Nat) : LaneAcc :=
  let t := c.g.lane l
  { lane := l, va := 0, st := .ok, ops := [BitVec.ofNat 32 (stackAt c.w t.top l), (t.reg f.a.toNat).val, (t.reg (f.a.toNat + 1)).val] }

/-- The two words of a stack slot. -/
def slotWords (m : Mem) (a : Nat) : List Word := [BitVec.ofNat 32 (m.num a 4), BitVec.ofNat 32 (m.num (a + 4) 4)]

/-- A stack operation of a group performed in its scratchpad. A push reads the entries that it moves out, then writes its
own; the entries go on to memory. A pop reads its entries, or goes on to memory for those that it brings back
(R125, 11_isa R299). -/
def State.stkPerform (s : State) (id : Nat) : State :=
  match s.x.acc? id with
  | none => s
  | some a =>
    match s.x.wg? a.wg with
    | none => s
    | some w =>
      let slot (l : LaneAcc) : Nat := ((l.ops[0]?).getD 0).toNat
      if a.kind = .store then
        let out := (a.lanes.filter (fun l => l.ops.length == 1)).map (fun (l : LaneAcc) => { l with st := .wait, ops := slotWords w.scratch (slot l) })
        let m := (a.lanes.filter (fun l => l.ops.length == 3)).foldl (fun (m : Mem) l =>
          m.putBytes (slot l) ((l.ops.drop 1).flatMap (fun (v : Word) => natLe 4 v.toNat))) w.scratch
        let s1 := s.putWg { w with scratch := m }
        if out = [] then ({ s1 with x := s1.x.setAcc { a with lanes := a.lanes.map (fun (l : LaneAcc) => { l with st := LaneAccSt.done }) } }).accSettle id
        else ({ s1 with x := s1.x.setAcc { a with kind := .spill, lanes := out } }).accMove id
      else
        let now := (a.lanes.filter (fun l => l.ops.length == 1)).flatMap (fun l => match a.ins with
          | .stkPop f => (slotWords w.scratch (slot l)).mapIdx (fun j v => ({ kind := 0, lane := l.lane, idx := f.a.toNat + j, val := v, tag := tRAW } : RegWr))
          | _ => [])
        let back := (a.lanes.filter (fun l => l.ops.length == 2)).map (fun (l : LaneAcc) => { l with st := LaneAccSt.wait })
        if back = [] then { s with x := s.x.setAcc { a with kind := .reply, res := a.res ++ now, lanes := [] } }
        else ({ s with x := s.x.setAcc { a with kind := .refill, res := a.res ++ now, lanes := back } }).accMove id

/-- A stack operation issued: performed at once, or held behind older scratchpad accesses of its group (R61). -/
def stkIssue (i : Instr) (kind : AccKind) (lanes : List LaneAcc) (res : List RegWr) (g : Group) (s : State) (c : Cx) : State :=
  let id := s.x.nextId
  let held := s.x.scratchHeld c.w.id c.g.idx
  let s1 := s.addAcc c.w.id g { id := id, wg := c.w.id, grp := c.g.idx, ins := i, kind := kind, pc := c.pc, width := 8, lanes := lanes, res := res, skid0 := c.g.issued + 1, at_ := id }
  if held then s1 else s1.stkPerform id

/-- stk.push. -/
def execStkPush (f : KF) (s : State) : Host.Outcome State Fault Refusal :=
  s.issue (.stkPush f) (onceBody (fun s c =>
    if c.w.scrSize < c.w.stkBase + stackBytes then .error (trapMem 7 (BitVec.ofNat 64 c.w.stkBase))
    else if c.ex.any (fun l => (c.g.lane l).stk == 64 && decide (c.w.spillN < (c.g.lane l).spilled + 32)) then
      .error (trapGfx 8)
    else
      let g := c.g.onLanes c.ex (fun _ t => t.pushed)
      .ok (stkIssue (.stkPush f) .store (c.ex.flatMap (pushSpill c) ++ c.ex.map (pushEntry f c)) [] { g with stc := g.stc + 1 } s c)))

/-- A pop of one lane: an empty stack with spilled entries takes up to 32 of the newest back first. -/
def Lane.popped (t : Lane) : Lane :=
  if t.stk ≠ 0 then { t with stk := t.stk - 1, top := (t.top + 63) % 64 }
  else
    let n := min 32 t.spilled
    if n = 0 then t else { t with stk := n - 1, top := (t.top + n - 1) % 64, spilled := t.spilled - n }

/-- The predicate that a pop writes: whether the lane had an entry. -/
def popPred (f : KF) (c : Cx) (l : Nat) : RegWr :=
  let t := c.g.lane l
  { kind := 2, lane := l, idx := f.x.toNat, val := if t.stk ≠ 0 ∨ t.spilled ≠ 0 then 1 else 0 }

/-- What a pop reads: the slot of its entry, or the entries that it brings back, each with its slot and whether it is the
one popped. -/
def popLanes (c : Cx) (l : Nat) : List LaneAcc :=
  let t := c.g.lane l
  if t.stk ≠ 0 then [{ lane := l, va := 0, st := .ok, ops := [BitVec.ofNat 32 (stackAt c.w (t.top + 63) l)] }]
  else
    let n := min 32 t.spilled
    (List.range n).map (fun i =>
      { lane := l, va := spillAt c.w c.g.idx (t.spilled - n + i) l, st := .ok, ops := [BitVec.ofNat 32 (stackAt c.w (t.top + i) l), if i + 1 = n then 1 else 0] })

/-- stk.pop. -/
def execStkPop (f : KF) (s : State) : Host.Outcome State Fault Refusal :=
  s.issue (.stkPop f) (onceBody (fun s c =>
    if c.w.scrSize < c.w.stkBase + stackBytes then .error (trapMem 7 (BitVec.ofNat 64 c.w.stkBase))
    else
      let id := s.x.nextId
      let g0 := c.g.onLanes c.ex (fun _ t => t.popped)
      let g := { g0 with
        ld := g0.ld + 1
        busy := g0.busy ++ [(0, f.a.toNat), (0, f.a.toNat + 1), (2, f.x.toNat)].map (fun r => { kind := r.1, idx := r.2, lanes := maskOf c.ex, due := .acc id }) }
      .ok (stkIssue (.stkPop f) .load (c.ex.flatMap (popLanes c)) (c.ex.map (popPred f c)) g s c)))

/-! ### Work graphs (R120 to R123, R300, R301) -/

/-- The graph launch that a GRAPH field names, while it is accepted and incomplete (R336). -/
def State.graphNamed (s : State) (asid : Nat) (fld : DWord) : Option Nat :=
  if bit fld 0 then
    (s.sch.launches.find? (fun l => l.queue == bits fld 1 12 && l.pidx % 2 ^ 51 == bits fld 13 51 && l.asid == asid &&
      l.open && bits l.pkt 4 3 == 4)).map (fun l => l.id)
  else none

/-- The graph that a workgroup's records join (R336). -/
def State.graphOf (s : State) (w : Wg) : Option Nat :=
  match s.launch? w.launch with
  | none => none
  | some l =>
    if w.stage = 4 then (if l.open then some l.id else none)
    else if w.stage = 0 then s.graphNamed w.asid (l.pkt.extractLsb' 544 64)
    else match w.passId.bind s.pass? with
      | some p => s.graphNamed w.asid p.graphFld
      | none => none

/-- Records that the on-chip part of a deque holds (R120). -/
def dequeCap : Nat := 512

/-- The records of the deque ring of a graph launch on each core (R334). -/
def Launch.dequeRing (l : Launch) : Nat := 2 ^ l.fld 80 0 5

/-- The address of an entry of a graph's deque ring on a core: the cores' rings follow one another from its base
(assumption 34). -/
def Launch.dequeVa (l : Launch) (d c slot : Nat) : DWord :=
  l.pkt.extractLsb' 576 64 + BitVec.ofNat 64 (64 * (l.dequeRing * coreNo d c + slot))

/-- Records, the tail-most last, given the entries of a ring of n that follow the one of its head-most record. -/
def slotRecs (n : Nat) (head : Option Nat) (rs : List GRec) : List GRec :=
  (rs.reverse.foldl (fun (p : List GRec × Option Nat) r =>
    let k := nextSlot n p.2
    ({ r with slot := some k } :: p.1, some k)) ([], head)).1

/-- A record placed at the head of a deque; none if the on-chip part and the graph's ring are full (R121). DESIGN CHOICE
(assumption 102): no record of another graph leaves the on-chip part for it, and where the ring has room for fewer than 256
records, as many as fit leave. -/
def State.recPut (s : State) (d c : Nat) (r : GRec) : Option State :=
  let k := s.x.core d c
  let r1 := { r with id := s.x.nextId, slot := none }
  let put (s : State) (k : Core) : State := { s with x := { s.x.setCore d c k with nextId := s.x.nextId + 1 } }
  if k.deque.length < dequeCap then some (put s { k with deque := r1 :: k.deque })
  else match s.launch? r.graph with
    | none => none
    | some l =>
      let mine := k.deque.filter (fun x => x.graph == r.graph)
      let used := k.rings.filter (fun x => x.graph == r.graph)
      let n := min (min 256 mine.length) (l.dequeRing - used.length)
      if n = 0 then none
      else
        let out := slotRecs l.dequeRing ((used.head?).bind (fun x => x.slot)) (mine.drop (mine.length - n))
        let s1 := out.foldl (fun (s : State) x => s.ringPut d l.asid (l.dequeVa d c (x.slot.getD 0)) (recBytes x.words)) s
        some (put s1 { k with deque := r1 :: k.deque.filter (fun x => !out.any (fun o => o.id == x.id)), rings := out ++ k.rings })

/-- rec.push. -/
def execRecPush (f : KF) (s : State) : Host.Outcome State Fault Refusal :=
  s.issue (.recPush f) (onceBody (fun s c =>
    match s.graphOf c.w with
    | none => .error (trapGfx 10)
    | some gr =>
      let rec16 := recordOf c f.a.toNat
      match s.recPut c.w.die c.w.core { graph := gr, pass := c.w.passId, words := rec16 } with
      | some s1 => .ok s1
      | none => .ok (s.putGrp c.w.id { c.g with stc := c.g.stc + 1, park := .recPush rec16 gr })))

/-- The fields of a record (R120). -/
def GRec.node (r : GRec) : Nat := ((r.words[0]?).getD 0).toNat
def GRec.cond (r : GRec) : Bool := bit ((r.words[1]?).getD 0) 0
def GRec.cell (r : GRec) : DWord := pair ((r.words[2]?).getD 0) ((r.words[3]?).getD 0)
def GRec.thresh (r : GRec) : Nat := ((r.words[4]?).getD 0).toNat
/-- The record with FLAGS[0] cleared. -/
def GRec.plain (r : GRec) : GRec := { r with words := r.words.set 1 (((r.words[1]?).getD 0) &&& ~~~1) }

/-- The occlusion cell at an address, as the die reads it (R117). -/
def State.cellVal (s : State) (d asid : Nat) (va : DWord) : Option Word :=
  match s.walk d asid va with
  | .ok e => some (BitVec.ofNat 32 (if pteLoc e.pte then s.host.num (e.pa va) 4 else s.freshNum (e.pa va) 4))
  | _ => none

/-- A record retired without running, counted where R336 says: in its pass, else in its graph launch. -/
def State.skipRec (s : State) (r : GRec) : State :=
  match r.pass.bind s.pass? with
  | some p => s.setPass { p with skipped := p.skipped + 1 }
  | none =>
    match s.launch? r.graph with
    | some l => s.setLaunch { l with skipped := l.skipped + 1 }
    | none => s

/-- Records of a die's wait list (R122). -/
def waitCap : Nat := 1024

/-- The records of a graph on a core, head first: the on-chip part, then the ring. -/
def Core.recs (k : Core) (gr : Nat) : List GRec := (k.deque ++ k.rings).filter (fun r => r.graph == gr)

/-- The records of a graph on a core as they stand, those of its ring with the words that their entries hold. -/
def State.recs (s : State) (d c gr : Nat) : List GRec :=
  ((s.x.core d c).recs gr).map (fun r => match r.slot, s.launch? r.graph with
    | some n, some l => { r with words := s.ringGet d l.asid (l.dequeVa d c n) r.words }
    | _, _ => r)

/-- A core without one record. -/
def State.recDel (s : State) (d c : Nat) (r : GRec) : State :=
  let k := s.x.core d c
  { s with x := s.x.setCore d c { k with deque := k.deque.filter (fun x => x.id != r.id), rings := k.rings.filter (fun x => x.id != r.id) } }

/-- The cell of a COND record shows FINAL (R117). -/
def State.recFinal (s : State) (d asid : Nat) (r : GRec) : Bool := bit ((s.cellVal d asid r.cell).getD 0) 31

/-- A record that is passed over: its COND is undecided and the die's wait list is full (R122). -/
def State.passedOver (s : State) (d asid : Nat) (r : GRec) : Bool :=
  r.cond && !s.recFinal d asid r && decide (waitCap ≤ (s.gdie d).waits.length)

/-- A record that has been taken: a COND record is decided if its cell shows FINAL, and waits for it otherwise (R122). -/
def State.recDecide (s : State) (d c asid : Nat) (r : GRec) : Option GRec × State :=
  if !r.cond then (some r, s)
  else if s.recFinal d asid r then
    if bits ((s.cellVal d asid r.cell).getD 0) 0 31 > r.thresh then (some r.plain, s) else (none, s.skipRec r)
  else
    let v := s.gdie d
    let s1 := s.setGdie d { v with waits := v.waits ++ [(s.x.nextId, c, r)] }
    (none, { s1 with x := { s1.x with nextId := s1.x.nextId + 1 } })

/-- Takes the head-most record of a graph that can be taken: COND records are decided, or moved to the wait list while
it has room (R122, R301). The list holds the records still to look at. -/
def State.recTake (s : State) (d c asid : Nat) : List GRec → Option GRec × State
  | [] => (none, s)
  | r :: rest =>
    if s.passedOver d asid r then s.recTake d c asid rest
    else match (s.recDel d c r).recDecide d c asid r with
      | (some t, s1) => (some t, s1)
      | (none, s1) => s1.recTake d c asid rest

/-- The order in which a core's attempt visits the cores of its die (R123). -/
def stealOrder (c n : Nat) : List Nat :=
  let d : List Nat := [1, 3, 5, 7, 9, 11, 13, 15, 2, 4, 6, 8, 10, 12, 14]
  (List.range 15).map (fun i => (c + (d[(i + n) % 15]?).getD 0) % 16)

/-- The launch ring of a rectangle in logical coordinates (05_tensor_mesh R130): positions from (0, 0). -/
def ringOrder (w h : Nat) : List (Nat × Nat) :=
  (List.range w).map (fun u => (u, 0)) ++
  (List.range (h - 1)).flatMap (fun k =>
    let v := k + 1
    let us := (List.range (w - 1)).map (fun i => i + 1)
    (if v % 2 = 1 then us.reverse else us).map (fun u => (u, v))) ++
  (List.range (h - 1)).map (fun k => (0, h - 1 - k))

/-- The package ring: the working dies in its order (R131). -/
def State.pkgRing (s : State) : List Nat := ((ringOrder 8 6).map (fun p => 8 * p.2 + p.1)).filter s.working

/-- The die's successors in the package ring, in order. -/
def State.successors (s : State) (d : Nat) : List Nat :=
  let r := s.pkgRing
  match r.idxOf? d with
  | none => []
  | some i => r.drop (i + 1) ++ r.take i

/-- A group parked by rec.push is released if its record now finds room (R121). -/
def State.recUnpark (s : State) (w g : Nat) : State :=
  match s.x.wg? w with
  | none => s
  | some wg =>
    match wg.grp? g with
    | none => s
    | some gr =>
      match gr.park with
      | .recPush r graph =>
        match s.recPut wg.die wg.core { graph := graph, pass := wg.passId, words := r } with
        | none => s
        | some s1 => { s1 with x := s1.x.setWg (wg.setGrp { gr with park := .none, stc := gr.stc - 1 }) }
      | _ => s

/-- Every group of a core that is parked by rec.push tried again. -/
def State.recWake (s : State) (d c : Nat) : State :=
  (s.x.wgs.filter (fun w => w.die == d && w.core == c)).foldl (fun s w =>
    w.groups.foldl (fun s g => s.recUnpark w.id g.idx) s) s

/-- A record stolen for a core from a core of its die in the order of an attempt, else from the successors: from the
tail of their core with the most records of the graph (R123), past those that a thief passes over (R122). -/
def State.stealFor (s : State) (d c gr asid n : Nat) : Option (GRec × State) :=
  let own := (stealOrder c n).filter (fun j => s.coreWorks d j)
  let take (s : State) (e j : Nat) : Option (GRec × State) :=
    (((s.recs e j gr).reverse.dropWhile (fun r => s.passedOver e asid r || s.passedOver d asid r)).head?).map (fun r => (r, (s.recDel e j r).recWake e j))
  match own.findSome? (fun j => take s d j) with
  | some r => some r
  | none => (s.successors d).findSome? (fun e =>
      match maxBy (fun j => ((s.x.core e j).recs gr).length) ((List.range 16).filter (fun j => s.coreWorks e j)) with
      | some j => take s e j
      | none => none)

/-- The attempt number of a core for a graph (R123), and the next attempt. -/
def Core.attempt (k : Core) (gr : Nat) : Nat := ((k.steals.find? (fun t => t.graph == gr)).map (fun t => t.attempt)).getD 0
def Core.nextAttempt (k : Core) (gr : Nat) : Core :=
  if k.steals.any (fun t => t.graph == gr) then
    { k with steals := updFirst (fun t => t.graph == gr) (fun t => { t with attempt := t.attempt + 1 }) k.steals }
  else { k with steals := k.steals ++ [{ graph := gr, attempt := 1 }] }

/-- What a rec.pop takes: from its own deque, else with the steal option from one steal attempt, whose record it receives
(R301). DESIGN CHOICE (assumption 104): every such attempt, successful or not, advances the attempt number that the core's
own steals use. -/
def State.popRec (s : State) (d c gr asid : Nat) (steal : Bool) : Option GRec × State :=
  match s.recTake d c asid (s.recs d c gr) with
  | (some r, s1) => (some r, s1)
  | (none, s1) =>
    if !steal then (none, s1)
    else
      let k := s1.x.core d c
      let s2 := { s1 with x := s1.x.setCore d c (k.nextAttempt gr) }
      match s2.stealFor d c gr asid (k.attempt gr) with
      | none => (none, s2)
      | some (r, s3) => s3.recDecide d c asid r

/-- rec.pop: the record and the predicate come with the reply (R301). -/
def execRecPop (f : KF) (s : State) : Host.Outcome State Fault Refusal :=
  s.issue (.recPop f) (onceBody (fun s c =>
    match s.graphOf c.w with
    | none => .error (trapGfx 10)
    | some gr =>
      let p := s.popRec c.w.die c.w.core gr c.w.asid (bit f.f 0)
      let res := match p.1 with
        | none => c.ex.map (fun l => ({ kind := 2, lane := l, idx := f.x.toNat, val := 0 } : RegWr))
        | some r => c.ex.flatMap (fun l =>
            [{ kind := 2, lane := l, idx := f.x.toNat, val := 1 },
             { kind := 0, lane := l, idx := f.a.toNat, val := if l < 16 then (r.words[l]?).getD 0 else 0, tag := tRAW }])
      let id := p.2.x.nextId
      let g := { c.g with
        ld := c.g.ld + 1
        busy := c.g.busy ++ [(0, f.a.toNat), (2, f.x.toNat)].map (fun r => { kind := r.1, idx := r.2, lanes := maskOf c.ex, due := .acc id }) }
      .ok ((p.2.addAcc c.w.id g { id := id, wg := c.w.id, grp := c.g.idx, ins := .recPop f, kind := .reply, pc := c.pc, res := res, at_ := id }).recWake c.w.die c.w.core)))

end Sys2Proof.Machine
end

