-- ==== Sys2Proof/Machine/System.lean ====
section
/-!
DEFINITION. The meanings of the mesh, engine and system instructions, opcodes 0xE8 to 0xFA (11_isa R302 to R314):
supersteps and neighbour sends, requests to the base-die engines, special registers, software traps, and the return
from a handler.
-/

set_option linter.unusedVariables false

namespace Sys2Proof.Machine

/-! ### Supersteps and neighbours (R302 to R304, 05_tensor_mesh R126 to R134) -/

/-- sstep: each executing lane counts one and is held until its barrier completes (02_execution R52). -/
def execSstep (f : RF) (s : State) : Host.Outcome State Fault Refusal :=
  s.issue (.sstep f) (onceBody (fun s c =>
    if !c.w.cores then .error (trapRights 2)
    else
      let g := c.g.onLanes c.ex (fun _ t => { t with sstN := t.sstN + 1, hold := .superstep })
      .ok (s.putWg (c.w.setGrp g).sstUpdate)))

/-- Workgroups of a mesh launch on each die, and its rectangle (R334). -/
def Launch.wpd (l : Launch) : Nat := l.fld 64 13 6 + 1

/-- The ring position of the neighbour of a die in a direction: 0 N, 1 E, 2 S, 3 W, 4 NEXT, 5 PREV (R127). -/
def nbrPos (ring : List Nat) (pos dir : Nat) : Option Nat :=
  let n := ring.length
  let d := (ring[pos]?).getD 0
  let near (ok : Nat → Bool) (dist : Nat → Nat) : Option Nat := (minBy dist (ring.filter ok)).bind (fun e => ring.idxOf? e)
  match dir with
  | 0 => near (fun e => e % 8 == d % 8 && decide (d / 8 < e / 8)) (fun e => e / 8)
  | 1 => near (fun e => e / 8 == d / 8 && decide (d % 8 < e % 8)) (fun e => e % 8)
  | 2 => near (fun e => e % 8 == d % 8 && decide (e / 8 < d / 8)) (fun e => 48 - e / 8)
  | 3 => near (fun e => e / 8 == d / 8 && decide (e % 8 < d % 8)) (fun e => 48 - e % 8)
  | 4 => if n = 0 then none else some ((pos + 1) % n)
  | _ => if n = 0 then none else some ((pos + n - 1) % n)

/-- The checks and the request of nbr.send and nbr.reduce (R134, R303). -/
def nbrBody (i : Instr) (dir a : Nat) (s : State) (c : Cx) : Except Trap State :=
  let src := uniAt c.uni a
  let dst := uniAt c.uni (a + 1)
  let n := (uniAt c.uni (a + 2)).toNat
  match s.launch? c.w.launch with
  | none => .error (trapRights 2)
  | some l =>
    if !c.w.meshl then .error (trapRights 2)
    else match nbrPos l.ring c.w.ring dir with
      | none => .error (trapSync 9)
      | some pos =>
        if src.toNat % 128 ≠ 0 ∨ dst.toNat % 128 ≠ 0 ∨ n % 128 ≠ 0 ∨ n < 128 ∨ 65536 < n then
          .error (trapMem 10 (src.setWidth 64))
        else if c.w.scrSize < src.toNat + n then .error (trapMem 7 (src.setWidth 64))
        else if c.w.scrSize < dst.toNat + n then .error (trapMem 7 (dst.setWidth 64))
        else
          let index := pos * l.wpd + c.w.index % l.wpd
          let peer := (s.x.wgs.find? (fun w => w.launch == l.id && w.index == index)).map (fun w => w.id)
          let g := { c.g with stc := c.g.stc + 1 }
          .ok ((s.putGrp c.w.id g).addReq { id := s.x.nextId, wg := c.w.id, grp := c.g.idx, asid := c.w.asid, die := c.w.die, ins := i, pc := c.pc, ops := [src, dst, uniAt c.uni (a + 2)], after := s.x.afterOf c.g 6 (maskOf c.ex) ++ s.x.heldWrites c.w.id c.g.idx, sst := c.w.sstArr, peer := peer })

/-- nbr.send. -/
def execNbrSend (f : KF) (s : State) : Host.Outcome State Fault Refusal :=
  s.issue (.nbrSend f) (onceBody (nbrBody (.nbrSend f) f.x.toNat f.a.toNat))

/-- nbr.reduce. -/
def execNbrReduce (f : KF) (s : State) : Host.Outcome State Fault Refusal :=
  s.issue (.nbrReduce f) (onceBody (nbrBody (.nbrReduce f) f.x.toNat f.a.toNat))

/-! ### Base-die engines (R305 to R308, 05_tensor_mesh R139) -/

/-- The memory ranges of a request: address, bytes, and whether it is written. -/
abbrev MRange := DWord × Nat × Bool

/-- The pages of a range. -/
def pagesOf (r : MRange) : List DWord :=
  if r.2.1 = 0 then []
  else
    let p0 := r.1.toNat / 4096
    (List.range ((r.1.toNat + r.2.1 - 1) / 4096 + 1 - p0)).map (fun i => BitVec.ofNat 64 (4096 * (p0 + i)))

/-- The pages of some ranges translated, with the homes of those that meet no fault. -/
def State.homesOf (s : State) (d asid : Nat) (rs : List MRange) : State × List (Nat × Nat) :=
  (rs.flatMap pagesOf).foldl (fun (p : State × List (Nat × Nat)) va =>
    let r := p.1.homeOf d asid va
    (r.1, p.2 ++ r.2.toList)) (s, [])

/-- Every page of a list of homes lies in device memory homed on one die (R139). -/
def oneHome : List (Nat × Nat) → Bool
  | [] => true
  | h :: t => h.1 != 64 && t.all (fun k => k == h)

/-- The operand words of a base-die request: two uniform groups of four. -/
def bdeOps (u : List Word) (f : KF) : List Word :=
  (List.range 4).map (fun j => uniAt u (f.a.toNat + j)) ++ (List.range 4).map (fun j => uniAt u (f.b.toNat + j))

def opW (l : List Word) (i : Nat) : Word := (l[i]?).getD 0
def opP (l : List Word) (i : Nat) : DWord := pair (opW l i) (opW l (i + 1))

/-- The checks that every base-die request shares, then the request (R305): producer, reserved values, alignment and
lengths, canonical ranges, homes. -/
def bdeBody (i : Instr) (f : KF) (fields align : List Word → Bool) (ranges : List Word → List MRange) (s : State)
    (c : Cx) : Except Trap State :=
  let ops := bdeOps c.uni f
  if c.g.idx ≠ c.w.producer then .error (trapRights 1)
  else if !fields ops then .error trapField
  else if !align ops then .error (trapMem 4 (opP ops 0))
  else match (ranges ops).find? (fun r => !rangeOk r.1 r.2.1) with
    | some r => .error (trapMem 4 r.1)
    | none =>
      let h := s.homesOf c.w.die c.w.asid (ranges ops)
      if !oneHome h.2 then .error (trapMem 11 (opP ops 0))
      else
        let s1 := reqIssue i f.x.toNat ops [] h.1 c
        match i with
        | .bdeCvt _ =>
          match (s1.x.wg? c.w.id).bind (fun w => w.grp? c.g.idx) with
          | some g => .ok (s1.putGrp c.w.id (c.advPhase g))
          | none => .ok s1
        | _ => .ok s1

/-- bde.gather: row length, and the checks on its operands (R306). -/
def gatherLen (f : KF) : Nat := 128 * 2 ^ f.f.toNat
def gatherAlign (o : List Word) : Bool :=
  (opP o 0).toNat % 128 == 0 && (opP o 2).toNat % 128 == 0 && (opP o 4).toNat % 4 == 0 &&
    decide ((opW o 6).toNat ≤ 2 ^ 24) && opW o 7 != 0
def gatherRanges (f : KF) (o : List Word) : List MRange :=
  [(opP o 0, (opW o 7).toNat * gatherLen f, false), (opP o 2, (opW o 6).toNat * gatherLen f, true),
    (opP o 4, 4 * (opW o 6).toNat, false)]

def execBdeGather (f : KF) (s : State) : Host.Outcome State Fault Refusal :=
  s.issue (.bdeGather f) (onceBody (bdeBody (.bdeGather f) f (fun _ => true) gatherAlign (gatherRanges f)))

/-- bde.reduce: type, checks and ranges (R307). -/
def reduceTy (o : List Word) : Nat := bits (opW o 7) 0 4
def reduceAlign (o : List Word) : Bool :=
  (opW o 4).toNat % 128 == 0 &&
    decide (1 ≤ (opW o 5).toNat ∧ (opW o 5).toNat ≤ 65536) && (opW o 6).toNat % 128 == 0
def reduceRanges (o : List Word) : List MRange :=
  [(opP o 0, ((opW o 5).toNat - 1) * (opW o 4).toNat + (opW o 6).toNat, false), (opP o 2, (opW o 6).toNat, true)]

def execBdeReduce (f : KF) (s : State) : Host.Outcome State Fault Refusal :=
  s.issue (.bdeReduce f) (onceBody (bdeBody (.bdeReduce f) f (fun o => decide (reduceTy o ≤ 3)) reduceAlign reduceRanges))

/-- bde.cvt: the control word, its reserved values, and the ranges (R308). -/
def cvtSK (w : Word) : Nat := bits w 24 4
def cvtDK (w : Word) : Nat := bits w 20 4
def cvtLayout (w : Word) : Nat := bits w 18 2
def cvtDT (w : Word) : Nat := bits w 8 8
def cvtST (w : Word) : Nat := bits w 0 8
def cvtKindOk (k : Nat) : Bool := k == 2 || k == 4 || k == 5 || k == 10
def cvtTagOk (k t : Nat) (scaled : Bool) : Bool := if k = 10 then b8Known t && (scaled || !b8Scaled t) else t == 0
def cvtFields (o : List Word) : Bool :=
  let w := opW o 6
  let rows := (opW o 4).toNat
  let cols := (opW o 5).toNat
  decide (bits w 29 3 ≤ 5) && cvtKindOk (cvtSK w) && cvtKindOk (cvtDK w) && cvtLayout w != 3 &&
    cvtTagOk (cvtDK w) (cvtDT w) true && cvtTagOk (cvtSK w) (cvtST w) false &&
    (cvtLayout w == 0 || (cvtDK w != 2 && rows % 32 == 0 && cols % 32 == 0)) && (cvtSK w != cvtDK w || cvtSK w == 10)
/-- Bytes of an element of a kind. -/
def kindBytes (k : Nat) : Nat := kindWidth k / 8
/-- Bytes of the destination: row-major data and its scale bytes, or whole blocks (R308). -/
def cvtDstBytes (o : List Word) : Nat :=
  let w := opW o 6
  let rows := (opW o 4).toNat
  let cols := (opW o 5).toNat
  let t := if cvtDK w = 10 then cvtDT w else cvtDK w
  if cvtLayout w = 0 then
    rows * cols * kindBytes (cvtDK w) + (if cvtDK w = 10 ∧ b8Scaled (cvtDT w) = true then rows * ((cols + 31) / 32) else 0)
  else rows / 32 * (cols / 32) * tileSize t
def cvtAlign (o : List Word) : Bool :=
  decide (1 ≤ (opW o 4).toNat ∧ (opW o 4).toNat ≤ 65536) && decide (1 ≤ (opW o 5).toNat ∧ (opW o 5).toNat ≤ 65536)
def cvtRanges (o : List Word) : List MRange :=
  let w := opW o 6
  [(opP o 0, ((opW o 4).toNat - 1) * (opW o 7).toNat + (opW o 5).toNat * kindBytes (cvtSK w), false),
    (opP o 2, cvtDstBytes o, true)]

def execBdeCvt (f : KF) (s : State) : Host.Outcome State Fault Refusal :=
  s.issue (.bdeCvt f) (onceBody (bdeBody (.bdeCvt f) f cvtFields cvtAlign cvtRanges))

/-! ### Special registers (R313, R314) -/

/-- The value of a special register in a thread; sp.fmode and sp.dphase as before the clock (09_isa R207). -/
def sregVal (s : State) (c : Cx) (n l : Nat) : DWord :=
  let g := c.g
  let t := g.lane l
  let w32 (v : Nat) : DWord := BitVec.ofNat 64 v
  match n with
  | 0x00 => w32 (32 * g.idx + l)
  | 0x01 => w32 l
  | 0x02 => w32 g.idx
  | 0x03 => w32 c.w.index
  | 0x04 => w32 c.w.groups.length
  | 0x05 => w32 c.w.nwg
  | 0x06 => w32 c.w.lcore
  | 0x07 => w32 c.w.lx
  | 0x08 => w32 c.w.ly
  | 0x09 => w32 c.w.ring
  | 0x0A => w32 c.w.nring
  | 0x0B => w32 t.sstDone
  | 0x10 => c.fmode.setWidth 64
  | 0x11 => (if c.sl.second then c.sl.prePhase else g.phase).setWidth 64
  | 0x12 => t.link
  | 0x13 => w32 s.time
  | 0x14 => if g.handler then g.ecause.setWidth 64 else 0
  | 0x15 => if g.handler then t.epc else 0
  | 0x16 => if g.handler then g.eaddr else 0
  | 0x17 => if g.handler then g.eskid.setWidth 64 else 0
  | _ => 0

/-- Its tag: RAW for the two that programs write, N32 otherwise. -/
def sregTag (n : Nat) : Byte := if n = 0x10 ∨ n = 0x11 then tRAW else tN32

/-- The words of a special register, low word first. -/
def sregWords (s : State) (c : Cx) (b : BitVec 7) (l : Nat) : List Word :=
  let v := sregVal s c b.toNat l
  if sregWide b.toNat then [loWord v, hiWord v] else [loWord v]

/-- sreg.rd. -/
def execSregRd (f : KF) (s : State) : Host.Outcome State Fault Refusal :=
  s.issue (.sregRd f) (onceBody (fun s c =>
    if bit f.f 0 then .ok (s.putGrp c.w.id (c.g.setUni f.a.toNat (sregWords s c f.b 0)))
    else .ok (s.putGrp c.w.id (c.g.putVec c.ex f.a.toNat (fun l =>
      (sregWords s c f.b l).map (fun v => { val := v, tag := sregTag f.b.toNat }))))))

/-- sreg.wr: a register that programs only read raises PRIVILEGED. -/
def execSregWr (f : KF) (s : State) : Host.Outcome State Fault Refusal :=
  s.issue (.sregWr f) (onceBody (fun s c =>
    let u := uniAt c.uni f.a.toNat
    match f.b.toNat with
    | 0x10 => .ok (s.putGrp c.w.id { c.g with fmode := u &&& fmodeMask })
    | 0x11 => .ok (s.putGrp c.w.id { c.g with phase := u.setWidth 5, phaseAt := c.clk + 1 })
    | 0x12 =>
      .ok (s.putGrp c.w.id (c.g.onLanes c.ex (fun _ t =>
        { t with link := if bit f.f 0 then uniPair c.uni f.a.toNat else pair (t.reg f.a.toNat).val (t.reg (f.a.toNat + 1)).val })))
    | _ => .error (trapRights 3)))

/-! ### Software traps and the system (R309 to R312) -/

/-- trap #n: SYS with code 0x800 + n, taken after the instruction (19_traps R406). -/
def execTrap (f : IF) (s : State) : Host.Outcome State Fault Refusal :=
  s.issue (.trap f) (onceBody (fun _ _ =>
    .error { cls := 10, code := 0x800 + f.imm.toNat, n := f.imm.toNat, after := true }))

/-- brk #n: DEBUG (BREAKPOINT). -/
def execBrk (f : IF) (s : State) : Host.Outcome State Fault Refusal :=
  s.issue (.brk f) (onceBody (fun _ _ => .error { cls := 9, code := 1, n := f.imm.toNat, after := true }))

/-- A SYS_POST record without its TIME (15_launch R345). -/
def sysBody (n : Nat) (w : Wg) (grp : Nat) (ws : List Word) : BitVec 256 :=
  let v (i : Nat) : Nat := ((ws[i]?).getD 0).toNat
  BitVec.ofNat 256
    (stSYS_POST * 2 ^ 64 + (n % 1024 + grp % 32 * 2 ^ 10 + w.index % 2 ^ 24 * 2 ^ 15 + w.lcore % 1024 * 2 ^ 39) * 2 ^ 72 +
      v 0 * 2 ^ 128 + v 1 * 2 ^ 160 + v 2 * 2 ^ 192 + v 3 * 2 ^ 224)

/-- sys: a record in the event ring of the launch's queue; the issuing threads wait until it is written, and it follows
what a fence of sys scope ordered before it (R310). -/
def execSys (f : IF) (s : State) : Host.Outcome State Fault Refusal :=
  s.issue (.sys f) (onceBody (fun s c =>
    let ws := (List.range 4).map (fun j => uniAt c.uni (f.a.toNat + j))
    let l := (s.launch? c.w.launch)
    let evr := (l.map (fun l => l.evr)).getD 0
    let m := maskOf c.ex
    let after := (c.g.fences.filter (fun k => k.scope == 6 && k.lanes &&& m != 0)).flatMap (fun k => k.preds.map (fun p => (p, 6)))
    let id := s.x.nextId
    let s1 := { s with x := { s.x with nextId := id + 1 } }.putGrp c.w.id (c.g.onLanes c.ex (fun _ t => { t with hold := .sys id }))
    .ok (s1.post { ring := ctxRing c.w.asid evr, body := sysBody f.imm.toNat c.w c.g.idx ws, wake := some (c.w.id, c.g.idx, id), after := after })))

/-- eret: each executing lane returns to its resume point; outside a handler it is privileged (R311). -/
def execEret (f : RF) (s : State) : Host.Outcome State Fault Refusal :=
  s.issue (.eret f) (onceBody (fun s c =>
    if !c.g.handler then .error (trapRights 3)
    else .ok (s.putGrp c.w.id (c.g.onLanes c.ex (fun _ t => t.leave)).handlerEnd)))

/-- nop (R312). -/
def execNop (f : RF) (s : State) : Host.Outcome State Fault Refusal := s.issue (.nop f) idleBody

end Sys2Proof.Machine
end

