-- ==== Sys2Proof/Machine/Fetch.lean ====
section
/-!
DEFINITION. From program counters to issued instructions: fetching and checking the words at a thread's PC (08_encoding
R183 to R197, 10_isa R265), readiness (02_execution R29, R48, R49), the choice of one scheduler in one issue clock (R31
to R35), and running a selected instruction.
-/

set_option linter.unusedVariables false

namespace Sys2Proof.Machine

/-! ### Clause headers (R183) -/

def hCnt (h : Word) : Nat := bits h 28 4
def hClass (h : Word) : Nat := bits h 25 3
def hWld (h : Word) : Nat := bits h 22 3
def hWst (h : Word) : Nat := bits h 19 3
def hWtl (h : Word) : Nat := bits h 16 3
def hTok (h : Word) : Nat := bits h 8 8

/-- A header with CNT 0 or a non-zero bit in [5:0] is bad (R186). -/
def headerOk (h : Word) : Bool := hCnt h != 0 && bits h 0 6 == 0

/-- The clause that a header opens. -/
def clauseOf (h : Word) : Clause := { left := hCnt h, ec := hClass h, solo := bit h 6, yld := bit h 7 }

/-! ### Reading instruction words -/

/-- The word at an address, as the workgroup's core fetches it; none if the fetch has no translation (R265). -/
def State.codeWord (s : State) (w : Wg) (pc : DWord) : Option Word :=
  match (s.xlate w.die w.core w.asid pc false true).1 with
  | .ok e pa => some (BitVec.ofNat 32 (if pteLoc e.pte then s.host.num pa 4 else s.freshNum pa 4))
  | _ => none

/-- What stands at a thread's PC: a word without a translation, a word that fails the checks of R195 steps 1 to 5, or
an instruction. `hdr` is the clause that a header opens, `pc` the address of the instruction, `guard` its guard. -/
inductive Parsed where
  | fault (va : DWord)
  | bad (hdr : Option Clause) (pc : DWord) (guard : Nat) (code : Nat)
  | ok (hdr : Option Clause) (pc : DWord) (i : Instr)
  deriving DecidableEq, Repr

/-- The trap code of a decoding error (R195 steps 1, 4 and 5). -/
def decErrCode : DecErr → Nat
  | .unassigned => 1
  | .reservedBits => 5
  | .reservedField => 6

/-- The instruction at an address inside a clause, checked in the order of R195. -/
def State.parseAt (s : State) (w : Wg) (hdr : Option Clause) (cl : Clause) (pc : DWord) : Parsed :=
  match s.codeWord w pc with
  | none => .fault pc
  | some w1 =>
    let op := opcode w1
    let guard (w2 : Word) : Nat := ((instrOfOp op w1 w2).map guardOf).getD 7
    if (instrOfOp op w1 0).isNone then .bad hdr pc 7 1
    else if cl.ec ≠ 7 ∧ eclassOf op ≠ cl.ec then .bad hdr pc (guard 0) 3
    else if twoWords op && decide (cl.left < 2) then .bad hdr pc (guard 0) 4
    else if twoWords op then
      match s.codeWord w (pc + 4) with
      | none => .fault (pc + 4)
      | some w2 =>
        match decode w1 w2 with
        | .ok i => .ok hdr pc i
        | .error e => .bad hdr pc (guard w2) (decErrCode e)
    else
      match decode w1 0 with
      | .ok i => .ok hdr pc i
      | .error e => .bad hdr pc (guard 0) (decErrCode e)

/-- What stands at a PC under a clause position: a header comes first where no word of a clause is left (R184). The
header word is given too. -/
def State.parse (s : State) (w : Wg) (pc : DWord) (cl : Clause) : Option Word × Parsed :=
  if cl.left ≠ 0 then (none, s.parseAt w none cl pc)
  else match s.codeWord w pc with
    | none => (none, .fault pc)
    | some h =>
      if headerOk h then (some h, s.parseAt w (some (clauseOf h)) (clauseOf h) (pc + 4))
      else (some h, .bad none pc 7 2)

/-! ### Readiness (R29) -/

/-- What an instruction raises at issue (R48, R78): LD, ST, TL, token. -/
def raisesLd : Instr → Bool
  | .ld _ | .ldw _ | .lds _ | .atom _ | .cas _ | .atoms _ | .standSub _ | .standRead _ | .standSeq _ | .accRead _
  | .tstBox _ | .tstTri _ | .stkPop _ | .recPop _ => true
  | _ => false
def raisesSt : Instr → Bool
  | .st _ | .stw _ | .sts _ | .red _ | .visMin _ | .accDrain _ | .taskAmp _ | .primEmit _ | .occBegin _ | .occEnd _
  | .stkPush _ | .recPush _ | .nbrSend _ | .nbrReduce _ => true
  | _ => false
def raisesTok : Instr → Option Nat
  | .standDrop f | .copy f | .bdeGather f | .bdeReduce f | .bdeCvt f => some f.x.toNat
  | _ => none

/-- A matrix instruction raises TL at the group's first signature of a round (R41). -/
def raisesTl (i : Instr) (w : Wg) (g : Group) : Bool :=
  match tileWord i with
  | none => false
  | some f => ((w.sign f.k.toNat).signed[g.idx]?).getD 0 == 0

/-- Instructions that reserve an entry of the operand log (R410). -/
def needsLog : Instr → Bool
  | .ld _ | .ldw _ | .st _ | .stw _ | .atom _ | .red _ | .cas _ | .standSub _ | .visMin _ | .tstBox _ | .tstTri _ => true
  | _ => false

/-- A threshold below its waiver is met. -/
def under (n t waive : Nat) : Bool := t == waive || decide (n ≤ t)

/-- The tokens of a mask are complete (R48). -/
def Wg.toksDone (w : Wg) (m : Nat) : Bool := (List.range 8).all (fun i => m / 2 ^ i % 2 == 0 || (w.qs[i]?).getD 0 == 0)

/-- The tests of a clause header, and those of a wait instruction (R48). -/
def headerMet (w : Wg) (g : Group) (h : Word) : Bool :=
  under g.ld (hWld h) 7 && under g.stc (hWst h) 7 && under g.tl (hWtl h) 7 && w.toksDone (hTok h)
def waitMet (w : Wg) (g : Group) (c : Word) : Bool :=
  under g.ld (wLdt c) 63 && under g.stc (wStt c) 63 && under g.tl (wTlt c) 63 && w.toksDone (wTok c)

/-- A register of a lane that is still to be written: kind 0 vector, 1 uniform, 2 predicate. -/
def Group.pendingReg (g : Group) (kind idx l : Nat) : Bool :=
  g.busy.any (fun b => b.kind == kind && b.idx == idx && (kind == 1 || b.lanes.getLsbD l))

/-- The sources of an instruction are written in a lane (R29): operands, uniform reads, predicates and the guard. -/
def sourcesDone (i : Instr) (g : Group) (l : Nat) : Bool :=
  (srcOps i).all (fun o => (List.range o.n).all (fun j => !g.pendingReg (if o.uni then 1 else 0) (o.idx + j) l)) &&
  (uniReads i).all (fun r => (List.range r.2).all (fun j => !g.pendingReg 1 ((r.1 + j) % 64) l)) &&
  (predReads i).all (fun p => !g.pendingReg 2 p l) && !g.pendingReg 2 (guardOf i) l

/-- A barrier action that must wait: a second arrival before the phase of the first has completed (R46). -/
def barrierHeld (i : Instr) (w : Wg) (g : Group) (l : Nat) : Bool :=
  match i with
  | .barArrive f | .barSync f => (w.bar f.x.toNat).arrived (threadNo g.idx l)
  | _ => false

/-- A signature that must wait for the thread's previous round (R41). -/
def signHeld (i : Instr) (w : Wg) (g : Group) (l : Nat) : Bool :=
  match tileWord i with
  | none => false
  | some f =>
    let k := w.sign f.k.toNat
    (k.st == .signing || k.st == .issuing) && ((k.signed[g.idx]?).getD 0).getLsbD l

/-- Readiness of an instruction apart from the tests of a header and of a wait: sources written, the counter raised
below 63, a free log entry, and, for a thread that executes it, no earlier action of its own to wait for (R29). -/
def Exec.instrReady (x : Exec) (w : Wg) (g : Group) (i : Instr) (l : Nat) : Bool :=
  sourcesDone i g l && (!raisesLd i || decide (g.ld < 63)) && (!raisesSt i || decide (g.stc < 63)) &&
  (!raisesTl i w g || decide (g.tl < 63)) &&
  (match raisesTok i with
    | some q => decide ((w.qs[q]?).getD 0 < 63)
    | none => true) &&
  (!needsLog i || decide (x.logUsed w.id g.idx < 8)) &&
  (!(g.lane l).pred (guardOf i) || (!barrierHeld i w g l && !signHeld i w g l))

/-- The tests of a header, and of a wait instruction that the thread executes, are met (R48, 10_isa R271). -/
def waitsMet (w : Wg) (g : Group) (hw : Option Word) (p : Parsed) (l : Nat) : Bool :=
  (match hw with
    | some h => headerMet w g h
    | none => true) &&
  (match p with
    | .ok _ _ (.wait f) =>
      g.pendingReg 2 (guardOf (.wait f)) l || !(g.lane l).pred (guardOf (.wait f)) || waitMet w g f.c
    | _ => true)

/-! ### Candidates of a group -/

/-- The open threads of a group at one PC and clause position: `lanes` the ready ones, `held` those that the header or
the wait there holds. -/
structure Cand where
  pc : DWord
  cl : Clause
  hw : Option Word
  p : Parsed
  here : List Nat
  lanes : List Nat
  held : List Nat
  deriving DecidableEq, Repr

/-- The threads that may issue at all: live, not held, and handler threads only while the group is in its handler
(R29, 19_traps R406). -/
def Group.open_ (g : Group) : List Nat :=
  g.live.filter (fun l => (g.lane l).hold == .free && (!g.handler || (g.lane l).inH))

/-- The distinct PCs and clause positions of the open threads. -/
def Group.spots (g : Group) : List (DWord × Clause) :=
  g.open_.foldl (fun t l =>
    let k := ((g.lane l).pc, (g.lane l).cl)
    if t.contains k then t else t ++ [k]) []

/-- One spot: its threads, the ready ones, and those that its header or wait holds. -/
def State.cand (s : State) (w : Wg) (g : Group) (k : DWord × Clause) : Cand :=
  let r := s.parse w k.1 k.2
  let here := g.open_.filter (fun l => (g.lane l).pc == k.1 && (g.lane l).cl == k.2)
  let met (l : Nat) : Bool := waitsMet w g r.1 r.2 l
  let able (l : Nat) : Bool := match r.2 with
    | .ok _ _ i => s.x.instrReady w g i l
    | .bad _ _ _ _ => true
    | .fault _ => false
  let held := match r.2 with
    | .fault _ => []
    | _ => here.filter (fun l => !met l)
  { pc := k.1, cl := k.2, hw := r.1, p := r.2, here := here, lanes := here.filter (fun l => met l && able l), held := held }

def State.cands (s : State) (w : Wg) (g : Group) : List Cand :=
  if w.st ≠ .running ∨ g.park ≠ .none then [] else g.spots.map (s.cand w g)

/-- Counters and tokens under test at a spot: LD, ST, TL, token mask (R49). -/
def Cand.tests (c : Cand) : Bool × Bool × Bool × Nat :=
  let h := match c.hw with
    | some h => (hWld h != 7, hWst h != 7, hWtl h != 7, hTok h)
    | none => (false, false, false, 0)
  match c.p with
  | .ok _ _ (.wait f) => (h.1 || wLdt f.c != 63, h.2.1 || wStt f.c != 63, h.2.2.1 || wTlt f.c != 63, h.2.2.2 ||| wTok f.c)
  | _ => h

/-- Whether an instruction raises a counter or a token that the header or wait of a spot tests. -/
def Cand.testsWhat (c : Cand) (i : Instr) (w : Wg) (g : Group) : Bool :=
  let t := c.tests
  (t.1 && raisesLd i) || (t.2.1 && raisesSt i) || (t.2.2.1 && raisesTl i w g) ||
    (match raisesTok i with
      | some q => t.2.2.2 / 2 ^ q % 2 == 1
      | none => false)

/-- The threads of a spot that have been held for 32 opportunities and have not started since (R49). -/
def Cand.late (c : Cand) (g : Group) : List Nat := c.here.filter (fun l => decide (32 ≤ (g.lane l).waited))

/-- Whether a spot is withheld because a thread that has been held for 32 opportunities at a test of a counter that its
instruction raises has not started yet (R49, R36). Where such threads of several spots could start, none of them
withholds another (assumption 96). -/
def withheld (cs : List Cand) (w : Wg) (g : Group) (a : Cand) : Bool :=
  match a.p with
  | .ok _ _ i =>
    let starts := (a.late g).any (fun l => a.lanes.contains l)
    cs.any (fun c => (c.late g).any (fun l => !(starts && !c.held.contains l)) && c.testsWhat i w g)
  | _ => false

/-! ### Pairing (R35) -/

/-- Instructions that read or write the L1, the scratchpad, the accumulator memory or the traversal unit. -/
def usesMemory (i : Instr) : Bool :=
  let op := opOf i
  decide (0x70 ≤ op ∧ op ≤ 0x7F) || [0xAC, 0xAD, 0xAE, 0xAF, 0xB0, 0xC9, 0xCA, 0xCF, 0xD0, 0xD1, 0xD2, 0xE9, 0xEA, 0xEB, 0xEC, 0xED].contains op

/-- Instructions that write state shared by the group or the workgroup; the end of a thread writes lane masks, sign
registers and barriers (R28, 11_isa R293). -/
def writesShared (i : Instr) : Bool :=
  (dests i).any (fun d => d.1 == 1) ||
  (match i with
    | .standSub _ | .standSeq _ | .standDrop _ | .copy _ | .mjoin _ | .mleave _ | .mwait _ | .barArrive _ | .barSync _
    | .barWait _ | .signDecl _ | .condArm _ | .condSet _ | .tileSet _ | .accAlloc _ | .accFree _ | .accBand _
    | .mma _ | .mmaSpec _ | .mmaIdx _ | .bdeGather _ | .bdeReduce _ | .bdeCvt _ | .exit _ | .pxDiscard _ => true
    | _ => false)

/-- An instruction that passes the checks of R195 steps 6 and 7 for its executing threads. -/
def passes (w : Wg) (g : Group) (i : Instr) (ls : List Nat) : Bool :=
  (regCheck w.regs (regFields i)).isNone &&
    (tagCheck g.s g (ls.filter (fun l => (g.lane l).pred (guardOf i))) (srcOps i)).isNone

/-- Whether the second spot pairs with the first (R35). -/
def pairs (w : Wg) (g : Group) (step : Bool) (a b : Cand) : Bool :=
  match a.p, b.p with
  | .ok ha _ i, .ok hb _ j =>
    let ca := ha.getD a.cl
    let cb := hb.getD b.cl
    !step && ca.ec == cb.ec && ca.ec != 7 && !ca.solo && !cb.solo && occupancy i == 1 && occupancy j == 1 &&
      !(usesMemory i && usesMemory j) && !(writesShared i && writesShared j) && passes w g i a.lanes && passes w g j b.lanes
  | _, _ => false

/-! ### The choice of one issue clock (R32 to R34) -/

/-- The first spot: the lowest forced PC, else the PC of most ready threads, the lower on a tie. -/
def firstSpot (g : Group) (cs : List Cand) : Option Cand :=
  match minBy (fun c => c.pc.toNat) (cs.filter (fun c => c.lanes.any (fun l => decide (32 ≤ (g.lane l).pass)))) with
  | some c => some c
  | none => maxBy (fun c => 2 ^ 64 * c.lanes.length + (2 ^ 64 - 1 - c.pc.toNat)) cs

/-- The pass-over counts of the group after an opportunity (R34, R49): `won` are the threads selected, `ready` the ready
ones, `kept` those withheld, `held` those that a header or a wait holds, whose count stands until they start. -/
def Group.counted (g : Group) (won ready kept held : List Nat) : Group :=
  { g with lanes := g.lanes.mapIdx (fun l t =>
      if kept.contains l then t
      else { t with
        pass := if ready.contains l && !won.contains l then min 32 (t.pass + 1) else 0
        waited := if held.contains l then min 32 (t.waited + 1) else t.waited }) }

/-- The slots of a selected group. -/
def State.selectSpots (s : State) (w : Wg) (g : Group) (cs : List Cand) : Group × List Slot :=
  let kept := cs.filter (fun c => withheld cs w g c)
  let open_ := cs.filter (fun c => c.lanes ≠ [] ∧ withheld cs w g c = false)
  let held := cs.flatMap (fun c => c.held)
  match firstSpot g open_ with
  | none => (g, [])
  | some a =>
    let rest := open_.filter (fun c => c.pc != a.pc)
    let b := maxBy (fun c => 2 ^ 64 * c.lanes.length + (2 ^ 64 - 1 - c.pc.toNat)) rest
    let sa : Slot := { wg := w.id, grp := g.idx, lanes := maskOf a.lanes, pc := a.pc }
    let two := match b with
      | some b => if pairs w g (s.ctx w.asid).step a b then
          [{ wg := w.id, grp := g.idx, lanes := maskOf b.lanes, pc := b.pc, second := true, preS := g.s, preM := g.m, preF := g.fmode, prePhase := g.phase : Slot }]
        else []
      | none => []
    let won := a.lanes ++ two.flatMap (fun sl => lanesOf sl.lanes)
    (g.counted won (open_.flatMap (fun c => c.lanes)) (kept.flatMap (fun c => c.lanes)) held, sa :: two)

/-- The groups of a scheduler: workgroup and group numbers. -/
def Exec.schedGroups (x : Exec) (d c q : Nat) : List (Nat × Nat) :=
  (x.wgs.filter (fun w => w.die == d && w.core == c)).flatMap (fun w =>
    (w.groups.filter (fun g => g.idx % 4 == q)).map (fun g => (w.id, g.idx)))

/-- The ready spots of a group. A group all of whose ready threads are withheld under R49 has none: it is not selected
and its pass-over count is 0, which R34 leaves open (assumption 97). -/
def State.readySpots (s : State) (wi gi : Nat) : List Cand :=
  match s.x.wg? wi with
  | none => []
  | some w =>
    match w.grp? gi with
    | none => []
    | some g =>
      let cs := s.cands w g
      cs.filter (fun c => c.lanes ≠ [] ∧ withheld cs w g c = false)

/-- The group that a scheduler selects among its ready groups: the oldest forced one, else the oldest. -/
def Exec.chooseGroup (x : Exec) (ready : List (Nat × Nat)) : Option (Nat × Nat) :=
  let grp (k : Nat × Nat) : Group := (((x.wg? k.1).bind (fun w => w.grp? k.2)).getD {})
  match minBy (fun k => (grp k).age) (ready.filter (fun k => decide (64 ≤ (grp k).pass))) with
  | some k => some k
  | none => minBy (fun k => (grp k).age) ready

/-- A group's state changed in the execution state. -/
def Exec.onGrp (x : Exec) (wi gi : Nat) (f : Group → Group) : Exec :=
  match x.wg? wi with
  | none => x
  | some w =>
    match w.grp? gi with
    | none => x
    | some g => x.setWg (w.setGrp (f g))

/-! ### Fetches without a translation (R265) -/

/-- The threads of a spot whose fetch meets no translation are held until it is resolved, as an access of their own. -/
def State.fetchHold (s : State) (wi gi : Nat) (ls : List Nat) (va : DWord) : State :=
  let id := s.x.nextId
  let lanes := ls.map (fun l => ({ lane := l, va := va } : LaneAcc))
  let a : Access := { id := id, wg := wi, grp := gi, ins := .nop default, kind := .fetch, pc := va, width := 4, lanes := lanes, at_ := id }
  let x := { s.x with nextId := id + 1, accs := s.x.accs ++ [a] }
  ({ s with x := x.onGrp wi gi (fun g => g.onLanes ls (fun _ t => { t with hold := .fetch id })) }).accTry id

/-- A fetch that has its translation releases its threads. -/
def State.fetchSettle (s : State) (id : Nat) : State :=
  match s.x.acc? id with
  | none => s
  | some a =>
    if a.kind = .fetch ∧ a.lanes.all (fun l => !l.logged) = true then
      { s with x := (s.x.delAcc id).onGrp a.wg a.grp (fun g =>
          { g with lanes := g.lanes.map (fun (t : Lane) => t.lift (.fetch id)) }) }
    else s

/-- Every spot of a scheduler's groups whose fetch meets no translation. -/
def State.fetchHolds (s : State) (ks : List (Nat × Nat)) : State :=
  ks.foldl (fun s k =>
    match s.x.wg? k.1 with
    | none => s
    | some w =>
      match w.grp? k.2 with
      | none => s
      | some g =>
        (s.cands w g).foldl (fun s c => match c.p with
          | .fault va =>
            s.fetchHold k.1 k.2 (g.open_.filter (fun l => (g.lane l).pc == c.pc && (g.lane l).cl == c.cl)) va
          | _ => s) s) s

/-! ### One issue clock of a scheduler -/

/-- What a clock does besides issuing: drops and empty copies that may now go, released waits, fences whose
predecessors are performed. -/
def State.clockWork (s : State) : State :=
  let drops := s.x.reqs.filter (fun r => match r.ins with
    | .standDrop _ => r.done == 0
    | _ => false)
  let s1 := drops.foldl (fun s r => s.dropGo r.id) s
  let empty := s1.x.reqs.filter (fun r => match r.ins with
    | .copy _ => opW r.ops 4 == 0
    | _ => false)
  let x := empty.foldl (fun (x : Exec) r =>
    match x.wg? r.wg with
    | none => x.delReq r.id
    | some w => ((x.delReq r.id).setWg (w.tokDown (r.tok.getD 0)))) s1.x
  let x2 := x.standWake
  { s1 with x := { x2 with wgs := x2.wgs.map (fun w => { w with groups := w.groups.map (fun g => (x2.pruneFences g).prune x2.clk) }) } }

/-- Whether the grant of a core's island leaves a clock to issue (21_bringup R441): island 21 d + c, SLOTS less one. -/
def State.granted (s : State) (d c clk : Nat) : Bool :=
  let n := (s.island (21 * d + c)).slots + 1
  decide (clk % 8 * n / 8 < (clk % 8 + 1) * n / 8)

/-- The next issue clock of scheduler q of a core: its datapath is free, and no scheduler of a higher number has issued
in it, so that the effects of one clock come in the order of the scheduler numbers (03_kernel_memory R69, 10_isa R257,
R269, R273, 11_isa R277, R290). -/
def Core.nextClk (k : Core) (clk q : Nat) : Nat :=
  ((List.range 4).filter (fun j => decide (q < j))).foldl (fun n j => max n ((k.last[j]?).getD 0)) (max clk ((k.busy[q]?).getD 0))

/-- One issue clock of scheduler q of core c of die d (R32 to R35): the instructions selected stand in `slots`. -/
def State.issueClock (s : State) (d c q : Nat) : State :=
  let k := s.x.core d c
  let clk := k.nextClk s.x.clk q
  let s0 := ({ s with x := { s.x with clk := clk } }).clockWork
  let ks := s0.x.schedGroups d c q
  let s1 := s0.fetchHolds ks
  let ready := ks.filter (fun g => s1.readySpots g.1 g.2 ≠ [])
  let x := ks.foldl (fun (x : Exec) g => x.onGrp g.1 g.2 (fun gr =>
    { gr with pass := if ready.contains g then min 64 (gr.pass + 1) else 0 })) s1.x
  if !s.granted d c clk then { s0 with x := { s0.x with clk := clk + 1 } }
  else match s1.x.chooseGroup ready with
  | none => { s1 with x := { x with clk := clk + 1 } }
  | some g =>
    match s1.x.wg? g.1 with
    | none => s1
    | some w =>
      match w.grp? g.2 with
      | none => s1
      | some gr =>
        let r := s1.selectSpots w gr (s1.cands w gr)
        let x1 := x.onGrp g.1 g.2 (fun _ => { r.1 with pass := 0 })
        let k1 := x1.core d c
        { s1 with x := x1.setCore d c { k1 with busy := k1.busy.set q (clk + 1), last := k1.last.set q (clk + 1) }, slots := s1.slots ++ r.2 }

/-! ### Running a selected instruction -/

/-- What the step does with a slot: nothing left to run, a trap of the checks of R195 steps 1 to 5, or the instruction
to execute in the state with `cur` set. -/
inductive Ran where
  | done (s : State)
  | run (i : Instr) (s : State)
  deriving DecidableEq, Repr

/-- The instruction of a slot fetched and checked. -/
def State.runSlot (s : State) (sl : Slot) : Ran :=
  match s.x.wg? sl.wg with
  | none => .done s
  | some w =>
    match w.grp? sl.grp with
    | none => .done s
    | some g =>
      let iss := (lanesOf sl.lanes).filter (fun l => (g.lane l).st == .live)
      match iss with
      | [] => .done s
      | l0 :: _ =>
        match (s.parse w sl.pc (g.lane l0).cl).2 with
        | .fault _ => .done s
        | .bad hdr pc guard code =>
          let gh := g.onLanes iss (fun _ t => t.open_ hdr)
          let ex := iss.filter (fun l => (gh.lane l).pred guard)
          .done (s.trapAt sl w.id g gh l0 (if ex = [] then iss else ex) pc { cls := 1, code := code })
        | .ok hdr _ i => .run i { s with x := { s.x with cur := some { sl with hdr := hdr } } }

/-! ### Placing one instruction for the next step -/

/-- A page-table entry of a next table, and of a leaf that may be read, written and executed. -/
def pteTable (pa : Nat) : Nat := pa + 1
def pteData (pa : Nat) : Nat := pa + 5

/-- Memory with five levels of tables on die 0 that map the 2 MiB at virtual address 0 to physical address 2 MiB: tables
at 0x1000 to 0x4000. -/
def probeMem (m : Mem) : Mem :=
  (((m.putNum 0x1000 8 (pteTable 0x2000)).putNum 0x2000 8 (pteTable 0x3000)).putNum 0x3000 8 (pteTable 0x4000)).putNum
    0x4000 8 (pteData 0x200000 + 128)

/-- A resident workgroup of one thread whose PC is 0. -/
def probeWg : Wg :=
  let t : Lane := { st := .live, v := List.replicate 128 {} }
  let g : Group := { s := List.replicate 64 0, m := 1 :: List.replicate 11 0, arr := List.replicate 12 0, lanes := t :: List.replicate 31 {} }
  { nthr := 1, regs := 128, accMax := 32, mctx := some 0, ks := List.replicate 16 {}, bs := List.replicate 16 {}, qs := List.replicate 8 0, ts := List.replicate 16 0, hs := List.replicate 8 [], cs := List.replicate 4 {}, groups := [g] }

/-- The state with an instruction of two words at the most stored at virtual address 4 of a context, after a clause
header of 15 words and ECLASS 7, and selected for a resident thread that stands at the header. -/
def State.probe (s : State) (w1 w2 : Nat) : State :=
  let m := ((probeMem s.mem).putNum 0x200000 4 0xFFFF0000).putNum 0x200004 4 w1
  let ctx : Ctx := { live := true, rootTab := [0x1000] }
  let sch := { s.sch with ctxs := cset 0 ctx s.sch.ctxs }
  let pkg := { s.pkg with dmap := cset 0 1 s.pkg.dmap }
  { s with
    mem := m.putNum 0x200008 4 w2
    sch := sch
    pkg := pkg
    x := { s.x with wgs := [probeWg], cur := none }
    agenda := []
    slots := [{ wg := 0, grp := 0, lanes := 1, pc := 0 }] }

end Sys2Proof.Machine
end

