-- ==== Sys2Proof/Machine/Faults.lean ====
section
/-!
DEFINITION. Faults met after issue (10_isa R249, 19_traps R404, R411 to R414): what discarding a held access leaves, and
delivering its fault to the group; the fault of a unit request.
-/

set_option linter.unusedVariables false

namespace Sys2Proof.Machine

/-! ### Results in registers -/

/-- Registers written by some lanes of an access: they become ready (R29, R48). -/
def State.putResults (s : State) (wi gi id : Nat) (rs : List RegWr) (m : Word) : State :=
  { s with x := s.x.onGrp wi gi (fun g => (rs.foldl Group.putRes g).unbusy id m) }

/-- The destination registers of an access in a lane, as zero with tag VOID (R414). -/
def voidRegs (g : Group) (id l : Nat) : List RegWr :=
  (g.busy.filter (fun b => b.due == .acc id && b.kind == 0 && b.lanes.getLsbD l)).map
    (fun b => { kind := 0, lane := l, idx := b.idx, val := 0, tag := tVOID })

/-! ### Delivery -/

/-- A fault of some lanes of an access delivered (R414): the accesses are discarded, the destinations receive VOID, a
stand.sub receives FAULTED, and the live threads of the lanes enter the handler or the fault is unhandled (R405). -/
def State.deliverLanes (s : State) (id : Nat) (ls : List Nat) (code : Nat) (va : DWord) : State :=
  match s.x.acc? id with
  | none => s
  | some a =>
    match (s.x.wg? a.wg).bind (fun w => w.grp? a.grp) with
    | none => s
    | some g =>
      let skid := if a.kind = .fetch then 0 else a.skid
      let m := maskOf ls
      let who := if a.kind = .sub then g.live.filter (fun l => (g.lane l).hold == .watch id || (g.lane l).resHold == .watch id || ls.contains l)
        else ls
      let x1 := s.x.onGrp a.wg a.grp (fun g => { g with lanes := g.lanes.mapIdx (fun l (t : Lane) =>
        if who.contains l then (t.lift (.watch id)).lift (.fetch id) else t) })
      let s1 := { s with x := x1 }
      let s2 := if a.kind = .sub then s1.subStatus id 5 0
        else
          let a1 := { a with lanes := a.lanes.map (fun l => if ls.contains l.lane then { l with st := .dropped } else l) }
          let s3 := { s1 with x := s1.x.setAcc a1 }
          let rs := if a.kind.raisesLd then ls.flatMap (voidRegs g id) else []
          let s4 := s3.putResults a.wg a.grp id rs m
          if a.kind = .fetch then s4.fetchSettle id else s4.accSettle id
      let hs : List Nat := match (s2.x.wg? a.wg).bind (fun w => w.grp? a.grp) with
        | none => []
        | some g2 => ls.filter (fun l => (g2.lane l).st == .live)
      if hs.isEmpty then s2
      else s2.deliverTrap a.wg a.grp hs { cls := 4, code := code, addr := va } (fun _ => a.pc) skid

/-- The lanes of an access that have met LOST or UNCORRECTABLE, delivered without an entry of the driver (R412): the
skid is the count at this clock (R411). -/
def State.failLanes (s : State) (id : Nat) (ls : List Nat) (code : Nat) : State :=
  match s.x.acc? id with
  | none => s
  | some a =>
    let ls1 := (a.lanes.filter (fun l => ls.contains l.lane && !l.over)).map (fun l => l.lane)
    match ls1 with
    | [] => s
    | l0 :: _ =>
      let g := ((s.x.wg? a.wg).bind (fun w => w.grp? a.grp)).getD {}
      let va := ((a.lanes.find? (fun l => l.lane == l0)).map (fun l => l.va)).getD 0
      let x := s.x.setAcc { a with skid := min 65535 (g.issued - a.skid0) }
      ({ s with x := x }).deliverLanes id ls1 code va

/-- The fault of a unit request delivered (R414): the request ends with its unperformed bytes unchanged, its token
completes or its ST falls, and every live thread of the group enters the handler. -/
def State.reqEnd (s : State) (r : Req) : State :=
  match s.x.wg? r.wg with
  | none => { s with x := s.x.delReq r.id }
  | some w =>
    let w1 := match r.tok with
      | some q => w.tokDown q
      | none => match w.grp? r.grp with
        | some g => w.setGrp { g with stc := g.stc - 1 }
        | none => w
    { s with x := (s.x.delReq r.id).setWg w1 }

/-- A request that has been moved whole, or that ends with its fault, and none of whose writes is under way, completes
(03_kernel_memory R79); the banks that waited for a drain go on (R74). -/
def State.reqSettle (s : State) (id : Nat) : State :=
  match s.x.req? id with
  | none => s
  | some r =>
    if (r.done = 2 ∨ r.dead) ∧ r.out = [] then
      match r.ins, s.x.wg? r.wg with
      | .accDrain _, some w =>
        ({ s with x := s.x.setCore w.die w.core ((s.x.core w.die w.core).bankDone s.x.clk r.id) }).reqEnd r
      | _, _ => s.reqEnd r
    else s

/-- A subscription that a resume makes again ends without one: its slot is LOST (R425). -/
def State.resubLost (s : State) (r : Req) : State :=
  match s.x.wg? r.wg with
  | none => { s with x := s.x.delReq r.id }
  | some w =>
    let k := s.x.core w.die w.core
    let k1 := { k with stand := k.stand.map (fun e => if e.1 = r.idx then (e.1, { e.2 with lost := true }) else e) }
    { s with x := ((s.x.delReq r.id).setCore w.die w.core k1).standWake }

/-- A subscription made again for a resumed slot meets a lost line: LOST is set in the slot (R425). -/
def State.slotLost (s : State) (d c line : Nat) : State :=
  let k := s.x.core d c
  let k1 := { k with stand := k.stand.map (fun (e : Nat × Stand) => if e.2.line = line ∧ e.2.st = .active then (e.1, { e.2 with lost := true }) else e) }
  { s with x := (s.x.setCore d c k1).standWake }

def Req.isResub (r : Req) : Bool :=
  match r.ins with
  | .standSub _ => true
  | _ => false

def State.deliverReq (s : State) (r : Req) (code : Nat) (va : DWord) : State :=
  if r.isResub then s.resubLost r
  else if r.dead then s.reqSettle r.id
  else
  let s1 := ({ s with x := s.x.setReq { r with dead := true, fault := none } }).reqSettle r.id
  match (s1.x.wg? r.wg).bind (fun w => w.grp? r.grp) with
  | none => s1
  | some g =>
    if g.live = [] then s1
    else s1.deliverTrap r.wg r.grp g.live { cls := 4, code := code, addr := va } (fun _ => r.pc) 0

/-- A fault that a unit request meets: reported once to the driver (R410, R412). -/
def State.reqFault (s : State) (r : Req) (code : Nat) (va : DWord) (write : Bool) : State :=
  match s.x.wg? r.wg with
  | none => s
  | some w =>
    let i := s.x.nextId
    let x := { s.x.setReq { r with fault := some (i, va, code) } with nextId := i + 1 }
    ({ s with x := x }).postFault (0x4000 + code) w.asid w.die i va ((if write then 1 else 0) + 8) w.lcore 0

end Sys2Proof.Machine
end

