-- ==== Sys2Proof/Machine/Home.lean ====
section
/-!
DEFINITION. The coherence fabric's parts (17_coherence R371 to R391): a die's LLC with its ways, the home's directory,
eviction buffer and subscription table, the near-bank operations of the home LLC, the Rime log of performed writes
(16_translation R368), bias (R396 to R398), and the writes of the device's own engines to quiet lines.
-/

set_option linter.unusedVariables false

namespace Sys2Proof.Machine

/-! ### Ports (01_machine R12, R391) -/

/-- The die of Cezil port k: east along the south row, north up the east column, west along the north row, south down the
west column (R12). -/
def portDie (k : Nat) : Nat :=
  if k < 8 then k else if k < 12 then 8 * (k - 7) + 7 else if k < 20 then 40 + (19 - k) else 8 * (24 - k)

/-- A port of this device works: its die is mapped in, and its link is not mapped out. -/
def State.portUp (s : State) (k : Nat) : Bool := s.working (portDie k) && !(s.link (2 * (96 + k))).out

/-- The port through which a device's traffic for slice k enters: port k, or the next one that works (R391). Of another
device, port k. -/
def State.portFor (s : State) (dev k : Nat) : Nat :=
  if dev = s.pkg.dev then (((List.range 24).map (fun i => (k + i) % 24)).find? s.portUp).getD k else k

/-- The dies of a device that answer a slice: the working dies of this one, all 48 of another (R389). -/
def State.devDies (s : State) (e : Nat) : List Agent :=
  if e = s.pkg.dev then s.dieOrder.map Agent.die else (List.range Config.nDies).map (Agent.remote e)

/-! ### LLC lines -/

def State.llc? (s : State) (k line : Nat) : Option Line := cfind line (s.die k).llc
/-- The state of a line in an LLC. -/
def State.llcSt (s : State) (k line : Nat) : Option LineSt :=
  match s.llc? k line with
  | some v => some v.st
  | none => none

def State.putLlc (s : State) (k line : Nat) (v : Line) : State :=
  s.setDie k { s.die k with llc := cset line v (s.die k).llc }
def State.delLlc (s : State) (k line : Nat) : State := s.setDie k { s.die k with llc := cdel line (s.die k).llc }

/-- The states of R371. -/
def LineSt.stable : LineSt → Bool
  | .M | .O | .E | .S | .SWT => true
  | _ => false

/-- Every L1 copy of a line on a die invalidated, except that of one core (R372). -/
def State.l1Drop (s : State) (d line : Nat) (keep : Option Nat) : State :=
  let cores := s.x.cores.map (fun e =>
    if e.1 / 16 = d ∧ keep ≠ some (e.1 % 16) then (e.1, { e.2 with l1 := e.2.l1.filter (fun t => t.line != line) }) else e)
  let s1 := { s with x := { s.x with cores := cores } }
  match s1.llc? d line with
  | none => s1
  | some v => s1.putLlc d line { v with l1 := match keep with
      | some c => v.l1 &&& (1#16 <<< c)
      | none => 0 }

/-- The snoop filter's record of the cores that may hold a line (R372). -/
def State.l1Mark (s : State) (d c line : Nat) : State :=
  match s.llc? d line with
  | none => s
  | some v => s.putLlc d line { v with l1 := v.l1 ||| (1#16 <<< c) }

/-- A line allocated or hit in a core's L1 under its hint (03_kernel_memory R76, R77): 256 sets of 16 ways, the least
recently used replaced, streaming lines first, sticky lines last (assumption 20). With the bypass hint a hit leaves the
line's state unchanged, and nothing is allocated. -/
def victimKey (hint used : Nat) : Nat := (if hint = 1 then 0 else if hint = 2 then 2 else 1) * 2 ^ 64 + used
def Core.l1Touch (k : Core) (line hint stamp : Nat) : Core :=
  if hint = 3 then k
  else match k.l1.find? (fun t => t.line == line) with
    | some _ => { k with l1 := updAll (fun t => t.line == line) (fun t => { t with hint := hint, used := stamp }) k.l1 }
    | none =>
      let same := k.l1.filter (fun t => t.line % Config.l1Sets == line % Config.l1Sets)
      let l := if same.length < Config.l1Ways then k.l1
        else match minBy (fun t => victimKey t.hint t.used) same with
          | some v => k.l1.filter (fun t => t.line != v.line)
          | none => k.l1
      { k with l1 := { line := line, hint := hint, used := stamp } :: l }

/-! ### Requests of an LLC (R378, R385) -/

/-- A request of a die for a line: to its home, or answered NackLost by the die's own router when the home die is
mapped out (R385). -/
def State.request (s : State) (k line : Nat) (q : MsgK) : State :=
  let me := keyAgent k
  match s.homeAgent me line with
  | .die h =>
    if s.working h then s.send me (.die h) line q
    else s.send me me line (.nackLost ((msgAcc q).getD 0))
  | h => s.send me h line q

/-- A way that is changing class (04_render_mesh R111). -/
def Die.changing (k : Die) (w : Nat) : Bool :=
  k.rtBusy && decide (Config.llcWays - max k.rtWays k.rtNew ≤ w) && decide (w < Config.llcWays - min k.rtWays k.rtNew)

/-- A stable line leaves an LLC (R371, R380): its L1 copies go with it (R372). It stays in its way while that changes
class, until its write-back has reached the home (04_render_mesh R111). -/
def State.evict (s : State) (k line : Nat) : State :=
  match s.llc? k line with
  | none => s
  | some v =>
    let s1 := s.l1Drop k line none
    let go (st : LineSt) (q : MsgK) : State :=
      (s1.putLlc k line { v with st := st, way := if (s.die k).changing v.way then v.way else 99, l1 := 0 }).request k line q
    match v.st with
    | .M => go .MIA (.putM v.data)
    | .O => go .OIA (.putO v.data)
    | .E => go .EIA .putE
    | .S | .SWT => s1.delLlc k line
    | _ => s

/-- The ways that a new line may occupy (04_render_mesh R109, R111): none of those that are changing class. The manual
does not say which ways a render-target line may take while WAYS changes from k to 0; it takes none, and the request
waits (assumption 98). -/
def Die.waysFor (k : Die) (rt : Bool) : List Nat :=
  let n := k.rtWays
  let useRt := rt && n != 0
  (List.range Config.llcWays).filter (fun w =>
    !k.changing w && (if useRt then decide (Config.llcWays - n ≤ w) else decide (w < Config.llcWays - n)))

/-- Room for a line in its set: a free way, else the way of a victim under the hints (03_kernel_memory R76, R77). -/
def State.room (s : State) (k line : Nat) (rt : Bool) : Option (State × Nat) :=
  let d := s.die k
  let ways := d.waysFor rt
  let same := d.llc.filter (fun e => e.1 % Config.llcSets == line % Config.llcSets && ways.contains e.2.way)
  match ways.find? (fun w => same.all (fun e => e.2.way != w)) with
  | some w => some (s, w)
  | none =>
    match minBy (fun (e : Nat × Line) => victimKey e.2.hint e.2.used) (same.filter (fun e => e.2.st.stable)) with
    | none => none
    | some e => some (s.evict k e.1, e.2.way)

/-- An LLC asks for a line, readable or writable, unless a request is under way or no way is free (R371, R380). A line
read under the bypass hint takes no way (03_kernel_memory R76). -/
def State.want (s : State) (k line : Nat) (m : Bool) (hint : Nat) (rt : Bool) : State :=
  match s.llc? k line with
  | none =>
    let ask (s1 : State) (w : Nat) : State :=
      (s1.putLlc k line { st := if m then .IMAD else .ISD, way := w, hint := hint % 3, rt := rt, used := s.x.nextId }).request k line
        (if m then .getM else .getS)
    if hint = 3 && !m then ask s 99
    else match s.room k line rt with
      | none => s
      | some (s1, w) => ask s1 w
  | some v =>
    if !m then s
    else match v.st with
      | .E => (s.putLlc k line { v with st := .M }).request k line .mod
      | .S | .SWT => (s.putLlc k line { v with st := .SMAD, acks := 0, got := 0 }).request k line .upg
      | .O => (s.putLlc k line { v with st := .SMAD, own := true, acks := 0, got := 0 }).request k line .upg
      | _ => s

/-- A hit records its hint and its recency; a bypass hit leaves both (R76, R77). -/
def State.llcTouch (s : State) (k line hint : Nat) : State :=
  match s.llc? k line with
  | none => s
  | some v => if hint = 3 then s else s.putLlc k line { v with hint := hint, used := s.x.nextId }

/-! ### The Rime log (16_translation R368) -/

/-- A performed write recorded in the open entry of its page: classes bit 0 stores, 1 atomics, 2 copies and bde
writes, 3 drains and sends. -/
def State.rime (s : State) (org : Origin) (line : Nat) : State :=
  match org.asid with
  | none => s
  | some a =>
    let c := s.ctx a
    if !c.rimeEn || c.rimeOvf then s
    else
      let bits := BitVec.ofNat 32 (2 ^ (line % 32))
      let cls := BitVec.ofNat 4 (2 ^ org.cls)
      let add (l : List (Nat × BitVec 4 × BitVec 32 × Nat)) (p : Nat) : List (Nat × BitVec 4 × BitVec 32 × Nat) :=
        if l.any (fun e => e.1 == p) then updFirst (fun e => e.1 == p) (fun e => (p, e.2.1 ||| cls, e.2.2.1 ||| bits, e.2.2.2)) l
        else l ++ [(p, cls, bits, s.x.clk)]
      s.setCtx a { c with rimeOpen := org.vpages.foldl add c.rimeOpen }

/-! ### Subscriptions at the home (R377, R382, R383) -/

def State.subbed (s : State) (h line : Nat) : Bool := (cfind line (s.die h).subs).isSome

/-- Table entries in use: one for each eight places of a line. -/
def Die.subUsed (k : Die) : Nat := k.subs.foldl (fun n e => n + (e.2.subs.length + 7) / 8) 0

/-- Whether a new subscriber of a line finds a place. -/
def Die.subRoom (k : Die) (line : Nat) : Bool :=
  match cfind line k.subs with
  | some v => v.subs.any (fun o => o.isNone) || v.subs.length % 8 != 0 || decide (k.subUsed < Config.subEntries)
  | none => decide (k.subUsed < Config.subEntries)

/-- The first free place filled, else a new one. -/
def addSub (u : Subscr) : List (Option Subscr) → List (Option Subscr)
  | [] => [some u]
  | none :: r => some u :: r
  | o :: r => o :: addSub u r

/-- Entries of eight places without those that hold no subscriber. -/
def trimSubs : Nat → List (Option Subscr) → List (Option Subscr)
  | 0, _ => []
  | n + 1, l =>
    let e := l.take 8
    let r := l.drop 8
    if l = [] then [] else if e.all (fun o => o.isNone) then trimSubs n r else e ++ trimSubs n r

/-! ### The directory (R374 to R376) -/

def State.dir? (s : State) (h line : Nat) : Option Dir := cfind line (s.die h).dir
def State.putDir (s : State) (h line : Nat) (e : Dir) : State :=
  s.setDie h { s.die h with dir := cset line { e with since := s.x.nextId } (s.die h).dir }
def State.delDir (s : State) (h line : Nat) : State := s.setDie h { s.die h with dir := cdel line (s.die h).dir }

/-- The directory set of a line (R374). -/
def dirSet (line : Nat) : Nat := line % 2 ^ 17

/-- A line in LOST: in the directory, or in the lost-line area, which a lookup searches in a set whose overflow bit is set
(R376). -/
def State.isLost (s : State) (h line : Nat) : Bool :=
  (match s.dir? h line with
    | some e => e.st == .lost
    | none => false) || ((s.die h).lostOvf.contains (dirSet line) && (s.die h).lostArea.contains line)

/-- A slice's entry is in the middle of a request, a recall or its own eviction (R388, R389). -/
def SliceEnt.busy (e : SliceEnt) : Bool := e.asked != 0 || e.pendAcks != 0 || e.recalls.isSome || e.evict || e.putting

/-- Anything under way for a line: a message, a transient copy, a waiting operation, a recall. -/
def State.lineBusy (s : State) (line : Nat) : Bool :=
  s.fab.net.any (fun m => m.line == line) ||
  s.fab.dies.any (fun e =>
    (match cfind line e.2.llc with
      | some v => !v.st.stable
      | none => false) || e.2.waitq.any (fun m => m.line == line) || e.2.evb.any (fun v => v.line == line)) ||
  (match cfind line s.fab.slices with
    | some v => v.busy || v.waits != []
    | none => false)

/-- The LLC's request for a line is held at the line's home, or waits for its reissue. -/
def State.heldFor (s : State) (k line : Nat) (v : Line) : Bool :=
  v.retryAt.isSome || s.fab.dies.any (fun e => e.2.held.any (fun m => m.line == line && m.src == keyAgent k))

/-- Anything under way for a line besides the requests that its home holds (R370, R398): a message, a copy in
transit, a recall. -/
def State.lineMoves (s : State) (line : Nat) : Bool :=
  s.fab.net.any (fun m => m.line == line) || s.fab.gathers.any (fun g => g.line == line) ||
  s.fab.dies.any (fun e =>
    (match cfind line e.2.llc with
      | some v => !v.st.stable && !((v.st == .ISD || v.st == .ISDI || v.st == .IMAD || v.st == .SMAD) && s.heldFor e.1 line v)
      | none => false) || e.2.evb.any (fun v => v.line == line)) ||
  (match cfind line s.fab.slices with
    | some v => v.pendAcks != 0 || v.recalls.isSome || v.evict || v.putting
    | none => false)

/-- The owner code of a requester (R374), and the agent of a code. -/
def ownerCode (h : Nat) : Agent → Nat
  | .slice _ => 48
  | a => agKey a % 64
def ownerAgent (h line code : Nat) : Agent := if code = 48 then .slice (line % 24) else keyAgent (h / 64 * 64 + code)

/-- The holders of a shared copy: dies of the home's device, and the governing slice with XD set. -/
def Dir.holders (e : Dir) (h line : Nat) : List Agent :=
  ((List.range 48).filter (fun p => e.sharers.getLsbD p)).map (fun p => ownerAgent h line p) ++
    (if e.xd then [.slice (line % 24)] else [])

/-- A sharer added. -/
def Dir.share (e : Dir) : Agent → Dir
  | .slice _ => { e with xd := true }
  | a => { e with sharers := e.sharers ||| (1#48 <<< (agKey a % 64)) }

/-- An entry allocated with SUB as the subscription table has it (R375). -/
def State.newDir (s : State) (h line : Nat) (e : Dir) : State := s.putDir h line { e with sub := s.subbed h line }

/-- Room for an entry of a line (R375): none where the request receives Retry. Which victim is taken is not defined:
a free value chooses among the eligible ones. -/
def State.dirRoom (s : State) (h line : Nat) : Option State :=
  let d := s.die h
  if (s.dir? h line).isSome then some s
  else
    let same := d.dir.filter (fun e => dirSet e.1 == dirSet line)
    if same.length < Config.dirWays then some s
    else
      let ok := same.filter (fun e => e.2.st != .lost && !s.lineBusy e.1)
      if ok = [] ∨ Config.evictEntries ≤ d.evb.length then none
      else
        let (f, s0) := s.freeNum
        match ok[f.toNat % ok.length]? with
        | none => none
        | some e =>
          let own := if e.2.st = .X ∨ e.2.st = .O then [ownerAgent h e.1 e.2.owner] else []
          let hs := e.2.holders h e.1 ++ own
          let s1 := (s0.delDir h e.1)
          let s2 := s1.setDie h { s1.die h with evb := (s1.die h).evb ++ [{ line := e.1, acks := hs.length, owner := own.head? }] }
          some (hs.foldl (fun s a => s.send (keyAgent h) a e.1 .backInv) s2)

/-- NackLost to the sender of a request for a LOST line (R386). -/
def lostAnswer : MsgK → Option MsgK
  | .getS | .getM | .upg => some (.nackLost 0)
  | .wrThru _ _ a _ => some (.nackLost a)
  | .atom a _ _ => some (.nackLost a)
  | .sub _ _ a _ _ => some (.nackLost a)
  | _ => none

/-- NackLost to the sender of each of some requests. -/
def State.nackAll (s : State) (h line : Nat) (ms : List Msg) : State :=
  ms.foldl (fun (s : State) (m : Msg) => match lostAnswer m.k with
    | some q => s.send (keyAgent h) m.src line q
    | none => s) s

/-- A line made LOST (R376, R385): the oldest LOST entry of a full set moves to the lost-line area and sets the set's
overflow bit, the die's count rises, the subscribers are told and removed (R384), and the requests that wait for the line
receive NackLost (R382, R386). -/
def State.loseLine (s : State) (h line : Nat) : State :=
  let d := s.die h
  let lost := (d.dir.filter (fun e => dirSet e.1 == dirSet line && e.2.st == .lost && e.1 != line))
  let s1 := if Config.dirWays ≤ lost.length then
      match minBy (fun (e : Nat × Dir) => e.2.since) lost with
      | some e => s.setDie h { d with
          dir := cdel e.1 d.dir
          lostArea := d.lostArea ++ [e.1]
          lostOvf := if d.lostOvf.contains (dirSet line) then d.lostOvf else d.lostOvf ++ [dirSet line] }
      | none => s
    else s
  let s2 := s1.putDir h line { st := .lost }
  let ms := d.waitq.filter (fun m => m.line == line)
  let s3 := s2.setDie h { s2.die h with
    lostCnt := min (2 ^ 32 - 1) (d.lostCnt + 1)
    waitq := d.waitq.filter (fun m => m.line != line) }
  let s4 := match cfind line d.subs with
    | none => s3
    | some v =>
      let s4 := v.subs.foldl (fun (s : State) o => match o with
        | some u => s.send (keyAgent h) (s.subAgent u) line (.pushLost u.idx)
        | none => s) s3
      s4.setDie h { s4.die h with subs := cdel line (s4.die h).subs }
  s4.nackAll h line ms

/-! ### Near-bank operations of the home LLC (R373, R381 to R383) -/

/-- One lane's atomic on the image of a line: the new image, the old value, whether it writes. -/
def atomOn (d : BitVec 1024) (o : AtomOp) : BitVec 1024 × BitVec 64 × Bool :=
  let k := 8 * (o.pa % 128)
  let ones : BitVec 64 := if o.width = 8 then 0xFFFFFFFFFFFFFFFF else if o.width = 2 then 0xFFFF else 0xFFFFFFFF
  let old := d.extractLsb' k 64 &&& ones
  let n := atomNew o.op o.ty old o.a o.b &&& ones
  let mask : BitVec 1024 := ones.setWidth 1024 <<< k
  if o.op = 7 ∧ old ≠ o.a then (d, old, false)
  else ((d &&& ~~~mask) ||| ((n.setWidth 1024 <<< k) &&& mask), old, true)

/-- The data of a line that a home LLC holds in M, replaced by a write: L1 copies go first (R372), the hint of the write
replaces the recorded one (03_kernel_memory R77), the store is counted, the Rime log is told. -/
def State.homePut (s : State) (h line : Nat) (new : BitVec 1024) (org : Origin) : State :=
  match s.llc? h line with
  | none => s
  | some v =>
    let s1 := (s.l1Drop h line none).putLlc h line { v with data := new, l1 := 0 }
    ((s1.llcTouch h line org.hint).pushStore h line new).rime org line

/-- The operations of an Atom message on the image of a line in order: the new image, the old values, and how many of them
wrote (R254). -/
def atomRun (d : BitVec 1024) (ops : List AtomOp) : BitVec 1024 × List (Nat × BitVec 64) × Nat :=
  ops.foldl (fun p o =>
    let q := atomOn p.1 o
    (q.1, p.2.1 ++ [(o.lane, q.2.1)], if q.2.2 then p.2.2 + 1 else p.2.2)) (d, [], 0)

/-- One waiting operation performed on a line that the home LLC holds in M. The part of an add-on-store drain in one line
(class 3) is one update and one store (03_kernel_memory R73, R383); the lanes of an atomic are one store each. -/
def State.nearBank (s : State) (h : Nat) (m : Msg) : State :=
  let d := ((s.llc? h m.line).map (fun v => v.data)).getD 0
  match m.k with
  | .wrThru mask data acc org =>
    (s.homePut h m.line (lineMerge d data mask) org).send (keyAgent h) m.src m.line (.wtAck acc)
  | .atom acc ops org =>
    let r := atomRun d ops
    let s1 := if org.cls = 3 then s.homePut h m.line r.1 org
      else (ops.foldl (fun (p : State × BitVec 1024) o =>
        let q := atomOn p.2 o
        (if q.2.2 then p.1.homePut h m.line q.1 org else p.1, q.1)) (s, d)).1
    s1.send (keyAgent h) m.src m.line (.atomRsp acc r.2.1)
  | .sub core idx acc _ _ =>
    let k := s.die h
    if !k.subRoom m.line then s.send (keyAgent h) m.src m.line (.subRsp idx acc 1)
    else
      let v := (cfind m.line k.subs).getD {}
      let u : Subscr := { dev := (s.devOf m.src).getD 0, die := agKey m.src % 64, core := core, idx := idx }
      let v1 := { v with subs := addSub u v.subs }
      let s1 := s.setDie h { k with subs := cset m.line v1 k.subs }
      let s2 := match s1.dir? h m.line with
        | some e => s1.putDir h m.line { e with sub := true }
        | none => s1
      (s2.send (keyAgent h) m.src m.line (.subRsp idx acc 0)).sendPush h m.line u d
  | _ => s

/-- The retention hint that a near-bank operation carries, and whether its page is a render target (03_kernel_memory R76,
04_render_mesh R109). -/
def MsgK.hint : MsgK → Nat × Bool
  | .wrThru _ _ _ org => (org.hint, org.rt)
  | .atom _ _ org => (org.hint, org.rt)
  | .sub _ _ _ _ rt => (0, rt)
  | _ => (0, false)

/-- The operations that wait for a home LLC's copy: performed in arrival order once it is in M, else M is asked for
(R373, R381). -/
def State.homeServe (s : State) (h line : Nat) : State :=
  match (s.die h).waitq.filter (fun m => m.line == line) with
  | [] => s
  | m0 :: ops =>
    let s0 : State := match s.llcSt h line with
      | some .E => s.want h line true m0.k.hint.1 m0.k.hint.2
      | _ => s
    match s0.llcSt h line with
    | some .M =>
      let s1 := s0.setDie h { s0.die h with waitq := (s0.die h).waitq.filter (fun m => m.line != line) }
      (m0 :: ops).foldl (fun s m => s.nearBank h m) s1
    | _ => s0.want h line true m0.k.hint.1 m0.k.hint.2

/-! ### Bias of a page (R396, R398) -/

/-- The bias of a line's page: 0 device, 1 host, 2 flipping; a reserved value is host. -/
def State.bias (s : State) (h line : Nat) : Nat :=
  if 64 ≤ h then 0
  else
    let p := line / 32 % 2 ^ 24
    let b := (s.freshByte (s.pkg.dev * 2 ^ 46 + bits (s.die h).biasBase 12 34 * 4096 + p / 4)).toNat / 4 ^ (p % 4) % 4
    if b = 3 then 1 else b

/-- Whether a request for a line must wait at the home: for a flip, or for the host's answer to a snoop. A line stands
in `snoops` as 2 × line while the host is asked, and as 2 × line + 1 once it has answered. -/
def State.biasHold (s : State) (h line : Nat) : Option State :=
  match s.bias h line with
  | 0 => none
  | 2 => some s
  | _ =>
    let d := s.die h
    if d.snoops.contains (2 * line + 1) then none
    else if d.snoops.contains (2 * line) then some s
    else some (s.setDie h { d with snoops := d.snoops ++ [2 * line] })

/-- The host's answer is used up by the request that it lets through. -/
def State.snoopUsed (s : State) (h line : Nat) : State :=
  let d := s.die h
  if d.snoops.contains (2 * line + 1) then s.setDie h { d with snoops := d.snoops.filter (fun n => n != 2 * line + 1) } else s

/-! ### The home's answers (R379) -/

/-- Data granted: 0 S, 1 S-WT, 2 E, 3 M with the line, 4 M without it. -/
def State.grant (s : State) (h line : Nat) (r : Agent) (st acks : Nat) : State :=
  s.send (keyAgent h) r line (.data st (if st = 4 then 0 else s.mem.line line) acks)

/-- GetS (R379). -/
def State.homeGetS (s : State) (h : Nat) (m : Msg) : State :=
  let sub := s.subbed h m.line
  match s.dirRoom h m.line with
  | none => s.send (keyAgent h) m.src m.line (.retry 0)
  | some s1 =>
    match s1.dir? h m.line with
    | none =>
      if sub then (s1.newDir h m.line ({ st := .S : Dir }.share m.src)).grant h m.line m.src 1 0
      else (s1.putDir h m.line { st := .X, owner := ownerCode h m.src }).grant h m.line m.src 2 0
    | some e =>
      if e.st = .S then (s1.putDir h m.line (e.share m.src)).grant h m.line m.src (if sub then 1 else 0) 0
      else
        (s1.putDir h m.line { e.share m.src with st := .O }).send (keyAgent h) (ownerAgent h m.line e.owner) m.line
          (.fwdGetS m.src)

/-- GetM and Upg (R379): `up` when the requester holds the line's data. An owner in O that upgrades keeps its own
data (assumption 22). -/
def State.homeGetM (s : State) (h : Nat) (m : Msg) (up : Bool) : State :=
  if s.subbed h m.line && m.src != keyAgent h then s.send (keyAgent h) m.src m.line .nackWT
  else
    match s.dirRoom h m.line with
    | none => s.send (keyAgent h) m.src m.line (.retry 0)
    | some s1 =>
      let me := ownerCode h m.src
      let new : Dir := { st := .X, owner := me, sub := s.subbed h m.line }
      match s1.dir? h m.line with
      | none => (s1.putDir h m.line new).grant h m.line m.src 3 0
      | some e =>
        let inv := (e.holders h m.line).filter (fun a => a != m.src && !((e.st == .X || e.st == .O) && ownerCode h a == e.owner))
        let s2 := inv.foldl (fun s a => s.send (keyAgent h) a m.line (.inv m.src)) (s1.putDir h m.line new)
        let n := inv.length
        if e.st = .S then s2.grant h m.line m.src (if up && (e.holders h m.line).contains m.src then 4 else 3) n
        else if e.owner = me then s2.grant h m.line m.src (if up then 4 else 3) n
        else s2.send (keyAgent h) (ownerAgent h m.line e.owner) m.line (.fwdGetM m.src n)

/-- A Put (R379): from the owner its data are written and the entry becomes S or I; from another it is discarded. The
data of an owner whose line stands in the eviction buffer go there (R375). -/
def State.homePutMsg (s : State) (h : Nat) (m : Msg) (data : Option (BitVec 1024)) : State :=
  let ack (s : State) : State := s.send (keyAgent h) m.src m.line .putAck
  match s.dir? h m.line with
  | none =>
    ack (s.setDie h { s.die h with evb := (s.die h).evb.map (fun v =>
      if v.line = m.line ∧ v.owner = some m.src then { v with data := data.or v.data } else v) })
  | some e =>
    if (e.st = .X ∨ e.st = .O) ∧ e.owner = ownerCode h m.src then
      let s1 := match data with
        | some d => { s with mem := s.mem.putLine m.line d }
        | none => s
      let left := (e.holders h m.line).filter (fun a => a != m.src)
      if e.st = .X ∨ left = [] then ack (s1.delDir h m.line)
      else
        let e1 := { e with st := .S, owner := 0, d := false }
        let e2 := match m.src with
          | .slice _ => { e1 with xd := false }
          | a => { e1 with sharers := e1.sharers &&& ~~~(1#48 <<< (agKey a % 64)) }
        ack (s1.putDir h m.line e2)
    else ack s

/-- Unsub (R384): the subscriber is removed, entries without one are freed, and UnsubAck follows every earlier push. -/
def State.homeUnsub (s : State) (h : Nat) (m : Msg) (core idx req : Nat) : State :=
  let s1 := match cfind m.line (s.die h).subs with
    | none => s
    | some v =>
      let dev := (s.devOf m.src).getD 0
      let l : List (Option Subscr) := v.subs.map (fun (o : Option Subscr) => match o with
        | some u => if u.is dev (agKey m.src % 64) core idx then none else some u
        | none => none)
      let l1 := trimSubs l.length l
      if l1 = [] then
        let s2 := s.setDie h { s.die h with subs := cdel m.line (s.die h).subs }
        match s2.dir? h m.line with
        | some e => s2.putDir h m.line { e with sub := false }
        | none => s2
      else s.setDie h { s.die h with subs := cset m.line { v with subs := l1 } (s.die h).subs }
  s1.send (keyAgent h) m.src m.line (.unsubAck idx req)

/-- PushAck (R383). -/
def State.homePushAck (s : State) (h : Nat) (m : Msg) (core idx : Nat) : State :=
  match cfind m.line (s.die h).subs with
  | none => s
  | some v =>
    let dev := (s.devOf m.src).getD 0
    match v.subs.findSome? (fun o => o.bind (fun (u : Subscr) => if u.is dev (agKey m.src % 64) core idx then some u else none)) with
    | none => s
    | some u =>
      let v1 := { v with subs := v.subs.map (fun o => o.map (fun t => if t.is u.dev u.die u.core u.idx then { t with p := false } else t)) }
      let s1 := s.setDie h { s.die h with subs := cset m.line v1 (s.die h).subs }
      if u.n = 0 then s1
      else s1.sendPush h m.line u (s1.freshLine m.line)

/-- Retry to the sender of a request (R375). Its LLC keeps a write, an atomic or a subscription to reissue it. -/
def State.homeRetry (s : State) (h : Nat) (m : Msg) : State :=
  match msgAcc m.k with
  | none => s.send (keyAgent h) m.src m.line (.retry 0)
  | some a =>
    let k := agKey m.src
    (s.setDie k { s.die k with again := (s.die k).again ++ [(none, m)] }).send (keyAgent h) m.src m.line (.retry a)

/-- An earlier write, atomic or subscription of the same agent to the line waits for its reissue, which this one must not
overtake (07_ordering R161; assumption 22). -/
def State.retried (s : State) (m : Msg) : Bool :=
  (msgAcc m.k).isSome && (s.die (agKey m.src)).again.any (fun p => p.2.line == m.line && p.2.src == m.src)

/-- A request that reaches its home is served at once, in arrival order (R379), or waits for the host, a flip or a command
of the table-update engine (16_translation R370). -/
def State.homeTake (s : State) (h : Nat) (m : Msg) : State :=
  match lostAnswer m.k with
  | none =>
    match m.k with
    | .putM d => s.homePutMsg h m (some d)
    | .putO d => s.homePutMsg h m (some d)
    | .putE => s.homePutMsg h m none
    | .mod =>
      match s.dir? h m.line with
      | some e => if e.st = .X ∧ e.owner = ownerCode h m.src then s.putDir h m.line { e with d := true } else s
      | none => s
    | .unsub core idx req => s.homeUnsub h m core idx req
    | .pushAck core idx => s.homePushAck h m core idx
    | _ => s
  | some lost =>
    if s.isLost h m.line then s.send (keyAgent h) m.src m.line lost
    else if s.tue.hold = some (m.line / 32) then s.setDie h { s.die h with held := (s.die h).held ++ [m] }
    else match (if m.src = .host then none else s.biasHold h m.line) with
      | some s1 => s1.setDie h { s1.die h with held := (s1.die h).held ++ [m] }
      | none =>
        let s0 := s.snoopUsed h m.line
        if (s0.die h).evb.any (fun v => v.line == m.line) || s0.retried m then s0.homeRetry h m
        else match m.k with
        | .getS => s0.homeGetS h m
        | .getM => s0.homeGetM h m false
        | .upg => s0.homeGetM h m true
        | .sub _ idx acc _ _ =>
          if !(s0.die h).subRoom m.line then s0.send (keyAgent h) m.src m.line (.subRsp idx acc 1)
          else (s0.setDie h { s0.die h with waitq := (s0.die h).waitq ++ [m] }).homeServe h m.line
        | _ => (s0.setDie h { s0.die h with waitq := (s0.die h).waitq ++ [m] }).homeServe h m.line

/-- The requests of a line held for the host, a flip or a command are served again, in arrival order (R370, R398). -/
def State.heldServe (s : State) (h : Nat) (p : Nat → Bool) : State :=
  let go := (s.die h).held.filter (fun m => p m.line)
  let s1 := s.setDie h { s.die h with held := (s.die h).held.filter (fun m => !p m.line) }
  go.foldl (fun s m => s.homeTake h m) s1

/-! ### Quiet lines: writes by the device's engines (assumption 23) -/

/-- The host holds no copy of a line: its page is in device bias, or the host has answered a snoop (R396). -/
def State.hostFree (s : State) (h line : Nat) : Bool :=
  s.bias h line == 0 || (s.bias h line == 1 && (s.die h).snoops.contains (2 * line + 1))

/-- The host is asked for the lines of host-bias pages among some bytes (R396). -/
def State.snoopAsk (s : State) (lines : List Nat) : State :=
  lines.foldl (fun s l => match s.homeDie l with
    | .die h => match s.biasHold h l with
      | some s1 => s1
      | none => s
    | _ => s) s

/-- No agent of the package or the pod has anything under way for a line. -/
def State.quiet (s : State) (line : Nat) : Bool :=
  !s.lineBusy line && (match s.homeDie line with
    | .die h => s.working h && !s.isLost h line && !(s.die h).held.any (fun m => m.line == line) && s.hostFree h line
    | a => !s.isLost (agKey a) line)

/-- The copy of a line that an LLC holds goes; one whose request is held goes on waiting without it. -/
def State.copyGone (s : State) (k line : Nat) : State :=
  match s.llc? k line with
  | none => s
  | some v =>
    if v.st.stable then (s.l1Drop k line none).delLlc k line
    else if v.st = .SMAD then (s.l1Drop k line none).putLlc k line { v with st := .IMAD, own := false, l1 := 0 }
    else s

/-- Every copy of a line that nothing moves recalled and its value written to memory, as a chain of R379's transitions.
The home LLC keeps its copy of a line with subscribers, in M (R382). -/
def State.recallLine (s : State) (line : Nat) : State :=
  let d := s.freshLine line
  let h := s.homeKey line
  let keep := s.subbed h line && (match s.llc? h line with
    | some v => v.st.stable
    | none => false)
  let s1 := s.fab.dies.foldl (fun s e =>
    if keep && e.1 == h then s else s.copyGone e.1 line) s
  let s2 := if keep then
      (match s1.llc? h line with
        | some v => (s1.l1Drop h line none).putLlc h line { v with st := .M, data := d, l1 := 0 }
        | none => s1).putDir h line { st := .X, owner := h % 64, sub := true }
    else if (s1.dir? h line).isSome then s1.delDir h line else s1
  { s2 with mem := s2.mem.putLine line d, fab := { s2.fab with slices := match cfind line s2.fab.slices with
      | some e => if e.asked = 0 ∧ e.waits = [] then cdel line s2.fab.slices
        else cset line { e with st := .none, sharers := 0, owner := none } s2.fab.slices
      | none => s2.fab.slices } }

/-- The data of a quiet line as a write of an engine leaves it: in the home LLC's copy if there is one, else in memory. -/
def State.quietSet (s : State) (line : Nat) (new : BitVec 1024) : State :=
  let h := s.homeKey line
  match s.llc? h line with
  | some v => s.putLlc h line { v with data := new }
  | none => { s with mem := s.mem.putLine line new }

/-- Bytes written to one quiet line at its home, as one store (R373, R383). -/
def State.quietWrite (s : State) (line : Nat) (bs : List (Nat × Byte)) (org : Origin) : State :=
  if bs = [] then s
  else
    let s1 := s.recallLine line
    let b := maskData bs
    let new := lineMerge (s1.mem.line line) b.2 b.1
    let s2 := s1.quietSet line new
    ((s2.pushStore (s.homeKey line) line new).rime org line).snoopUsed (s.homeKey line) line

/-- Every device line among some bytes is quiet. -/
def State.quietAll (s : State) (bs : List (Nat × Byte)) : Bool :=
  (linesOf (bs.filter (fun b => !isHost b.1))).all s.quiet

/-- Bytes written by an engine: device lines at their homes, host bytes in host memory; the Rime log is told of both
(16_translation R368). -/
def State.engineWrite (s : State) (bs : List (Nat × Byte)) (org : Origin) : State :=
  let dev := bs.filter (fun b => !isHost b.1)
  let s1 := (linesOf dev).foldl (fun s l => s.quietWrite l (dev.filter (fun b => lineOf b.1 == l)) org) s
  let hb := bs.filter (fun b => isHost b.1)
  (linesOf hb).foldl (fun (s : State) l => s.rime org l) { s1 with host := hb.foldl (fun m b => m.set (b.1 - hostBase) b.2) s1.host }

/-- The device lines among some addresses may be read by an engine: not LOST, and free of host copies. -/
def State.readable (s : State) (pas : List Nat) : Bool :=
  (linesOf ((pas.filter (fun p => !isHost p)).map (fun p => (p, 0)))).all (fun l => match s.homeDie l with
    | .die h => s.working h && s.hostFree h l
    | _ => true)

/-- The first LOST line among some addresses (R386). -/
def State.lostAmong (s : State) (pas : List Nat) : Option Nat :=
  (linesOf ((pas.filter (fun p => !isHost p)).map (fun p => (p, 0)))).find? (fun l =>
    s.isLost (s.homeKey l) l || (match s.homeDie l with
      | .die h => !s.working h
      | _ => false))

/-- A byte read by an engine: the value at the home of its line (R175), or host memory. -/
def State.engineByte (s : State) (pa : Nat) : Byte := if isHost pa then s.host.get (pa - hostBase) else s.freshByte pa

end Sys2Proof.Machine
end

