-- ==== Sys2Proof/Machine/Loads.lean ====
section
/-!
DEFINITION. The stores of a die's cores beyond their L1 (17_coherence R371, R372, 07_ordering R163), and the loads that
wait at a die for a line: which lanes may be bound (07_ordering R160 to R167), what they return, and what they put into
registers (10_isa R246, R297 to R299).
-/

set_option linter.unusedVariables false

namespace Sys2Proof.Machine

/-! ### Stores of a die's cores beyond their L1 -/

/-- The bytes that some lanes of a store write to a line, in lane order. -/
def Access.bytesOn (a : Access) (lanes : Word) (line : Nat) : List (Nat × Byte) :=
  (a.lanes.filter (fun l => lanes.getLsbD l.lane)).flatMap (fun l =>
    ((l.pa.zip (l.ops.flatMap (fun w => natLe 4 w.toNat))).filter (fun p => lineOf p.1 == line)))

/-- On whose behalf some lanes of an access write to a line, with the access's hint. -/
def Exec.originOf (x : Exec) (a : Access) (lanes : Word) (line cls : Nat) : Origin :=
  let ls := a.lanes.filter (fun l => lanes.getLsbD l.lane && l.pa.any (fun p => lineOf p == line))
  { asid := (x.wg? a.wg).map (fun w => w.asid)
    vpages := (ls.flatMap (fun l => (pieces l.va a.width).map (fun p => pageOf p.1))).eraseDups
    cls := cls
    hint := a.hint
    rt := ls.any (fun l => l.rt.contains line) }

/-- Lanes of a store that have reached the L1 and wait for no line are performed; the store ends with its last lane. -/
def State.storeSettle (s : State) (id : Nat) : State :=
  match s.x.acc? id with
  | none => s
  | some a =>
    let m := s.x.cores.foldl (fun m e => (e.2.wt.filter (fun t => t.id == id)).foldl (fun m t => m ||| t.lanes) m) (0 : Word)
    ({ s with x := s.x.setAcc { a with lanes := a.lanes.map (fun (l : LaneAcc) =>
        if l.st = LaneAccSt.ok ∧ l.l1 = true ∧ m.getLsbD l.lane = false then { l with st := LaneAccSt.done } else l) } }).accSettle id

/-- The stores of the cores of a die with their core's number, in core order. -/
def Exec.wtOf (x : Exec) (d : Nat) : List (Nat × WtEnt) :=
  (x.cores.filter (fun e => e.1 / 16 == d)).flatMap (fun e => e.2.wt.map (fun t => (e.1, t)))

/-- A store that has left its core's buffer. -/
def State.wtDrop (s : State) (c : Nat) (t : WtEnt) : State :=
  let k := (cfind c s.x.cores).getD {}
  ({ s with x := { s.x with cores := cset c { k with wt := delFirst (fun u => u == t) k.wt } s.x.cores } }).storeSettle t.id

/-- A die's own copy in S-WT goes as a write of the die to the line leaves for the home (R371). -/
def State.swtDrop (s : State) (d line : Nat) : State :=
  match s.llcSt d line with
  | some .SWT => (s.l1Drop d line none).delLlc d line
  | _ => s

/-- A write or an atomic of a die to a line: a host line's goes to the host agent (R395), another's to the line's home. -/
def State.writeOut (s : State) (d line : Nat) (q : MsgK) : State :=
  if isHost (128 * line) then
    { s with fab := { s.fab with hostReqs := s.fab.hostReqs ++ [{ id := s.x.nextId, src := .die d, dst := .host, line := line, k := q }] },
             x := { s.x with nextId := s.x.nextId + 1 } }
  else (s.swtDrop d line).request d line q

/-- A store sent to the home as WrThru. -/
def State.wtSend (s : State) (d c : Nat) (t : WtEnt) (a : Access) : State :=
  let k := (cfind c s.x.cores).getD {}
  let s1 := { s with x := { s.x with cores := cset c { k with wt := updFirst (fun u => u == t) (fun u => { u with sent := true }) k.wt } s.x.cores } }
  let b := maskData (a.bytesOn t.lanes t.line)
  s1.writeOut d t.line (.wrThru b.1 b.2 a.id (s.x.originOf a t.lanes t.line 0))

/-- A store written in its die's LLC, which holds the line in M: the other cores' L1 copies go first (R372), the line
records the store's hint (03_kernel_memory R77), a home's LLC counts the store (R383). All of a lane's bytes in the line
are written in one event: where a misaligned or 16-byte access tears is open (07_ordering R171; DESIGN CHOICE,
assumption 109). -/
def State.wtWrite (s : State) (d : Nat) (e : Nat × WtEnt) (a : Access) (v : Line) : State :=
  let line := e.2.line
  let b := maskData (a.bytesOn e.2.lanes line)
  let new := lineMerge v.data b.2 b.1
  let s1 := s.l1Drop d line (some (e.1 % 16))
  let s2 := match s1.llc? d line with
    | some u => s1.putLlc d line { u with data := new, hint := a.hint, used := s.x.nextId }
    | none => s1
  let s3 := if s.homeKey line = d then s2.pushStore d line new else s2
  (s3.rime (s.x.originOf a e.2.lanes line 0) line).wtDrop e.1 e.2

/-- One store performed at, or sent beyond, the LLC of its die; false when it must wait. A store with the bypass hint
goes as WrThru (R372), and so does every store behind one that has gone and is not acknowledged. -/
def State.wtOne (s : State) (d : Nat) (e : Nat × WtEnt) : State × Bool :=
  match s.x.acc? e.2.id with
  | none => (s.wtDrop e.1 e.2, true)
  | some a =>
    let line := e.2.line
    if e.2.sent then (s, true)
    else if isHost (128 * line) || a.hint == 3 || (s.x.wtOf d).any (fun t => t.2.line == line && t.2.sent) then
      (s.wtSend d e.1 e.2 a, true)
    else
      match s.llc? d line with
      | none => (s.want d line true a.hint (a.lanes.any (fun l => l.rt.contains line)), false)
      | some v =>
        match v.st with
        | .SWT => (s.wtSend d e.1 e.2 a, true)
        | .M | .E => ((s.want d line true a.hint false).wtWrite d e a v, true)
        | .S | .O => (s.want d line true a.hint false, false)
        | _ => (s, false)

/-- The stores of a die to a line, in order, as far as they go. -/
def State.wtServe (s : State) (d line : Nat) : State :=
  (((s.x.wtOf d).filter (fun e => e.2.line == line)).foldl (fun (p : State × Bool) e =>
    if p.2 then p.1.wtOne d e else p) (s, true)).1

/-! ### Order of one thread's accesses to one location (07_ordering R161) -/

/-- Two lanes' accesses share a byte. -/
def LaneAcc.meets (a b : LaneAcc) : Bool := a.pa.any (fun p => b.pa.contains p)

/-- An older global access of the lane's own thread on a shared byte, with its lane in a test. -/
def Exec.olderMeets (x : Exec) (a : Access) (l : LaneAcc) (p : AccKind → LaneAcc → Bool) : Bool :=
  x.accs.any (fun b => b.wg == a.wg && b.grp == a.grp && decide (b.id < a.id) && !b.inScratch &&
    b.lanes.any (fun m => m.lane == l.lane && m.st == .ok && p b.kind m && m.meets l))

def AccKind.isRead : AccKind → Bool
  | .load | .atomic | .reduce | .refill => true
  | _ => false
def AccKind.isStore : AccKind → Bool
  | .store | .spill => true
  | _ => false

/-- An older read of the thread still to be bound or performed. -/
def olderRead (k : AccKind) (m : LaneAcc) : Bool := k.isRead
/-- An older access of the thread that a younger load does not see yet: a read to be bound or performed, or a store that has
not entered the group's queue. -/
def olderUnseen (k : AccKind) (m : LaneAcc) : Bool := k.isRead || (k.isStore && !m.inq)
/-- Any older access of the thread still to be performed. -/
def olderAny (k : AccKind) (m : LaneAcc) : Bool := true

/-! ### Pseudo-channels (21_bringup R438) -/

/-- The pseudo-channel of an address of this device, and whether it has failed while the device runs. -/
def State.pchOf (s : State) (pa : Nat) : Option Nat :=
  let k := s.die (paDie pa)
  let w := (List.range 64).filter (fun p => !k.pchMap.getLsbD p)
  if paDev pa ≠ s.pkg.dev ∨ w = [] then none else w[(pa % 2 ^ 36 / 4096) % w.length]?
def State.pchBad (s : State) (pa : Nat) : Bool :=
  if isHost pa then false
  else match s.pchOf pa with
    | some p => (s.die (paDie pa)).pchFail.getLsbD p
    | none => false

/-! ### What a load returns (07_ordering R163) -/

/-- Accesses by rising place in their queue. -/
def insertAcc (a : Access) : List Access → List Access
  | [] => [a]
  | b :: r => if a.at_ ≤ b.at_ then a :: b :: r else b :: insertAcc a r
def sortAcc (l : List Access) : List Access := l.foldr insertAcc []

/-- Bytes written by some lanes, with the store's number. -/
def Access.writes (a : Access) (lanes : Word) (line : Nat) : List (Nat × Byte × Nat) :=
  (a.bytesOn lanes line).map (fun b => (b.1, b.2, a.id))

/-- The stores that a load of a group sees before they are performed, oldest first: those in its core's L1 in core order,
then the queue of its own group. -/
def Exec.ahead (x : Exec) (k : Core) (wi gi line : Nat) : List (Nat × Byte × Nat) :=
  (k.wt.filter (fun t => t.line == line)).flatMap (fun t => match x.acc? t.id with
    | some b => b.writes t.lanes line
    | none => []) ++
  (sortAcc (x.accs.filter (fun b => b.wg == wi && b.grp == gi && b.kind.isStore && !b.inScratch))).flatMap (fun b =>
    b.writes (maskOf ((b.lanes.filter (fun m => m.inq && !m.l1)).map (fun m => m.lane))) line)

/-- A byte as the load's core reads it, with the store that it comes from if that is not performed yet. -/
def byteAt (line : BitVec 1024) (ahead : List (Nat × Byte × Nat)) (pa : Nat) : Byte × List Nat :=
  match ahead.reverse.find? (fun w => w.1 == pa) with
  | some w => (w.2.1, [w.2.2])
  | none => (lineByte line (pa % 128), [])

/-! ### Loads that wait for a line -/

/-- The indexes of a lane's bytes that lie in a line and are not bound. -/
def LaneAcc.openOn (l : LaneAcc) (line : Nat) : List Nat :=
  (List.range l.pa.length).filter (fun i => lineOf ((l.pa[i]?).getD 0) == line && (cfind i l.part).isNone)

/-- The bytes of a lane in order, once all of them are bound. -/
def LaneAcc.bytes (l : LaneAcc) : List Byte := (List.range l.pa.length).map (fun i => (cfind i l.part).getD 0)

/-- An access that reads a line of memory into registers or the scratchpad, with its predecessors performed. -/
def Exec.reading (x : Exec) (a : Access) : Bool := (a.kind == .load || a.kind == .refill) && !a.inScratch && (x.waits a.after).isEmpty

/-- A lane that may be bound to a line now: no older access of its thread stands before it (R161), and no store of its
core to the line is on its way to the home, past which the core would read an older value (R162). -/
def State.mayBind (s : State) (w : Wg) (a : Access) (l : LaneAcc) (line : Nat) : Bool :=
  s.x.reading a && l.st == .ok && l.openOn line != [] && !s.x.olderMeets a l olderUnseen && !l.pa.any s.pchBad &&
  !(s.x.core w.die w.core).wt.any (fun t => t.line == line && t.sent)

/-- The lanes of a die's loads that may be bound to a line, by access and place in it. -/
def State.binders (s : State) (d line : Nat) : List (Nat × Nat) :=
  s.x.accs.flatMap (fun a => match s.x.wg? a.wg with
    | some w => if w.die = d then
        (List.range a.lanes.length).filterMap (fun k => match a.lanes[k]? with
          | some l => if s.mayBind w a l line then some (a.id, k) else none
          | none => none)
      else []
    | none => [])

/-- The lanes that wait for a line's data as an Inv arrives and are served by them all the same (R380): those that no store
of their core stands before. -/
def State.lateOn (s : State) (d line : Nat) : List (Nat × Nat) :=
  (s.binders d line).filter (fun p => match s.x.acc? p.1 with
    | some a => match s.x.wg? a.wg with
      | some w => (s.x.ahead (s.x.core w.die w.core) a.wg a.grp line).isEmpty
      | none => false
    | none => false)

/-- What a load's bytes put into registers: loads (R246), traversal tests (R297, R298), stack refills (R299). The value
of a box test that the rule does not state is free (assumption 10). -/
def State.loadRes (s : State) (i : Instr) (l : LaneAcc) (bs : List Byte) : State × List RegWr :=
  match i with
  | .ld f => (s, placeLoad (mSize f.c) (BitVec.ofNat 8 (mF8 f.c)) f.d.toNat l.lane bs)
  | .ldw f => (s, placeLoad 2 tRAW f.d.toNat l.lane bs)
  | .tstBox f =>
    (List.range 4).foldl (fun (p : State × List RegWr) j =>
      let r (s : State) (v : Word) : State × List RegWr :=
        (s, p.2 ++ [{ kind := 0, lane := l.lane, idx := f.d.toNat + j, val := v, tag := tF32 }])
      match boxTest bs l.ops j with
      | some v => r p.1 v
      | none => let q := p.1.freeNum; r q.2 (loWord q.1)) (s, [])
  | .tstTri f =>
    (s, (triTest bs l.ops).mapIdx (fun j v => { kind := 0, lane := l.lane, idx := f.d.toNat + j, val := v, tag := if j = 3 then tN32 else tF32 }))
  | .stkPop f =>
    (s, if (l.ops[1]?).getD 0 = 1 then
        [{ kind := 0, lane := l.lane, idx := f.a.toNat, val := leWord bs 0, tag := tRAW }, { kind := 0, lane := l.lane, idx := f.a.toNat + 1, val := leWord bs 1, tag := tRAW }]
      else [])
  | _ => (s, [])

/-- An entry refilled to its slot of the scratchpad; the entry that is popped stays out (R125). -/
def State.refilled (s : State) (wi : Nat) (l : LaneAcc) (bs : List Byte) : State :=
  if (l.ops[1]?).getD 0 = 1 then s
  else match s.x.wg? wi with
    | none => s
    | some w => s.putWg { w with scratch := w.scratch.putBytes ((l.ops[0]?).getD 0).toNat bs }

/-- A lane whose bytes are all bound: its load is performed, and its results wait for their reply. -/
def State.laneBound (s : State) (id k : Nat) : State :=
  match s.x.acc? id with
  | none => s
  | some a =>
    match a.lanes[k]? with
    | none => s
    | some l =>
      if (List.range l.pa.length).any (fun i => (cfind i l.part).isNone) then s
      else
        let r := s.loadRes a.ins l l.bytes
        let s1 := if a.kind = .refill then r.1.refilled a.wg l l.bytes else r.1
        { s1 with x := s1.x.setAcc { a with lanes := a.lanes.set k { l with st := .done }, res := a.res ++ r.2 } }

/-- A lane's bytes in a line bound to the line's data (R160 to R163): under the stores that its core sees before them, or
without them. What it has seen stands beside it in every fence (R166). -/
def State.bindPiece (s : State) (id k line : Nat) (data : BitVec 1024) (fwd : Bool) : State :=
  match s.x.acc? id with
  | none => s
  | some a =>
    match s.x.wg? a.wg, a.lanes[k]? with
    | some w, some l =>
      let ah := if fwd then s.x.ahead (s.x.core w.die w.core) a.wg a.grp line else []
      let bs := (l.openOn line).map (fun i => (i, byteAt data ah ((l.pa[i]?).getD 0)))
      let seen := (bs.flatMap (fun b => b.2.2)).eraseDups
      let l1 := { l with part := bs.foldl (fun m b => cset b.1 b.2.1 m) l.part }
      let x := (s.x.setAcc { a with lanes := a.lanes.set k l1 }).observe id seen
      ({ s with x := x.onGrp a.wg a.grp (fun g => { g with seen := g.seen ++ seen.filter (fun i => !g.seen.contains i) }) }).laneBound id k
    | _, _ => s

/-- A load that hits a line of its die's LLC: the line keeps its core in the snoop filter and its hint, and the L1
allocates it (03_kernel_memory R76, R77, R372). -/
def State.loadTouch (s : State) (id line : Nat) : State :=
  match s.x.acc? id with
  | none => s
  | some a =>
    match s.x.wg? a.wg with
    | none => s
    | some w =>
      let held := match s.llc? w.die line with
        | some v => v.way != 99 && (v.st.stable || v.st == .SMAD)
        | none => false
      if a.hint = 3 ∨ held = false then s
      else
        let s1 := (s.llcTouch w.die line a.hint).l1Mark w.die w.core line
        { s1 with x := s1.x.setCore w.die w.core ((s1.x.core w.die w.core).l1Touch line a.hint s.x.nextId) }

/-- The data of a line reach some of the lanes that wait for it (R380). -/
def State.servePieces (s : State) (ps : List (Nat × Nat)) (line : Nat) (data : BitVec 1024) (fwd : Bool) : State :=
  ps.foldl (fun s p => (s.bindPiece p.1 p.2 line data fwd).loadTouch p.1 line) s

/-- The data of a line reach the loads of a die that wait for it. -/
def State.serveLoads (s : State) (d line : Nat) (data : BitVec 1024) : State := s.servePieces (s.binders d line) line data true

end Sys2Proof.Machine
end

