-- ==== Sys2Proof/Machine/Fabric.lean ====
section
/-!
DEFINITION. What an LLC and a switch slice do with the messages that reach them (17_coherence R371 to R391).
-/

set_option linter.unusedVariables false

namespace Sys2Proof.Machine

/-! ### An LLC answers forwards, invalidations and recalls (R379, R380) -/

/-- An agent is a slice. -/
def Agent.isSlice : Agent → Bool
  | .slice _ => true
  | _ => false

/-- A copy that leaves an LLC with its L1 copies. -/
def State.llcGone (s : State) (k line : Nat) : State := (s.l1Drop k line none).delLlc k line

/-- A forward queued until the line is stable (R380). -/
def State.fwdQueue (s : State) (k : Nat) (v : Line) (m : Msg) : State := s.putLlc k m.line { v with fwds := v.fwds ++ [m] }

/-- Fwd-GetS: Data to the requester, S-WT for a line with subscribers; the owner keeps an O copy, and its L1 copies go
before it answers (R372). An owner in O whose Upg is under way answers as in O (assumption 22). -/
def State.llcFwdGetS (s : State) (k : Nat) (m : Msg) (r : Agent) : State :=
  match s.llc? k m.line with
  | none => s
  | some v =>
    let out (st : LineSt) : State :=
      ((s.l1Drop k m.line none).putLlc k m.line { v with st := st, l1 := 0 }).send (keyAgent k) r m.line
        (.data (if s.subbed k m.line then 1 else 0) v.data 0)
    match v.st with
    | .M | .E | .O => out .O
    | .MIA | .EIA => out .OIA
    | .SMAD => if v.own then out .SMAD else s.fwdQueue k v m
    | _ => s.fwdQueue k v m

/-- Fwd-GetM: Data in M to the requester; the owner's copy is invalidated. An owner in O whose Upg is under way answers
at once and goes on as IM_AD (assumption 22). -/
def State.llcFwdGetM (s : State) (k : Nat) (m : Msg) (r : Agent) (acks : Nat) : State :=
  match s.llc? k m.line with
  | none => s
  | some v =>
    let out (s : State) : State := s.send (keyAgent k) r m.line (.data 3 v.data acks)
    match v.st with
    | .M | .E | .O => out (s.llcGone k m.line)
    | .MIA | .EIA | .OIA => out (s.putLlc k m.line { v with st := .IIA })
    | .SMAD => if v.own then out ((s.l1Drop k m.line none).putLlc k m.line { v with st := .IMAD, own := false, l1 := 0 }) else s.fwdQueue k v m
    | _ => s.fwdQueue k v m

/-- Inv: the shared copy goes and the requester receives InvAck; a die without a copy answers too, and so does one whose
request is still to be served, which would otherwise wait for itself (assumption 22). In IS_D the lanes that wait for the
data are remembered. -/
def State.llcInv (s : State) (k : Nat) (m : Msg) (r : Agent) : State :=
  let ack (s : State) : State := s.send (keyAgent k) r m.line .invAck
  match s.llc? k m.line with
  | none => ack s
  | some v =>
    match v.st with
    | .S | .SWT => ack (s.llcGone k m.line)
    | .ISD => ack (s.putLlc k m.line { v with st := .ISDI, late := s.lateOn k m.line })
    | .SMAD => if v.own then ack s else ack ((s.l1Drop k m.line none).putLlc k m.line { v with st := .IMAD, l1 := 0 })
    | .IMA | .SMA => if m.src.isSlice then ack s else s.fwdQueue k v m
    | _ => ack s

/-- Where the acknowledgement of a recall goes: to the home, or, of a slice's recall, to the port that gathers for it
(R389). -/
def State.backDst (s : State) (k : Nat) (src : Agent) : Agent :=
  match src with
  | .slice i => .port ((s.devOf (keyAgent k)).getD 0) i
  | a => a

/-- BackInv (R375): the copy goes; an owner's data travel with the acknowledgement. A line whose Put is under way answers
once its PutAck has come (R380); a die whose request is still to be served holds no copy, and answers at once
(assumption 22). -/
def State.llcBackInv (s : State) (k : Nat) (m : Msg) : State :=
  let ack (s : State) (d : Option (BitVec 1024)) : State := s.send (keyAgent k) (s.backDst k m.src) m.line (.backInvAck d)
  match s.llc? k m.line with
  | none => ack s none
  | some v =>
    match v.st with
    | .S | .SWT => ack (s.llcGone k m.line) none
    | .M | .O | .E => ack (s.llcGone k m.line) (some v.data)
    | .SMAD =>
      ack ((s.l1Drop k m.line none).putLlc k m.line { v with st := .IMAD, own := false, l1 := 0 }) (if v.own then some v.data else none)
    | .ISD | .ISDI | .IMAD => ack s none
    | _ => s.fwdQueue k v m

/-- A forward, invalidation or recall at an LLC. -/
def State.llcForward (s : State) (k : Nat) (m : Msg) : State :=
  match m.k with
  | .fwdGetS r => s.llcFwdGetS k m r
  | .fwdGetM r acks => s.llcFwdGetM k m r acks
  | .inv r => s.llcInv k m r
  | .backInv => s.llcBackInv k m
  | _ => s

/-- A line has reached a stable state, or left: the near-bank operations and the stores that waited for it go on, then
the queued forwards are answered in arrival order, then what still waits asks again (R380). -/
def State.lineReady (s : State) (k line : Nat) (fwds : List Msg) : State :=
  let s1 := (s.homeServe k line).wtServe k line
  if fwds = [] then s1
  else ((fwds.foldl (fun s m => s.llcForward k m) s1).homeServe k line).wtServe k line

/-- A line whose data and acknowledgements have all come: M (R380). -/
def State.tryM (s : State) (k line : Nat) : State :=
  match s.llc? k line with
  | none => s
  | some v =>
    if (v.st = .IMA ∨ v.st = .SMA) ∧ v.got = v.acks then
      let s1 := s.putLlc k line { v with st := .M, own := false, acks := 0, got := 0, fwds := [], retryAt := none }
      (s1.serveLoads k line v.data).lineReady k line v.fwds
    else s

/-- A line whose data have served the loads and which is not kept: a shared copy goes, an owned one is put back to its
home; then the queued forwards are answered. -/
def State.llcPass (s : State) (k line : Nat) (v : Line) (st : LineSt) : State :=
  if st = .S ∨ st = .SWT then (s.llcGone k line).lineReady k line v.fwds
  else v.fwds.foldl (fun s m => s.llcForward k m) ((s.putLlc k line { v with st := st, fwds := [], late := [], retryAt := none }).evict k line)

/-- Data at a requesting LLC (R380): `st` is 0 S, 1 S-WT, 2 E, 3 M with the line, 4 M without it. In IS_DI the data serve the
loads that waited for them and the line becomes I; a line read under the bypass hint is not kept either
(03_kernel_memory R76). -/
def State.llcData (s : State) (k : Nat) (m : Msg) (st : Nat) (d : BitVec 1024) (acks : Nat) : State :=
  match s.llc? k m.line with
  | none => s
  | some v =>
    let toSt : LineSt := if st = 0 then .S else if st = 1 then .SWT else if st = 2 then .E else .M
    match v.st with
    | .ISD =>
      if v.way = 99 then (s.serveLoads k m.line d).llcPass k m.line { v with data := d } toSt
      else ((s.putLlc k m.line { v with st := toSt, data := d, fwds := [], retryAt := none }).serveLoads k m.line d).lineReady k m.line v.fwds
    | .ISDI => (s.servePieces v.late m.line d false).llcPass k m.line { v with data := d } toSt
    | .IMAD =>
      (s.putLlc k m.line { v with st := .IMA, data := if st = 4 then v.data else d, own := true, acks := acks, retryAt := none }).tryM k m.line
    | .SMAD =>
      (s.putLlc k m.line { v with st := .SMA, data := if st = 4 then v.data else d, own := true, acks := acks, retryAt := none }).tryM k m.line
    | _ => s

/-- InvAck at a requesting LLC. -/
def State.llcInvAck (s : State) (k line : Nat) : State :=
  match s.llc? k line with
  | none => s
  | some v => (s.putLlc k line { v with got := v.got + 1 }).tryM k line

/-- PutAck: the line becomes I (R380). A Fwd-GetS queued in OI_A is answered with the data that the line still holds. -/
def State.llcPutAck (s : State) (k line : Nat) : State :=
  match s.llc? k line with
  | none => s
  | some v =>
    match v.st with
    | .MIA | .EIA | .OIA | .IIA =>
      let s1 := v.fwds.foldl (fun (s : State) (m : Msg) => match m.k with
        | .fwdGetS r => s.send (keyAgent k) r line (.data (if s.subbed k line then 1 else 0) v.data 0)
        | _ => s) (s.delLlc k line)
      s1.lineReady k line (v.fwds.filter (fun m => match m.k with
        | .fwdGetS _ => false
        | _ => true))
    | _ => s

/-- Retry: the request is sent again 64 clocks later (R375): a write, an atomic or a subscription that the die keeps, else
the LLC's own request for the line. -/
def State.llcRetry (s : State) (k line acc : Nat) : State :=
  let mine (p : Option Nat × Msg) : Bool := p.1.isNone && p.2.line == line && msgAcc p.2.k == some acc
  if (s.die k).again.any mine then
    s.setDie k { s.die k with again := updFirst mine (fun p => (some (s.x.clk + 64), p.2)) (s.die k).again }
  else match s.llc? k line with
    | none => s
    | some v => s.putLlc k line { v with retryAt := some (s.x.clk + 64) }

/-- The kept requests of a line leave again in order, once the 64 clocks of each are over and no later one is on its way,
so that none overtakes another (07_ordering R161). -/
def State.againGo (s : State) (k line : Nat) : State :=
  let mine := (s.die k).again.filter (fun p => p.2.line == line)
  let due := mine.all (fun p => match p.1 with
    | some t => decide (t ≤ s.x.clk)
    | none => false)
  if !due || s.fab.net.any (fun m => m.line == line && agKey m.src == k && (msgAcc m.k).isSome) then s
  else
    mine.foldl (fun (s : State) (p : Option Nat × Msg) => s.send p.2.src p.2.dst line p.2.k)
      (s.setDie k { s.die k with again := (s.die k).again.filter (fun p => p.2.line != line) })

/-- The reissue: the request that the line's state stands for. What waits at the die for a line that is not asked for
asks now. -/
def State.llcReissue (s0 : State) (k line : Nat) : State :=
  let s := s0.againGo k line
  match s.llc? k line with
  | none => (s.homeServe k line).wtServe k line
  | some v =>
    match v.retryAt with
    | none => if v.st.stable then (s.homeServe k line).wtServe k line else s
    | some t =>
      if s.x.clk < t then s
      else
        let s1 := s.putLlc k line { v with retryAt := none }
        match v.st with
        | .ISD | .ISDI => s1.request k line .getS
        | .IMAD => s1.request k line .getM
        | .SMAD => s1.request k line .upg
        | _ => s1

/-- NackWT (R380): the pending writes leave as WrThru in order, and the line becomes I. -/
def State.llcNackWT (s : State) (k line : Nat) : State :=
  match s.llc? k line with
  | none => s
  | some v =>
    let s1 := s.llcGone k line
    let s2 := ((s1.x.wtOf k).filter (fun e => e.2.line == line && !e.2.sent)).foldl (fun s e =>
      match s.x.acc? e.2.id with
      | some a => s.wtSend k e.1 e.2 a
      | none => s.wtDrop e.1 e.2) s1
    s2.lineReady k line v.fwds

/-- Lanes of an access that touch a line. -/
def Access.lanesOn (a : Access) (line : Nat) : List Nat :=
  (a.lanes.filter (fun l => !l.over && l.pa.any (fun p => lineOf p == line))).map (fun l => l.lane)

/-- The stores of an access to a line no longer wait at its die. -/
def Exec.wtCancel (x : Exec) (id line : Nat) : Exec :=
  { x with cores := x.cores.map (fun e => (e.1, { e.2 with wt := e.2.wt.filter (fun t => !(t.id == id && t.line == line)) })) }

/-- NackLost at a requester (R386): the lanes that need the line raise MEM (LOST), met after issue; a subscription
raises it as a load does (R382), and a unit's request meets the fault of code 6. -/
def State.llcNackLost (s : State) (k line acc : Nat) : State :=
  if acc ≠ 0 then
    match s.x.acc? acc with
    | some a =>
      let ls := if a.kind = .sub then a.lanes.map (fun l => l.lane) else a.lanesOn line
      ({ s with x := s.x.wtCancel acc line }).failLanes acc ls 6
    | none =>
      match s.x.req? acc with
      | none => s
      | some r =>
        let va := ((r.out.find? (fun o => o.1 == line)).map (fun o => o.2)).getD 0
        let r1 := { r with out := delFirst (fun o => o.1 == line) r.out }
        ({ s with x := s.x.setReq r1 }).deliverReq r1 6 va
  else
    let fw := ((s.llc? k line).map (fun v => v.fwds)).getD []
    let waiting := s.binders k line
    let s1 := s.llcGone k line
    let s2 := waiting.foldl (fun (s : State) (p : Nat × Nat) => match (s.x.acc? p.1).bind (fun a => a.lanes[p.2]?) with
      | some l => s.failLanes p.1 [l.lane] 6
      | none => s) s1
    let ws := ((s2.x.wtOf k).filter (fun e => e.2.line == line && !e.2.sent)).map (fun e => e.2.id)
    let s3 := ws.foldl (fun (s : State) (i : Nat) =>
      match s.x.acc? i with
      | none => s
      | some a => ({ s with x := s.x.wtCancel i line }).failLanes i (a.lanesOn line) 6) s2
    s3.lineReady k line fw

/-! ### Switch slices (R388 to R390) -/

def State.slice (s : State) (line : Nat) : SliceEnt := cget {} line s.fab.slices
def State.putSlice (s : State) (line : Nat) (e : SliceEnt) : State :=
  { s with fab := { s.fab with slices := cset line e s.fab.slices } }

/-- The governing slice of a line. -/
def sliceOf (line : Nat) : Agent := .slice (line % 24)

/-- The devices of a vector. -/
def devsOf (v : BitVec 64) : List Nat := (List.range 64).filter (fun e => v.getLsbD e)

/-- The devices to which a slice's entry lends copies: those of its vector, and its owner's. -/
def State.sliceDevs (s : State) (e : SliceEnt) : List Nat :=
  devsOf (match e.owner with
    | some o => e.sharers ||| (1#64 <<< ((s.devOf (keyAgent o)).getD 0))
    | none => e.sharers)

/-- An Inv or a BackInv of a slice for some devices goes to every working die of each, and the device's port for the slice
gathers the answers into one for `dst` (R389). -/
def State.sliceFan (s : State) (line : Nat) (devs : List Nat) (back : Bool) (dst : Agent) : State :=
  devs.foldl (fun (s : State) (e : Nat) =>
    let ds := s.devDies e
    let s1 := ds.foldl (fun (s : State) (a : Agent) =>
      s.send (sliceOf line) a line (if back then .backInv else .inv (.port e (line % 24)))) s
    { s1 with fab := { s1.fab with gathers := s1.fab.gathers ++ [{ dev := e, port := s.portFor e (line % 24), line := line, left := ds.length, back := back, dst := dst }] } }) s

/-- An answer reaches a port: with the last one the acknowledgement leaves (R389). -/
def State.portAck (s : State) (m : Msg) (dev : Nat) (back : Bool) (d : Option (BitVec 1024)) : State :=
  let p (g : Gather) : Bool := g.dev == dev && g.line == m.line && g.back == back
  match s.fab.gathers.find? p with
  | none => s
  | some g =>
    let g1 := { g with left := g.left - 1, data := d.or g.data }
    if g1.left ≠ 0 then { s with fab := { s.fab with gathers := updFirst p (fun _ => g1) s.fab.gathers } }
    else ({ s with fab := { s.fab with gathers := delFirst p s.fab.gathers } }).send m.dst g.dst m.line
      (if back then .backInvAck g1.data else .invAck)

/-- The slice recalls every remote copy (R389, R390) before it answers a message of the home, or serves on. -/
def State.sliceRecall (s : State) (line : Nat) (e : SliceEnt) (ans : Option Msg) : State :=
  let ds := s.sliceDevs e
  (s.putSlice line { e with recalls := ans, pendAcks := ds.length }).sliceFan line ds true (sliceOf line)

/-- An evicted line returns to its home (R389): a shared copy goes silently, an owned one with a Put. -/
def State.slicePut (s : State) (line : Nat) : State :=
  let e := s.slice line
  let go (q : MsgK) : State :=
    (s.putSlice line { e with evict := false, putting := true }).send (sliceOf line) (s.homeDie line) line q
  match e.st with
  | .M => go (.putM e.data)
  | .O => go (.putO e.data)
  | .E => go .putE
  | _ => s.putSlice line { waits := e.waits }

/-- Room for a line in its slice's cache of 256 MiB (R388): a victim without a request in progress is chosen by a free value
and evicted as the home does it (R375, R389); none where the request receives Retry. -/
def State.sliceRoom (s : State) (line : Nat) : Option State :=
  let same := s.fab.slices.filter (fun v => v.1 % 24 == line % 24 && v.2.st != .none)
  if same.length < Config.sliceLines then some s
  else
    let ok := same.filter (fun v => !s.lineBusy v.1)
    if ok = [] ∨ Config.evictEntries ≤ (same.filter (fun v => v.2.evict || v.2.putting)).length then none
    else
      let (f, s0) := s.freeNum
      match ok[f.toNat % ok.length]? with
      | none => none
      | some v =>
        if s.sliceDevs v.2 = [] then some (s0.slicePut v.1)
        else some (s0.sliceRecall v.1 { v.2 with evict := true } none)

/-- Retry of a slice (R389): the requester keeps a write or an atomic to reissue it. -/
def State.sliceRetry (s : State) (m : Msg) : State :=
  match msgAcc m.k with
  | none => s.send (sliceOf m.line) m.src m.line (.retry 0)
  | some a =>
    let k := agKey m.src
    (s.setDie k { s.die k with again := (s.die k).again ++ [(none, m)] }).send (sliceOf m.line) m.src m.line (.retry a)

/-- The slice asks the line's home for a copy: 1 readable, 2 writable. -/
def State.sliceAsk (s : State) (line : Nat) (e : SliceEnt) (m : Msg) (n : Nat) : State :=
  let q : MsgK := if n = 1 then .getS else if e.st = .S ∨ e.st = .O then .upg else .getM
  let go (s : State) : State :=
    (s.putSlice line { e with asked := n, acks := none, got := 0, waits := e.waits ++ [m], used := s.x.nextId }).send (sliceOf line) (s.homeDie line) line q
  if e.st = .none then (match s.sliceRoom line with
    | some s1 => go s1
    | none => s.sliceRetry m)
  else go s

/-- The slice's copy in M: E becomes M with a Mod notice to the home (R371). -/
def State.sliceDirty (s : State) (line : Nat) (e : SliceEnt) : State :=
  if e.st = .E then (s.putSlice line { e with st := .M }).send (sliceOf line) (s.homeDie line) line .mod else s

/-- A GetM or Upg at a slice that holds the line in M or E (R390): every device of the vector is invalidated, and the
ownership goes to the requester, with the line, since the vector does not say which die held it. -/
def State.sliceGrant (s : State) (m : Msg) (e : SliceEnt) (up : Bool) : State :=
  let me := sliceOf m.line
  let r := agKey m.src
  let s1 := s.sliceDirty m.line e
  let ds := devsOf e.sharers
  let s2 := (s1.putSlice m.line { s1.slice m.line with owner := some r, sharers := 0, used := s.x.nextId }).sliceFan m.line ds false m.src
  match e.owner with
  | some o =>
    if o = r then s2.send me m.src m.line (.data (if up then 4 else 3) e.data ds.length)
    else s2.send me (keyAgent o) m.line (.fwdGetM m.src ds.length)
  | none => s2.send me m.src m.line (.data 3 e.data ds.length)

/-- A write or an atomic of a remote die at a slice: it goes on to the home of a line with subscribers (R390), waits until
the slice holds the only copy, in M, and is performed there by the slice's own units. -/
def State.sliceWrite (s : State) (m : Msg) (e : SliceEnt) (f : BitVec 1024 → BitVec 1024 × Bool × MsgK) (org : Origin) : State :=
  let line := m.line
  if e.st = .SWT then s.send m.src (s.homeDie line) line m.k
  else if e.st ≠ .M ∧ e.st ≠ .E then s.sliceAsk line e m 2
  else if s.sliceDevs e ≠ [] then s.sliceRecall line { e with waits := m :: e.waits } none
  else
    let r := f e.data
    let s1 := if r.2.1 then (s.sliceDirty line e).rime org line else s
    (s1.putSlice line { s1.slice line with data := r.1, used := s.x.nextId }).send (sliceOf line) m.src line r.2.2

/-- A request of a die of another device at its slice (R388 to R390), with the same table as a home's. -/
def State.sliceReq (s : State) (m : Msg) : State :=
  let e := s.slice m.line
  let me := sliceOf m.line
  let r := agKey m.src
  let dev := (s.devOf m.src).getD 0
  let wait (f : State → State) : State :=
    if e.evict || e.putting || s.retried m then s.sliceRetry m
    else if e.busy then s.putSlice m.line { e with waits := e.waits ++ [m] }
    else f s
  let put (d : Option (BitVec 1024)) : State :=
    let s1 := if e.owner = some r then
        s.putSlice m.line { e with data := d.getD e.data, st := if d.isSome then .M else e.st, owner := none }
      else s
    s1.send me m.src m.line .putAck
  match m.k with
  | .getS =>
    wait (fun s =>
      let e1 := { e with sharers := e.sharers ||| (1#64 <<< dev), used := s.x.nextId }
      if e.st = .none then s.sliceAsk m.line e m 1
      else match e.owner with
        | some o => (s.putSlice m.line e1).send me (keyAgent o) m.line (.fwdGetS m.src)
        | none =>
          if (e.st = .M ∨ e.st = .E) ∧ e.sharers = 0 then (s.putSlice m.line { e with owner := some r, used := s.x.nextId }).send me m.src m.line (.data 2 e.data 0)
          else (s.putSlice m.line e1).send me m.src m.line (.data (if e.st = .SWT then 1 else 0) e.data 0))
  | .getM | .upg =>
    wait (fun s =>
      if e.st = .SWT then s.send me m.src m.line .nackWT
      else if e.st ≠ .M ∧ e.st ≠ .E then s.sliceAsk m.line e m 2
      else s.sliceGrant m e (m.k == .upg))
  | .putM d => put (some d)
  | .putO d => put (some d)
  | .putE => put none
  | .mod => if e.owner = some r then s.sliceDirty m.line e else s
  | .wrThru mask d acc org => wait (fun s => s.sliceWrite m e (fun old => (lineMerge old d mask, true, .wtAck acc)) org)
  | .atom acc ops org =>
    wait (fun s => s.sliceWrite m e (fun old => let q := atomRun old ops; (q.1, q.2.2 != 0, .atomRsp acc q.2.1)) org)
  | _ => s

/-- What a slice answers its home once its remote copies are gone. -/
def State.sliceAnswer (s : State) (line : Nat) (ans : Msg) : State :=
  let e := s.slice line
  let me := sliceOf line
  let own := e.st = .M ∨ e.st = .O ∨ e.st = .E
  match ans.k with
  | .fwdGetS r => (s.putSlice line { e with st := .O }).send me r line (.data (if s.subbed (s.homeKey line) line then 1 else 0) e.data 0)
  | .fwdGetM r acks => (s.putSlice line { e with st := .none }).send me r line (.data 3 e.data acks)
  | .inv r => (s.putSlice line { e with st := .none, asked := if e.asked = 1 then 3 else e.asked }).send me r line .invAck
  | .backInv => (s.putSlice line { e with st := .none }).send me ans.src line (.backInvAck (if own then some e.data else none))
  | _ => s

/-- A forward, invalidation or recall of the home at a slice: answered once the remote copies are gone. It waits for a recall
that is under way, for the data that the slice has asked for, and a BackInv for the PutAck of the slice's own Put (R380). -/
def State.sliceForward (s : State) (m : Msg) : State :=
  let e := s.slice m.line
  let own := e.st == .M || e.st == .O || e.st == .E
  let fwd := match m.k with
    | .fwdGetS _ | .fwdGetM _ _ => true
    | _ => false
  if e.pendAcks != 0 || e.evict || (e.asked != 0 && fwd && !own) || (e.putting && m.k == .backInv) then s.putSlice m.line { e with waits := e.waits ++ [m] }
  else if s.sliceDevs e = [] then s.sliceAnswer m.line m
  else s.sliceRecall m.line e (some m)

/-- What waited at a slice, served in arrival order. -/
def State.sliceServe (s : State) (line : Nat) : State :=
  let e := s.slice line
  e.waits.foldl (fun (s : State) (m : Msg) => if m.k.channel = 1 then s.sliceForward m else s.sliceReq m) (s.putSlice line { e with waits := [] })

/-- The copies of one device that the slice recalled have gone. -/
def State.sliceBackInvAck (s : State) (m : Msg) (d : Option (BitVec 1024)) : State :=
  let e := s.slice m.line
  let e1 := { e with pendAcks := e.pendAcks - 1, data := d.getD e.data, st := if d.isSome ∧ e.st = .E then .M else e.st }
  let s1 := s.putSlice m.line e1
  if e1.pendAcks ≠ 0 then s1
  else
    let s2 := s1.putSlice m.line { e1 with sharers := 0, owner := none, recalls := none }
    if e.evict then s2.slicePut m.line
    else match e.recalls with
      | some a => (s2.sliceAnswer m.line a).sliceServe m.line
      | none => s2.sliceServe m.line

/-- The slice's own request is complete once its data and acknowledgements have come. -/
def State.sliceTry (s : State) (line : Nat) : State :=
  let e := s.slice line
  if e.asked ≠ 0 ∧ e.acks = some e.got then (s.putSlice line { e with asked := 0, acks := none, got := 0 }).sliceServe line else s

/-- Data from the home, or from an owner on the line's device. A readable copy that an Inv has overtaken is not kept: the
slice asks again. -/
def State.sliceData (s : State) (m : Msg) (st : Nat) (d : BitVec 1024) (acks : Nat) : State :=
  let e := s.slice m.line
  let toSt : SliceSt := if st = 0 then .S else if st = 1 then .SWT else if st = 2 then .E else .M
  if e.asked = 3 ∧ st ≤ 1 then (s.putSlice m.line { e with st := .none, acks := some 0 }).sliceTry m.line
  else (s.putSlice m.line { e with st := toSt, data := if st = 4 then e.data else d, acks := some acks }).sliceTry m.line

/-- PutAck at a slice: the line is gone, and what waited for it is served. -/
def State.slicePutAck (s : State) (line : Nat) : State :=
  let e := s.slice line
  if e.putting then (s.putSlice line { waits := e.waits }).sliceServe line else s

/-- NackWT at a slice (R390): the requests for M are refused in turn, writes and atomics go on to the home. -/
def State.sliceNackWT (s : State) (line : Nat) : State :=
  let e := s.slice line
  let s1 := s.putSlice line { e with asked := 0, waits := [], st := if e.st = .S then .SWT else .none }
  e.waits.foldl (fun (s : State) (m : Msg) => match m.k with
    | .getM | .upg => s.send (sliceOf line) m.src line .nackWT
    | .wrThru _ _ _ _ | .atom _ _ _ => s.send m.src (s.homeDie line) line m.k
    | _ => if m.k.channel = 1 then s.sliceForward m else s.sliceReq m) s1

/-- NackLost at a slice is passed to every request that waits (R386). -/
def State.sliceNackLost (s : State) (line : Nat) : State :=
  let e := s.slice line
  e.waits.foldl (fun (s : State) (m : Msg) => match lostAnswer m.k with
    | some q => s.send (sliceOf line) m.src line q
    | none => s) (s.putSlice line {})

/-- The reissue of a slice's request after a Retry. -/
def State.sliceReissue (s : State) (line : Nat) : State :=
  let e := s.slice line
  match e.retryAt with
  | none => s
  | some t =>
    if s.x.clk < t then s
    else (s.putSlice line { e with retryAt := none }).send (sliceOf line) (s.homeDie line) line
      (if e.asked = 2 then (if e.st = .S ∨ e.st = .O then .upg else .getM) else .getS)

end Sys2Proof.Machine
end

