-- ==== Sys2Proof/Machine/Coherence.lean ====
section
/-!
DEFINITION. The meanings of the coherence messages' arrivals (17_coherence R371 to R391, 03_kernel_memory R84 to R92),
of Retry's reissue, of lost lines (R386, R387), of the host's accesses and answers (R395, R396) and of bias flips (R397,
R398). The message that arrives is the one whose number `sel` shows; a message that is not there, or that an earlier
message of its pair of dies precedes (05_tensor_mesh R129), leaves the state as it is (assumption 15).
-/

set_option linter.unusedVariables false

namespace Sys2Proof.Machine

/-! ### Arrival -/

/-- A neighbour send or reduction that was issued before a given number, and that no fence holds back, itself or an earlier one of
its workgroup to the peer, is still to be written from one die to another (05_tensor_mesh R129). -/
def State.nbrBefore (s : State) (i a b : Nat) : Bool :=
  a != b && s.x.reqs.any (fun r => r.isNbr && decide (r.id < i) && r.die == a &&
    s.x.reqs.all (fun q => !(q.isNbr && q.wg == r.wg && q.peer == r.peer && decide (q.id ≤ r.id)) || (s.x.waits q.after).isEmpty) &&
    (match r.peer.bind (fun p => s.x.wg? p) with
      | some p => p.die == b
      | none => false))

/-- A message of the number in `sel` arrives: what its receiver does, if the event is of its kind. -/
def State.arrive (s : State) (f : State → Msg → Option State) : Host.Outcome State Fault Refusal :=
  match deliverable s.sel s.fab.net with
  | none => .next s
  | some m =>
    if s.gfxBefore m.id (agKey m.src) (agKey m.dst) || s.nbrBefore m.id (agKey m.src) (agKey m.dst) then .next s
    else match f (s.take m.id) m with
      | some t => .next t
      | none => .next s

/-- A request at its home: the home die, or the governing slice. -/
def State.atHome (s : State) (m : Msg) : State := if m.dst.isSlice then s.sliceReq m else s.homeTake (agKey m.dst) m

/-- A forward or invalidation at a holder: an LLC, or a slice. -/
def State.atHolder (s : State) (m : Msg) : State := if m.dst.isSlice then s.sliceForward m else s.llcForward (agKey m.dst) m

/-- GetS at the home (R379). -/
def execGets (s : State) : Host.Outcome State Fault Refusal :=
  s.arrive (fun s m => match m.k with
    | .getS => some (s.atHome m)
    | _ => none)

/-- GetM at the home (R379). -/
def execGetm (s : State) : Host.Outcome State Fault Refusal :=
  s.arrive (fun s m => match m.k with
    | .getM => some (s.atHome m)
    | _ => none)

/-- Upg at the home (R379). -/
def execUpg (s : State) : Host.Outcome State Fault Refusal :=
  s.arrive (fun s m => match m.k with
    | .upg => some (s.atHome m)
    | _ => none)

/-- PutM at the home (R379). -/
def execPutm (s : State) : Host.Outcome State Fault Refusal :=
  s.arrive (fun s m => match m.k with
    | .putM _ => some (s.atHome m)
    | _ => none)

/-- PutO at the home (R379). -/
def execPuto (s : State) : Host.Outcome State Fault Refusal :=
  s.arrive (fun s m => match m.k with
    | .putO _ => some (s.atHome m)
    | _ => none)

/-- PutE at the home (R379). -/
def execPute (s : State) : Host.Outcome State Fault Refusal :=
  s.arrive (fun s m => match m.k with
    | .putE => some (s.atHome m)
    | _ => none)

/-- Mod at the home (R371, R374). -/
def execMod (s : State) : Host.Outcome State Fault Refusal :=
  s.arrive (fun s m => match m.k with
    | .mod => some (s.atHome m)
    | _ => none)

/-- WrThru at the home (R381). -/
def execWrthru (s : State) : Host.Outcome State Fault Refusal :=
  s.arrive (fun s m => match m.k with
    | .wrThru _ _ _ _ => some (s.atHome m)
    | _ => none)

/-- Atom at the home (R381, R254). -/
def execAtomMsg (s : State) : Host.Outcome State Fault Refusal :=
  s.arrive (fun s m => match m.k with
    | .atom _ _ _ => some (s.atHome m)
    | _ => none)

/-- Sub at the home (R382). -/
def execSub (s : State) : Host.Outcome State Fault Refusal :=
  s.arrive (fun s m => match m.k with
    | .sub _ _ _ _ _ => some (s.atHome m)
    | _ => none)

/-- Unsub at the home (R384). -/
def execUnsub (s : State) : Host.Outcome State Fault Refusal :=
  s.arrive (fun s m => match m.k with
    | .unsub _ _ _ => some (s.atHome m)
    | _ => none)

/-- PushAck at the home (R383). -/
def execPushack (s : State) : Host.Outcome State Fault Refusal :=
  s.arrive (fun s m => match m.k with
    | .pushAck _ _ => some (s.atHome m)
    | _ => none)

/-- Fwd-GetS at an owner (R379, R380). -/
def execFwdGets (s : State) : Host.Outcome State Fault Refusal :=
  s.arrive (fun s m => match m.k with
    | .fwdGetS _ => some (s.atHolder m)
    | _ => none)

/-- Fwd-GetM at an owner (R379, R380). -/
def execFwdGetm (s : State) : Host.Outcome State Fault Refusal :=
  s.arrive (fun s m => match m.k with
    | .fwdGetM _ _ => some (s.atHolder m)
    | _ => none)

/-- Inv at a sharer (R380). -/
def execInv (s : State) : Host.Outcome State Fault Refusal :=
  s.arrive (fun s m => match m.k with
    | .inv _ => some (s.atHolder m)
    | _ => none)

/-- BackInv at a holder (R375). -/
def execBackinv (s : State) : Host.Outcome State Fault Refusal :=
  s.arrive (fun s m => match m.k with
    | .backInv => some (s.atHolder m)
    | _ => none)

/-- Data at a requester (R380). -/
def execData (s : State) : Host.Outcome State Fault Refusal :=
  s.arrive (fun s m => match m.k with
    | .data st d acks => some (if m.dst.isSlice then s.sliceData m st d acks else s.llcData (agKey m.dst) m st d acks)
    | _ => none)

/-- InvAck at a requester (R380), or at a port that gathers for a slice (R389). -/
def execInvack (s : State) : Host.Outcome State Fault Refusal :=
  s.arrive (fun s m => match m.k with
    | .invAck =>
      some (match m.dst with
        | .slice _ => (s.putSlice m.line { s.slice m.line with got := (s.slice m.line).got + 1 }).sliceTry m.line
        | .port e _ => s.portAck m e false none
        | d => s.llcInvAck (agKey d) m.line)
    | _ => none)

/-- BackInvAck at the home (R375): with the last one, any data go to memory and the buffer entry is free. -/
def State.homeBackInvAck (s : State) (h line : Nat) (d : Option (BitVec 1024)) : State :=
  match (s.die h).evb.find? (fun v => v.line == line) with
  | none => s
  | some v =>
    let v1 : Evict := { v with acks := v.acks - 1, data := d.or v.data }
    if v1.acks ≠ 0 then s.setDie h { s.die h with evb := updFirst (fun u => u.line == line) (fun _ => v1) (s.die h).evb }
    else
      let s1 := s.setDie h { s.die h with evb := delFirst (fun u => u.line == line) (s.die h).evb }
      match v1.data with
      | some d => { s1 with mem := s1.mem.putLine line d }
      | none => s1

def execBackinvack (s : State) : Host.Outcome State Fault Refusal :=
  s.arrive (fun s m => match m.k with
    | .backInvAck d =>
      some (match m.dst with
        | .slice _ => s.sliceBackInvAck m d
        | .port e _ => s.portAck m e true d
        | h => s.homeBackInvAck (agKey h) m.line d)
    | _ => none)

/-- PutAck at an LLC (R380). -/
def execPutack (s : State) : Host.Outcome State Fault Refusal :=
  s.arrive (fun s m => match m.k with
    | .putAck => some (if m.dst.isSlice then s.slicePutAck m.line else s.llcPutAck (agKey m.dst) m.line)
    | _ => none)

/-- A write of a unit's request is performed at its home (03_kernel_memory R79). -/
def State.reqAck (s : State) (line : Nat) (r : Req) : State :=
  ({ s with x := s.x.setReq { r with out := delFirst (fun o => o.1 == line) r.out } }).reqSettle r.id

/-- WtAck (R381): the write is performed at pod scope; the stores behind it go on. The host's own writes end here. -/
def State.wtAck (s : State) (d line acc : Nat) : State :=
  match s.x.req? acc with
  | some r => s.reqAck line r
  | none =>
    match (s.x.wtOf d).find? (fun e => e.2.id == acc && e.2.line == line && e.2.sent) with
    | none => s
    | some e => (s.wtDrop e.1 e.2).wtServe d line

def execWtack (s : State) : Host.Outcome State Fault Refusal :=
  s.arrive (fun s m => match m.k with
    | .wtAck acc => some (s.wtAck (agKey m.dst) m.line acc)
    | _ => none)

/-- The old values of an atomic arrive (R254, R381): its lanes are performed, and its results wait for their reply. -/
def State.atomRsp (s : State) (line acc : Nat) (olds : List (Nat × BitVec 64)) : State :=
  match s.x.acc? acc with
  | none => match s.x.req? acc with
    | some r => s.reqAck line r
    | none => s
  | some a =>
    let ty := (atomKind a.ins).2
    let d := match a.ins with
      | .atom f | .red f | .cas f | .visMin f => f.d.toNat
      | _ => 0
    let hit (l : LaneAcc) : Option (BitVec 64) :=
      if l.st = .ok ∧ l.pa.any (fun p => lineOf p == line) = true then (olds.find? (fun o => o.1 == l.lane)).map (fun o => o.2) else none
    let res := if a.kind = .atomic then a.lanes.flatMap (fun l => match hit l with
      | some o => placeAtom ty d l.lane o
      | none => []) else []
    let a1 := { a with
      lanes := a.lanes.map (fun l => if (hit l).isSome then { l with st := LaneAccSt.done } else l)
      res := a.res ++ res }
    let s1 := { s with x := s.x.setAcc a1 }
    if a.kind = .reduce then s1.accSettle acc else s1

def execAtomrsp (s : State) : Host.Outcome State Fault Refusal :=
  s.arrive (fun s m => match m.k with
    | .atomRsp acc olds => some (s.atomRsp m.line acc olds)
    | _ => none)

/-- Retry at a requester (R375). -/
def execRetry (s : State) : Host.Outcome State Fault Refusal :=
  s.arrive (fun s m => match m.k with
    | .retry acc =>
      some (if m.dst.isSlice then s.putSlice m.line { s.slice m.line with retryAt := some (s.x.clk + 64) }
        else s.llcRetry (agKey m.dst) m.line acc)
    | _ => none)

/-- The reissue of a die's request for a line; numbers from 100000 name the line's slice, 200000 the host's bridge. -/
def execRetryReissue (d line : Nat) (s : State) : Host.Outcome State Fault Refusal :=
  .next (if 100000 ≤ d ∧ d < 200000 then s.sliceReissue line else s.llcReissue d line)

/-- NackWT at a requester (R380). -/
def execNackwt (s : State) : Host.Outcome State Fault Refusal :=
  s.arrive (fun s m => match m.k with
    | .nackWT => some (if m.dst.isSlice then s.sliceNackWT m.line else s.llcNackWT (agKey m.dst) m.line)
    | _ => none)

/-- NackLost at a requester (R386). -/
def execNacklost (s : State) : Host.Outcome State Fault Refusal :=
  s.arrive (fun s m => match m.k with
    | .nackLost acc => some (match m.dst with
      | .core d c => if acc = 0 then s.slotLost d c m.line else s.llcNackLost d m.line acc
      | _ => if m.dst.isSlice then s.sliceNackLost m.line else s.llcNackLost (agKey m.dst) m.line acc)
    | _ => none)

/-! ### Standing loads at the core (R85 to R92) -/

/-- A push lands in its slot (R86, R87): image and header together. A slot that is gone, or LOST, takes none, nor does one
subscribed to another line (R82); the core answers PushAck in every case. -/
def State.pushLand (s : State) (d c : Nat) (m : Msg) (idx : Nat) (img : BitVec 1024) (seq : Word) (folded : Nat) : State :=
  let k := s.x.core d c
  let s1 := match cfind idx k.stand with
    | none => s
    | some e =>
      match s.x.wg? e.wg with
      | none => s
      | some w =>
        if e.lost || e.line != m.line || e.st == StandSt.pending then s
        else
          let e1 := { e with seq := seq, folded := folded, overrun := e.overrun || (e.every && folded != 0) }
          let x := (s.x.setCore d c { k with stand := cset idx e1 k.stand }).setWg { w with scratch := w.scratch.putNum e.slot 128 img.toNat }
          { s with x := x.standWake }
  s1.send m.dst m.src m.line (.pushAck c idx)

def execPush (s : State) : Host.Outcome State Fault Refusal :=
  s.arrive (fun s m => match m.k, m.dst with
    | .push idx img seq folded, .core d c => some (s.pushLand d c m idx img seq folded)
    | _, _ => none)

/-- UnsubAck (R384, R91): the drop's token completes and the standing-table entry is free. -/
def State.unsubbed (s : State) (d c idx req : Nat) : State :=
  let k := s.x.core d c
  let saved := match cfind idx k.stand with
    | none => []
    | some e => match s.x.wg? e.wg with
      | some w => if w.st = .frozen ∧ ((s.x.req? req).bind (fun r => r.tok)) = none then [e] else []
      | none => []
  let s1 := { s with x := s.x.setCore d c { k with stand := cdel idx k.stand }, sch := { s.sch with slots := s.sch.slots ++ saved } }
  match s1.x.req? req with
  | none => s1
  | some r =>
    let x := s1.x.delReq req
    match x.wg? r.wg, r.tok with
    | some w, some q => { s1 with x := (x.setWg (w.tokDown q)).standWake }
    | _, _ => { s1 with x := x.standWake }

def execUnsuback (s : State) : Host.Outcome State Fault Refusal :=
  s.arrive (fun s m => match m.k, m.dst with
    | .unsubAck idx req, .core d c => some (s.unsubbed d c idx req)
    | _, _ => none)

/-- The sequence number of the initial push, which follows its SubRsp on the same route (R85, R384). -/
def State.firstSeq (s : State) (d c idx line : Nat) : Word :=
  (s.fab.net.findSome? (fun m => match m.k with
    | .push i _ seq _ => if i = idx ∧ m.line = line ∧ m.dst = .core d c then some seq else none
    | _ => none)).getD 0

/-- SubRsp (R84): with OK the header's SEQ is the initial push's number (R86). A subscription made again at a resume has no access: OK sets RESYNC, a refusal LOST (19_traps R425). -/
def execSubrsp (s : State) : Host.Outcome State Fault Refusal :=
  s.arrive (fun s m => match m.k, m.dst with
    | .subRsp idx acc status, .core d c =>
      if (s.x.acc? acc).isSome then some (s.subStatus acc status (s.firstSeq d c idx m.line))
      else
        let k := s.x.core d c
        let ok := status == 0
        some { s with x := ((s.x.setCore d c { k with stand := k.stand.map (fun e => if e.1 = idx then (e.1, { e.2 with lost := e.2.lost || !ok, resync := e.2.resync || ok }) else e) })).standWake }
    | _, _ => none)

/-- PushLost (R384, R92). -/
def execPushlost (s : State) : Host.Outcome State Fault Refusal :=
  s.arrive (fun s m => match m.k, m.dst with
    | .pushLost idx, .core d c =>
      let k := s.x.core d c
      some { s with x := ((s.x.setCore d c { k with stand := k.stand.map (fun e => if e.1 = idx then (e.1, { e.2 with lost := true }) else e) })).standWake }
    | _, _ => none)

/-! ### Lost lines (R386, R387) -/

/-- A write to RECLAIM_CTL (R387): DONE and NOTLOST are w1c, LINE is rw, GO reclaims the line in one step. -/
def State.reclaim (s : State) (d v : Nat) : Host.Outcome State Fault Refusal :=
  let k := s.die d
  if !s.pkg.ready || !s.working d then .next s else
  let x := BitVec.ofNat 64 v
  let line := bits x 7 39
  let k1 := { k with recDone := k.recDone && !bit x 62, recNot := k.recNot && !bit x 61, recLine := line }
  let s1 := s.setDie d k1
  if !bit x 0 then .next s1
  else
    let l := s.pkg.dev * 2 ^ 39 + line
    if s.isLost d l ∧ line / 2 ^ 33 = d then
      let k2 := { k1 with dir := cdel l k1.dir, lostArea := k1.lostArea.filter (fun n => n != l), recDone := true }
      .next { s1.setDie d k2 with mem := s1.mem.putLine l 0 }
    else .next (s1.setDie d { k1 with recNot := true })

/-- LINE_RECLAIM. -/
def execLineReclaim (d v : Nat) (s : State) : Host.Outcome State Fault Refusal := s.reclaim d v

/-- What the host has read of a register: the entry of `reads` at 2^60 plus the register's offset (R349). -/
def State.regReadLog (s : State) (off : Nat) (v : DWord) : State :=
  { s with fab := { s.fab with reads := s.fab.reads ++ [(2 ^ 60 + off, v.setWidth 512)] } }

/-- A read of LOST_CNT returns the count and clears it (R387); the block of a die that is not mapped in reads zero (R354). -/
def execLostCntRead (d : Nat) (s : State) : Host.Outcome State Fault Refusal :=
  let off := 0x200000 + 65536 * d + 0x30
  if !s.working d then .next (s.regReadLog off 0)
  else .next ((s.setDie d { s.die d with lostCnt := 0 }).regReadLog off (BitVec.ofNat 64 (s.die d).lostCnt))

/-! ### The host (R395, R396) -/

/-- A host read of 64 bytes of device memory (R396): the home's current value, after every host write that reached the
home before it. On a page flipping to host the line's copies are recalled first (R398). -/
def execHostMemrd (pa : Nat) (s : State) : Host.Outcome State Fault Refusal :=
  let line := lineOf pa
  let h := s.homeKey line
  if !s.paExists pa then .next s
  else if s.fab.net.any (fun m => m.line == line && m.src == .host) || (s.die h).waitq.any (fun m => m.line == line && m.src == .host) then .next s
  else
    let flip := h < 64 ∧ s.bias h line = 2 ∧ (s.die h).flipHost
    if flip ∧ s.lineMoves line = true then .next s
    else
      let s1 := if flip then s.recallLine line else s
      let v := BitVec.ofNat 512 (s1.freshNum (pa / 64 * 64) 64)
      .next { s1 with fab := { s1.fab with reads := s1.fab.reads ++ [(pa / 64 * 64, v)] } }

/-- The home of an address of this device is mapped in (R385). -/
def State.homeUp (s : State) (pa : Nat) : Bool :=
  match s.homeDie (lineOf pa) with
  | .die h => s.working h
  | _ => true

/-- A host write of n bytes of one line (R396): a WrThru from an agent outside the package. -/
def execHostMemwr (pa n v : Nat) (s : State) : Host.Outcome State Fault Refusal :=
  if !s.paExists pa ∨ 128 < pa % 128 + n ∨ s.homeUp pa = false then .next s
  else
    let b := maskData ((regsFrom pa n).zip (natLe n v))
    .next (s.send .host (s.homeDie (lineOf pa)) (lineOf pa) (.wrThru b.1 b.2 0 {}))

/-- The host answers a back-invalidate snoop (R396): `dirty` is 0, or one more than the line's dirty data, which reach
the home first as a write by the host. -/
def execBirsp (d line dirty : Nat) (s : State) : Host.Outcome State Fault Refusal :=
  let k := s.die d
  if !k.snoops.contains (2 * line) then .next s
  else
    let s1 := if dirty = 0 then s
      else
        let new := BitVec.ofNat 1024 (dirty - 1)
        ({ s with mem := s.mem.putLine line new }).pushStore d line new
    let flip := s.bias d line = 2
    let left := (s1.die d).snoops.filter (fun n => n != 2 * line)
    let s2 := s1.setDie d { s1.die d with snoops := if flip then left else left ++ [2 * line + 1] }
    .next (if flip then s2 else s2.heldServe d (fun l => l == line))

/-- The host completes a request of the host agent (R395): a read takes the data v from host memory, a write-through is
performed, and an atomic is performed on the data v that the agent obtained with ownership and written back at once. -/
def execHostCacheCompletion (i v : Nat) (s : State) : Host.Outcome State Fault Refusal :=
  match s.fab.hostReqs.find? (fun m => m.id == i) with
  | none => .next s
  | some m =>
    let before := s.fab.hostReqs.takeWhile (fun n => n.id != i)
    if before.any (fun n => n.line == m.line && n.src == m.src) then .next s
    else
      let s0 := { s with fab := { s.fab with hostReqs := s.fab.hostReqs.filter (fun n => n.id != i) } }
      let l := m.line - 2 ^ 45
      let put (d : BitVec 1024) (s : State) : State := { s with host := s.host.putLine l d }
      match m.k with
      | .getS => .next ((put (BitVec.ofNat 1024 v) s0).serveLoads (agKey m.src) m.line (BitVec.ofNat 1024 v))
      | .wrThru mask d acc org => .next (((put (lineMerge (s0.host.line l) d mask) s0).rime org m.line).wtAck (agKey m.src) m.line acc)
      | .atom acc ops org =>
        let r := atomRun (BitVec.ofNat 1024 v) ops
        let s1 := put r.1 s0
        .next ((if r.2.2 = 0 then s1 else s1.rime org m.line).atomRsp m.line acc r.2.1)
      | _ => .next s0

/-! ### Bias flips (R397, R398) -/


/-- The bias bits of a page of a die's stack set. -/
def State.setBias (s : State) (d page v : Nat) : State :=
  let a := s.pkg.dev * 2 ^ 46 + bits (s.die d).biasBase 12 34 * 4096 + page / 4
  let old := (s.freshByte a).toNat
  let sh := 4 ^ (page % 4)
  s.poke a [BitVec.ofNat 8 (old - old / sh % 4 * sh + v * sh)]

/-- The 32 lines of a page of a die's stack. -/
def State.pageLines (s : State) (d page : Nat) : List Nat :=
  (List.range 32).map (fun i => s.pkg.dev * 2 ^ 39 + d * 2 ^ 33 + page * 32 + i)

/-- A write to BIAS_CMD (R397). -/
def State.biasCmd (s : State) (d v : Nat) : Host.Outcome State Fault Refusal :=
  if !s.pkg.ready || !s.working d then .next s else
  let x := BitVec.ofNat 64 v
  let k := s.die d
  let k1 := { k with biasReject := k.biasReject && !bit x 62 }
  let page := bits x 12 34
  let host := bit x 1
  if k.biasBusy then .next (s.setDie d { k1 with biasReject := k1.biasReject || bit x 0, biasPage := page, biasTarget := host })
  else
    let k2 := { k1 with biasPage := page, biasTarget := host }
    let s1 := s.setDie d k2
    let p := page % 2 ^ 24
    let cur := s.bias d ((s.pageLines d p).headD 0)
    if !bit x 0 then .next s1
    else if cur = (if host then 1 else 0) then .next (s1.setDie d { k2 with biasReject := true })
    else
      let snoops := if host then [] else (s.pageLines d p).map (fun l => 2 * l)
      .next ((s1.setDie d { k2 with biasBusy := true, flipPage := page, flipHost := host, snoops := k2.snoops ++ snoops.filter (fun n => !k2.snoops.contains n) }).setBias d p 2)

/-- BIAS_FLIP. -/
def execBiasFlip (d v : Nat) (s : State) : Host.Outcome State Fault Refusal := s.biasCmd d v

/-- The last BIRsp or recall arrives: the page takes its target bias and the held requests are served (R397, R398). -/
def execBiasFlipComplete (d : Nat) (s : State) : Host.Outcome State Fault Refusal :=
  let k := s.die d
  let p := k.flipPage % 2 ^ 24
  let ls := s.pageLines d p
  if !k.biasBusy then .next s
  else if ls.any (fun l => k.snoops.contains (2 * l) || (k.flipHost && s.lineMoves l)) then .next s
  else
    let s1 := if k.flipHost then ls.foldl (fun s l => s.recallLine l) s else s
    let s2 := (s1.setDie d { s1.die d with biasBusy := false }).setBias d p (if k.flipHost then 1 else 0)
    .next (s2.heldServe d (fun l => ls.contains l))

end Sys2Proof.Machine
end

