-- ==== Sys2Proof/Machine/MemPath.lean ====
section
/-!
DEFINITION. The memory path of a core (07_ordering R160 to R167, 10_isa R247 to R254, R297, R298): binding loads,
performing held scratchpad accesses, sending atomics to their homes, the store queue's way to the L1, and the replies
that write registers.
-/

set_option linter.unusedVariables false

namespace Sys2Proof.Machine

/-! ### The store queue (R163) -/

/-- A store of which every lane is translated, faulting, or waits behind a logged access of its group (R164), whose
predecessors are performed, and which stands behind no older read of its threads: it may enter its group's queue. -/
def Exec.mayEnter (x : Exec) (a : Access) : Bool :=
  a.lanes.all (fun l => l.st != .wait || x.inLog a l) && (x.waits a.after).isEmpty &&
  !a.lanes.any (fun l => l.st == .ok && !l.inq && x.olderMeets a l olderRead)

/-- The stores of a group that have not entered its queue with every translated lane, oldest first. -/
def Exec.notQueued (x : Exec) (wi gi : Nat) : List Access :=
  sortAcc (x.accs.filter (fun a => a.wg == wi && a.grp == gi && a.kind.isStore && !a.inScratch &&
    a.lanes.any (fun l => (l.st == .ok && !l.inq) || (l.st == .wait && !x.inLog a l))))

/-- The stores of a group enter its queue in issue order, each as one entry, as far as they may (R163). -/
def Exec.enqueue (x : Exec) (wi gi : Nat) : Exec :=
  ((x.notQueued wi gi).foldl (fun (p : Exec × Bool) a =>
    if p.2 && p.1.mayEnter a then (p.1.setAcc { a with lanes := a.lanes.map (fun l => if l.st = .ok then { l with inq := true } else l) }, true)
    else (p.1, false)) (x, true)).1

/-- The oldest entry of a group's queue with lanes that have not reached the L1. -/
def Exec.storeNext (x : Exec) (wi gi : Nat) : Option Access :=
  minBy (fun a => a.at_) (x.accs.filter (fun a => a.wg == wi && a.grp == gi && a.kind.isStore && a.lanes.any (fun l => l.inq && !l.l1)))

/-- The lanes of a group's oldest entry reach the L1 together, and go on to the LLC (R163, R371, R372). A copy of a line in
the L1 is updated; a store allocates none. -/
def State.storeGo (s : State) (w : Wg) (a : Access) : State :=
  let go := a.lanes.filter (fun l => l.inq && !l.l1)
  let bad := go.filter (fun l => l.pa.any s.pchBad)
  if bad ≠ [] then s.failLanes a.id (bad.map (fun l => l.lane)) 13
  else
    let lines := linesOf (go.flatMap (fun l => l.pa.map (fun p => (p, 0))))
    let ents := lines.map (fun n =>
      ({ id := a.id, line := n, lanes := maskOf ((go.filter (fun l => l.pa.any (fun p => lineOf p == n))).map (fun l => l.lane)) } : WtEnt))
    let a1 := { a with lanes := a.lanes.map (fun l => if go.contains l then { l with l1 := true } else l) }
    let k := s.x.core w.die w.core
    let k1 := lines.foldl (fun (k : Core) n => if k.l1.any (fun t => t.line == n) then k.l1Touch n a.hint s.x.nextId else k) { k with wt := k.wt ++ ents }
    lines.foldl (fun s n => s.wtServe w.die n) { s with x := (s.x.setCore w.die w.core k1).setAcc a1 }

/-- STORE_REACHES_L1 (R163): the stores of the group that may do so enter its queue, and its oldest entry reaches the L1. -/
def execStoreReachesL1 (wi gi : Nat) (s : State) : Host.Outcome State Fault Refusal :=
  let s1 := { s with x := s.x.enqueue wi gi }
  match s1.x.wg? wi, s1.x.storeNext wi gi with
  | some w, some a => .next (s1.storeGo w a)
  | _, _ => .next s1

/-! ### Binding loads (R160 to R163, 10_isa R247) -/

/-- The data of a line that its die's LLC holds for a load. -/
def State.lineFor (s : State) (d line : Nat) : Option (BitVec 1024) :=
  match s.llc? d line with
  | some v => if v.st.stable || v.st == .SMAD then some v.data else none
  | none => none

/-- A missing line asked for: at the host agent, or by the die's LLC. -/
def State.wantLine (s : State) (d line hint : Nat) (rt : Bool) : State :=
  if isHost (128 * line) then
    if s.fab.hostReqs.any (fun m => m.line == line && m.src == .die d && m.k == .getS) then s
    else s.writeOut d line .getS
  else s.want d line false hint rt

/-- One lane of a load: its bytes in each line that its LLC holds are bound, and the other lines are asked for. All of the
lane's bytes in one line are bound in one event, aligned or not: where such an access tears is open (07_ordering R171;
DESIGN CHOICE, assumption 109). -/
def State.bindLane (s : State) (id k : Nat) : State :=
  match s.x.acc? id with
  | none => s
  | some a =>
    match s.x.wg? a.wg, a.lanes[k]? with
    | some w, some l =>
      if l.st ≠ .ok then s
      else if l.pa.any s.pchBad then s.failLanes id [l.lane] 13
      else
        (linesOf (l.pa.map (fun p => (p, 0)))).foldl (fun (s : State) line =>
          match (s.x.acc? id).bind (fun b => b.lanes[k]?) with
          | none => s
          | some l1 =>
            if !s.mayBind w a l1 line then s
            else match s.lineFor w.die line with
              | some d => (s.bindPiece id k line d true).loadTouch id line
              | none => s.wantLine w.die line a.hint (l.rt.contains line)) s
    | _, _ => s

/-- Every lane of a load as far as it goes. -/
def State.bindLanes (s : State) (id : Nat) : State :=
  let n := ((s.x.acc? id).map (fun a => a.lanes.length)).getD 0
  (List.range n).foldl (fun s k => s.bindLane id k) s

/-! ### Atomics (R253, R254, R381) -/

/-- The operation of a lane. -/
def laneOp (a : Access) (l : LaneAcc) : AtomOp :=
  let k := atomKind a.ins
  let v := atomArgs (a.width == 8) l.ops
  { lane := l.lane, pa := (l.pa.headD 0), width := a.width, op := k.1, ty := k.2, a := v.1, b := v.2 }

/-- The lanes of an atomic that still wait to be sent for a line: they go to its home together, so that the operations of one
instruction on one unit are performed in lane order with none between them (R254). None while one of them waits for its
translation or stands behind an older access of its thread (R161). -/
def State.atomLanes (s : State) (a : Access) (line : Nat) : List LaneAcc :=
  let ls := a.lanes.filter (fun l => l.st == .ok && !l.l1 && lineOf (l.pa.headD 0) == line)
  if ls.any (fun l => s.x.olderMeets a l olderAny) then [] else ls

/-- The lanes of an atomic sent to their homes line by line with its hint; a host line's go to the host agent (R395). -/
def State.atomSend (s : State) (id : Nat) : State :=
  match s.x.acc? id with
  | none => s
  | some a =>
    match s.x.wg? a.wg with
    | none => s
    | some w =>
      if a.lanes.any (fun l => l.st == .wait && !s.x.inLog a l) then s
      else
        let lines := linesOf ((a.lanes.filter (fun l => l.st == .ok && !l.l1)).map (fun l => (l.pa.headD 0, 0)))
        let go := lines.flatMap (s.atomLanes a)
        let bad := go.filter (fun l => l.pa.any s.pchBad)
        if bad ≠ [] then s.failLanes id (bad.map (fun l => l.lane)) 13
        else
          let a1 := { a with lanes := a.lanes.map (fun l => if go.contains l then { l with l1 := true } else l) }
          lines.foldl (fun (s1 : State) line =>
            match s.atomLanes a line with
            | [] => s1
            | ls => s1.writeOut w.die line (.atom id (ls.map (laneOp a)) (s.x.originOf a (maskOf (ls.map (fun l => l.lane))) line 1)))
            { s with x := s.x.setAcc a1 }

/-! ### Scratchpad accesses held behind a fence -/

/-- A held access of the scratchpad, of a slot or of the accumulator performed, in issue order among those of its
group (R163, 03_kernel_memory R61). -/
def State.heldGo (s : State) (id : Nat) : State :=
  match s.x.acc? id with
  | none => s
  | some a =>
    match s.x.wg? a.wg with
    | none => s
    | some w =>
      let older := s.x.accs.any (fun b => b.wg == a.wg && b.grp == a.grp && decide (b.id < a.id) && b.onScratch)
      let ls := a.lanes.map (fun l => l.lane)
      let done (s : State) (rs : List RegWr) : State :=
        match s.x.acc? id with
        | none => s
        | some b => { s with x := s.x.setAcc { b with kind := if b.kind = .store then .store else .reply, res := rs, lanes := if b.kind = .store then b.lanes.map (fun l => { l with st := .done }) else [] } }
      if older ∨ s.x.waits a.after ≠ [] then s
      else match a.ins with
        | .lds _ | .sts _ | .atoms _ =>
          let r := scratchLanes a.ins w.scratch a.lanes
          let s1 := done (s.putWg { w with scratch := r.1 }) r.2
          if a.kind = .store then s1.accSettle id else s1
        | .stkPush _ | .stkPop _ => s.stkPerform id
        | .accRead f => let b := s.freeNum; done b.2 (accReadRes f w (s.x.core w.die w.core) a.aux ls b.1)
        | _ => let r := s.standPerform w a.ins a.aux ls; done r.1 r.2

/-- An access that goes by the scratchpad, a slot or the accumulator, and not by memory. -/
def Access.held (a : Access) : Bool :=
  a.inScratch || (match a.ins with
    | .accRead _ | .standRead _ | .standSeq _ => true
    | _ => false)

/-! ### The reply (R48) -/

/-- The results that have come are written; the access ends once every lane is over. -/
def State.replyGo (s : State) (id : Nat) : State :=
  match s.x.acc? id with
  | none => s
  | some a =>
    let wait := a.kind == .refill && !a.lanes.all (fun l => l.over)
    let rs := if wait then [] else a.res
    let m := if wait then 0 else if a.lanes = [] then 0xFFFFFFFF else maskOf ((a.lanes.filter (fun l => l.over)).map (fun l => l.lane))
    let s1 := { s with x := s.x.setAcc { a with res := if wait then a.res else [] } }
    (s1.putResults a.wg a.grp id rs m).accSettle id

/-- LOAD_REPLY (R247, R48, R30): an access goes as far as it can: its held part is performed, its lanes are bound or
sent to their homes, and the results that have come are written. -/
def execLoadReply (id : Nat) (s : State) : Host.Outcome State Fault Refusal :=
  match s.x.acc? id with
  | none => .next s
  | some a =>
    if a.kind = .reply then .next (s.replyGo id)
    else if a.held then .next ((s.heldGo id).replyGo id)
    else if a.kind = .sub then .next (s.subGo id)
    else if s.x.waits a.after ≠ [] then .next s
    else
      let s1 := { s with x := s.x.enqueue a.wg a.grp }
      match a.kind with
      | .load | .refill => .next ((s1.bindLanes id).replyGo id)
      | .atomic => .next ((s1.atomSend id).replyGo id)
      | .reduce => .next (s1.atomSend id)
      | _ => .next s1

end Sys2Proof.Machine
end

