-- ==== Sys2Proof/Machine/Paging.lean ====
section
/-!
DEFINITION. Walks, first-touch binds, collapses of replicated pages, fault answers, the Rime log's entries (16_translation
R359 to R369, 05_tensor_mesh R137, R138, 19_traps R412 to R414, 21_bringup R438).
-/

set_option linter.unusedVariables false

namespace Sys2Proof.Machine

/-! ### Walks (R359, R367) -/

/-- The first lane of an access that waits for a page, with the address to walk or to collapse. -/
def State.walkLane (s : State) (a : Access) (w : Wg) : Option (Nat × LaneX) :=
  (List.range a.lanes.length).findSome? (fun k =>
    match a.lanes[k]? with
    | some l =>
      if l.st ≠ .wait ∨ s.x.blocked a l = true then none
      else match s.rangeX w a.kind.writes (a.kind == .fetch) l.va a.width with
        | .walk va => some (k, .walk va)
        | .collapse va => some (k, .collapse va)
        | _ => none
    | none => none)

/-- An access translated as far as it goes after a change of the cached translations. -/
def State.retry (s : State) (id : Nat) : State := (s.accTry id).fetchSettle id

/-- A walk that meets a fault: every lane of the access that waits for the page meets it together (R411). -/
def State.pageFault (s : State) (w : Wg) (id code : Nat) (va : DWord) : State :=
  let n := ((s.x.acc? id).map (fun a => a.lanes.length)).getD 0
  (List.range n).foldl (fun s k =>
    match s.x.acc? id with
    | none => s
    | some a =>
      match a.lanes[k]? with
      | none => s
      | some l =>
        if l.st ≠ .wait ∨ s.x.blocked a l = true then s
        else match s.rangeX w a.kind.writes (a.kind == .fetch) l.va a.width with
          | .walk v => if pageOf v = pageOf va then s.accFault w a k code v else s
          | _ => s) s

/-- PAGE_WALK: the access of the number in `sel` has its next page walked in its die's replica (R359, R364, R367). An
access whose pages are cached, and which waited only for an older access of its group, is translated (R411). -/
def execPageWalk (s : State) : Host.Outcome State Fault Refusal :=
  match s.x.acc? s.sel with
  | none => .next s
  | some a =>
    match s.x.wg? a.wg with
    | none => .next s
    | some w =>
      match s.walkLane a w with
      | some (k, .walk va) =>
        match s.walk w.die w.asid va with
        | .notMapped => .next ((s.pageFault w a.id 1 va).retry a.id)
        | .bind _ _ => .next s
        | .ok e =>
          match xlateLeaf e va a.kind.writes (a.kind == .fetch) with
          | .fault c => .next ((s.pageFault w a.id c va).retry a.id)
          | _ => .next ((s.cache w.die w.core e).retry a.id)
      | _ => .next (s.retry a.id)

/-! ### Replicas (R364, R366) -/

/-- The leaf of a die's replica. -/
def State.leafPte (s : State) (d asid : Nat) (va : DWord) : DWord :=
  match s.leafOf d asid va with
  | some (pa, _) => BitVec.ofNat 64 (s.freshNum pa 8)
  | none => 0

/-- Cached translations dropped on every core and die (R366, R367). -/
def State.shoot (s : State) (p : Tlb → Bool) : State :=
  { s with
    x := { s.x with cores := s.x.cores.map (fun e => (e.1, { e.2 with tlb := e.2.tlb.filter (fun t => !p t) })) }
    fab := { s.fab with dies := s.fab.dies.map (fun e => (e.1, { e.2 with tlb := e.2.tlb.filter (fun t => !p t) })) } }

/-- The cached translations of a context that cover an address. -/
def Tlb.covers (asid : Nat) (va : DWord) (t : Tlb) : Bool := t.asid == asid && t.vpn == va57 va / 2 ^ t.size

/-! ### First-touch binds (R361 to R363) -/

/-- FIRST_TOUCH_BIND: the page that the access of the number in `sel` waits for is bound (R361), and the access is
replayed; an empty pool is a fault for the driver. -/
def execFirstTouchBind (s : State) : Host.Outcome State Fault Refusal :=
  match s.x.acc? s.sel with
  | some a =>
    match s.x.wg? a.wg with
    | none => .next s
    | some w =>
      match s.walkLane a w with
      | some (k, .walk va) =>
        match s.walk w.die w.asid va with
        | .bind size e =>
          match s.bindPage w.die w.asid va size e with
          | some s1 => .next (s1.retry a.id)
          | none => .next ((s.pageFault w a.id 12 va).retry a.id)
        | _ => .next s
      | _ => .next s
  | none => .next s

/-! ### Replicated pages (05_tensor_mesh R137, R138) -/

/-- The home and the home frame of a replicated page, and its copy frames on the other dies. -/
def State.replOf (s : State) (asid : Nat) (va : DWord) : Nat × Nat × List (Nat × Nat) :=
  let home := pteHome (s.leafPte s.ctlDie asid va)
  let frames := s.dieOrder.map (fun d => (d, pteFrame (s.leafPte d asid va)))
  let hf := ((frames.find? (fun f => f.1 == home)).map (fun f => f.2)).getD 0
  (home, hf, frames.filter (fun f => f.2 != hf))

/-- Whether a translated access still has to be performed on a page (R366). -/
def State.pageUsed (s : State) (frame size : Nat) : Bool :=
  s.x.accs.any (fun a => a.lanes.any (fun l => l.st == .ok && l.pa.any (fun p => decide (frame ≤ p ∧ p < frame + 2 ^ size))))

/-- The lines of a frame. -/
def frameLines (frame size : Nat) : List Nat := (List.range (2 ^ size / 128)).map (fun i => frame / 128 + i)

/-- Whether anything is under way in a range of physical addresses. -/
def State.rangeBusy (s : State) (pa n : Nat) : Bool :=
  let inR (line : Nat) : Bool := decide (pa ≤ 128 * line ∧ 128 * line < pa + n)
  s.fab.net.any (fun m => inR m.line) ||
  s.fab.dies.any (fun e => e.2.llc.any (fun v => inR v.1 && !v.2.st.stable) || e.2.waitq.any (fun m => inR m.line) || e.2.evb.any (fun v => inR v.line)) ||
  s.fab.slices.any (fun e => inR e.1 && (e.2.asked != 0 || e.2.pendAcks != 0 || e.2.waits != []))

/-- The lines in a range that any cache holds. -/
def State.rangeLines (s : State) (pa n : Nat) : List Nat :=
  s.fab.dies.foldl (fun t e => (e.2.llc.filter (fun v => decide (pa ≤ 128 * v.1 ∧ 128 * v.1 < pa + n))).foldl (fun t v =>
    if t.contains v.1 then t else t ++ [v.1]) t) []

/-- A frame given back to its die's pool of 4 KiB frames. -/
def State.poolGive (s : State) (d frame : Nat) : State :=
  let k := s.die d
  let (base, lg, head, tail) := k.pool 12
  if lg = 0 then s
  else (s.setDie d { k with fpq4Tail := (tail + 1) % 2 ^ 32 }).poke (s.pkg.dev * 2 ^ 46 + base % 2 ^ 46 + 8 * (tail % 2 ^ lg)) (natLe 8 frame)

/-- A page becomes homed on its home (R137 steps 1 and 2): every copy frame is invalidated, every replica rewritten,
the copies return to their pools, and a REPL_COLLAPSE record goes to the home's ring. None while an access translated
through the replicas is still to be performed, or a line of a copy is in transit. -/
def State.collapsePage (s : State) (asid : Nat) (va : DWord) (size : Nat) : Option State :=
  let (home, hf, copies) := s.replOf asid va
  if copies.any (fun c => s.pageUsed c.2 size || s.rangeBusy c.2 (2 ^ size)) then none
  else
    let s1 := copies.foldl (fun s c => (s.rangeLines c.2 (2 ^ size)).foldl (fun s l => s.recallLine l) s) s
    let s2 := (s1.setLeaf asid va (fun _ old => ptePlace old home hf 1)).shoot (Tlb.covers asid va)
    let s3 := if size = 12 then copies.foldl (fun s c => s.poolGive c.1 c.2) s2 else s2
    some (s3.post { ring := dieRing home, body := recBody stREPL_COLLAPSE 0 0 1 home 0 (BitVec.ofNat 64 (pageOf va * 4096)) })

/-- REPL_COLLAPSE: a write of the access of the number in `sel` reaches the home of a replicated page, which holds the
page's writes from now on (R137). -/
def execReplCollapse (s : State) : Host.Outcome State Fault Refusal :=
  match s.x.acc? s.sel with
  | none => .next s
  | some a =>
    match s.x.wg? a.wg with
    | none => .next s
    | some w =>
      match s.walkLane a w with
      | some (_, .collapse va) =>
        if s.tue.collapse.any (fun c => c.asid == w.asid && c.va == pageOf va) then .next s
        else
          let home := (s.replOf w.asid va).1
          .next { s with tue := { s.tue with collapse := s.tue.collapse ++ [{ asid := w.asid, va := pageOf va, home := home, acc := a.id }] } }
      | _ => .next s

/-- REPL_COLLAPSE_COMPLETE: the oldest collapse ends once every replica is invalidated; the held writes go on. -/
def execReplCollapseComplete (s : State) : Host.Outcome State Fault Refusal :=
  match s.tue.collapse with
  | [] => .next s
  | c :: rest =>
    let va := sext64 57 (c.va * 4096)
    let size := match s.walk c.home c.asid va with
      | .ok e => e.size
      | _ => 12
    match s.collapsePage c.asid va size with
    | none => .next s
    | some s1 =>
      let s2 := { s1 with tue := { s1.tue with collapse := rest } }
      .next ((s2.x.accs.filter (fun a => a.lanes.any (fun l => l.st == .wait))).foldl (fun s a => s.accTry a.id) s2)

/-- A collapse of the replicated page of an address started (05_tensor_mesh R137). -/
def State.collapseFor (s : State) (asid : Nat) (va : DWord) (id : Nat) : State :=
  if s.tue.collapse.any (fun c => c.asid == asid && c.va == pageOf va) then s
  else { s with tue := { s.tue with collapse := s.tue.collapse ++ [{ asid := asid, va := pageOf va, home := (s.replOf asid va).1, acc := id }] } }

/-! ### Accesses of the graphics units of a die -/

/-- What translating an address gives an engine of a die: a physical address, a fault, or nothing until a collapse is done. -/
inductive UnitX where
  | ok (pa : Nat)
  | fault (code : Nat)
  | wait
  deriving DecidableEq, Repr

/-- A unit's access translated by a walk of its die's replica, a first-touch page bound and a replicated page that it
writes collapsed (16_translation R359 to R361). `id` names the access. -/
def State.unitX (s : State) (d asid : Nat) (va : DWord) (write : Bool) (id : Nat) : State × UnitX :=
  let leaf (s : State) (e : Tlb) : State × UnitX :=
    match xlateLeaf e va write false with
    | .ok e pa =>
      if write && ptePlc e.pte == 3 then (s.collapseFor asid va id, .wait) else (s, .ok ((if pteLoc e.pte then hostBase else 0) + pa))
    | .fault c => (s, .fault c)
    | .bind => (s, .fault 1)
  if !canonicalVa va then (s, .fault 4)
  else match s.walk d asid va with
    | .ok e => leaf s e
    | .notMapped => (s, .fault 1)
    | .bind size e =>
      match s.bindPage d asid va size e with
      | none => (s, .fault 12)
      | some s1 => match s1.walk d asid va with
        | .ok e => leaf s1 e
        | _ => (s1, .wait)

/-- The driver's entry for a fault of a graphics unit, under a fresh identifier (R413); no logical core stands behind it,
and LCORE is 0 (assumption 105). -/
def State.unitFault (s : State) (d asid code : Nat) (va : DWord) (write : Bool) : State × Nat :=
  let i := s.x.nextId
  (({ s with x := { s.x with nextId := i + 1 } }).postFault (0x4000 + code) asid d i va ((if write then 1 else 0) + 8) 0 0, i)

/-- A fragment replaced. -/
def State.setFrag (s : State) (d : Nat) (f : Frag) : State :=
  let g := s.gdie d
  s.setGdie d { g with frags := updFirst (fun (e : Frag) => e.id == f.id) (fun _ => f) g.frags }

/-- An update of a cell replaced, or removed. -/
def State.setCell (s : State) (d : Nat) (o : CellOp) : State :=
  let g := s.gdie d
  s.setGdie d { g with cells := updFirst (fun (e : CellOp) => e.id == o.id) (fun _ => o) g.cells }
def State.delCell (s : State) (d i : Nat) : State :=
  let g := s.gdie d
  s.setGdie d { g with cells := g.cells.filter (fun e => e.id != i) }

/-! ### Answers to faults (19_traps R413, R414) -/

/-- The access, or the unit request, whose held fault has an identifier. -/
def State.faultAcc (s : State) (i : Nat) : Option (Access × List Nat × Nat × DWord) :=
  s.x.accs.findSome? (fun a =>
    let hit := a.lanes.filter (fun l => match l.st with
      | .fault _ j _ => j == i
      | _ => false)
    match hit with
    | [] => none
    | l :: _ => match l.st with
      | .fault c _ va => some (a, hit.map (fun l => l.lane), c, va)
      | _ => none)
def State.faultReq (s : State) (i : Nat) : Option (Req × Nat × DWord) :=
  s.x.reqs.findSome? (fun r => match r.fault with
    | some (j, va, c) => if j = i then some (r, c, va) else none
    | none => none)

/-- The fault of a fragment's depth access, or of an update of a cell, that has an identifier, with its die. -/
def faultIs (i : Nat) : Option (Nat × DWord × Nat) → Bool
  | some (j, _, _) => j == i
  | none => false
def State.faultFrag (s : State) (i : Nat) : Option (Nat × Frag) :=
  s.gfx.dies.findSome? (fun e => (e.2.frags.find? (fun f => faultIs i f.fault)).map (fun f => (e.1, f)))
def State.faultCell (s : State) (i : Nat) : Option (Nat × CellOp) :=
  s.gfx.dies.findSome? (fun e => (e.2.cells.find? (fun o => faultIs i o.fault)).map (fun o => (e.1, o)))

/-- An answer that names no held fault sets REJECT in FLT_RESP (R413). -/
def State.faultUnknown (s : State) : State := { s with sch := { s.sch with fltReject := true } }

/-- REPLAY (R414): the faulting lanes wait for a walk again; a store takes its place in issue order anew (R164). -/
def State.faultReplay (s : State) (i : Nat) : Host.Outcome State Fault Refusal :=
  if !s.pkg.ready then .next s else
  match s.faultAcc i with
  | some (a, _, _, _) =>
    let lanes := a.lanes.map (fun l => match l.st with
      | .fault _ j _ => if j = i then { l with st := .wait, inq := false } else l
      | _ => l)
    let x := { s.x.setAcc { a with lanes := lanes, at_ := s.x.nextId } with nextId := s.x.nextId + 1 }
    .next (({ s with x := x }).retry a.id)
  | none =>
    match s.faultReq i with
    | some (r, _, _) => .next { s with x := s.x.setReq { r with fault := none } }
    | none =>
      match s.faultFrag i, s.faultCell i with
      | some (d, f), _ => .next (s.setFrag d { f with fault := none })
      | none, some (d, o) => .next (s.setCell d { o with fault := none })
      | none, none => .next s.faultUnknown

/-- REPLAY of FLT_RESP. -/
def execReplay (i : Nat) (s : State) : Host.Outcome State Fault Refusal := s.faultReplay i

/-- DELIVER (R414). -/
def State.faultDeliver (s : State) (i : Nat) : Host.Outcome State Fault Refusal :=
  if !s.pkg.ready then .next s else
  match s.faultAcc i with
  | some (a, ls, c, va) => .next (s.deliverLanes a.id ls c va)
  | none =>
    match s.faultReq i with
    | some (r, c, va) => .next (s.deliverReq r c va)
    | none =>
      match s.faultFrag i, s.faultCell i with
      | some (d, f), _ => .next (s.setFrag d { f with st := .done, fault := none })
      | none, some (d, o) => .next (s.delCell d o.id)
      | none, none => .next s.faultUnknown

/-- DELIVER of FLT_RESP. -/
def execDeliver (i : Nat) (s : State) : Host.Outcome State Fault Refusal := s.faultDeliver i

/-- The fault domain of a pass's first launch in progress ends, for a fault of its graphics units. -/
def State.endPass (s : State) (p : Nat) (f : Option (Nat × DWord × Nat)) : State :=
  match s.sch.launches.find? (fun l => l.pass == some p && l.open), f with
  | some l, some (_, va, c) => s.endDomain l.id (0x4000 + c) va
  | _, _ => s

/-- KILL (R414): the fault is unhandled (R408), and the driver's ring gets no SYS entry. -/
def State.faultEnd (s : State) (i : Nat) : Host.Outcome State Fault Refusal :=
  if !s.pkg.ready then .next s else
  let go (wi c : Nat) (va : DWord) : State :=
    match s.x.wg? wi with
    | some w => s.endDomain w.launch (0x4000 + c) va
    | none => s
  match s.faultAcc i with
  | some (a, _, c, va) => .next (go a.wg c va)
  | none =>
    match s.faultReq i with
    | some (r, c, va) => .next (go r.wg c va)
    | none =>
      match s.faultFrag i, s.faultCell i with
      | some (_, f), _ => .next (s.endPass f.pass f.fault)
      | none, some (_, o) => .next (s.endPass o.pass o.fault)
      | none, none => .next s.faultUnknown

/-- KILL of FLT_RESP. -/
def execFaultKill (i : Nat) (s : State) : Host.Outcome State Fault Refusal := s.faultEnd i

/-- UNCORRECTABLE_ERROR (R412): a lane of an access meets a soft error that ECC cannot correct. -/
def execUncorrectableError (id l : Nat) (s : State) : Host.Outcome State Fault Refusal := .next (s.failLanes id [l] 13)

/-- PSEUDO_CHANNEL_FAILURE (R438): later accesses to its lines raise MEM (UNCORRECTABLE). -/
def execPseudoChannelFailure (d p : Nat) (s : State) : Host.Outcome State Fault Refusal :=
  .next (s.setDie d { s.die d with pchFail := (s.die d).pchFail ||| (1#64 <<< p) })

/-! ### The Rime log (R368, R369) -/

/-- An entry written to its ring at the cursor; with the ring full, OVF is set and nothing is appended. -/
def State.rimeAppend (s : State) (asid page : Nat) (cls : BitVec 4) (lines : BitVec 32) : Except Nat State :=
  let c := s.ctx asid
  let n := 2 ^ c.rimeLog2
  if n ≤ (c.rimeCur - c.rimeRd).toNat then .ok (s.setCtx asid { c with rimeOvf := true })
  else
    let pa := bits c.rimeBase 12 40 * 4096 + 16 * (c.rimeCur.toNat % n)
    if !s.paExists pa then .error pa
    else
      let bs := natLe 8 (page * 4096 + cls.toNat * 256 + asid % 256) ++ natLe 4 lines.toNat ++ natLe 4 (c.rimeCur.toNat % 2 ^ 32)
      .ok ((s.setCtx asid { c with rimeCur := c.rimeCur + 1 }).poke pa bs)

/-- RIME_ENTRY_EXPIRY (R368): 1,024 clocks after it opened, an entry is written out. -/
def execRimeEntryExpiry (asid page : Nat) (s : State) : Host.Outcome State Fault Refusal :=
  let c := s.ctx asid
  match c.rimeOpen.find? (fun e => e.1 == page) with
  | none => .next s
  | some e =>
    if s.x.clk < e.2.2.2 + 1024 then .next s
    else
      let s1 := s.setCtx asid { c with rimeOpen := c.rimeOpen.filter (fun e => e.1 != page) }
      if c.rimeOvf then .next s1
      else match s1.rimeAppend asid page e.2.1 e.2.2.1 with
        | .ok t => .next t
        | .error pa => .fault (.noMemory pa)

end Sys2Proof.Machine
end

