-- ==== Sys2Proof/Machine/Place.lean ====
section
/-!
DEFINITION. Placing workgroups: the fields of a launch packet (15_launch R332, R334), whether a core fits a workgroup
(R343), the state of a placed workgroup (R333, 03_kernel_memory R56, 02_execution R37), logical core numbers (R455), the
dealing cursor (R342), and the limits of a region tree (R339).
-/

set_option linter.unusedVariables false

namespace Sys2Proof.Machine

/-! ### Accesses of the package controller by virtual address -/

/-- Pages that the package controller is about to use, bound at their first touch (16_translation R361). -/
def State.ctlTouch (s : State) (asid : Nat) (va : DWord) (n : Nat) : State := s.touchAll s.ctlDie asid va n

/-- Bytes written at a virtual address of a context by the package controller, once their lines are quiet; the second
part says whether they were written (assumptions 21, 23). -/
def State.ctlPut (s : State) (asid : Nat) (va : DWord) (bs : List Byte) : State × Bool :=
  match s.diePas s.ctlDie asid va true bs.length with
  | none => (s.ctlTouch asid va bs.length, false)
  | some pas =>
    let w := pas.zip bs
    if s.quietAll w then (s.engineWrite w {}, true)
    else (s.snoopAsk ((linesOf (w.filter (fun b => !isHost b.1)))), false)

/-- The bytes of a list as one little-endian bit vector. -/
def bvOf (n : Nat) (bs : List Byte) : BitVec n := BitVec.ofNat n (leNat bs)

/-! ### The fields of a packet (R332) -/

def pkType (t : BitVec 1024) : Nat := bits t 0 4
def pkStage (t : BitVec 1024) : Nat := bits t 4 3
def pkCores (t : BitVec 1024) : Bool := bit t 7
def pkSerial (t : BitVec 1024) : Bool := bit t 8
def pkDepv (t : BitVec 1024) : Bool := bit t 9
def pkNwg (t : BitVec 1024) : Nat := bits t 32 32
def pkRcb (t : BitVec 1024) : DWord := t.extractLsb' 64 64
def pkEntry (t : BitVec 1024) : DWord := t.extractLsb' 128 64
def pkThreads (t : BitVec 1024) : Nat := bits t 192 11
def pkProducer (t : BitVec 1024) : Nat := bits t 203 5
/-- Vector registers of each thread: eight for each granule. -/
def pkRegs (t : BitVec 1024) : Nat := 8 * (bits t 208 4 + 1)
def pkAcc (t : BitVec 1024) : Nat := bits t 212 6
/-- Scratchpad granules of 4 KiB. -/
def pkScr (t : BitVec 1024) : Nat := bits t 224 10
def pkPre (t : BitVec 1024) : DWord := t.extractLsb' 256 64
def pkNpre (t : BitVec 1024) : Nat := bits t 320 7
def pkStk (t : BitVec 1024) : Nat := 128 * bits t 352 14
def pkSpillN (t : BitVec 1024) : Nat := bits t 368 16
def pkSpill (t : BitVec 1024) : DWord := t.extractLsb' 384 64
def pkDepQ (t : BitVec 1024) : Nat := bits t 448 12
def pkDepIdx (t : BitVec 1024) : Nat := bits t 460 52
/-- Groups of a workgroup (02_execution R26). -/
def pkGroups (t : BitVec 1024) : Nat := (pkThreads t + 31) / 32
/-- Bytes of the stage area (R334). -/
def pkFld (t : BitVec 1024) (byte lo len : Nat) : Nat := bits t (8 * byte + lo) len
/-- The pass descriptor's address of a task, mesh or pixel packet. -/
def pkPass (t : BitVec 1024) : DWord := t.extractLsb' 512 64
/-- A mesh launch of R126. -/
def pkMeshl (t : BitVec 1024) : Bool := pkStage t == 0 && bit t 531
/-- The GRAPH field of a compute packet. -/
def pkGraph (t : BitVec 1024) : DWord := t.extractLsb' 544 64

/-! ### What a core holds (R18, R343) -/

/-- The workgroups on a core. -/
def Exec.onCore (x : Exec) (d c : Nat) : List Wg := x.wgs.filter (fun w => w.die == d && w.core == c)

/-- Groups on a scheduler of a list of workgroups, and register granules that they take. -/
def schedLoad (ws : List Wg) (q : Nat) : Nat × Nat :=
  ws.foldl (fun p w =>
    let n := (w.groups.filter (fun g => g.idx % 4 == q)).length
    (p.1 + n, p.2 + n * (w.regs / 8))) (0, 0)

/-- Granules of a core's scratchpad. -/
def scratchGranules : Nat := 512

/-- The first range of free scratchpad granules of a length, over the ranges in use (base, length). -/
def freeRange (used : List (Nat × Nat)) (n : Nat) : Option Nat :=
  if n = 0 then some 0
  else ((List.range (scratchGranules + 1 - n)).find? (fun a =>
    used.all (fun u => decide (a + n ≤ u.1) || decide (u.1 + u.2 ≤ a))))

/-- Whether a core takes a workgroup of some groups of n granules and a partition, and the partition's base (R343); the
partitions that 19_traps R419 keeps are in use. -/
def fitsCore (ws : List Wg) (kept : List (Nat × Nat × Nat)) (groups granules scr : Nat) : Option Nat :=
  if 64 ≤ ws.length then none
  else if (List.range 4).all (fun q =>
      let l := schedLoad ws q
      let n := ((List.range groups).filter (fun j => j % 4 == q)).length
      decide (l.1 + n ≤ 128) && decide (l.2 + n * granules ≤ 768)) then
    freeRange ((ws.filter (fun w => w.scrSize != 0)).map (fun w => (w.scrBase, w.scrSize / 4096)) ++ kept.map (fun k => k.2)) scr
  else none

/-- Free group slots of a core. -/
def freeSlots (ws : List Wg) : Nat := 512 - ws.foldl (fun n w => n + w.groups.length) 0

/-- The matrix context with fewer bound workgroups, context 0 on a tie. -/
def lighterCtx (ws : List Wg) : Nat :=
  let n (k : Nat) : Nat := (ws.filter (fun w => w.mctx == some k)).length
  if n 1 < n 0 then 1 else 0

/-! ### A workgroup to place -/

/-- What placement needs of a workgroup: its launch, its template, its number, and the data of its stage. `live` limits
the lanes of a pixel group, whose workgroup has one group. -/
structure Job where
  launch : Launch
  tmpl : BitVec 1024
  stage : Nat
  index : Nat
  head : List Word := []
  nwg : Nat := 0
  live : Option Word := none
  ring : Nat := 0
  nring : Nat := 0
  meshl : Bool := false
  task : Nat := 0
  mesh : Nat := 0
  node : Nat := 0
  deriving DecidableEq, Repr

/-- Groups of the workgroup. -/
def Job.groups (j : Job) : Nat := if j.live.isSome then 1 else pkGroups j.tmpl

/-- The pass that a workgroup belongs to: a child's is the one that its template names (R454). -/
def Job.pass (j : Job) : Option Nat := if j.stage = 2 ∧ pkStage j.launch.pkt = 1 then j.launch.cpass else j.launch.pass

/-- Whether a core of a die fits the workgroup, and the base of its partition: R343, and of the task workgroups of a pass
R100. -/
def State.jobFits (s : State) (j : Job) (d c : Nat) : Option Nat :=
  let ws := s.x.onCore d c
  if !s.coreWorks d c then none
  else if j.stage = 1 ∧ 48 ≤ (ws.filter (fun w => w.stage == 1 && w.passId == j.pass)).length then none
  else fitsCore ws (s.x.core d c).kept j.groups (pkRegs j.tmpl / 8) (pkScr j.tmpl)

/-- The core of a die that a workgroup goes to: the fitting core with the most free group slots, then the lower. -/
def State.pickCore (s : State) (j : Job) (d : Nat) : Option Nat :=
  maxBy (fun c => freeSlots (s.x.onCore d c)) ((List.range Config.nCores).filter (fun c => (s.jobFits j d c).isSome))

/-! ### Logical cores (R455) -/

/-- The lowest number that a context does not use; `kept` are the numbers of the logical cores that a RESUME has still to
place (19_traps R424). -/
def freeLcore (kept : List Nat) (t : List (Nat × List Nat)) : Nat :=
  let used := kept ++ t.flatMap (fun e => e.2)
  ((List.range (used.length + 1)).find? (fun n => !used.contains n)).getD 0

/-- The logical number of a core in a context, assigned if it has none. -/
def lcoreOf (kept : List Nat) (k : Nat) (t : List (Nat × List Nat)) : Nat × List (Nat × List Nat) :=
  match t.find? (fun e => e.1 == k) with
  | some e => ((minBy (fun n => n) e.2).getD 0, t)
  | none => (freeLcore kept t, t ++ [(k, [freeLcore kept t])])

/-- The numbers that the logical cores of a context keep which a RESUME has still to place. -/
def State.keptNums (s : State) (asid : Nat) : List Nat :=
  (s.sch.resuming.filter (fun e => e.2.asid == asid)).map (fun e => e.1)

/-! ### The placed workgroup -/

/-- The lanes of group i that hold threads (02_execution R26), or the lanes given. -/
def Job.lanes (j : Job) (i : Nat) : Word :=
  match j.live with
  | some m => m
  | none => maskOf ((List.range 32).filter (fun l => decide (32 * i + l < pkThreads j.tmpl)))

/-- A group at placement (03_kernel_memory R56, 02_execution R37, 15_launch R333). -/
def Job.group (j : Job) (age : Nat) (words : List Word) (i : Nat) : Group :=
  let m := j.lanes i
  let lane (l : Nat) : Lane :=
    if m.getLsbD l then { st := .live, pc := pkEntry j.tmpl, v := List.replicate (pkRegs j.tmpl) {} } else {}
  { idx := i, age := age + i, s := (words ++ List.replicate 64 0).take 64, m := m :: List.replicate 11 0,
    arr := List.replicate 12 0, lanes := (List.range 32).map lane }

/-- The pass and stage data of a packet of each stage (R334). -/
def Job.wg (j : Job) (id age d c lcore base : Nat) (mctx : Option Nat) (words : List Word) : Wg :=
  let t := j.tmpl
  { id := id, launch := j.launch.id, asid := j.launch.asid, index := j.index, die := d, core := c,
    nthr := if j.live.isSome then 32 else pkThreads t, regs := pkRegs t, scrSize := 4096 * pkScr t, scrBase := base,
    accMax := pkAcc t, mctx := mctx, producer := pkProducer t, stage := j.stage,
    cores := pkCores j.launch.pkt && j.stage == 0, meshl := j.meshl, handler := j.launch.handler, nwg := j.nwg,
    lcore := lcore, lx := d % 8, ly := d / 8, ring := j.ring, nring := j.nring, stkBase := pkStk t,
    spillN := pkSpillN t, spillVa := pkSpill t, spillG := pkGroups t,
    ampMax := if j.stage = 1 then pkFld j.launch.pkt 88 0 9 else 0,
    vmax := if j.stage = 1 then 256 else if j.stage = 2 then pkFld t 72 0 9 else 0,
    pmax := if j.stage = 1 then 512 else if j.stage = 2 then pkFld t 72 9 10 else 0,
    stream := if j.stage = 1 then pkFld t 88 14 4 else if j.stage = 2 then pkFld t 72 19 4 else 0,
    draw := if j.stage = 1 then pkFld t 92 0 20 else if j.stage = 2 then pkFld t 76 0 20 else 0,
    task := j.task, mesh := j.mesh, passId := j.pass, node := j.node,
    nd := j.stage == 3 && bit t 576, dw := j.stage == 3 && bit t 577,
    ks := List.replicate 16 {}, bs := List.replicate 16 {}, qs := List.replicate 8 0, ts := List.replicate 16 0,
    hs := List.replicate 8 [], cs := List.replicate 4 {},
    groups := (List.range j.groups).map (j.group age words) }

/-- The preload words of a packet's PRE (R333). -/
def State.preload (s : State) (asid : Nat) (t : BitVec 1024) : Option (List Word) :=
  (s.ctlRead asid (pkPre t) (4 * pkNpre t)).map (fun bs =>
    (List.range (pkNpre t)).map (fun i => BitVec.ofNat 32 (leNat ((bs.drop (4 * i)).take 4))))

/-- A workgroup placed on a core with the preload words given; none if the core does not fit it. -/
def State.placeOn (s : State) (j : Job) (d c : Nat) (pre : List Word) : Option State :=
  match s.jobFits j d c with
  | none => none
  | some base =>
    let cx := s.ctx j.launch.asid
    let (lc, tab) := lcoreOf (s.keptNums j.launch.asid) (coreNo d c) cx.lcores
    let mctx := if pkAcc j.tmpl = 0 then none else some (lighterCtx (s.x.onCore d c))
    let w := j.wg s.x.nextId s.x.nextAge d c lc base mctx (j.head ++ pre)
    let x := { s.x with wgs := s.x.wgs ++ [w], nextId := s.x.nextId + 1, nextAge := s.x.nextAge + j.groups }
    some (({ s with x := x }).setCtx j.launch.asid { cx with lcores := tab })

/-- A workgroup placed on the core that R342 chooses within a die. -/
def State.placeIn (s : State) (j : Job) (d : Nat) (pre : List Word) : Option State :=
  match s.pickCore j d with
  | none => none
  | some c => s.placeOn j d c pre

/-! ### Limits of the region tree (R339) -/

/-- Resident workgroups of a context whose launches lie in the subtree of an RCB. -/
def State.subtreeWgs (s : State) (asid : Nat) (addr : DWord) : Nat :=
  (s.x.wgs.filter (fun w => w.asid == asid && (match s.launch? w.launch with
    | some l => l.rcbs.any (fun r => r.addr == addr)
    | none => false))).length

/-- The chain of a launch has room for n more workgroups. -/
def State.roomFor (s : State) (l : Launch) (n : Nat) : Bool :=
  l.rcbs.all (fun r => r.wgmax == 0 || decide (s.subtreeWgs l.asid r.addr + n ≤ r.wgmax))

/-! ### Stopped contexts (19_traps R416, R417) -/

/-- A pass is in progress: it has not ended, and some launch of it has begun. -/
def State.passGoing (s : State) (p : Pass) : Bool :=
  !p.ended && s.sch.launches.any (fun l => l.pass == some p.id && (l.st != .dealing || decide (0 < l.next)))

/-- A pass that a launch belongs to is in progress. -/
def State.inPass (s : State) (l : Launch) : Bool :=
  match l.pass.bind s.pass? with
  | some p => s.passGoing p
  | none => false

/-- Dealing of a launch is stopped: its context is being drained, or frozen and the launch belongs to no pass in
progress. -/
def State.dealStopped (s : State) (l : Launch) : Bool :=
  match s.sch.cmd with
  | some c => c.asid == l.asid && (c.cmd == 1 || (c.cmd == 2 && !s.inPass l))
  | none => false

/-- A number that the device assigns to a workgroup: free, but for being distinct from those of the launch's resident
workgroups (11_isa R313; assumption 10). -/
def State.assignIndex (s : State) (launch : Nat) : Nat × State :=
  let (v, s1) := s.freeNum
  let used := (s.x.wgs.filter (fun w => w.launch == launch)).map (fun w => w.index)
  let n := ((List.range (used.length + 1)).find? (fun k => !used.contains ((v.toNat + k) % 2 ^ 24))).getD 0
  ((v.toNat + n) % 2 ^ 24, s1)

/-! ### Jobs of a launch's own workgroups -/

/-- The workgroup of an index of a compute, task or mesh launch (R333, R454). -/
def Launch.job (l : Launch) (w : Nat) : Job :=
  let st := pkStage l.pkt
  let pos := w / l.wpd
  { launch := l, tmpl := l.pkt, stage := st, index := w, nwg := pkNwg l.pkt,
    head := if st = 2 then List.replicate 16 0 else [],
    task := w,
    ring := if pkMeshl l.pkt then pos else 0, nring := if pkMeshl l.pkt then l.ring.length else 0,
    meshl := pkMeshl l.pkt }

/-- The die that the dealing cursor finds for a workgroup, and the cursor behind it (R342): dies that cannot place it
are passed over. `ok` tells whether a die takes work of the launch at all. -/
def State.cursorDie (s : State) (j : Job) (ok : Nat → Bool) (ring : List Nat) : Nat → Nat → Option (Nat × Nat)
  | 0, _ => none
  | n + 1, cur =>
    let d := (ring[cur % ring.length]?).getD 0
    if ok d && (s.pickCore j d).isSome then some (d, (cur + 1) % ring.length)
    else s.cursorDie j ok ring n ((cur + 1) % ring.length)

/-- The workgroup of a mesh child under its task launch's template (R454); its index is assigned at its start. -/
def Launch.childJob (l : Launch) (ch : Child) (index : Nat) : Job :=
  { launch := l, tmpl := l.tmpl, stage := 2, index := index, head := ch.words, task := ch.task, mesh := ch.emit }

/-- Whether a die takes a new task workgroup (R100): its amplification queue is at most half full, its overflow ring
empty, and the child next in the queue fits no core. -/
def State.taskRoom (s : State) (d : Nat) : Bool :=
  let k := s.gdie d
  decide (2 * k.amp.length ≤ ampQueueCap) && k.ring.isEmpty && (match k.amp with
    | [] => true
    | ch :: _ => match s.launch? ch.launch with
      | some l => (s.pickCore (l.childJob ch 0) d).isNone
      | none => true)

/-- The next workgroup of a launch dealt: the state with it placed, none if nothing fits. -/
def State.dealOne (s : State) (l : Launch) (pre : List Word) : Option State :=
  let j := l.job l.next
  let l1 := { l with next := l.next + 1, st := if l.next + 1 = pkNwg l.pkt then .dealt else l.st }
  let upd (s : State) : State := s.setLaunch l1
  if j.meshl then
    match l.ring[l.next / l.wpd]? with
    | none => none
    | some d => (s.placeIn j d pre).map upd
  else
    let ring := s.pkgRing
    match s.cursorDie j (fun d => j.stage != 1 || s.taskRoom d) ring ring.length s.sch.cursor with
    | none => none
    | some (d, cur) =>
      (s.placeIn j d pre).map (fun s => upd { s with sch := { s.sch with cursor := cur } })

/-- Every workgroup of a launch dealt at once; none if one of them does not fit (R344). -/
def State.dealAll (pre : List Word) (id : Nat) : Nat → State → Option State
  | 0, s => some s
  | n + 1, s =>
    match s.launch? id with
    | none => none
    | some l =>
      match s.dealOne l pre with
      | none => none
      | some s1 => State.dealAll pre id n s1

/-- A CORES launch could fit on the dies with nothing resident (R344). -/
def State.fitsEmpty (s : State) (l : Launch) : Bool :=
  let s0 := { s with x := { s.x with wgs := [], cores := [] }, gfx := {}, sch := { s.sch with cursor := 0 } }
  (State.dealAll [] l.id (pkNwg l.pkt - l.next) s0).isSome

end Sys2Proof.Machine
end

