-- ==== Sys2Proof/Machine/Raster.lean ====
section
/-!
DEFINITION. The graphics agents of a die (04_render_mesh R99 to R119): children and their queue, frontiers, the reorder
store, rasterisation, depth tests, pixel groups, occlusion cells, and the end of a pass.
-/

set_option linter.unusedVariables false

namespace Sys2Proof.Machine

/-! ### Passes and their launches -/

/-- The launches that belong to a pass, the task launches whose children do among them. -/
def State.passLaunches (s : State) (p : Nat) : List Launch := s.sch.launches.filter (fun l => l.pass == some p || l.cpass == some p)

/-- The pixel launch of a pass, if one is accepted. -/
def State.pixelOf (s : State) (p : Nat) : Option Launch := (s.passLaunches p).find? (fun l => pkStage l.pkt == 3 && l.pass == some p)

/-- No packet published in the queues of a pass's launches is still to be fetched. -/
def State.queuesRead (s : State) (p : Nat) : Bool :=
  (s.passLaunches p).all (fun l => let q := s.queue l.queue; !q.run || decide (q.wr < q.rd + 2))

/-- Whether no further geometry launch joins the pass: its pixel launch is accepted, or its launches are complete and
their queues read. -/
def State.sealed (s : State) (p : Nat) : Bool :=
  (s.pixelOf p).isSome || ((s.passLaunches p).all (fun l => l.st == .recorded) && s.queuesRead p)

/-- Stream and draw of a task or mesh packet. -/
def pkStream (t : BitVec 1024) : Nat := if pkStage t = 1 then pkFld t 88 14 4 else pkFld t 72 19 4
def pkDraw (t : BitVec 1024) : Nat := if pkStage t = 1 then pkFld t 92 0 20 else pkFld t 76 0 20

/-- The streams of a pass: those of its geometry launches, and of the templates of its task launches. -/
def State.streams (s : State) (p : Nat) : List Nat :=
  (List.range 16).filter (fun k => (s.passLaunches p).any (fun l =>
    ((pkStage l.pkt == 1 || pkStage l.pkt == 2) && l.pass == some p && pkStream l.pkt == k) ||
      (pkStage l.pkt == 1 && l.cpass == some p && pkStream l.tmpl == k)))

/-! ### Amplification queue and overflow ring (R99, R290) -/

/-- A group parked on task.amp is released if its child now finds room. -/
def State.ampUnpark (s : State) (wi gi : Nat) : State :=
  match s.x.wg? wi with
  | none => s
  | some w =>
    match w.grp? gi with
    | none => s
    | some g =>
      match g.park with
      | .amp r n =>
        match s.ampPut w.die { launch := w.launch, task := w.task, emit := n, words := r } with
        | none => s
        | some s1 => s1.putGrp wi { g with park := .none, stc := g.stc - 1 }
      | _ => s

/-- Triples by rising first part. -/
def insertTok (e : Nat × Nat × Nat) : List (Nat × Nat × Nat) → List (Nat × Nat × Nat)
  | [] => [e]
  | f :: r => if e.1 ≤ f.1 then e :: f :: r else f :: insertTok e r

/-- The groups of a die parked on task.amp, by the tokens of their children: the emits of one workgroup in their order. -/
def State.ampParked (s : State) (d : Nat) : List (Nat × Nat × Nat) :=
  ((s.x.wgs.filter (fun w => w.die == d && w.stage == 1)).flatMap (fun w => w.groups.filterMap (fun g => match g.park with
    | .amp _ n => some (tokenOf w.draw w.task n 0, w.id, g.idx)
    | _ => none))).foldr insertTok []

/-- The parked groups of a die tried again. -/
def State.ampWake (s : State) (d : Nat) : State := (s.ampParked d).foldl (fun s e => s.ampUnpark e.2.1 e.2.2) s

/-- AMP_QUEUE_DEQUEUE: the child at the head of a die's queue leaves it, and its mesh workgroup is started on the die
(R99, R342, R454). DESIGN CHOICE (assumption 106): where the emits of two task workgroups of a die interleave, the order of
the queue and the order of the tokens differ, and the queue's is kept. -/
def execAmpQueueDequeue (d : Nat) (s : State) : Host.Outcome State Fault Refusal :=
  let k := s.gdie d
  match k.amp with
  | [] => .next s
  | ch :: rest =>
    match s.launch? ch.launch with
    | none => .next s
    | some l =>
      if !l.open || s.dealStopped l || !s.roomFor l 1 then .next s
      else match s.preload l.asid l.tmpl with
        | none => .next (s.ctlTouch l.asid (pkPre l.tmpl) (4 * pkNpre l.tmpl))
        | some pre =>
          let (n, s1) := s.assignIndex l.id
          match s1.placeIn (l.childJob ch n) d pre with
          | none => .next s
          | some s2 => .next ((s2.setGdie d { s2.gdie d with amp := rest }).ampWake d)

/-- OVERFLOW_RING_REFILL: the ring's first child moves to the queue, and a group parked on the ring may go on. -/
def execOverflowRingRefill (d : Nat) (s : State) : Host.Outcome State Fault Refusal :=
  let k := s.gdie d
  match k.ring with
  | [] => .next s
  | ch :: rest =>
    if ampQueueCap ≤ k.amp.length then .next s
    else .next ((s.setGdie d { k with amp := k.amp ++ [s.ampGet d ch], ring := rest }).ampWake d)

/-! ### Frontiers (R104) -/

/-- The highest frontier: no packet will follow. -/
def frontEnd : Nat := 2 ^ 64 - 1

/-- First tokens of the work items of a stream that a die holds. -/
def State.heldTokens (s : State) (d p k : Nat) : List Nat :=
  let ws := s.x.wgs.filter (fun w => w.die == d && w.passId == some p && w.stream == k && (w.stage == 1 || w.stage == 2))
  let childOf (i : Nat) : Option Launch := (s.launch? i).filter (fun l => l.cpass == some p && pkStream l.tmpl == k)
  let ts := (s.x.wgs.filter (fun w => w.die == d && w.stage == 1)).filterMap (fun w =>
    (childOf w.launch).map (fun l => tokenOf (pkDraw l.tmpl) w.task 0 0))
  let cs := ((s.gdie d).amp ++ (s.gdie d).ring).filterMap (fun ch =>
    (childOf ch.launch).map (fun l => tokenOf (pkDraw l.tmpl) ch.task ch.emit 0))
  ws.map (fun w => tokenOf w.draw w.task w.mesh 0) ++ ts ++ cs

/-- First tokens of the lowest workgroups of a stream that are not dealt yet. -/
def State.undealtTokens (s : State) (p k : Nat) : List Nat :=
  (s.passLaunches p).flatMap (fun l =>
    if l.st ≠ .dealing then []
    else
      (if (pkStage l.pkt = 1 ∨ pkStage l.pkt = 2) ∧ l.pass = some p ∧ pkStream l.pkt = k then [tokenOf (pkDraw l.pkt) l.next 0 0] else []) ++
      (if pkStage l.pkt = 1 ∧ l.cpass = some p ∧ pkStream l.tmpl = k then [tokenOf (pkDraw l.tmpl) l.next 0 0] else []))

/-- A source's frontier for a stream of a pass; none while further launches may still join the pass. -/
def State.frontier (s : State) (d p k : Nat) : Option Nat :=
  match minBy (fun t => t) (s.heldTokens d p k) with
  | some t => some t
  | none =>
    match minBy (fun t => t) (s.undealtTokens p k) with
    | some t => some t
    | none => if s.sealed p then some frontEnd else none

/-- The frontier sent to every owner, if it has risen and 64 clocks have passed since the previous one. -/
def State.frontierGo (s : State) (d p k : Nat) : State :=
  match s.pass? p, s.frontier d p k with
  | some ps, some v =>
    let g := s.gdie d
    let last := g.sent.find? (fun e => e.pass == p && e.stream == k)
    let due := match last with
      | none => true
      | some e => decide (e.value < v) && decide (e.at_ + 64 ≤ s.x.clk)
    if ps.ended || !s.working d || !due then s
    else
      let sent := g.sent.filter (fun e => !(e.pass == p && e.stream == k)) ++ [{ pass := p, stream := k, value := v, at_ := s.x.clk }]
      ps.active.foldl (fun s o => s.gsend d o (.frontier p k v)) (s.setGdie d { g with sent := sent })
  | _, _ => s

/-- FRONTIER_SEND: a frontier that has risen is sent to every owner die. -/
def execFrontierSend (d p k : Nat) (s : State) : Host.Outcome State Fault Refusal := .next (s.frontierGo d p k)

/-- FRONTIER_HOLD_EXPIRY: 64 clocks after the previous frontier, the held one is sent with its current value. -/
def execFrontierHoldExpiry (d p k : Nat) (s : State) : Host.Outcome State Fault Refusal :=
  match (s.gdie d).sent.find? (fun e => e.pass == p && e.stream == k) with
  | none => .next s
  | some _ => .next (s.frontierGo d p k)

/-! ### Arrivals (R105) -/

/-- The graphics message of the number in `sel`, counted in sending order, if nothing that was sent before it from its die to
its owner is still on the way (R105, 05_tensor_mesh R129). -/
def State.gmsg (s : State) : Option GMsg :=
  match s.gfx.net[s.sel]? with
  | none => none
  | some m =>
    if (s.gfx.net.take s.sel).any (fun n => n.src == m.src && n.dst == m.dst) || s.netBefore m.id m.src m.dst ||
      s.nbrBefore m.id m.src m.dst then none
    else some m

/-- The state without that message. -/
def State.gtake (s : State) : State := { s with gfx := { s.gfx with net := s.gfx.net.eraseIdx s.sel } }

/-- A packet or marker put into an owner's store: on die while a place is free there beside those that other passes' packets
on their way take, else in the pass's area in memory, where a packet of R101 stands in its place (assumption 34). -/
def State.storePut (s : State) (d : Nat) (p : Pass) (q : Pkt) : State :=
  let g := s.gdie d
  let area := g.area p.id
  if g.onDie + s.pktsTo d p.id false < onDieCap ∨ 2 ^ p.l ≤ area.length then s.setGdie d { g with store := g.store ++ [{ q with slot := none }] }
  else
    let n := ((List.range (area.length + 1)).find? (fun i => area.all (fun r => r.slot != some i))).getD 0
    let s1 := match q.k with
      | .prim b => s.ringPut d p.asid (p.roaVa d n) (natLe 64 b.toNat)
      | _ => s
    s1.setGdie d { g with store := g.store ++ [{ q with slot := some n }] }

/-- A packet as it leaves the store: with the bytes that its place in the area holds. -/
def State.storeGet (s : State) (d : Nat) (p : Pass) (q : Pkt) : PktK :=
  match q.k, q.slot with
  | .prim b, some n => .prim (((s.dieRead d p.asid (p.roaVa d n) 64).map (bvOf 512)).getD b)
  | k, _ => k

/-- PACKET_ARRIVAL: a packet or marker enters the reorder store of its owner die. -/
def execPacketArrival (s : State) : Host.Outcome State Fault Refusal :=
  match s.gmsg with
  | some { id := _, src := _, dst := d, k := .pkt q } =>
    let s1 := s.gtake
    match s1.pass? q.pass with
    | some p => if s.working d && !p.ended then .next (s1.storePut d p q) else .next s1
    | none => .next s1
  | _ => .next s

/-- FRONTIER_ARRIVAL: a source's latest frontier for a stream at an owner die. -/
def execFrontierArrival (s : State) : Host.Outcome State Fault Refusal :=
  match s.gmsg with
  | some { id := _, src := c, dst := d, k := .frontier p k v } =>
    let s1 := s.gtake
    let g := s1.gdie d
    let rest := g.fronts.filter (fun f => !(f.1 == p && f.2.1 == k && f.2.2.1 == c))
    .next (s1.setGdie d { g with fronts := rest ++ [(p, k, c, v)] })
  | _ => .next s

/-! ### Release from the reorder store (R105, R292) -/

/-- The latest frontier of a source for a stream at an owner; 0 before the first. -/
def GDie.front (g : GDie) (p k c : Nat) : Nat :=
  ((g.fronts.find? (fun f => f.1 == p && f.2.1 == k && f.2.2.1 == c)).map (fun f => f.2.2.2)).getD 0

/-- A marker sorts before a primitive of equal token. -/
def Pkt.key (q : Pkt) : Nat := (q.stream * 2 ^ 64 + q.token) * 2 + (match q.k with
  | .prim _ => 1
  | _ => 0)

/-- The packet or marker that an owner may release next. -/
def State.releasable (s : State) (d p : Nat) : Option Pkt :=
  let g := s.gdie d
  match minBy Pkt.key (g.store.filter (fun q => q.pass == p)) with
  | none => none
  | some q =>
    let low := (s.streams p).filter (fun k => decide (k < q.stream))
    if s.dieOrder.all (fun c => decide (q.token < g.front p q.stream c) && low.all (fun k => g.front p k c == frontEnd))
    then some q else none

/-! ### Coverage and depth of a primitive (R107) -/

/-- A coordinate in units of 1/256 pixel, from units of 2^-149, rounded to nearest, ties to even. -/
def snap (v : Int) : Int :=
  let u : Int := 2 ^ 141
  let q := v / u
  let r := v % u
  if 2 * r < u then q else if 2 * r > u then q + 1 else if q % 2 = 0 then q else q + 1

/-- Twice the signed area of a triangle. -/
def edge (a b p : Int × Int) : Int := (b.1 - a.1) * (p.2 - a.2) - (p.1 - a.1) * (b.2 - a.2)

/-- A vertex depth: its sign of infinity, or its value in units of 2^-149. -/
structure VZ where
  inf : Int := 0
  val : Int := 0
  deriving DecidableEq, Repr, Inhabited

def vz (w : Word) : VZ :=
  match fx w with
  | some v => { val := v }
  | none => { inf := if bit w 31 then -1 else 1 }

/-- A triangle set up: snapped positions with positive area, depths, and twice the area. -/
structure Tri where
  p : List (Int × Int)
  z : List VZ
  a : Int
  deriving DecidableEq, Repr, Inhabited

/-- Set-up of a packet's triangle; none if its snapped area is zero. -/
def triSetup (b : BitVec 512) : Option Tri :=
  let w (k : Nat) : Word := b.extractLsb' (64 + 32 * k) 32
  let c (k : Nat) : Int := snap ((fx (w k)).getD 0)
  let p : List (Int × Int) := [(c 0, c 1), (c 3, c 4), (c 6, c 7)]
  let z := [vz (w 2), vz (w 5), vz (w 8)]
  let a := edge (c 0, c 1) (c 3, c 4) (c 6, c 7)
  if a = 0 then none
  else if 0 < a then some { p := p, z := z, a := a }
  else some { p := [(c 0, c 1), (c 6, c 7), (c 3, c 4)], z := [vz (w 2), vz (w 8), vz (w 5)], a := -a }

/-- The vertex k of a triangle. -/
def Tri.v (t : Tri) (k : Nat) : Int × Int := (t.p[k % 3]?).getD (0, 0)

/-- The barycentric weights at a point: the edge function opposite each vertex. -/
def Tri.weights (t : Tri) (q : Int × Int) : List Int := (List.range 3).map (fun k => edge (t.v (k + 1)) (t.v (k + 2)) q)

/-- An edge is a top or a left edge: it runs up, or level to the right (R94, R107). -/
def topLeft (a b : Int × Int) : Bool := decide (b.2 < a.2) || (b.2 == a.2 && decide (a.1 < b.1))

/-- A point is covered, under the top-left rule. -/
def Tri.covers (t : Tri) (q : Int × Int) : Bool :=
  (List.range 3).all (fun k =>
    let e := edge (t.v (k + 1)) (t.v (k + 2)) q
    decide (0 < e) || (e == 0 && topLeft (t.v (k + 1)) (t.v (k + 2))))

/-- The depth at a covered point, rounded once and clamped (R107, R103). -/
def Tri.depth (t : Tri) (q : Int × Int) : Word :=
  let ws := (t.weights q).zip t.z
  let used := ws.filter (fun p => p.1 != 0)
  let pos := used.any (fun p => p.2.inf == 1)
  let neg := used.any (fun p => p.2.inf == -1)
  if pos then 0x3F800000
  else if neg then 0
  else depthClamp (quot32 (used.foldl (fun n p => n + p.1 * p.2.val) 0) (t.a * 2 ^ 149))

/-- Sample positions within a pixel, in units of 1/256 (R107). -/
def samplePos (four : Bool) : List (Int × Int) := if four then [(96, 32), (224, 96), (32, 160), (160, 224)] else [(128, 128)]

/-- The pixel of a Morton index within a region. -/
def unmorton (m : Nat) : Nat × Nat :=
  ((List.range 6).foldl (fun u i => u + m / 4 ^ i % 2 * 2 ^ i) 0, (List.range 6).foldl (fun u i => u + m / (2 * 4 ^ i) % 2 * 2 ^ i) 0)

/-- The pixels of a region that a box in pixels meets, in ascending Morton order. -/
def regionPixels (rx ry : Nat) (x0 x1 y0 y1 : Int) : List (Nat × Nat) :=
  ((List.range 4096).map unmorton).filterMap (fun q =>
    let x := 64 * rx + q.1
    let y := 64 * ry + q.2
    if x0 ≤ (x : Int) ∧ (x : Int) ≤ x1 ∧ y0 ≤ (y : Int) ∧ (y : Int) ≤ y1 then some (x, y) else none)

/-- The covered samples of a triangle in the regions that die d owns: region by region, in Morton order (R108). -/
def Pass.samples (p : Pass) (d : Nat) (t : Tri) : List (Nat × Nat × Nat × Word) :=
  let xs := t.p.map (fun q => q.1 / 256)
  let ys := t.p.map (fun q => q.2 / 256)
  let lo (l : List Int) : Int := max 0 (l.foldl min ((l.head?).getD 0))
  let hi (l : List Int) (n : Nat) : Int := min (n - 1 : Int) (l.foldl max ((l.head?).getD 0))
  let x0 := lo xs
  let x1 := hi xs p.width
  let y0 := lo ys
  let y1 := hi ys p.height
  let inRow (r n : Nat) (a b : Int) : Bool := decide (a / 64 ≤ (r : Int) ∧ (r : Int) ≤ b / 64)
  let rys := (List.range ((p.height + 63) / 64)).filter (fun r => inRow r 0 y0 y1)
  let rxs := (List.range p.rows).filter (fun r => inRow r 0 x0 x1)
  rys.flatMap (fun ry => rxs.flatMap (fun rx =>
    if p.owner rx ry ≠ some d then []
    else (regionPixels rx ry x0 x1 y0 y1).flatMap (fun q =>
      ((samplePos p.four).mapIdx (fun k o => (k, ((256 * q.1 + o.1 : Int), (256 * q.2 + o.2 : Int))))).filterMap (fun o =>
        if t.covers o.2 then some (q.1, q.2, o.1, t.depth o.2) else none))))

/-! ### The depth target (R97, R334) -/

/-- The address of a sample's depth. -/
def Pass.depthAt (p : Pass) (x y smp : Nat) : DWord :=
  let b := if p.four then 16 else 4
  p.depthVa + BitVec.ofNat 64 ((y / 64 * p.rows + x / 64) * 4096 * b + morton (x % 64) (y % 64) * b + 4 * smp)

/-- Physical address of a sample's depth as die d's tables hold it. -/
def State.depthPa (s : State) (p : Pass) (d x y smp : Nat) : Option Nat :=
  (s.diePa d p.asid (p.depthAt x y smp) false).map (fun e => if e.2 then hostBase + e.1 else e.1)

def State.depthGet (s : State) (pa : Nat) : Word := BitVec.ofNat 32 (leNat ((List.range 4).map (fun i => s.engineByte (pa + i))))

/-- The depth test of a pass (R334): a sample's depth against the stored one, as FP32 values. -/
def Pass.test (p : Pass) (new old : Word) : Bool :=
  let a := xr32 new
  let b := xr32 old
  match p.depthFn with
  | 0 => xLt a b
  | 1 => xLe a b
  | 2 => xLt b a
  | 3 => xLe b a
  | 4 => xEq a b
  | 5 => true
  | _ => false

/-! ### Hierarchical depth (R112, R115) -/

/-- The key of the bounds of an 8 × 8 block of a pass's depth target. -/
def hzKey (p x y : Nat) : Nat := (p * 4096 + y / 8) * 4096 + x / 8

/-- The depths stored in a block of the target; none if one of them has no translation. -/
def State.blockDepths (s : State) (p : Pass) (d x y : Nat) : Option (List Word) :=
  ((List.range 64).flatMap (fun i => (List.range (if p.four then 4 else 1)).map (fun k => (i, k)))).foldl (fun t o =>
    let px := x / 8 * 8 + o.1 % 8
    let py := y / 8 * 8 + o.1 / 8
    match t with
    | none => none
    | some l =>
      if p.width ≤ px ∨ p.height ≤ py then some l
      else (s.depthPa p d px py o.2).map (fun pa => s.depthGet pa :: l)) (some [])

/-- Depths as FP32 values, in order. -/
def depthLe (a b : Word) : Bool := xLe (xr32 a) (xr32 b)

/-- The bounds of a block: those that the die keeps while every stored depth lies within them, else the least and the
greatest stored depth; none while a depth has no translation or is NaN. -/
def State.hzBounds (s : State) (p : Pass) (d x y : Nat) : Option (Word × Word) :=
  match s.blockDepths p d x y with
  | none => none
  | some [] => none
  | some (z :: zs) =>
    let fresh : Word × Word := (zs.foldl (fun a b => if depthLe b a then b else a) z, zs.foldl (fun a b => if depthLe a b then b else a) z)
    if (z :: zs).any isNan32 then none
    else match cfind (hzKey p.id x y) (s.gdie d).hz with
      | some b => if (z :: zs).all (fun v => depthLe b.1 v && depthLe v b.2) then some b else some fresh
      | none => some fresh

/-- The bounds of a block kept. -/
def State.hzUpdate (s : State) (p : Pass) (d x y : Nat) : State :=
  let g := s.gdie d
  match s.hzBounds p d x y with
  | some b => s.setGdie d { g with hz := cset (hzKey p.id x y) b g.hz }
  | none => s.setGdie d { g with hz := cdel (hzKey p.id x y) g.hz }

/-- Whether the bounds of a block reject a primitive's coverage of it: every covered sample's depth fails against both
bounds, and so against every depth between them, under an ordered depth function. -/
def State.hzRejects (s : State) (p : Pass) (d x y : Nat) (zs : List Word) : Bool :=
  decide (p.depthFn ≤ 3) && (match s.hzBounds p d x y with
    | some b => zs.all (fun z => !p.test z b.1 && !p.test z b.2)
    | none => false)

/-! ### Rasterising (R107, R108) -/

/-- Whether the fragments of a pass run a shader; and its flags ND, DW and per-sample shading (R113). A pass without a
pixel launch tests and updates at once. -/
structure PixFlags where
  shader : Bool
  nd : Bool
  dw : Bool
  smp : Bool
  deriving DecidableEq, Repr

def State.pixFlags (s : State) (p : Nat) : PixFlags :=
  match s.pixelOf p with
  | some l => { shader := true, nd := bit l.pkt 576, dw := bit l.pkt 577, smp := bit l.pkt 578 }
  | none => { shader := false, nd := true, dw := false, smp := false }

/-- A pass that has neither ended nor lost its pixel launch. -/
def State.passRuns (s : State) (p : Nat) : Bool :=
  (match s.pass? p with
    | some q => !q.ended
    | none => false) &&
  (match s.pixelOf p with
    | some l => l.open
    | none => true)

/-- The fragments of a released primitive, appended to the die's. -/
def State.addFrags (s : State) (d : Nat) (p : Pass) (q : Pkt) (b : BitVec 512) : State :=
  match triSetup b with
  | none => s
  | some t =>
    let all := p.samples d t
    let blocks := (all.map (fun o => (o.1 / 8, o.2.1 / 8))).eraseDups
    let out := if (s.pixelOf p.id).isNone || (s.pixFlags p.id).dw then []
      else blocks.filter (fun b => s.hzRejects p d (8 * b.1) (8 * b.2)
        ((all.filter (fun o => o.1 / 8 == b.1 && o.2.1 / 8 == b.2)).map (fun o => o.2.2.2)))
    let ss := all.filter (fun o => !out.contains (o.1 / 8, o.2.1 / 8))
    let id0 := s.x.nextId
    let fs := ss.mapIdx (fun i o =>
      let m := morton (o.1 % 64) (o.2.1 % 64)
      ({ id := id0 + i, pass := p.id, stream := q.stream, token := q.token, x := o.1, y := o.2.1, smp := o.2.2.1, depth := o.2.2.2, primid := b.extractLsb' 352 32, attr := b.extractLsb' 416 64, lane := m % 32 } : Frag))
    let s1 := { s with x := { s.x with nextId := id0 + fs.length } }
    s1.setGdie d { s1.gdie d with frags := (s1.gdie d).frags ++ fs }

/-! ### The end of a pass -/

/-- Nothing of a pass is in a store, on its way, in a fragment or in a query. -/
def State.passEmpty (s : State) (p : Nat) : Bool :=
  !s.gfx.net.any (fun m => match m.k with
    | .pkt q => q.pass == p
    | .contrib q _ _ _ _ _ => q == p
    | _ => false) &&
  s.gfx.dies.all (fun e =>
    e.2.store.all (fun q => q.pass != p) && e.2.frags.all (fun f => f.pass != p || f.st == .done) && e.2.queries.all (fun q => q.pass != p) &&
    e.2.cells.all (fun o => o.pass != p))

/-- The work of a pass discarded, with what its dies keep for it. -/
def State.passDrop (s : State) (p : Nat) : State :=
  { s with gfx := { s.gfx with
      net := s.gfx.net.filter (fun m => match m.k with
        | .pkt q => q.pass != p
        | .frontier q _ _ => q != p
        | .contrib q _ _ _ _ _ => q != p)
      dies := s.gfx.dies.map (fun e => (e.1, { e.2 with
        store := e.2.store.filter (fun q => q.pass != p)
        fronts := e.2.fronts.filter (fun f => f.1 != p)
        frags := e.2.frags.filter (fun f => f.pass != p)
        queries := e.2.queries.filter (fun q => q.pass != p)
        cells := e.2.cells.filter (fun o => o.pass != p)
        sent := e.2.sent.filter (fun q => q.pass != p)
        hz := e.2.hz.filter (fun h => h.1 / 2 ^ 24 != p) })) } }

/-- A 32-bit counter in memory raised. -/
def State.addWord (s : State) (asid : Nat) (va : DWord) (n : Nat) : State × Bool :=
  if n = 0 then (s, true)
  else
    let s1 := s.ctlTouch asid va 4
    match s1.ctlNum asid va 4 with
    | none => (s1, true)
    | some v => s1.ctlPut asid va (natLe 4 ((v + n) % 2 ^ 32))

/-- The counters CULLED and SKIPPED of a pass brought to memory (R334); the second part says whether both are. -/
def State.passFlush (s : State) (p : Pass) : State × Bool :=
  match s.addWord p.asid p.cnt p.culled with
  | (s1, false) => (s1, false)
  | (s1, true) =>
    let p1 := { p with culled := 0 }
    match (s1.setPass p1).addWord p.asid (p.cnt + 4) p.skipped with
    | (s2, false) => (s2, false)
    | (s2, true) => (s2.setPass { p1 with skipped := 0 }, true)

/-- A feeder of the graph that a GRAPH field names has completed (15_launch R336). -/
def State.feed (s : State) (asid : Nat) (fld : DWord) : State :=
  match (s.graphNamed asid fld).bind s.launch? with
  | some g => s.setLaunch { g with fed := g.fed + 1 }
  | none => s

/-- A pass whose last launch is complete feeds its graph, whatever its status (15_launch R336), and ends once nothing of it
is left. -/
def State.passCheck (s : State) (p : Nat) : State :=
  match s.pass? p with
  | none => s
  | some ps =>
    if !s.sealed p || !(s.passLaunches p).all (fun l => l.st == .recorded) then s
    else
      let s1 := if ps.fed then s else (s.feed ps.asid ps.graphFld).setPass { ps with fed := true }
      if ps.ended then s1
      else if s1.passRuns p && !s1.passEmpty p then s1
      else match s1.passFlush { ps with fed := true } with
        | (s2, false) => s2
        | (s2, true) => (s2.passDrop p).setPass { ps with fed := true, culled := 0, skipped := 0, ended := true }

/-! ### Release of a primitive -/

/-- RASTERISE_PRIMITIVE: die d releases the next packet of pass p: a primitive becomes its fragments in Morton order, a
marker opens or closes its query (R105, R108, R118). -/
def execRasterisePrimitive (d p : Nat) (s : State) : Host.Outcome State Fault Refusal :=
  match s.pass? p, s.releasable d p with
  | some ps, some q =>
    let g := s.gdie d
    let s1 := s.setGdie d { g with store := delFirst (fun r => r == q) g.store }
    if !s.passRuns p then .next (s1.passCheck p)
    else match s.storeGet d ps q with
      | .prim b => .next ((s1.addFrags d ps q b).passCheck p)
      | .occBegin cell =>
        let g1 := s1.gdie d
        .next (s1.setGdie d { g1 with queries := g1.queries ++ [{ pass := p, stream := q.stream, cell := cell, first := q.token }] })
      | .occEnd cell =>
        let g1 := s1.gdie d
        let hit (u : Query) : Bool := u.pass == p && u.stream == q.stream && u.cell == cell && u.last.isNone
        .next (s1.setGdie d { g1 with queries := updFirst hit (fun u => { u with last := some q.token }) g1.queries })
  | _, _ => .next s

/-! ### Depth tests (R108, R113) -/

/-- Whether an earlier fragment at the same sample still holds a test back: it has not made its own test and write. -/
def earlierHolds (fl : PixFlags) (f : Frag) (fs : List Frag) : Bool :=
  (fs.takeWhile (fun e => e.id != f.id)).any (fun e =>
    e.pass == f.pass && e.x == f.x && e.y == f.y && e.smp == f.smp && e.st != .done &&
      !(fl.nd && !fl.dw && e.st != .wait))

/-- A fragment counted in the queries that its token lies in (R118). -/
def countFrag (f : Frag) (qs : List Query) : List Query :=
  qs.map (fun u =>
    if u.pass = f.pass ∧ u.stream = f.stream ∧ u.first ≤ f.token ∧ (match u.last with
      | none => true
      | some t => decide (f.token < t)) = true then { u with count := u.count + 1 } else u)

/-- A fragment that has finished: gone from the die, and counted if it passed and survived. -/
def State.fragDone (s : State) (d : Nat) (f : Frag) (counts : Bool) : State :=
  let g := s.gdie d
  s.setGdie d { g with
    frags := g.frags.filter (fun e => e.id != f.id && e.st != .done)
    queries := if counts then countFrag f g.queries else g.queries }

/-- The depth of a fragment's sample located for a read or a write; otherwise the state in which the fragment waits for the
driver, for a collapse or for the host, or has ended because a soft error or a lost line makes its access undoable
(16_translation R359, 19_traps R412). -/
def State.fragPage (s : State) (p : Pass) (d : Nat) (f : Frag) (write : Bool) : Except State (State × Nat) :=
  let va := p.depthAt f.x f.y f.smp
  match s.unitX d p.asid va write f.id with
  | (s1, .ok pa) =>
    if s1.pchBad pa || (s1.lostAmong [pa]).isSome then .error (s1.fragDone d f false)
    else if !s1.readable [pa] then .error (s1.snoopAsk [lineOf pa])
    else .ok (s1, pa)
  | (s1, .fault c) => let r := s1.unitFault d p.asid c va write; .error (r.1.setFrag d { f with fault := some (r.2, va, c) })
  | (s1, .wait) => .error s1

/-- A sample's depth written, once its line is quiet; otherwise the state in which the fragment waits. -/
def State.depthPut (s : State) (p : Pass) (d : Nat) (f : Frag) : Except State State :=
  if !p.depthWr then .ok s
  else match s.fragPage p d f true with
    | .error t => .error t
    | .ok (s1, pa) =>
      let w := (regsFrom pa 4).zip (natLe 4 f.depth.toNat)
      if s1.quietAll w then .ok ((s1.engineWrite w { asid := some p.asid, vpages := [pageOf (p.depthAt f.x f.y f.smp)] }).hzUpdate p d f.x f.y)
      else .error (s1.snoopAsk (linesOf (w.filter (fun b => !isHost b.1))))

/-- The early test: before the shader, with the update at once under ND (R113). -/
def State.earlyTest (s : State) (p : Pass) (fl : PixFlags) (d : Nat) (f : Frag) : State :=
  match s.fragPage p d f false with
  | .error t => t
  | .ok (s0, pa) =>
    if !p.test f.depth (s0.depthGet pa) then s0.fragDone d f false
    else if fl.nd then
      match s0.depthPut p d f with
      | .error t => t
      | .ok s1 => if fl.shader then s1.setFrag d { f with st := .ready } else s1.fragDone d f true
    else s0.setFrag d { f with st := .ready }

/-- What is left when the fragment has left its shader: the late test of DW, the update of a survivor, the count. A fragment
whose thread has raised a trap of R114 writes nothing and is not counted. -/
def State.lateTest (s : State) (p : Pass) (fl : PixFlags) (d : Nat) (f : Frag) : State :=
  if f.trapped then s.fragDone d f false
  else if fl.nd && !fl.dw then s.fragDone d f true
  else match s.fragPage p d f false with
    | .error t => t
    | .ok (s0, pa) =>
      if fl.dw && !p.test f.depth (s0.depthGet pa) then s0.fragDone d f false
      else match s0.depthPut p d f with
        | .error t => t
        | .ok s1 => s1.fragDone d f true

/-- DEPTH_TEST: fragment f of pass p on die d makes its next test (R108, R113). The tests of a pass begin once its pixel
launch, whose flags select them, is accepted, or no launch joins the pass any more. -/
def execDepthTest (d p f : Nat) (s : State) : Host.Outcome State Fault Refusal :=
  match s.pass? p, (s.gdie d).frags.find? (fun e => e.id == f && e.pass == p) with
  | some ps, some fr =>
    let fl := s.pixFlags p
    if !s.passRuns p then .next ((s.fragDone d fr false).passCheck p)
    else if fr.fault.isSome then .next s
    else match fr.st with
      | .done => .next ((s.fragDone d fr false).passCheck p)
      | .wait =>
        if !s.sealed p then .next s
        else if fl.dw then .next (s.setFrag d { fr with st := .ready })
        else if earlierHolds fl fr (s.gdie d).frags then .next s
        else .next ((s.earlyTest ps fl d fr).passCheck p)
      | .left =>
        if fl.dw && earlierHolds fl fr (s.gdie d).frags then .next s
        else .next ((s.lateTest ps fl d fr).passCheck p)
      | _ => .next s
  | _, _ => .next s

/-! ### Pixel groups (R108, R335) -/

/-- The group of 32 pixels, or samples, that a fragment belongs to. -/
def Frag.key (f : Frag) (perSample : Bool) : List Nat :=
  [f.stream, f.token, f.x / 64, f.y / 64, morton (f.x % 64) (f.y % 64) / 32, if perSample then f.smp else 0]

/-- The first fragment of a pass on a die of a group whose tests are all made. -/
def State.pixelNext (s : State) (p d : Nat) : Option Frag :=
  let fl := s.pixFlags p
  let fs := (s.gdie d).frags.filter (fun f => f.pass == p)
  fs.find? (fun f => f.st == .ready && fs.all (fun e => e.key fl.smp != f.key fl.smp || e.st != .wait))

/-- A pixel workgroup of one group started for that fragment's group. -/
def State.pixelPlace (s : State) (l : Launch) (p : Pass) (d : Nat) (pre : List Word) : Option State :=
  let fl := s.pixFlags p.id
  let fs := (s.gdie d).frags.filter (fun f => f.pass == p.id)
  match s.pixelNext p.id d with
  | none => none
  | some f =>
    let mine := fs.filter (fun e => e.st == .ready && e.key fl.smp == f.key fl.smp)
    let m0 := morton (f.x % 64) (f.y % 64) / 32 * 32
    let s1w := ((f.y / 64 * p.rows + f.x / 64) * 4096 + m0) * p.bpp
    let (n, s1) := s.assignIndex l.id
    let id := s1.x.nextId
    let job : Job := { launch := l, tmpl := l.pkt, stage := 3, index := n, live := some (maskOf (mine.map (fun e => e.lane))), head := [f.primid, BitVec.ofNat 32 s1w, loWord f.attr, hiWord f.attr] }
    match s1.placeIn job d pre with
    | none => none
    | some s2 =>
      let g := s2.gdie d
      some (s2.setGdie d { g with frags := g.frags.map (fun e =>
        if mine.any (fun m => m.id == e.id) then { e with st := .shading, launch := some l.id, wg := some id } else e) })

/-- The first owner die of a pass on which a pixel workgroup can be started. -/
def State.pixelDeal (s : State) (l : Launch) (pre : List Word) : Option State :=
  match l.pass.bind s.pass? with
  | none => none
  | some p => p.active.findSome? (fun d => s.pixelPlace l p d pre)

/-! ### Occlusion queries (R117, R118) -/

/-- OCC_CONTRIBUTION: the i-th query of die d has seen its end and every fragment within it has finished, so its count
goes to the cell's home. -/
def execOccContribution (d p i : Nat) (s : State) : Host.Outcome State Fault Refusal :=
  match s.pass? p, (s.gdie d).queries[i]? with
  | some ps, some q =>
    let g := s.gdie d
    match q.last with
    | none => .next s
    | some t =>
      if q.pass ≠ p ∨ g.frags.any (fun f => f.pass == p && f.stream == q.stream && decide (q.first ≤ f.token ∧ f.token < t) && f.st != .done) = true then .next s
      else
        let va := BitVec.ofNat 64 q.cell
        let h := (s.setGdie d { g with queries := g.queries.eraseIdx i }).cellHome d ps.asid q.cell
        .next (h.1.gsend d h.2 (.contrib p q.cell q.count 1 ps.asid (pageOf va)))
  | _, _ => .next s

/-- The cell's new value for a contribution: the count saturates, and the last of nActive sets FINAL (R117, R118). -/
def cellAdd (old : Word) (count : Nat) (final : Bool) : Word :=
  BitVec.ofNat 32 (min 0x7FFFFFFF (bits old 0 31 + count) + (if final then 2 ^ 31 else bits old 31 1 * 2 ^ 31))

/-- A zero of an occ.begin on a cell is still on its way, or not performed yet. -/
def State.zeroAhead (s : State) (asid cell : Nat) : Bool :=
  s.gfx.net.any (fun m => match m.k with
    | .contrib _ c _ 0 a _ => a == asid && c == cell
    | _ => false) ||
  s.gfx.dies.any (fun e => e.2.cells.any (fun o => o.zero && o.asid == asid && o.cell == cell))

/-- A cell's update performed: the query of a cell that shows FINAL is no longer open (R118, R119). -/
def State.cellDone (s : State) (d : Nat) (o : CellOp) (k : Nat) : State :=
  let s1 := s.delCell d o.id
  match s1.pass? o.pass with
  | none => s1
  | some p =>
    let final := !o.zero && k == p.active.length
    (s1.setPass { p with
      contribs := p.contribs.filter (fun c => c.1 != o.cell) ++ (if o.zero then [] else [(o.cell, k)])
      opened := if final then p.opened.filter (fun q => q.2.1 != o.cell) else p.opened }).passCheck o.pass

/-- An update of a cell at its home performed as far as it can be: a contribution follows the zero of its cell, and a fault of
the cell's page waits for the driver (16_translation R359). -/
def State.cellGo (s : State) (d : Nat) (o : CellOp) : State :=
  let va := BitVec.ofNat 64 o.cell
  if o.fault.isSome || (!o.zero && s.zeroAhead o.asid o.cell) then s
  else match s.unitX d o.asid va true o.id with
    | (s1, .wait) => s1
    | (s1, .fault c) => let r := s1.unitFault d o.asid c va true; r.1.setCell d { o with fault := some (r.2, va, c) }
    | (s1, .ok pa) =>
      if s1.pchBad pa || (s1.lostAmong [pa]).isSome then s1.delCell d o.id
      else if !s1.readable [pa] then s1.snoopAsk [lineOf pa]
      else
        let ps := (s1.pass? o.pass).getD default
        let k := if o.zero then 0 else ((ps.contribs.find? (fun c => c.1 == o.cell)).map (fun c => c.2)).getD 0 + 1
        let new := if o.zero then 0 else cellAdd (s1.depthGet pa) o.count (k == ps.active.length)
        let w := (regsFrom pa 4).zip (natLe 4 new.toNat)
        if !s1.quietAll w then s1.snoopAsk (linesOf (w.filter (fun b => !isHost b.1)))
        else (s1.engineWrite w { asid := some o.asid, vpages := [pageOf va], cls := 1 }).cellDone d o k

/-- The update of a cell that waits at its home under a number, with its die. -/
def State.cellOp? (s : State) (i : Nat) : Option (Nat × CellOp) :=
  s.gfx.dies.findSome? (fun e => (e.2.cells.find? (fun o => o.id == i)).map (fun o => (e.1, o)))

/-- OCC_CELL_UPDATE: the zero of occ.begin, or a contribution, reaches the cell's home and is performed. One that must wait
there tries again under 2^32 plus its number in `sel`. -/
def execOccCellUpdate (s : State) : Host.Outcome State Fault Refusal :=
  if 2 ^ 32 ≤ s.sel then
    match s.cellOp? (s.sel - 2 ^ 32) with
    | some (d, o) => .next (s.cellGo d o)
    | none => .next s
  else match s.gmsg with
    | some { id := _, src := _, dst := d, k := .contrib p cell count n asid _ } =>
      let o : CellOp := { id := s.x.nextId, pass := p, cell := cell, count := count, zero := n == 0, asid := asid }
      let s1 := { s.gtake with x := { s.x with nextId := s.x.nextId + 1 } }
      if !s.working d then .next s1
      else .next ((s1.setGdie d { s1.gdie d with cells := (s1.gdie d).cells ++ [o] }).cellGo d o)
    | _ => .next s

end Sys2Proof.Machine
end

