-- ==== Sys2Proof/Machine/Graph.lean ====
section
/-!
DEFINITION. The work-graph agents (04_render_mesh R120 to R123, 15_launch R336, R342): a core's scheduler taking records,
the wait list, steals, and the end of a graph launch.
-/

set_option linter.unusedVariables false

namespace Sys2Proof.Machine

/-! ### Running records (R122, R336, R342) -/

/-- The workgroup of a record's node (R333, R334). -/
def Launch.nodeJob (l : Launch) (r : GRec) (t : BitVec 1024) (index : Nat) : Job :=
  { launch := l, tmpl := t, stage := 4, index := index, head := r.words, node := r.node }

/-- GRAPH_RECORD_RUN: the scheduler of core c of die d takes the head record of graph l from its deque, as soon as the
core can place a workgroup of its node; a record without a node, or whose COND fails, is retired and counted. -/
def execGraphRecordRun (d c l : Nat) (s : State) : Host.Outcome State Fault Refusal :=
  match s.launch? l with
  | none => .next s
  | some g =>
    if !g.open || s.dealStopped g then .next s
    else match (s.recs d c l).dropWhile (fun r => s.passedOver d g.asid r) with
      | [] => .next s
      | r :: _ =>
        match g.nodes[r.node]? with
        | none =>
          .next (((s.recDel d c r).skipRec r).recWake d c)
        | some t =>
          let (n, s0) := s.assignIndex l
          match s.jobFits (g.nodeJob r t n) d c, s.preload g.asid t with
          | some _, some pre =>
            if !s.roomFor g 1 then .next s
            else match s0.recTake d c g.asid [r] with
              | (none, s1) => .next (s1.recWake d c)
              | (some r1, s1) =>
                match s1.placeOn (g.nodeJob r1 t n) d c pre with
                | none => .next s
                | some s2 => .next (s2.recWake d c)
          | _, none => .next (s.ctlTouch g.asid (pkPre t) (4 * pkNpre t))
          | _, _ => .next s

/-- WAIT_LIST_RESOLVE: the cell of the waiting record i of die d shows FINAL, so the record re-enters its core's deque,
or is retired and counted (R122). -/
def execWaitListResolve (d i : Nat) (s : State) : Host.Outcome State Fault Refusal :=
  let k := s.gdie d
  match k.waits.find? (fun w => w.1 == i) with
  | none => .next s
  | some (_, c, r) =>
    match s.launch? r.graph with
    | none => .next s
    | some g =>
      match s.cellVal d g.asid r.cell with
      | none => .next s
      | some v =>
        if !bit v 31 then .next s
        else
          let s1 := s.setGdie d { k with waits := k.waits.filter (fun w => w.1 != i) }
          if bits v 0 31 ≤ r.thresh then .next (s1.skipRec r)
          else match s1.recPut d c r.plain with
            | none => .next s
            | some s2 => .next s2

/-- REC_PUSH_PARK_RELEASE: space has freed, and a group parked on rec.push completes its push (R121). -/
def execRecPushParkRelease (w g : Nat) (s : State) : Host.Outcome State Fault Refusal := .next (s.recUnpark w g)

/-! ### Steals (R123) -/

/-- A core's steal for a graph. -/
def Core.steal (k : Core) (gr : Nat) : Steal := (k.steals.find? (fun t => t.graph == gr)).getD { graph := gr }
def Core.setSteal (k : Core) (t : Steal) : Core := { k with steals := k.steals.filter (fun u => u.graph != t.graph) ++ [t] }

/-- A core without a record of a graph in its deque and without resident work of it. -/
def State.idleFor (s : State) (d c gr : Nat) : Bool :=
  s.coreWorks d c && ((s.x.core d c).recs gr).isEmpty && (s.x.onCore d c).all (fun w => w.launch != gr)

/-- The tail-most record of a graph on a core that a thief does not pass over, moved to the head of the thief's deque; a
thief without room there takes nothing. DESIGN CHOICE (assumption 103): the manual gives the stolen record no other place, so
that from there it is run, popped or stolen again. -/
def State.stealFrom (s : State) (d c e j gr asid : Nat) : Option State :=
  match (s.recs e j gr).reverse.dropWhile (fun r => s.passedOver e asid r) with
  | [] => none
  | r :: _ => ((s.recDel e j r).recPut d c r).map (fun s1 => s1.recWake e j)

/-- One attempt within the die: the cores in the order of D, fused-off ones skipped. A record found is the core's; else
the core goes on to the die's successors. -/
def State.stealOwn (s : State) (d c : Nat) (g : Launch) : State :=
  let t := (s.x.core d c).steal g.id
  match ((stealOrder c t.attempt).filter (fun j => s.coreWorks d j)).findSome? (fun j => s.stealFrom d c d j g.id g.asid) with
  | some s1 => s1
  | none => { s with x := s.x.setCore d c ((s.x.core d c).setSteal { t with pos := 1, waitTo := none }) }

/-- STEAL_ATTEMPT: an idle core of a graph visits the cores of its die. -/
def execStealAttempt (d c l : Nat) (s : State) : Host.Outcome State Fault Refusal :=
  match s.launch? l with
  | none => .next s
  | some g =>
    let t := (s.x.core d c).steal l
    if !g.open || pkStage g.pkt ≠ 4 || s.dealStopped g || !s.idleFor d c l || t.pos ≠ 0 || t.waitTo.isSome then .next s
    else .next (s.stealOwn d c g)

/-- STEAL_REQUEST: the next successor die answers from the tail of its core with the most records, or answers empty;
after the last, the core waits 1,024 clocks. -/
def execStealRequest (d c l : Nat) (s : State) : Host.Outcome State Fault Refusal :=
  match s.launch? l with
  | none => .next s
  | some g =>
    let k := s.x.core d c
    let t := k.steal l
    let wait (s : State) : State := { s with x := s.x.setCore d c ((s.x.core d c).setSteal { t with pos := 0, waitTo := some (s.x.clk + 1024) }) }
    if t.pos = 0 then .next s
    else if !g.open || !s.idleFor d c l then .next { s with x := s.x.setCore d c (k.setSteal { t with pos := 0, waitTo := none }) }
    else match (s.successors d)[t.pos - 1]? with
      | none => .next (wait s)
      | some e =>
        let full := maxBy (fun j => ((s.x.core e j).recs l).length) ((List.range Config.nCores).filter (fun j => s.coreWorks e j))
        match full.bind (fun j => s.stealFrom d c e j l g.asid) with
        | some s1 => .next { s1 with x := s1.x.setCore d c ((s1.x.core d c).setSteal { t with pos := 0 }) }
        | none =>
          if t.pos = (s.successors d).length then .next (wait s)
          else .next { s with x := s.x.setCore d c (k.setSteal { t with pos := t.pos + 1 }) }

/-- STEAL_RETRY_EXPIRY: 1,024 clocks after a failed attempt, the next one starts. -/
def execStealRetryExpiry (d c l : Nat) (s : State) : Host.Outcome State Fault Refusal :=
  match s.launch? l with
  | none => .next s
  | some g =>
    let k := s.x.core d c
    let t := k.steal l
    match t.waitTo with
    | none => .next s
    | some n =>
      if s.x.clk < n then .next s
      else
        let s1 := { s with x := s.x.setCore d c (k.setSteal { t with attempt := t.attempt + 1, waitTo := none }) }
        if g.open && s1.idleFor d c l && !s1.dealStopped g then .next (s1.stealOwn d c g) else .next s1

/-! ### The end of a graph launch (R336) -/

/-- No record of a graph is in a deque, a ring or a wait list, and no workgroup of it is resident. -/
def State.graphEmpty (s : State) (l : Nat) : Bool :=
  s.x.cores.all (fun e => (e.2.recs l).isEmpty) && s.gfx.dies.all (fun e => e.2.waits.all (fun w => w.2.2.graph != l)) &&
    s.x.wgs.all (fun w => w.launch != l)

/-- The records counted in the passes of a context, brought to memory. -/
def State.passesFlush (s : State) (asid : Nat) : State × Bool :=
  (s.gfx.passes.filter (fun p => p.asid == asid && p.skipped != 0)).foldl (fun r p => if r.2 then r.1.passFlush p else r) (s, true)

/-- GRAPH_LAUNCH_COMPLETE: every feeder is complete and nothing of the graph remains; its records go to the counters of
their passes, those that no pass counts to GCNT, and its OK record is written under R182. -/
def execGraphLaunchComplete (l : Nat) (s : State) : Host.Outcome State Fault Refusal :=
  match s.launch? l with
  | none => .next s
  | some g =>
    if !g.open || pkStage g.pkt ≠ 4 || decide (g.fed < pkFld g.pkt 88 0 32) || !s.graphEmpty l then .next s
    else match s.passesFlush g.asid with
      | (s0, false) => .next s0
      | (s0, true) =>
        match s0.addWord g.asid (g.pkt.extractLsb' 832 64) g.skipped with
        | (s1, false) => .next s1
        | (s1, true) => .next (s1.endLaunch { g with skipped := 0 } stOK 0 0)

end Sys2Proof.Machine
end

