-- ==== Sys2Proof/Machine/Launch.lean ====
section
/-!
DEFINITION. Queues, packets and the life of launches (15_launch R328 to R348, R454): doorbells, acceptance, selection,
dealing, completion, event records and interrupts.
-/

set_option linter.unusedVariables false

namespace Sys2Proof.Machine

/-! ### Doorbells (R329, R331) -/

/-- QUEUE_DOORBELL: a value above the write pointer becomes it; an overrun stops the queue with its record, whose PACKET
names no packet and is free. -/
def State.doorbell (s : State) (q v : Nat) : Host.Outcome State Fault Refusal :=
  let k := s.queue q
  let w := v % 2 ^ 64
  if !s.pkg.ready || decide (w ≤ k.wr) then .next s
  else if k.run && decide (2 ^ k.log2n < w - k.rd) then
    let (f, s1) := s.freeNum
    let s2 := s1.setQueue q { k with wr := w, run := false, stopped := true }
    .next (s2.post { ring := ctxRing k.asid k.evr, body := recBody stOVERRUN 0 q 0 0 f.toNat 0 })
  else .next (s.setQueue q { k with wr := w })

/-- QUEUE_DOORBELL. -/
def execQueueDoorbell (q v : Nat) (s : State) : Host.Outcome State Fault Refusal := s.doorbell q v

/-! ### Region control blocks (R338, R339) -/

/-- The chain of RCBs from an address up to the root, read as they stand; none if one cannot be read. The flag tells
that the chain ends within eight levels. -/
def State.rcbChain (s : State) (asid : Nat) : Nat → DWord → Option (List (DWord × BitVec 512) × Bool)
  | 0, a => some ([], a == 0)
  | n + 1, a =>
    if a = 0 then some ([], true)
    else match s.ctlRead asid a 64 with
      | none => none
      | some bs =>
        let b := bvOf 512 bs
        match s.rcbChain asid n (b.extractLsb' 0 64) with
        | none => none
        | some (r, ok) => some ((a, b) :: r, ok)

/-- Fields of an RCB: override bits are PRIO, FDOM, HANDLER, WGMAX from bit 4 of CTL. -/
def rcbPrio (b : BitVec 512) : Nat := bits b 160 3
def rcbFdom (b : BitVec 512) : Bool := bit b 163
def rcbOver (b : BitVec 512) (k : Nat) : Bool := bit b (164 + k)
def rcbDepth (b : BitVec 512) : Nat := bits b 168 3
def rcbHandler (b : BitVec 512) : DWord := b.extractLsb' 64 64
def rcbWgmax (b : BitVec 512) : Nat := bits b 128 32

/-- An RCB without a reserved bit set, with an aligned PARENT, and with a HANDLER that is a multiple of 128 (R337, R338). -/
def rcbOk (b : BitVec 512) : Bool :=
  bits b 171 21 == 0 && bits b 192 320 == 0 && bits b 0 6 == 0 && bits b 64 7 == 0

/-- The pages of a chain of RCBs touched, as far as it can be read (16_translation R361). -/
def State.rcbTouch (s : State) (asid : Nat) : Nat → DWord → State
  | 0, _ => s
  | n + 1, a =>
    if a = 0 then s
    else
      let s1 := s.ctlTouch asid a 64
      match s1.ctlRead asid a 64 with
      | none => s1
      | some bs => s1.rcbTouch asid n ((bvOf 512 bs).extractLsb' 0 64)

/-- The DEPTH of each node is its parent's plus one, 0 at the root. -/
def chainOk : List (DWord × BitVec 512) → Bool
  | [] => true
  | (_, b) :: r => rcbOk b && rcbDepth b == r.length && chainOk r

/-- The effective value of a field: the node's own at the root or under its override bit, else its parent's. -/
def effective {α : Type} (k : Nat) (f : BitVec 512 → α) (d : α) : List (DWord × BitVec 512) → α
  | [] => d
  | (_, b) :: r => if r.isEmpty || rcbOver b k then f b else effective k f d r

/-- The limits and fault-domain bits of a chain. -/
def rcbRefs : List (DWord × BitVec 512) → List RcbRef
  | [] => []
  | (a, b) :: r =>
    { addr := a, wgmax := if r.isEmpty || rcbOver b 3 then rcbWgmax b else 0, fdom := rcbFdom b } :: rcbRefs r

/-! ### Checks of a packet (R337) -/

/-- What a packet is checked as: a queued launch, a mesh template (R454), a node template (R334). -/
inductive PkUse where
  | queued
  | child
  | node
  deriving DecidableEq, Repr

/-- Registers that stage words take (R333). -/
def stageWords (t : BitVec 1024) (u : PkUse) : Nat :=
  if u = .node ∨ pkStage t = 2 then 16 else if pkStage t = 3 then 4 else 0

def within (lo hi n : Nat) : Bool := decide (lo ≤ n ∧ n ≤ hi)

/-- The stage area (R334, R336). -/
def stageOk (t : BitVec 1024) (u : PkUse) : Bool :=
  match pkStage t with
  | 0 =>
    bits t 532 12 == 0 && bits t 608 416 == 0 &&
      (!bit t 531 || (u == .queued && pkCores t && within 1 8 (bits t 518 4) && within 1 6 (bits t 522 3)))
  | 1 =>
    within 1 256 (pkFld t 88 0 9) && within 10 24 (pkFld t 88 9 5) && pkFld t 88 18 14 == 0 && pkFld t 92 20 12 == 0 &&
      bits t 768 256 == 0
  | 2 =>
    within 1 256 (pkFld t 72 0 9) && within 1 512 (pkFld t 72 9 10) && pkFld t 72 23 9 == 0 && pkFld t 76 20 12 == 0 &&
      bits t 640 384 == 0
  | 3 => pkFld t 72 3 29 == 0 && bits t 608 416 == 0
  | _ =>
    within 9 24 (pkFld t 80 0 5) && pkFld t 80 5 27 == 0 && within 1 65536 (pkFld t 84 0 32) &&
      decide (pkFld t 88 0 32 ≤ 2 ^ 24) && decide (pkFld t 92 0 32 ≤ 2 ^ 24) && bits t 896 128 == 0

/-- A packet whose own fields pass. -/
def packetOk (t : BitVec 1024) (u : PkUse) : Bool :=
  let q := u == .queued
  pkType t == 1 && decide (pkStage t ≤ 4) && bits t 10 22 == 0 &&
    (u != .child || pkStage t == 2) && (u != .node || pkStage t == 0) &&
    (!q || (if pkStage t = 3 ∨ pkStage t = 4 then pkNwg t == 0 else within 1 (2 ^ 24) (pkNwg t))) &&
    (!q || (pkRcb t != 0 && bits t 64 6 == 0)) &&
    bits t 128 7 == 0 && within 1 1024 (pkThreads t) && decide (pkProducer t < pkGroups t) && decide (pkAcc t ≤ 32) &&
    bits t 218 6 == 0 && decide (pkScr t ≤ 512) && bits t 234 22 == 0 && bits t 327 25 == 0 && bits t 366 2 == 0 &&
    decide (stageWords t u + pkNpre t ≤ 64) && stageOk t u

/-! ### Passes (R95, R334) -/

/-- A pass descriptor without a reserved value. DESIGN CHOICE (assumption 107): a DEPTH that is no multiple of 64 KiB (R97) is
taken as it stands. -/
def passOk (b : BitVec 512) : Bool :=
  bits b 48 16 == 0 && within 12 24 (bits b 192 5) && decide (bits b 197 3 ≤ 6) && decide (bits b 202 2 ≤ 2) &&
    bits b 204 20 == 0 && !bit b 239 && !bit b 255 && bits b 384 128 == 0

/-- The pass of a launch: the one in progress under its descriptor, or a new one, whose owner set is fixed now. The
outer none is a descriptor that cannot be read, the inner one a pass without a working owner or a bad descriptor. -/
def State.passFor (s : State) (asid : Nat) (t : BitVec 1024) : Option (Option (Nat × State)) :=
  match s.gfx.passes.find? (fun p => p.asid == asid && p.desc == pkPass t && !p.ended) with
  | some p => some (some (p.id, s))
  | none =>
    match s.ctlRead asid (pkPass t) 64 with
    | none => none
    | some bs =>
      let b := bvOf 512 bs
      let own := bits b 0 48
      let active := s.dieOrder.filter (fun d => own == 0 || own / 2 ^ d % 2 == 1)
      if active.isEmpty || !passOk b then some none
      else
        let id := s.x.nextId
        let p : Pass := { id := id, desc := pkPass t, asid := asid, bytes := b, active := active }
        some (some (id, { s with gfx := { s.gfx with passes := s.gfx.passes ++ [p] }, x := { s.x with nextId := id + 1 } }))

/-! ### Graph launches (R336) -/

/-- The node packets of a graph launch. -/
def State.readNodes (s : State) (asid : Nat) (base : DWord) : Nat → Option (List (BitVec 1024))
  | 0 => some []
  | n + 1 =>
    match s.readNodes asid base n, s.ctlRead asid (base + BitVec.ofNat 64 (128 * n)) 128 with
    | some l, some bs => some (l ++ [bvOf 1024 bs])
    | _, _ => none

/-- The seed records of a graph launch. -/
def State.readSeeds (s : State) (asid : Nat) (base : DWord) : Nat → Option (List (List Word))
  | 0 => some []
  | n + 1 =>
    match s.readSeeds asid base n, s.ctlRead asid (base + BitVec.ofNat 64 (64 * n)) 64 with
    | some l, some bs => some (l ++ [(List.range 16).map (fun i => BitVec.ofNat 32 (leNat ((bs.drop (4 * i)).take 4)))])
    | _, _ => none

/-- The working cores in the order in which seeds are dealt. -/
def State.seedCores (s : State) : List (Nat × Nat) :=
  s.pkgRing.flatMap (fun d => ((List.range Config.nCores).filter (fun c => s.coreWorks d c)).map (fun c => (d, c)))

/-- The seed records pushed at the heads of the cores' deques, one to each core in turn; none while one finds no room
(assumption 34). -/
def State.pushSeeds (s : State) (g : Launch) (recs : List (List Word)) : Option State :=
  let cs := s.seedCores
  (recs.mapIdx (fun i r => (i, r))).foldl (fun (o : Option State) p =>
    match o, cs[p.1 % cs.length]? with
    | some s, some (d, c) => s.recPut d c { graph := g.id, words := p.2 }
    | _, _ => o) (some s)

/-! ### Acceptance (R330, R332 to R344) -/

/-- A launch added to the scheduler's list, in order of acceptance. -/
def State.addLaunch (s : State) (l : Launch) : State :=
  { s with sch := { s.sch with launches := s.sch.launches ++ [l], nextLaunch := l.id + 1 } }

/-- A packet of which nothing runs, with its record (R337, R344). -/
def State.rejectLaunch (s : State) (l : Launch) (status : Nat) : State :=
  (s.addLaunch { l with st := .ended }).postLaunch l status 0 0

/-- The launch ring of a mesh launch: the working dies of its rectangle in the order of R130. -/
def State.launchRing (s : State) (t : BitVec 1024) : List Nat :=
  ((ringOrder (bits t 518 4) (bits t 522 3)).map (fun p => (bits t 512 3 + p.1, bits t 515 3 + p.2))).filterMap (fun p =>
    if p.1 < 8 ∧ p.2 < 6 ∧ s.working (8 * p.2 + p.1) = true then some (8 * p.2 + p.1) else none)

/-- The graph part of an acceptance: node packets checked, seeds pushed. -/
def State.acceptGraph (s : State) (l : Launch) : Option State :=
  let t := l.pkt
  match s.readNodes l.asid (t.extractLsb' 512 64) (pkFld t 84 0 32) with
  | none => none
  | some ns =>
    if !ns.all (fun n => packetOk n .node) then some (s.rejectLaunch l stBAD_PACKET)
    else match s.readSeeds l.asid (t.extractLsb' 768 64) (pkFld t 92 0 32) with
      | none => none
      | some rs =>
        let g := { l with nodes := ns, st := .dealt }
        (s.addLaunch g).pushSeeds g rs

/-- A launch accepted, but for one with CORES that would not fit at once on dies with nothing resident (R344). -/
def State.acceptFit (s0 s : State) (l : Launch) : State :=
  let s1 := s.addLaunch l
  if pkCores l.pkt && !s1.fitsEmpty l then s0.rejectLaunch l stNO_FIT else s1

/-- The pass part of an acceptance, with the template of a task launch, whose children belong to the pass that it names
(R95, R454). -/
def State.acceptPass (s : State) (l : Launch) : Option State :=
  let go (s0 : State) (l : Launch) : Option State :=
    match s0.passFor l.asid l.pkt with
    | none => none
    | some none => some (s0.rejectLaunch l stBAD_PACKET)
    | some (some (p, s1)) =>
      let l1 := { l with pass := some p, st := if pkStage l.pkt = 3 then LaunchSt.dealt else .dealing }
      if pkStage l.pkt = 3 then some (s1.addLaunch l1)
      else if pkStage l.pkt = 1 then
        match s1.passFor l.asid l.tmpl with
        | none => none
        | some none => some (s0.rejectLaunch l stBAD_PACKET)
        | some (some (c, s2)) => some (s0.acceptFit s2 { l1 with cpass := some c })
      else some (s0.acceptFit s1 l1)
  if pkStage l.pkt = 1 then
    match s.ctlRead l.asid (l.pkt.extractLsb' 576 64) 128 with
    | none => none
    | some bs =>
      let m := bvOf 1024 bs
      if !packetOk m .child then some (s.rejectLaunch l stBAD_PACKET) else go s { l with tmpl := m }
  else go s l

/-- The compute part of an acceptance: the mesh rectangle and the co-residency that could never be (R126, R344). -/
def State.acceptCompute (s : State) (l : Launch) : State :=
  let ring := if pkMeshl l.pkt then s.launchRing l.pkt else []
  let l1 := { l with ring := ring }
  if pkMeshl l.pkt && pkNwg l.pkt != l1.wpd * ring.length then s.rejectLaunch l stBAD_PACKET
  else s.acceptFit s l1

/-- A queue of another context, as DEP may not name (R337): one that is, or was last, enabled for it. -/
def State.foreignQueue (s : State) (asid q : Nat) : Bool :=
  let k := s.queue q
  k.log2n != 0 && k.asid != asid

/-- The pages that a packet names, and that its acceptance reads, touched (16_translation R361). -/
def State.touchPacket (s : State) (asid : Nat) (t : BitVec 1024) : State :=
  let s0 := s.rcbTouch asid 8 (pkRcb t)
  match pkStage t with
  | 0 => s0
  | 1 =>
    let tmpl := t.extractLsb' 576 64
    let s1 := (s0.ctlTouch asid (pkPass t) 64).ctlTouch asid tmpl 128
    match s1.ctlRead asid tmpl 128 with
    | none => s1
    | some bs => s1.ctlTouch asid (pkPass (bvOf 1024 bs)) 64
  | 4 => (s0.ctlTouch asid (t.extractLsb' 512 64) (128 * pkFld t 84 0 32)).ctlTouch asid (t.extractLsb' 768 64) (64 * pkFld t 92 0 32)
  | _ => s0.ctlTouch asid (pkPass t) 64

/-- A write of the host to device memory that has not been performed (07_ordering R182). -/
def isHostWrite (m : Msg) : Bool :=
  m.src == .host && (match m.k with
    | .wrThru _ _ _ _ => true
    | _ => false)
def State.hostWrites (s : State) : Bool :=
  s.fab.net.any isHostWrite || s.fab.dies.any (fun e => e.2.waitq.any isHostWrite || e.2.held.any isHostWrite || e.2.again.any (fun a => isHostWrite a.2)) ||
    s.fab.slices.any (fun e => e.2.waits.any isHostWrite || (match e.2.recalls with
      | some m => isHostWrite m
      | none => false))

/-- A fetched packet accepted or rejected; none while something that it names cannot be read yet. -/
def State.accept (s : State) (q : Nat) (k : Queue) (t : BitVec 1024) : Option State :=
  let dep := if pkDepv t then some (pkDepQ t, pkDepIdx t) else none
  let l : Launch := { id := s.sch.nextLaunch, queue := q, pidx := k.rd, asid := k.asid, pkt := t, evr := k.evr, serial := pkSerial t, dep := dep }
  if !packetOk t .queued || (pkDepv t && s.foreignQueue k.asid (pkDepQ t)) then some (s.rejectLaunch l stBAD_PACKET)
  else match s.rcbChain k.asid 8 (pkRcb t) with
    | none => none
    | some (ch, ended) =>
      if !ended || !chainOk ch then some (s.rejectLaunch l stBAD_PACKET)
      else
        let l1 := { l with rcbs := rcbRefs ch, prio := effective 0 rcbPrio 0 ch, handler := effective 2 rcbHandler 0 ch }
        match pkStage t with
        | 0 => some (s.acceptCompute l1)
        | 4 => s.acceptGraph l1
        | _ => s.acceptPass l1

/-- The address of an entry of a queue. -/
def Queue.entryVa (k : Queue) (n : Nat) : DWord := k.base + BitVec.ofNat 64 (64 * (n % 2 ^ k.log2n))

/-- The 128 bytes of the packet at a queue's read pointer. -/
def State.packetAt (s : State) (k : Queue) : Option (BitVec 1024) :=
  match s.ctlRead k.asid (k.entryVa k.rd) 64, s.ctlRead k.asid (k.entryVa (k.rd + 1)) 64 with
  | some a, some b => some (bvOf 1024 (a ++ b))
  | _, _ => none

/-- PACKET_FETCH: a packet whose two entries lie below write is fetched and accepted, or rejected; read advances by 2
and goes to RPTRA (R329, R330). It follows the host's writes to device memory, so that what the host wrote before the
doorbell is visible to the launch (07_ordering R182). -/
def execPacketFetch (q : Nat) (s : State) : Host.Outcome State Fault Refusal :=
  let k := s.queue q
  if !k.run || decide (k.wr < k.rd + 2) || s.hostWrites then .next s
  else match s.packetAt k with
    | none => .next ((s.ctlTouch k.asid (k.entryVa k.rd) 64).ctlTouch k.asid (k.entryVa (k.rd + 1)) 64)
    | some t =>
      match s.accept q k t with
      | none => .next (s.touchPacket k.asid t)
      | some s1 =>
        match s1.ctlPut k.asid k.rptra (natLe 8 (k.rd + 2)) with
        | (_, false) => .next ((s.ctlPut k.asid k.rptra (natLe 8 (k.rd + 2))).1)
        | (s2, true) => .next (s2.setQueue q { k with rd := k.rd + 2 })

/-! ### Selection (R340, R341) -/

/-- The completion record of the packet that DEP names is written. -/
def State.depMet (s : State) (l : Launch) : Bool :=
  match l.dep with
  | none => true
  | some (q, n) =>
    let hit := s.sch.launches.filter (fun k => k.asid == l.asid && k.queue == q && k.pidx % 2 ^ 52 == n)
    !hit.isEmpty && hit.all (fun k => k.st == .recorded)

/-- A packet that is not fully dealt: a pixel launch, whose workgroups no count bounds, while a group of its fragments waits
to be started. -/
def State.undealt (s : State) (l : Launch) : Bool :=
  if pkStage l.pkt = 3 then l.open && (match l.pass.bind s.pass? with
    | some p => p.active.any (fun d => (s.pixelNext p.id d).isSome)
    | none => false)
  else l.st == .dealing

/-- A packet is ready (R340), and its context's dealing is not stopped. -/
def State.ready (s : State) (l : Launch) : Bool :=
  let before := (s.sch.launches.takeWhile (fun k => k.id != l.id)).filter (fun k => k.queue == l.queue)
  s.undealt l && before.all (fun k => !s.undealt k) && (!l.serial || before.all (fun k => k.st == .recorded)) &&
    s.depMet l && s.roomFor l (if pkCores l.pkt && l.next == 0 then pkNwg l.pkt else 1) && !s.dealStopped l

/-- The distance of a queue behind the one last served at its priority. -/
def State.turn (s : State) (l : Launch) : Nat := (l.queue + 4096 - 1 - (s.sch.lastq[l.prio]?).getD 4095) % 4096

/-- SCHEDULING_ROUND: the ready packet of the highest effective priority is served, round robin among its queues. -/
def execSchedulingRound (s : State) : Host.Outcome State Fault Refusal :=
  let rs := s.sch.launches.filter s.ready
  match maxBy (fun l => l.prio) rs with
  | none => .next { s with sch := { s.sch with launches := s.sch.launches.map (fun l => { l with chosen := false }) } }
  | some top =>
    match minBy s.turn (rs.filter (fun l => l.prio == top.prio)) with
    | none => .next s
    | some l =>
      .next { s with sch := { s.sch with
        launches := s.sch.launches.map (fun k => { k with chosen := k.id == l.id })
        lastq := s.sch.lastq.set l.prio l.queue } }

/-! ### Dealing (R342 to R344) -/

/-- The round is over: the next workgroup is dealt by a new choice (R341). -/
def State.roundOver (s : State) : State :=
  { s with sch := { s.sch with launches := s.sch.launches.map (fun (l : Launch) => { l with chosen := false }) } }

/-- What is dealt of the launch that a round serves: its next workgroup, every one of them at once under CORES, or of a
pixel launch its next pixel group. -/
def State.deal (s : State) (k : Launch) (pre : List Word) : Option State :=
  if pkStage k.pkt = 3 then s.pixelDeal k pre
  else if pkCores k.pkt then State.dealAll pre k.id (pkNwg k.pkt - k.next) s
  else s.dealOne k pre

/-- WORKGROUP_PLACEMENT: work of the launch that is served is dealt, and the round ends with it. -/
def execWorkgroupPlacement (l : Nat) (s : State) : Host.Outcome State Fault Refusal :=
  match s.launch? l with
  | none => .next s
  | some k =>
    if !k.chosen || !s.ready k || s.sch.launches.any (fun j => decide (k.prio < j.prio) && s.ready j) then .next s
    else match s.preload k.asid k.pkt with
      | none => .next (s.ctlTouch k.asid (pkPre k.pkt) (4 * pkNpre k.pkt))
      | some pre =>
        match s.deal k pre with
        | some s1 => .next s1.roundOver
        | none => if pkCores k.pkt && decide (pkStage k.pkt ≤ 2) && !s.fitsEmpty k then .next (s.endLaunch k stNO_FIT 0 0) else .next s

/-! ### Completion (R182, R454, 02_execution R27) -/

/-- Nothing of a launch is resident or waiting: no workgroup, no child. -/
def State.launchIdle (s : State) (l : Nat) : Bool :=
  s.x.wgs.all (fun w => w.launch != l) &&
    s.gfx.dies.all (fun e => e.2.amp.all (fun c => c.launch != l) && e.2.ring.all (fun c => c.launch != l))

/-- The conditions of R454 for a pixel launch. -/
def State.pixelIdle (s : State) (l : Launch) : Bool :=
  match l.pass with
  | none => true
  | some p =>
    (s.passLaunches p).all (fun k => pkStage k.pkt == 3 || decide (l.id ≤ k.id) || k.st == .recorded) && s.passEmpty p

/-- LAUNCH_COMPLETE: every workgroup has been dealt and has ended with every access performed, so the OK record is
written, after the pass's counters. -/
def execLaunchComplete (l : Nat) (s : State) : Host.Outcome State Fault Refusal :=
  match s.launch? l with
  | none => .next s
  | some k =>
    if k.st ≠ .dealt ∨ pkStage k.pkt = 4 ∨ s.launchIdle l = false then .next s
    else if pkStage k.pkt = 3 ∧ s.pixelIdle k = false then .next s
    else
      let fin (s : State) : State := (s.setLaunch { k with st := .ended }).postLaunch k stOK 0 0
      match k.pass.bind s.pass? with
      | none => .next (fin s)
      | some p =>
        match s.passFlush p with
        | (s1, false) => .next s1
        | (s1, true) => .next (fin s1)

/-! ### The life of a workgroup (02_execution R27, 03_kernel_memory R82) -/

/-- Every thread has ended, and every counter and token is zero. -/
def Wg.finished (w : Wg) : Bool :=
  w.groups.all (fun g => g.live.isEmpty && g.ld == 0 && g.stc == 0 && g.tl == 0) && w.qs.all (fun n => n == 0)

/-- WORKGROUP_COMPLETE: the workgroup drops its active slots as stand.drop does (R82 step 1). -/
def execWorkgroupComplete (wi : Nat) (s : State) : Host.Outcome State Fault Refusal :=
  match s.x.wg? wi with
  | none => .next s
  | some w =>
    if w.st ≠ .running ∨ w.finished = false then .next s
    else
      let s1 := s.putWg { w with st := .dropping }
      let mine := (s1.x.core w.die w.core).stand.filter (fun e => e.2.wg == wi && e.2.st == .active)
      .next (mine.foldl (fun s e => s.dropSlot w 0 e.1 (.nop default) 0 none []) s1)

/-- RESOURCE_RELEASE: once its drops are complete, the workgroup's handles, partition, registers and slots are free
(R82 steps 2 to 4). -/
def execResourceRelease (wi : Nat) (s : State) : Host.Outcome State Fault Refusal :=
  match s.x.wg? wi with
  | none => .next s
  | some w =>
    let k := s.x.core w.die w.core
    if w.st ≠ .dropping ∨ k.stand.any (fun e => e.2.wg == wi) = true then .next s
    else
      let k1 := w.allBanks.foldl (fun k b => k.zeroBank s.x.clk b) k
      let x := { s.x.setCore w.die w.core k1 with wgs := s.x.wgs.filter (fun u => u.id != wi) }
      let s1 := { s with x := x }
      .next (match s1.launch? w.launch with
        | none => s1
        | some l => s1.setLaunch { l with ended := l.ended + 1 })

/-! ### Event rings (R345 to R348) -/

/-- A ring as its register or table entry sets it: where its records go, its size, thresholds, pointers and pending
records. -/
structure RingV where
  asid : Option Nat := none
  base : DWord := 0
  log2n : Nat := 0
  c : Nat := 0
  t : Nat := 0
  vec : Nat := 0
  wpa : DWord := 0
  wp : Nat := 0
  rp : Nat := 0
  since : Nat := 0
  oldest : Option Nat := none
  deriving DecidableEq, Repr

/-- FLT_CTL and DRING_CTL as thresholds, vector and size (R355). -/
def ctlRing (base ctl : DWord) (wp rp since : Nat) (oldest : Option Nat) : RingV :=
  { base := BitVec.ofNat 64 (bits base 12 40 * 4096), log2n := bits ctl 0 5, c := bits ctl 32 16, t := bits ctl 48 16, vec := bits ctl 21 11, wp := wp, rp := rp, since := since, oldest := oldest }

/-- The ring of a number (context rings, then die rings, then the driver fault ring). -/
def State.ringV (s : State) (n : Nat) : Option RingV :=
  if n < 262144 then
    let c := s.ctx (n / 1024)
    match c.rings[n % 1024]? with
    | none => none
    | some r => some { asid := some (n / 1024), base := r.base, log2n := r.log2n, c := r.c, t := r.t, vec := r.vec, wpa := r.wpa, wp := r.wp, rp := r.rp, since := r.since, oldest := r.oldest }
  else if n < faultRing then
    let d := n - 262144
    let k := s.die d
    some (ctlRing k.dringBase k.dringCtl k.dringWp k.dringRd (cget 0 d s.sch.dieSince) (cfind d s.sch.dieOldest))
  else some (ctlRing s.sch.fltBase s.sch.fltCtl s.sch.fltWp s.sch.fltRd s.sch.fltSince s.sch.fltOldest)

/-- The pointers and pending counts of a ring written back. -/
def State.setRingV (s : State) (n : Nat) (v : RingV) : State :=
  if n < 262144 then
    let c := s.ctx (n / 1024)
    match c.rings[n % 1024]? with
    | none => s
    | some r => s.setCtx (n / 1024) { c with rings := c.rings.set (n % 1024) { r with wp := v.wp, rp := v.rp, since := v.since, oldest := v.oldest } }
  else if n < faultRing then
    let d := n - 262144
    let s1 := s.setDie d { s.die d with dringWp := v.wp, dringRd := v.rp }
    let old := match v.oldest with
      | some t => cset d t s1.sch.dieOldest
      | none => cdel d s1.sch.dieOldest
    { s1 with sch := { s1.sch with dieSince := cput 0 d v.since s1.sch.dieSince, dieOldest := old } }
  else { s with sch := { s.sch with fltWp := v.wp, fltRd := v.rp, fltSince := v.since, fltOldest := v.oldest } }

/-- A ring takes a record: it is enabled and not full. -/
def RingV.room (v : RingV) : Bool := v.log2n != 0 && decide (v.wp - v.rp < 2 ^ v.log2n)

/-- The ring's interrupt is raised: its vector, and its pending records counted anew. -/
def State.interrupt (s : State) (n : Nat) (v : RingV) : State :=
  let s1 := s.setRingV n { v with since := 0, oldest := none }
  { s1 with sch := { s1.sch with ints := s1.sch.ints ++ [v.vec] } }

/-- Bytes written by physical address by the package controller, once their lines are quiet. -/
def State.paPut (s : State) (pa : Nat) (bs : List Byte) : State × Bool :=
  let w := (regsFrom pa bs.length).zip bs
  if s.quietAll w then (s.engineWrite w {}, true) else (s.snoopAsk (linesOf w), false)

/-- A record written: the launch that it reports is complete, and the group that waited for it goes on. -/
def State.recorded (s : State) (r : PendRec) : State :=
  let s1 := match r.wake with
    | some (w, g, id) => { s with x := s.x.onGrp w g (fun gr => { gr with lanes := gr.lanes.map (fun (t : Lane) => t.lift (.sys id)) }) }
    | none => s
  match r.launch.bind s1.launch? with
  | none => s1
  | some l =>
    let s2 := s1.setLaunch { l with st := .recorded }
    let s3 := if pkStage l.pkt = 0 then s2.feed l.asid (pkGraph l.pkt) else s2
    match l.pass with
    | some p => s3.passCheck p
    | none => s3

/-- EVENT_RECORD_WRITE: the oldest record held for the ring of the number in `sel` is written, with its TIME, once the
ring has room and what it follows is performed; the write pointer goes to memory, and a reached count raises the
interrupt (R347, R348). -/
def execEventRecordWrite (s : State) : Host.Outcome State Fault Refusal :=
  let n := s.sel
  match s.sch.pend.find? (fun r => r.ring == n), s.ringV n with
  | some r, some v =>
    if !v.room || !r.after.all (fun p => s.x.performed p.1 p.2) then .next s
    else
      let bs := natLe 32 (r.body.toNat / 2 ^ 64 * 2 ^ 64 + s.time)
      let at_ := v.base + BitVec.ofNat 64 (32 * (v.wp % 2 ^ v.log2n))
      let v1 := { v with wp := v.wp + 1, since := v.since + 1, oldest := some (v.oldest.getD s.time) }
      let fin (s : State) : State :=
        let s1 := { s with sch := { s.sch with pend := delFirst (fun u => u == r) s.sch.pend } }
        let s2 := if (v.c = 0 ∧ v.t = 0) ∨ (v.c ≠ 0 ∧ v.c ≤ v1.since) then s1.interrupt n v1 else s1.setRingV n v1
        s2.recorded r
      match v.asid with
      | some a =>
        match s.ctlPut a at_ bs with
        | (s1, false) => .next s1
        | (s1, true) =>
          match s1.ctlPut a v.wpa (natLe 8 (v.wp + 1)) with
          | (_, false) => .next (s.ctlPut a v.wpa (natLe 8 (v.wp + 1))).1
          | (s2, true) => .next (fin s2)
      | none =>
        if !s.paExists at_.toNat then .fault (.noMemory at_.toNat)
        else match s.paPut at_.toNat bs with
          | (s1, false) => .next s1
          | (s1, true) => .next (fin s1)
  | _, _ => .next s

/-- INTERRUPT_TIME_EXPIRY: the oldest pending record of the ring in `sel` is T microseconds old (R348). -/
def execInterruptTimeExpiry (s : State) : Host.Outcome State Fault Refusal :=
  match s.ringV s.sel with
  | none => .next s
  | some v =>
    match v.oldest with
    | none => .next s
    | some t => if v.t ≠ 0 ∧ t + 1000 * v.t ≤ s.time then .next (s.interrupt s.sel v) else .next s

end Sys2Proof.Machine
end

