-- ==== Sys2Proof/Machine/Tue.lean ====
section
/-!
DEFINITION. The table-update engine's commands (16_translation R365 to R370): its ring, entry writes and shoot-downs,
migration and flush of a page, and completion.
-/

set_option linter.unusedVariables false

namespace Sys2Proof.Machine

/-! ### The ring (R355, R365) -/

/-- TUE_DOORBELL: as a queue's doorbell; an overrun sets STOPPED (R331, R355). -/
def State.tueRing (s : State) (v : Nat) : Host.Outcome State Fault Refusal :=
  let t := s.tue
  let w := v % 2 ^ 64
  if !s.pkg.ready || decide (w ≤ t.wr) then .next s
  else .next { s with tue := { t with wr := w, stopped := t.stopped || decide (2 ^ t.log2n < w - t.rd) } }

/-- TUE_DOORBELL. -/
def execTueDoorbell (v : Nat) (s : State) : Host.Outcome State Fault Refusal := s.tueRing v

/-- TUE_CTL_WRITE: LOG2N is set, write becomes read, STOPPED clears (R355). -/
def State.tueSet (s : State) (v : Nat) : Host.Outcome State Fault Refusal :=
  if !s.pkg.ready then .next s
  else .next { s with tue := { s.tue with log2n := v % 32, wr := s.tue.rd, stopped := false } }

/-- TUE_CTL_WRITE. -/
def execTueCtlWrite (v : Nat) (s : State) : Host.Outcome State Fault Refusal := s.tueSet v

/-- The fields of a command (R365). -/
def tcOp (c : BitVec 256) : Nat := bits c 0 4
def tcAsid (c : BitVec 256) : Nat := bits c 4 8
def tcLevel (c : BitVec 256) : Nat := bits c 12 3
def tcArg (c : BitVec 256) : Nat := bits c 32 32
def tcVa (c : BitVec 256) : DWord := c.extractLsb' 64 64
def tcPte (c : BitVec 256) : DWord := c.extractLsb' 128 64
def tcDone (c : BitVec 256) : Nat := bits c 192 52

/-- A command with a reserved operation, level or bit. -/
def tcReserved (c : BitVec 256) : Bool :=
  tcOp c == 0 || decide (4 < tcOp c) || bits c 15 17 != 0 || (tcOp c == 1 && decide (4 < tcLevel c))

/-- The address of the next command, if the engine may fetch one: a command is published and none is under way. -/
def State.tuePa (s : State) : Option Nat :=
  let t := s.tue
  if t.log2n = 0 ∨ t.stopped = true ∨ t.wr ≤ t.rd ∨ t.doing.isSome = true then none
  else some (bits t.base 12 40 * 4096 + 32 * (t.rd % 2 ^ t.log2n))

/-- A step of the engine on its next command, if it is of the kind given: `f` gives what the engine does, and whether the
command has been carried out. -/
def State.tueStep (s : State) (ok : BitVec 256 → Bool) (f : State → BitVec 256 → State × Bool) :
    Host.Outcome State Fault Refusal :=
  match s.tuePa with
  | none => .next s
  | some pa =>
    if !s.paExists pa then .fault (.noMemory pa)
    else
      let c := BitVec.ofNat 256 (s.freshNum pa 32)
      if !ok c then .next s
      else match f s c with
        | (s1, false) => .next s1
        | (s1, true) => .next { s1 with tue := { s1.tue with rd := s.tue.rd + 1, doing := some (s.tue.rd, c) } }

/-- A command of an operation without a reserved value. -/
def tcIs (op : Nat) (c : BitVec 256) : Bool := tcOp c == op && !tcReserved c

/-! ### Stale translations (R366) -/

/-- The accesses of a context that are translated and not performed, with an address in a range of virtual addresses. -/
def State.staleAccs (s : State) (asid : Nat) (hit : Nat → Bool) : List Nat :=
  (s.x.accs.filter (fun a =>
    (match s.x.wg? a.wg with
      | some w => w.asid == asid
      | none => false) && a.lanes.any (fun l => l.st == .ok && (hit (va57 l.va) || hit (va57 l.va + a.width - 1))))).map (fun a => a.id)

/-- A cached translation meets a range. -/
def Tlb.meets (t : Tlb) (asid lo hi : Nat) : Bool :=
  t.asid == asid && decide (t.vpn * 2 ^ t.size < hi) && decide (lo < (t.vpn + 1) * 2 ^ t.size)

/-- Every cached translation of a range dropped, and the accesses translated with them awaited. -/
def State.invalidate (s : State) (asid lo hi : Nat) : State :=
  let s1 := s.shoot (fun t => t.meets asid lo hi)
  { s1 with tue := { s1.tue with wait := s.staleAccs asid (fun v => decide (lo ≤ v ∧ v < hi)) } }

/-! ### WRITE and SHOOT (R366) -/

/-- The address of the entry for a virtual address at a level of a replica. -/
def entryFrom (s : State) (va want : Nat) : Nat → Nat → Option Nat
  | 0, table => if want = 0 then some (entryPa table va 0) else none
  | level + 1, table =>
    let pa := entryPa table va (level + 1)
    if want = level + 1 then some pa
    else
      let e := BitVec.ofNat 64 (s.freshNum pa 8)
      if !pteV e || pteLeaf e || pteLoc e || !s.paExists (pteFrame e) then none else entryFrom s va want level (pteFrame e)

/-- WRITE: the new entry in every replica, and the old translation invalidated everywhere. -/
def execWrite (s : State) : Host.Outcome State Fault Refusal :=
  s.tueStep (tcIs 1) (fun s c =>
    let va := va57 (tcVa c)
    let size := max 16 (12 + 9 * tcLevel c)
    let lo := va / 2 ^ size * 2 ^ size
    let s1 := s.dieOrder.foldl (fun s d => match s.root (tcAsid c) d with
      | none => s
      | some r =>
        match entryFrom s va (tcLevel c) 4 r with
        | some pa => s.poke pa (natLe 8 (tcPte c).toNat)
        | none => s) s
    (s1.invalidate (tcAsid c) lo (lo + 2 ^ size), true))

/-- SHOOT: the cached translations of count pages from VA, or of the whole ASID. -/
def execShoot (s : State) : Host.Outcome State Fault Refusal :=
  s.tueStep (tcIs 2) (fun s c =>
    let lo := if tcArg c = 0 then 0 else va57 (tcVa c) / 4096 * 4096
    let hi := if tcArg c = 0 then 2 ^ 57 else lo + 4096 * tcArg c
    (s.invalidate (tcAsid c) lo hi, true))

/-! ### FLUSH and MIGRATE (R370) -/

/-- The 4 KiB frame that a command's page has at its home; none for an unmapped or host page. -/
def State.tueFrame (s : State) (asid : Nat) (va : DWord) : Option Nat :=
  match s.walk s.ctlDie asid va with
  | .ok e => if pteLoc e.pte = true then none
    else some ((if ptePlc e.pte = 3 then (s.replOf asid va).2.1 else pteFrame e.pte) + va57 va % 2 ^ e.size / 4096 * 4096)
  | _ => none

/-- The line numbers of a mask. -/
def maskLines (m : Nat) : List Nat := (List.range 32).filter (fun k => m / 2 ^ k % 2 == 1)

/-- The lines of a 4 KiB frame. -/
def pageOn (f : Nat) : List Nat := (List.range 32).map (fun k => f / 128 + k)

/-- The engine holds every access to a page at its home from now on (R370). -/
def State.holdPage (s : State) (f : Nat) : State := { s with tue := { s.tue with hold := some (f / 4096) } }

/-- The hold of a page ends: what its home holds is served, in arrival order. -/
def State.releasePage (s : State) (f : Nat) : State :=
  ({ s with tue := { s.tue with hold := none, wait := [] } }).heldServe (s.homeKey (f / 128)) (fun l => l / 32 == f / 4096)

/-- FLUSH: the accesses to the page are held, the named lines are written back to their home with every other copy
invalidated, and the held accesses go on. -/
def execFlush (s : State) : Host.Outcome State Fault Refusal :=
  s.tueStep (tcIs 4) (fun s c =>
    match s.tueFrame (tcAsid c) (tcVa c) with
    | none => ({ s with tue := { s.tue with hold := none, wait := [] } }, true)
    | some f =>
      let ls := ((maskLines (tcArg c)).map (fun k => f / 128 + k)).filter (fun l => !s.isLost (s.homeKey l) l)
      if ls.any s.lineMoves then (s.holdPage f, false)
      else ((ls.foldl (fun s l => s.recallLine l) s).releasePage f, true))

/-- The subscriptions of a line moved to a new line at a new home: numbering restarts at 0, RESYNC is set, and every
subscriber is sent the line's image (03_kernel_memory R92); without room there, LOST. -/
def State.moveSubs (s : State) (line new : Nat) : State :=
  let h := s.homeKey line
  match cfind line (s.die h).subs with
  | none => s
  | some v =>
    let n := s.homeKey new
    let us := v.subs.filterMap (fun o => o)
    let fits := (s.die n).subRoom new
    let s1 := s.setDie h { s.die h with subs := cdel line (s.die h).subs }
    let touch (k : Core) (u : Subscr) : Core :=
      { k with stand := k.stand.map (fun e => if e.1 = u.idx then (e.1, { e.2 with line := new, resync := e.2.resync || fits, lost := e.2.lost || !fits }) else e) }
    let s2 := us.foldl (fun s u => if u.dev = s.pkg.dev then { s with x := s.x.setCore u.die u.core (touch (s.x.core u.die u.core) u) } else s) s1
    if !fits then { s2 with x := s2.x.standWake }
    else
      let moved : SubLine := { seq := 0, subs := v.subs.map (fun o => o.map (fun (u : Subscr) => { u with p := false, n := 0 })) }
      let s3 := s2.setDie n { s2.die n with subs := cset new moved (s2.die n).subs }
      let s4 := us.foldl (fun s u => s.sendPush n new { u with n := 0 } (s.freshLine new)) s3
      { s4 with x := s4.x.standWake }

/-- The line of a page that has moved from frame f to another, and a byte of it. -/
def movedLine (f new l : Nat) : Nat := if l / 32 = f / 4096 then new / 4096 * 32 + l % 32 else l
def movedByte (f new p : Nat) : Nat := if p / 4096 = f / 4096 then new / 4096 * 4096 + p % 4096 else p

/-- The accesses to a page that are still to be performed name its new frame from now on (R370). -/
def Exec.movePage (x : Exec) (f new : Nat) : Exec :=
  { x with
    accs := x.accs.map (fun (a : Access) => { a with
      sent := a.sent.map (movedLine f new)
      lanes := a.lanes.map (fun (l : LaneAcc) => if l.st = LaneAccSt.ok then { l with pa := l.pa.map (movedByte f new), rt := l.rt.map (movedLine f new) } else l) })
    reqs := x.reqs.map (fun (r : Req) => { r with out := r.out.map (fun o => (movedLine f new o.1, o.2)) })
    cores := x.cores.map (fun (e : Nat × Core) => (e.1, { e.2 with
      wt := e.2.wt.map (fun (t : WtEnt) => { t with line := movedLine f new t.line })
      stand := e.2.stand.map (fun (t : Nat × Stand) => if t.2.st = StandSt.pending then (t.1, { t.2 with line := movedLine f new t.2.line }) else t) })) }

/-- The request that a die's LLC has under way for a line of the page is one for its new line. Without a way for it there,
the die asks again. -/
def State.moveWant (s : State) (f new k line : Nat) : State :=
  match s.llc? k line with
  | none => s
  | some v =>
    let s1 := s.delLlc k line
    if v.way = 99 then s1.putLlc k (movedLine f new line) v
    else match s1.room k (movedLine f new line) v.rt with
      | some (s2, w) => s2.putLlc k (movedLine f new line) { v with way := w }
      | none => s1

/-- The requests that the old home of a page holds, or keeps for its LLC, reach the new home in their order of arrival; those
of a slice reach the slice of the new line (R388). -/
def State.moveHeld (s : State) (f new : Nat) : State :=
  let h := s.homeKey (f / 128)
  let on (m : Msg) : Bool := m.line / 32 == f / 4096
  let k := s.die h
  let go := k.waitq.filter on ++ k.held.filter on
  let sl := s.fab.slices.filter (fun e => e.1 / 32 == f / 4096)
  let s1 := s.setDie h { k with waitq := k.waitq.filter (fun m => !on m), held := k.held.filter (fun m => !on m) }
  let s2 := { s1 with fab := { s1.fab with
    slices := s1.fab.slices.filter (fun e => e.1 / 32 != f / 4096)
    dies := s1.fab.dies.map (fun (e : Nat × Die) => (e.1, { e.2 with again := e.2.again.map (fun (p : Option Nat × Msg) =>
      if on p.2 then (p.1, { p.2 with line := movedLine f new p.2.line, dst := s.homeDie (movedLine f new p.2.line) }) else p) })) } }
  let s3 := s2.fab.dies.foldl (fun (s : State) (e : Nat × Die) => (e.2.llc.filter (fun (v : Nat × Line) => v.1 / 32 == f / 4096)).foldl (fun (s : State) (v : Nat × Line) => s.moveWant f new e.1 v.1) s) s2
  let s4 := (sl.flatMap (fun e => e.2.waits)).foldl (fun (s : State) (m : Msg) =>
    s.send m.src (.slice (movedLine f new m.line % 24)) (movedLine f new m.line) m.k) s3
  go.foldl (fun (s : State) (m : Msg) =>
    let l := movedLine f new m.line
    let asks := m.k == .getS || m.k == .getM || m.k == .upg
    match m.src with
    | .slice _ => s
    | a => if asks && (s.llc? (agKey a) l).isNone then s
      else s.homeTake (s.homeKey l) { m with line := l, dst := s.homeDie l }) s4

/-- A line of the page at its new home: its bytes if the mask names it, its LOST state in any case, its subscriptions (R370). -/
def State.moveLine (s : State) (a b : Nat) (copy : Bool) : State :=
  let lost := s.isLost (s.homeKey a) a || (match s.homeDie a with
    | .die h => !s.working h
    | _ => false)
  let s1 := (s.recallLine a).recallLine b
  let s2 := if lost then s1.loseLine (s1.homeKey b) b
    else if copy then { s1 with mem := s1.mem.putLine b (s1.mem.line a) }
    else s1
  s2.moveSubs a b

/-- MIGRATE: the accesses to the page are held at its old home; once nothing of it moves, the masked lines, the directory
state and the subscriptions of every line go to the new leaf's frame, every replica is rewritten, and the held accesses are
performed at the new home. A page without a frame, or a new leaf that names no memory, moves nothing (assumption 24). -/
def execMigrate (s : State) : Host.Outcome State Fault Refusal :=
  s.tueStep (tcIs 3) (fun s c =>
    let va := tcVa c
    let lo := va57 va / 4096 * 4096
    let new := pteFrame (tcPte c)
    let leaf (s : State) : State := (s.setLeaf (tcAsid c) va (fun _ _ => tcPte c)).invalidate (tcAsid c) lo (lo + 4096)
    match (if s.paExists new then s.tueFrame (tcAsid c) va else none) with
    | none => ({ leaf s with tue := { (leaf s).tue with hold := none } }, true)
    | some f =>
      if (pageOn f ++ pageOn new).any s.lineMoves || (pageOn new).any s.lineBusy then (s.holdPage f, false)
      else
        let s1 := (List.range 32).foldl (fun (s : State) k => s.moveLine (f / 128 + k) (new / 128 + k) ((maskLines (tcArg c)).contains k)) s
        let s2 := { leaf s1 with x := (leaf s1).x.movePage f new, tue := { (leaf s1).tue with hold := none } }
        (s2.moveHeld f new, true))

/-! ### Completion -/

/-- A command's DONE word written, and what follows. -/
def State.tueWrite (s : State) (c : BitVec 256) (v : Nat) (fin : State → State) : Host.Outcome State Fault Refusal :=
  if !s.paExists (tcDone c) then .fault (.noMemory (tcDone c))
  else match s.paPut (tcDone c) (natLe 8 v) with
    | (s1, false) => .next s1
    | (s1, true) => .next (fin s1)

/-- TUE_RESERVED_COMMAND: a reserved command has no effect, and writes its index with bit 63 set (R365). -/
def execTueReservedCommand (s : State) : Host.Outcome State Fault Refusal :=
  match s.tuePa with
  | none => .next s
  | some pa =>
    if !s.paExists pa then .fault (.noMemory pa)
    else
      let c := BitVec.ofNat 256 (s.freshNum pa 32)
      if !tcReserved c then .next s
      else s.tueWrite c (2 ^ 63 + s.tue.rd % 2 ^ 63) (fun s => { s with tue := { s.tue with rd := s.tue.rd + 1 } })

/-- An access that holds no lane translated and unperformed: performed, faulted or gone. -/
def State.accFree (s : State) (id : Nat) : Bool :=
  match s.x.acc? id with
  | none => true
  | some a => a.lanes.all (fun l => l.st != .ok)

/-- TUE_DONE: every stale access has been performed or stands in an operand log, so the command's DONE word is written
(R366). -/
def execTueDone (s : State) : Host.Outcome State Fault Refusal :=
  match s.tue.doing with
  | none => .next s
  | some (i, c) =>
    if !s.tue.wait.all s.accFree then .next s
    else s.tueWrite c i (fun s => { s with tue := { s.tue with doing := none, wait := [] } })

end Sys2Proof.Machine
end

