-- ==== Sys2Proof/Machine/Engines.lean ====
section
/-!
DEFINITION. The engines of a core and of a base die: issue clocks, supersteps (02_execution R52), the matrix engine's
tile steps and drains (11_isa R283 to R288), the zeroing of banks (03_kernel_memory R70), copies (R78 to R81), base-die
requests (11_isa R305 to R308) and neighbour sends (05_tensor_mesh R132 to R135).
-/

set_option linter.unusedVariables false

namespace Sys2Proof.Machine

/-- ISSUE_CLOCK: one issue clock of scheduler q of core c of die d (02_execution R32 to R35). -/
def execIssueClock (d c q : Nat) (s : State) : Host.Outcome State Fault Refusal := .next (s.issueClock d c q)

/-! ### Supersteps (02_execution R52, 07_ordering R170) -/

/-- A workgroup takes part in the superstep barriers while it has a live thread (R52, R28). -/
def Wg.takesPart (w : Wg) : Bool := w.groups.any (fun g => !g.live.isEmpty)

/-- The barrier of number n + 1 is complete: every participant has arrived, and every send that counts towards it is
written. -/
def State.sstReady (s : State) (l n : Nat) : Bool :=
  let ws := s.x.wgs.filter (fun w => w.launch == l)
  ws.any Wg.takesPart && ws.all (fun w => !w.takesPart || decide (n < w.sstArr)) &&
    s.x.reqs.all (fun r => !(ws.any (fun w => w.id == r.wg)) || (match r.ins with
      | .nbrSend _ | .nbrReduce _ => decide (n < r.sst)
      | _ => true))

/-- The threads of a group that sstep holds are released, behind a fence of package scope (R170). -/
def Group.sstRelease (g : Group) (preds : List Nat) : Group :=
  let ls := g.live.filter (fun l => (g.lane l).hold == .superstep || (g.lane l).resHold == .superstep)
  (g.onLanes ls (fun _ t => { t.lift .superstep with sstDone := t.sstN })).addFence 4 setLSAM (maskOf ls) preds

/-- SUPERSTEP_BARRIER_COMPLETE: the next superstep barrier of launch l completes. -/
def execSuperstepBarrierComplete (l : Nat) (s : State) : Host.Outcome State Fault Refusal :=
  let ws := s.x.wgs.filter (fun w => w.launch == l)
  match ws with
  | [] => .next s
  | w0 :: _ =>
    if !s.sstReady l w0.sstDone then .next s
    else
      let preds := ws.flatMap (fun w => w.groups.flatMap (fun g => s.x.preds w g setLSAN (maskOf g.live) 4))
      .next { s with x := { s.x with wgs := s.x.wgs.map (fun w =>
        if w.launch = l then { w with sstDone := w0.sstDone + 1, groups := w.groups.map (fun g => g.sstRelease preds) } else w) } }

/-! ### The matrix engine (R283, R285) -/

/-- SIGNED_OPERATION_ENQUEUE: a fully signed round that waits in ISSUING takes a freed entry (02_execution R41). -/
def execSignedOperationEnqueue (w k : Nat) (s : State) : Host.Outcome State Fault Refusal :=
  match s.x.wg? w with
  | none => .next s
  | some g =>
    if (g.sign k).st ≠ .issuing then .next s
    else
      let r := s.x.signTry g k
      .next { s with x := r.1.setWg r.2 }

/-- The marks of the shadow banks that an operation has written (03_kernel_memory R75). -/
def Wg.shadowWritten (w : Wg) (o : MOp) (j : Nat) : Bool :=
  match o.cond with
  | some k => match ((w.cs[k]?).getD {}).shadows[j]? with
    | some p => p.2
    | none => false
  | none => false

/-- The bands of a list marked as written in the condition's shadow. -/
def Wg.markShadow (w : Wg) (o : MOp) (js : List Nat) : Wg :=
  match o.dest, o.cond with
  | .shadow, some k =>
    let c := (w.cs[k]?).getD {}
    { w with cs := w.cs.set k { c with shadows := c.shadows.mapIdx (fun j p => if js.contains j then (p.1, true) else p) } }
  | _, _ => w

/-- An operation that starts: mma.idx reads its index table, and Z clears the output tile (R282, R283). -/
def MOp.start (o : MOp) (w : Wg) : Wg × MOp :=
  let o1 := { o with
    started := true
    steps := match o.ins with
      | .mmaIdx _ => idxSteps w.scratch o.dA o.dB o.dI
      | _ => o.steps }
  if o.z then (w.markShadow o1 o1.bands, o1.zero) else (w, o1)

/-- A completed operation: TL falls in every group that signed it, and what waited for its banks goes on (R285, R43). -/
def Wg.tlDown (w : Wg) (gs : List Nat) : Wg :=
  { w with groups := w.groups.map (fun g => if gs.contains g.idx then { g with tl := g.tl - 1 } else g) }

/-- One tile step of the head of a context's queue. What the operation writes enters the accumulator as it completes
(02_execution R42). -/
def State.mopStep (s : State) (d c ctx : Nat) (o : MOp) (w : Wg) : State :=
  let k := s.x.core d c
  let (w1, o1) := if o.started then (w, o) else o.start w
  let (w2, o2) := match o1.steps[o1.pos]? with
    | none => (w1, o1)
    | some st =>
      (w1.markShadow o1 [dACCO o1.dA / 32 + st.1], { o1.step k w1.scratch (w1.shadowWritten o1) st with pos := o1.pos + 1 })
  let q := k.queueOf ctx
  let done := o2.steps.length ≤ o2.pos
  let k3 := if done then ((k.mmaCommit o2).setQueueOf ctx (q.drop 1)).bankDone s.x.clk o.id else k.setQueueOf ctx (o2 :: q.drop 1)
  let w3 := if done then w2.tlDown o.signers else w2
  { s with x := (s.x.setCore d c { k3 with turn := 1 - ctx }).setWg w3 }

/-- The head of a context's queue, if nothing that it follows is still to be performed. -/
def State.mopReady (s : State) (d c ctx : Nat) : Option (MOp × Wg) :=
  match (s.x.core d c).queueOf ctx with
  | [] => none
  | o :: _ =>
    match s.x.wg? o.wg with
    | none => none
    | some w => if o.started || (s.x.waits o.after).isEmpty then some (o, w) else none

/-- TILE_STEP: the context whose turn it is performs a tile step, or the other one if it has none (01_machine R21). -/
def execTileStep (d c : Nat) (s : State) : Host.Outcome State Fault Refusal :=
  let t := (s.x.core d c).turn
  match s.mopReady d c t with
  | some (o, w) => .next (s.mopStep d c t o w)
  | none =>
    match s.mopReady d c (1 - t) with
    | some (o, w) => .next (s.mopStep d c (1 - t) o w)
    | none => .next s

/-- BANK_ZEROED: 32 clocks after its release, a bank of zeros returns to the pool (R70). -/
def execBankZeroed (d c b : Nat) (s : State) : Host.Outcome State Fault Refusal :=
  let k := s.x.core d c
  match cfind b k.banks with
  | some (.zeroing t) =>
    if s.x.clk < t then .next s
    else .next { s with x := s.x.setCore d c { k with
      banks := cdel b k.banks, acc := k.acc.filter (fun e => !(decide (4096 * b ≤ e.1 ∧ e.1 < 4096 * b + 4096))) } }
  | _ => .next s

/-! ### Memory as a unit's request reads and writes it (07_ordering R175) -/

/-- What translating an address for a request gives: a physical address, on a render-target page or not, a fault, a bind, a
replicated page to collapse. -/
inductive PageX where
  | ok (pa : Nat) (rt : Bool)
  | fault (code : Nat)
  | bind (size : Nat) (e : DWord)
  | collapse
  deriving DecidableEq, Repr

def State.pageX (s : State) (w : Wg) (write : Bool) (va : DWord) : PageX :=
  let leaf (e : Tlb) : PageX :=
    match xlateLeaf e va write false with
    | .fault c => .fault c
    | .bind => .fault 1
    | .ok e pa => if write && ptePlc e.pte == 3 then .collapse else .ok ((if pteLoc e.pte then hostBase else 0) + pa) (pteRT e.pte)
  if !canonicalVa va then .fault 4
  else match s.cached w.die w.core w.asid va with
    | some e => leaf e
    | none =>
      match s.walk w.die w.asid va with
      | .notMapped => .fault 1
      | .bind size e => .bind size e
      | .ok e => leaf e

/-- The parts of a range that lie on one page each. -/
def pieceList (r : MRange) : List (DWord × Nat) :=
  (pagesOf r).map (fun p =>
    let a := max p.toNat r.1.toNat
    (BitVec.ofNat 64 a, min (p.toNat + 4096) (r.1.toNat + r.2.1) - a))

/-- A range's bytes: virtual and physical address of each. -/
def State.mapRange (s : State) (w : Wg) (r : MRange) : List (DWord × Nat) :=
  (pieceList r).flatMap (fun p => match s.pageX w r.2.2 p.1 with
    | .ok pa _ => (List.range p.2).map (fun k => (p.1 + BitVec.ofNat 64 k, pa + k))
    | _ => [])

/-- One page of a request translated, bound by first touch if it is to be (16_translation R361); otherwise the state in
which the request waits for the driver or for a collapse. -/
def State.reqPage (s : State) (r : Req) (w : Wg) (write : Bool) (va : DWord) : Except State State :=
  let go (s : State) : Except State State :=
    match s.pageX w write va with
    | .ok _ _ => .ok (match s.walk w.die w.asid va with
      | .ok e => if (s.cached w.die w.core w.asid va).isSome then s else s.cache w.die w.core e
      | _ => s)
    | .fault c => .error (s.reqFault r c va write)
    | .bind _ _ => .error s
    | .collapse => .error (s.collapseFor w.asid va r.id)
  match s.pageX w write va with
  | .bind size e =>
    match s.bindPage w.die w.asid va size e with
    | some s1 => go s1
    | none => .error (s.reqFault r 12 va write)
  | _ => go s

/-- Every page of some ranges. -/
def State.reqRanges (s : State) (r : Req) (w : Wg) (rs : List MRange) : Except State State :=
  (rs.flatMap (fun g => (pieceList g).map (fun p => (p.1, g.2.2)))).foldl (fun (e : Except State State) p =>
    match e with
    | .ok t => t.reqPage r w p.2 p.1
    | .error t => .error t) (.ok s)

/-- Why some bytes cannot be accessed: a soft error and a lost line are delivered (19_traps R412). -/
def State.reqBad (s : State) (r : Req) (ps : List (DWord × Nat)) : Option State :=
  match ps.find? (fun p => s.pchBad p.2) with
  | some p => some (s.deliverReq r 13 p.1)
  | none =>
    match s.lostAmong (ps.map (fun p => p.2)) with
    | some l => some (s.deliverReq r 6 (((ps.find? (fun p => lineOf p.2 == l)).map (fun p => p.1)).getD 0))
    | none => none

/-- The same for the bytes that a base die's engines read at their home: a line that the host holds is asked for. -/
def State.reqBlocked (s : State) (r : Req) (ps : List (DWord × Nat)) : Option State :=
  let pas := ps.map (fun p => p.2)
  match s.reqBad r ps with
  | some t => some t
  | none =>
    if s.readable pas then none
    else some (s.snoopAsk (linesOf ((pas.filter (fun p => !isHost p)).map (fun p => (p, 0)))))

/-- A write of a request to one line: its line, its bytes, their first virtual address, whether the page is a render target. -/
structure LineWr where
  line : Nat
  va : DWord
  rt : Bool
  bs : List (Nat × Byte)
  deriving DecidableEq, Repr

/-- Bytes at offsets of a destination as writes of its lines, in order. -/
def State.lineWrs (s : State) (w : Wg) (base : DWord) (bs : List (Nat × Byte)) : List LineWr :=
  bs.foldl (fun (l : List LineWr) b =>
    let va := base + BitVec.ofNat 64 b.1
    match s.pageX w true va with
    | .ok pa rt =>
      if l.any (fun g => g.line == lineOf pa && pageOf g.va == pageOf va) then
        l.map (fun g => if g.line = lineOf pa ∧ pageOf g.va = pageOf va then { g with bs := g.bs ++ [(pa, b.2)] } else g)
      else l ++ [{ line := lineOf pa, va := va, rt := rt, bs := [(pa, b.2)] }]
    | _ => l) []

/-- A message of a request for a line leaves die d: the die's L1 copies of the line go (11_isa R288), and the request waits
for the answer of its home (03_kernel_memory R79). -/
def State.reqSend (s : State) (rid d line : Nat) (va : DWord) (q : MsgK) : State :=
  match s.x.req? rid with
  | none => s
  | some r =>
    let s1 := { s with x := s.x.setReq { r with out := r.out ++ [(line, va)] } }
    (s1.l1Drop d line none).writeOut d line q

/-- The bytes of a request written at their homes, a WrThru for each line, of class `cls` of the Rime log. -/
def State.reqWrite (s : State) (r : Req) (d : Nat) (ls : List LineWr) (cls hint : Nat) : State :=
  ls.foldl (fun s g =>
    let b := maskData g.bs
    s.reqSend r.id d g.line g.va (.wrThru b.1 b.2 r.id { asid := some r.asid, vpages := [pageOf g.va], cls := cls, hint := hint, rt := g.rt })) s

/-- A byte and a little-endian number at a virtual address. -/
def State.vaByte (s : State) (w : Wg) (va : DWord) : Byte :=
  match s.pageX w false va with
  | .ok pa _ => s.engineByte pa
  | _ => 0
def State.vaNum (s : State) (w : Wg) (va : DWord) (n : Nat) : Nat :=
  leNat ((List.range n).map (fun k => s.vaByte w (va + BitVec.ofNat 64 k)))

/-- Bytes at consecutive offsets. -/
def atOffsets (o : Nat) (bs : List Byte) : List (Nat × Byte) := bs.mapIdx (fun k b => (o + k, b))

/-- The partition that the request of a saved workgroup keeps is free again, since its token would complete (R419). -/
def State.unkeep (s : State) (r : Nat) : State :=
  match s.x.cores.find? (fun e => e.2.kept.any (fun k => k.1 == r)) with
  | none => s
  | some e => { s with x := s.x.setCore (e.1 / 16) (e.1 % 16) { e.2 with kept := e.2.kept.filter (fun k => k.1 != r) } }

/-- A request that may act: no fault of it waits for the driver, some of it is still to be moved, and everything it follows
is performed. -/
def State.reqGo (s : State) (id : Nat) (f : Req → Wg → State) : Host.Outcome State Fault Refusal :=
  match s.x.req? id with
  | none => .next (s.unkeep id)
  | some r =>
    match s.x.wg? r.wg with
    | none => .next s
    | some w => if r.fault.isSome || r.dead || r.done == 2 || !(s.x.waits r.after).isEmpty then .next s else .next (f r w)

/-! ### The parts of a request (R79, R80, 07_ordering R175) -/

/-- The places from a to b joined to a list of disjoint ranges. -/
def addPart (a b : Nat) : List (Nat × Nat) → List (Nat × Nat)
  | [] => [(a, b)]
  | p :: r =>
    if b < p.1 then (a, b) :: p :: r
    else if p.2 < a then p :: addPart a b r
    else addPart (min a p.1) (max b p.2) r

/-- The part of a request of n places that an event moves: `k` places from the offset in `sel`, all of them for 0. -/
def State.span (s : State) (k n : Nat) : Nat × Nat :=
  let a := min (s.sel % 2 ^ 32) n
  (a, if k = 0 then n else min n (a + k))

/-- The same for an event without an operand: its length stands above its offset in `sel`. -/
def State.span2 (s : State) (n : Nat) : Nat × Nat := s.span (s.sel / 2 ^ 32) n

/-- The places of a part that are still to be moved. -/
def Req.todo (r : Req) (p : Nat × Nat) : List Nat :=
  ((List.range (p.2 - p.1)).map (fun i => p.1 + i)).filter (fun i => !r.parts.any (fun q => decide (q.1 ≤ i ∧ i < q.2)))

/-- A part of a request of n places has been moved. -/
def State.reqMoved (s : State) (rid : Nat) (p : Nat × Nat) (n : Nat) : State :=
  match s.x.req? rid with
  | none => s
  | some r =>
    let parts := if p.1 < p.2 then addPart p.1 p.2 r.parts else r.parts
    ({ s with x := s.x.setReq { r with parts := parts, done := if n = 0 ∨ parts = [(0, n)] then 2 else 1 } }).reqSettle rid

/-! ### Copies (R78 to R80, 10_isa R262) -/

/-- The memory source of a copy as its die's LLC holds it, host memory beside it; none while a line is missing, which is
asked for under the copy's hint (R76, 10_isa R261). -/
def State.copySrc (s : State) (w : Wg) (hint : Nat) (ps : List (DWord × Nat)) : Except State (List Byte) :=
  let lines := linesOf ((ps.filter (fun p => !isHost p.2)).map (fun p => (p.2, 0)))
  let miss := lines.filter (fun l => (s.lineFor w.die l).isNone)
  if miss ≠ [] then .error (miss.foldl (fun (s : State) l => s.wantLine w.die l hint (match ps.find? (fun p => lineOf p.2 == l) with
    | some p => match s.pageX w false p.1 with
      | .ok _ rt => rt
      | _ => false
    | none => false)) s)
  else .ok (ps.map (fun p => if isHost p.2 then s.engineByte p.2 else lineByte ((s.lineFor w.die (lineOf p.2)).getD 0) (p.2 % 128)))

/-- k bytes of a copy moved from the offset in `sel`, all of them for k = 0. The manual gives no order of the bytes within a
copy (R80, 07_ordering R175): any part may be moved first. -/
def State.copyStep (s : State) (r : Req) (w : Wg) (f : KF) (k : Nat) : State :=
  let len := (opW r.ops 4).toNat
  let p := s.span k len
  let src := opP r.ops 0
  let dst := opP r.ops 2
  let at_ (b : DWord) (i : Nat) : DWord := b + BitVec.ofNat 64 i
  let kind := bits f.f 0 2
  let srcMem := kind == 0 || kind == 2
  let dstMem := kind == 1 || kind == 2
  let hint := if bit f.f 2 then 1 else 0
  match s.reqRanges r w ((if srcMem then [(at_ src p.1, p.2 - p.1, false)] else []) ++ (if dstMem then [(at_ dst p.1, p.2 - p.1, true)] else [])) with
  | .error t => t
  | .ok s1 =>
    let todo := r.todo p
    let rd := if srcMem then todo.flatMap (fun i => s1.mapRange w (at_ src i, 1, false)) else []
    match s1.reqBad r rd with
    | some t => t
    | none =>
      match (if srcMem then s1.copySrc w hint rd else .ok (todo.map (fun i => w.scratch.get (src.toNat + i)))) with
      | .error t => t
      | .ok bs =>
        let out := todo.zip bs
        let s2 :=
          if dstMem then s1.reqWrite r w.die (s1.lineWrs w dst out) 2 hint
          else s1.putWg { w with scratch := out.foldl (fun (m : Mem) b => m.set (dst.toNat + b.1) b.2) w.scratch }
        s2.reqMoved r.id p len

/-- COPY_COMPLETE: a part of the copy r is moved, n bytes from the offset in `sel` or all of it for n = 0; with its last byte
written at its destination it completes (R79). A stand.drop completes with its UnsubAck (R91). For a saved request it
ends the reservation of its partition (19_traps R419). -/
def execCopyComplete (r n : Nat) (s : State) : Host.Outcome State Fault Refusal :=
  s.reqGo r (fun q w => match q.ins with
    | .copy f => s.copyStep q w f n
    | _ => s)

/-! ### Drains (R286 to R288) -/

/-- The format of a drain. -/
def drFFmt (ctl : Word) : FFmt := if drFmt ctl = 0 then fp32 else if drFmt ctl = 1 then bf16 else fp16

/-- The encoding that a store drain writes for an element of a column. -/
def drStore (ctl : Word) (phase : BitVec 5) (col : Nat) (x : Word) : Nat :=
  if drFmt ctl = 0 then x.toNat
  else (roundTo (drFFmt ctl) (fp32.value x.toNat) (bits ctl 29 3) (bit ctl 28) (odrThr (col % 32) phase)).1

/-- The elements of the band in order: row, column, value. -/
def Core.drElems (k : Core) (bank : Nat) : List Word :=
  (List.range 32).flatMap (fun row => (List.range 128).map (fun col => k.accGet bank row col))

/-- The offset of an element of the band in the destination. -/
def drOff (ctl : Word) (pitch i : Nat) : Nat := i / 128 * pitch + i % 128 * drEs ctl

/-- Some elements of a drain applied to bytes by offset, in order, over the old ones: a store, or with `add` a sum. -/
def drBytes (add : Bool) (ctl : Word) (phase : BitVec 5) (pitch : Nat) (old : Nat → Byte) (es : List (Nat × Word)) : Cells Byte :=
  let n := drEs ctl
  es.foldl (fun m e =>
    let o := drOff ctl pitch e.1
    let cur (k : Nat) : Byte := (cfind (o + k) m).getD (old (o + k))
    let v := if add then addStore (drFFmt ctl) (leNat ((List.range n).map cur)) e.2 else drStore ctl phase (e.1 % 128) e.2
    (atOffsets o (natLe n v)).foldl (fun m b => cset b.1 b.2 m) m) []

/-- A drain reads its band once, and leaves it at +0.0 with Z in the same step (R73). -/
def State.drainRead (s : State) (r : Req) (w : Wg) (z : Bool) : State × Req :=
  if r.done ≠ 0 then (s, r)
  else
    let k := s.x.core w.die w.core
    let k1 := if z then (List.range 32).foldl (fun k row => k.accFill r.bank row 0 (List.replicate 128 0)) k else k
    let r1 := { r with buf := k.drElems r.bank, done := 1 }
    ({ s with x := (s.x.setCore w.die w.core k1).setReq r1 }, r1)

/-- The part of a store drain that an event writes: rows are written in ascending order (R288). -/
def State.drainSpan (s : State) (r : Req) : Nat × Nat :=
  let row := 128 * (((r.parts.head?).map (fun q => q.2)).getD 0 / 128)
  if s.sel = 0 then (row, 4096) else
    let p := s.span2 128
    (row + p.1, row + p.2)

/-- A drain that stores: a part of its elements written to the scratchpad, or at the homes of their lines. -/
def State.drainStore (s : State) (r : Req) (w : Wg) (mem : Bool) (base : DWord) (ctl : Word) (pitch : Nat) : State :=
  let p := s.drainSpan r
  let out := drBytes false ctl r.phase pitch (fun _ => 0) ((r.todo p).map (fun i => (i, opW r.buf i)))
  let s1 := if mem then s.reqWrite r w.die (s.lineWrs w base out) 3 0
    else s.putWg { w with scratch := out.foldl (fun (m : Mem) b => m.set (base.toNat + b.1) b.2) w.scratch }
  s1.reqMoved r.id p 4096

/-- The elements of a drain by line of virtual memory, in order. -/
def drLines (base : DWord) (ctl : Word) (pitch : Nat) : List (Nat × List Nat) :=
  (List.range 4096).foldl (fun (l : List (Nat × List Nat)) i =>
    let n := (base + BitVec.ofNat 64 (drOff ctl pitch i)).toNat / 128
    if l.any (fun g => g.1 == n) then l.map (fun g => if g.1 = n then (n, g.2 ++ [i]) else g) else l ++ [(n, [i])]) []

/-- A drain that adds to memory: the part of the band in each line goes to the line's home as one update, which the near-bank
units apply in one step; the lines go in no defined order (R73). -/
def State.drainAdd (s : State) (r : Req) (w : Wg) (base : DWord) (ctl : Word) (pitch : Nat) : State :=
  let ls := drLines base ctl pitch
  let p := s.span2 ls.length
  let one (s : State) (g : List Nat) : State :=
    let ops : List (AtomOp × DWord × Bool) := g.filterMap (fun i =>
      let va := base + BitVec.ofNat 64 (drOff ctl pitch i)
      match s.pageX w true va with
      | .ok pa rt => some ({ lane := 0, pa := pa, width := drEs ctl, op := 8, ty := if drFmt ctl = 0 then 3 else 4, a := (opW r.buf i).setWidth 64 }, va, rt)
      | _ => none)
    match ops with
    | [] => s
    | o :: _ => s.reqSend r.id w.die (lineOf o.1.pa) o.2.1 (.atom r.id (ops.map (fun q => q.1)) { asid := some r.asid, vpages := [pageOf o.2.1], cls := 3, rt := o.2.2 })
  (((r.todo p).filterMap (fun i => (ls[i]?).map (fun g => g.2))).foldl one s).reqMoved r.id p ls.length

/-- A part of a drain: its band is read, then its elements are written as the mode says. An add-on-store into the scratchpad is one
update (03_kernel_memory R64). -/
def State.drainStep (s : State) (r : Req) (w : Wg) (f : KF) : State :=
  let mode := bits f.f 0 2
  let base := opP r.ops 0
  let ctl := opW r.ops 2
  let pitch := (opW r.ops 3).toNat
  let rows : List MRange := if mode % 2 = 0 then [] else (List.range 32).map (fun row => (base + BitVec.ofNat 64 (row * pitch), 128 * drEs ctl, true))
  match s.reqRanges r w rows with
  | .error t => t
  | .ok s0 =>
    match s0.reqBad r (if mode % 2 = 0 then [] else rows.flatMap (s0.mapRange w)) with
    | some t => t
    | none =>
      let (s1, r1) := s0.drainRead r w (bit f.f 2)
      if mode = 3 then s1.drainAdd r1 w base ctl pitch
      else if mode = 2 then
        let out := drBytes true ctl r1.phase pitch (fun o => w.scratch.get (base.toNat + o)) ((List.range 4096).map (fun i => (i, opW r1.buf i)))
        (s1.putWg { w with scratch := out.foldl (fun (m : Mem) b => m.set (base.toNat + b.1) b.2) w.scratch }).reqMoved r1.id (0, 4096) 4096
      else s1.drainStore r1 w (mode == 1) base ctl pitch

/-- DRAIN_PERFORM: the drain r, once every operation that it stands behind has completed. -/
def execDrainPerform (r : Nat) (s : State) : Host.Outcome State Fault Refusal :=
  s.reqGo r (fun q w => match q.ins with
    | .accDrain f => s.drainStep q w f
    | _ => s)

/-! ### Base-die engines (R306 to R308) -/

/-- bde.gather: the destination's bytes, and what is read. -/
def State.gatherOut (s : State) (r : Req) (w : Wg) (f : KF) : List (Nat × Byte) × List MRange :=
  let l := gatherLen f
  let n := (opW r.ops 6).toNat
  let t := (opW r.ops 7).toNat
  let xs := (List.range n).map (fun j => s.vaNum w (opP r.ops 4 + BitVec.ofNat 64 (4 * j)) 4)
  let row (x : Nat) : DWord := opP r.ops 0 + BitVec.ofNat 64 (x * l)
  (xs.zipIdx.flatMap (fun e => (List.range l).map (fun k =>
      (e.2 * l + k, if e.1 < t then s.vaByte w (row e.1 + BitVec.ofNat 64 k) else 0))),
    (opP r.ops 4, 4 * n, false) :: (xs.filter (fun x => decide (x < t))).map (fun x => (row x, l, false)))

/-- Combine of R307 on a word of a type: 0 sum, 1 min, 2 max. -/
def bdeCombine (ty op : Nat) (a b : Word) : Word :=
  match ty with
  | 0 => bankOp (8 + op) a b
  | 1 =>
    if op = 0 then bankOp 11 a b
    else
      let h (k : Nat) : Nat := (fMinMax bf16 (op == 2) (a.toNat / 2 ^ k % 65536) (b.toNat / 2 ^ k % 65536)).1
      BitVec.ofNat 32 (h 0 + 65536 * h 16)
  | 2 => bankOp op a b
  | _ => bankOp (if op = 0 then 0 else 2 + op) a b

/-- bde.reduce: the streams combined in ascending order at every position. -/
def State.reduceOut (s : State) (r : Req) (w : Wg) (f : KF) : List (Nat × Byte) × List MRange :=
  let stride := (opW r.ops 4).toNat
  let n := (opW r.ops 5).toNat
  let len := (opW r.ops 6).toNat
  let acc := bit f.f 2
  let word (base : DWord) (o : Nat) : Word := BitVec.ofNat 32 (s.vaNum w (base + BitVec.ofNat 64 o) 4)
  let elem (e : Nat) : Word :=
    let st (k : Nat) : Word := word (opP r.ops 0) (k * stride + 4 * e)
    let y := if acc then word (opP r.ops 2) (4 * e) else st 0
    ((List.range n).drop (if acc then 0 else 1)).foldl (fun y k => bdeCombine (reduceTy r.ops) (bits f.f 0 2) y (st k)) y
  ((List.range (len / 4)).flatMap (fun e => atOffsets (4 * e) (natLe 4 (elem e).toNat)),
    (List.range n).map (fun k => (opP r.ops 0 + BitVec.ofNat 64 (k * stride), len, false)) ++ (if acc then [(opP r.ops 2, len, false)] else []))

/-- floor(log2) of the largest magnitude among finite values; none if it is 0 or nothing is finite. -/
def amaxLog : List XR → Option Int
  | [] => none
  | .fin _ n d :: l =>
    if n = 0 then amaxLog l
    else match amaxLog l with
      | none => some (ilog2 n d)
      | some m => some (max m (ilog2 n d))
  | _ :: l => amaxLog l

/-- The scale byte of a block written in a scaled binary8 format (06_numbers R157). -/
def scaleOf (f : FFmt) (xs : List XR) : Nat :=
  if xs.any XR.isNan then 0xFF
  else match amaxLog xs, amaxLog [f.atPos false f.maxPos] with
    | some a, some m => (max 0 (min 254 (a - m + 127))).toNat
    | _, _ => 127

/-- The significand bit of plane k of an encoding: the hidden bit first (03_kernel_memory R65). -/
def planeBit (f : FFmt) (c k : Nat) : Bool :=
  let mag := if f.signed then c % 2 ^ (f.width - 1) else c
  if k = 0 then decide (2 ^ (f.p - 1) ≤ mag) else mag / 2 ^ (f.p - 1 - k) % 2 == 1

/-- bde.cvt: rows and columns, the exact source values, the scale byte and the code of every element (R308). -/
structure CvtJob where
  rows : Nat
  cols : Nat
  ctl : Word
  src : Nat → Nat → Nat
  phase : BitVec 5

/-- The value of a source element. -/
def CvtJob.val (j : CvtJob) (i c : Nat) : XR := (kindFmt (cvtSK j.ctl) (cvtST j.ctl)).value (j.src i c)

/-- The destination is scaled binary8. -/
def CvtJob.scaled (j : CvtJob) : Bool := cvtDK j.ctl == 10 && b8Scaled (cvtDT j.ctl)

/-- The scale byte that applies to an element. -/
def CvtJob.scale (j : CvtJob) (i c : Nat) : Nat :=
  let f := kindFmt (cvtDK j.ctl) (cvtDT j.ctl)
  if cvtLayout j.ctl = 2 then scaleOf f ((List.range 32).map (fun k => j.val (i / 32 * 32 + k) c))
  else scaleOf f (((List.range 32).filter (fun k => decide (c / 32 * 32 + k < j.cols))).map (fun k => j.val i (c / 32 * 32 + k)))

/-- The destination code of an element: the ODR index is the column, the phase advances with each block of 32. -/
def CvtJob.code (j : CvtJob) (i c : Nat) : Nat :=
  let n := i * ((j.cols + 31) / 32) + c / 32
  (convElem (cvtSK j.ctl) (cvtST j.ctl) (cvtDK j.ctl) (cvtDT j.ctl) none (if j.scaled then some (j.scale i c) else none)
    (bits j.ctl 29 3) (bit j.ctl 28) (odrThr (c % 32) (j.phase + BitVec.ofNat 5 n)) (j.src i c)).1

/-- The bytes of row-major output. -/
def CvtJob.rowMajor (j : CvtJob) : List (Nat × Byte) :=
  let es := kindBytes (cvtDK j.ctl)
  let nb := (j.cols + 31) / 32
  let data := (List.range j.rows).flatMap (fun i => (List.range j.cols).flatMap (fun c => atOffsets ((i * j.cols + c) * es) (natLe es (j.code i c))))
  let sc := (List.range j.rows).flatMap (fun i => (List.range nb).map (fun b =>
    (j.rows * j.cols * es + i * nb + b, BitVec.ofNat 8 (j.scale i (32 * b)))))
  if j.scaled then data ++ sc else data

/-- The bytes of one operand block (03_kernel_memory R65, R66); its reserved bytes are not written. -/
def CvtJob.block (j : CvtJob) (p q : Nat) : List (Nat × Byte) :=
  let t := if cvtDK j.ctl = 10 then cvtDT j.ctl else cvtDK j.ctl
  let f := tileFmt t
  let base := (p * (j.cols / 32) + q) * tileSize t
  let code (e : Nat) : Nat := j.code (32 * p + e / 32) (32 * q + e % 32)
  let head := (List.range 1024).flatMap (fun e => if tile16 t then atOffsets (base + 2 * e) (natLe 2 (code e)) else [(base + e, BitVec.ofNat 8 (code e))])
  let planes := (List.range f.p).flatMap (fun k => (List.range 128).map (fun b =>
    (base + tileHead t + 128 * k + b, BitVec.ofNat 8 ((List.range 8).foldl (fun n i => n + (if planeBit f (code (8 * b + i)) k then 2 ^ i else 0)) 0))))
  let sc := (List.range 32).map (fun i => (base + tileHead t + 128 * f.p + i,
    BitVec.ofNat 8 (if cvtLayout j.ctl = 1 then j.scale (32 * p + i) (32 * q) else j.scale (32 * p) (32 * q + i))))
  head ++ planes ++ (if j.scaled then sc else [])

/-- bde.cvt. -/
def State.cvtOut (s : State) (r : Req) (w : Wg) : List (Nat × Byte) × List MRange :=
  let ctl := opW r.ops 6
  let pitch := (opW r.ops 7).toNat
  let es := kindBytes (cvtSK ctl)
  let j : CvtJob := { rows := (opW r.ops 4).toNat, cols := (opW r.ops 5).toNat, ctl := ctl, phase := r.phase, src := fun i c => s.vaNum w (opP r.ops 0 + BitVec.ofNat 64 (i * pitch + c * es)) es }
  (if cvtLayout ctl = 0 then j.rowMajor
    else (List.range (j.rows / 32)).flatMap (fun p => (List.range (j.cols / 32)).flatMap (fun q => j.block p q)),
    (List.range j.rows).map (fun i => (opP r.ops 0 + BitVec.ofNat 64 (i * pitch), j.cols * es, false)))

/-- A request of a base die's engines (R305). -/
def Req.isBde (r : Req) : Bool :=
  match r.ins with
  | .bdeGather _ | .bdeReduce _ | .bdeCvt _ => true
  | _ => false

/-- The die whose engines carry a request out: the home of its destination (R81). -/
def State.bdeHome (s : State) (w : Wg) (rs : List MRange) : Nat :=
  (rs.flatMap pagesOf).findSome? (fun p => match s.walk w.die w.asid p with
    | .ok e => some (pteHome e.pte + 64 * (if paDev (pteFrame e.pte) = s.pkg.dev then 0 else paDev (pteFrame e.pte) + 1))
    | _ => none) |>.getD w.die

/-- The bytes of a request's part sent to their lines in two portions, which a free value divides: a byte is written
independently of every other (R80). -/
def State.splitWrite (s : State) (r : Req) (d : Nat) (ls : List LineWr) : State :=
  let q := s.freeNum
  let part (b : Bool) : List LineWr := (ls.map (fun g => { g with bs := g.bs.filter (fun e => q.1.getLsbD (e.1 % 64) == b) })).filter (fun g => g.bs != [])
  (q.2.reqWrite r d (part true) 2 0).reqWrite r d (part false) 2 0

/-- A part of a base-die request: its pages translated, its bytes read and combined, its results written at the home. A page
whose translation fault was resolved after the issue may have another home: BDE_HOME is then delivered late
(assumption 50). -/
def State.bdeStep (s : State) (r : Req) (w : Wg) (rs : List MRange) (out : State → List (Nat × Byte) × List MRange) : State :=
  if s.x.reqs.any (fun q => q.wg == r.wg && decide (q.id < r.id) && q.isBde && q.done == 0) then s
  else
    let r1 := { r with done := 1 }
    let s0 := { s with x := s.x.setReq r1 }
    match s0.reqRanges r1 w rs with
    | .error t => t
    | .ok s1 =>
      if !oneHome (s1.homesOf w.die w.asid rs).2 then s1.deliverReq r1 11 (opP r.ops 0)
      else
        let o := out s1
        match s1.reqBlocked r1 (o.2.flatMap (s1.mapRange w)) with
        | some t => t
        | none =>
          let n := (o.1.length + 3) / 4
          let p := s1.span2 n
          let bs := (r1.todo p).flatMap (fun i => (o.1.drop (4 * i)).take 4)
          (s1.splitWrite r1 (s1.bdeHome w rs) (s1.lineWrs w (opP r.ops 2) bs)).reqMoved r1.id p n

/-- BDE_REQUEST_COMPLETE: a part of the request r is carried out, the part that `sel` names or all of it for 0; its token falls
with its last write. Requests of one workgroup start in issue order (03_kernel_memory R81). -/
def execBdeRequestComplete (r : Nat) (s : State) : Host.Outcome State Fault Refusal :=
  s.reqGo r (fun q w => match q.ins with
    | .bdeGather f => s.bdeStep q w (gatherRanges f q.ops) (fun s => s.gatherOut q w f)
    | .bdeReduce f => s.bdeStep q w (reduceRanges q.ops) (fun s => s.reduceOut q w f)
    | .bdeCvt _ => s.bdeStep q w (cvtRanges q.ops) (fun s => s.cvtOut q w)
    | _ => s)

/-! ### Neighbour sends (R132 to R135) -/

/-- The bytes of the peer's destination range after a send, or after a reduction word by word (R133). -/
def nbrBytes (i : Instr) (old new : List Byte) : List Byte :=
  match i with
  | .nbrReduce f =>
    (List.range (new.length / 4)).flatMap (fun k => natLe 4 (bankOp f.b.toNat (leWord old k) (leWord new k)).toNat)
  | _ => new

/-- Whether another workgroup's send to the same peer, not over yet, has written a byte of the peer's partition. -/
def Exec.nbrMixed (x : Exec) (r : Req) (b : Nat) : Bool :=
  x.reqs.any (fun q => q.isNbr && q.wg != r.wg && q.peer == r.peer && (match q.ins with
    | .nbrSend _ => q.parts.any (fun p => decide (4 * p.1 ≤ b - (opW q.ops 1).toNat ∧ b - (opW q.ops 1).toNat < 4 * p.2 ∧ (opW q.ops 1).toNat ≤ b))
    | _ => false))

/-- A word that a send or a reduction writes over an old one: where two sends of different senders meet, each byte keeps one of
their values, as a free value says (R135). -/
def State.nbrWord (s : State) (r : Req) (dst i : Nat) (old new : List Byte) : State × List Byte :=
  match r.ins with
  | .nbrSend _ =>
    let q := s.freeNum
    if (List.range 4).any (fun k => s.x.nbrMixed r (dst + 4 * i + k)) then
      (q.2, (List.range 4).map (fun k =>
        if s.x.nbrMixed r (dst + 4 * i + k) && q.1.getLsbD k then (old[k]?).getD 0 else (new[k]?).getD 0))
    else (s, new)
  | _ => (s, nbrBytes r.ins old new)

/-- One word of a send performed in the peer's banks. -/
def State.nbrPut (s : State) (r : Req) (w : Wg) (i : Nat) : State :=
  match r.peer.bind (fun p => s.x.wg? p) with
  | none => s
  | some p =>
    if p.st = WgSt.dropping then s
    else
      let src := (opW r.ops 0).toNat + 4 * i
      let dst := (opW r.ops 1).toNat
      let q := s.nbrWord r dst i (p.scratch.bytes (dst + 4 * i) 4) (w.scratch.bytes src 4)
      q.1.putWg { p with scratch := p.scratch.putBytes (dst + 4 * i) q.2 }

/-- The peer's die. -/
def State.peerDie (s : State) (r : Req) : Option Nat := (r.peer.bind (fun p => s.x.wg? p)).map (fun p => p.die)

/-- A part of a send performed: words in the peer's banks, or discarded if the peer has completed (R134). It stands behind the
earlier sends of its workgroup to the peer, and behind what was sent before it from its die to the peer's (R129, R135). -/
def State.nbrStep (s : State) (r : Req) (w : Wg) : State :=
  let n := (opW r.ops 2).toNat / 4
  let p := s.span2 n
  let late := match s.peerDie r with
    | some d => s.netBefore r.id w.die d || s.gfxBefore r.id w.die d
    | none => false
  if late || s.x.reqs.any (fun q => q.isNbr && q.wg == r.wg && q.peer == r.peer && decide (q.id < r.id)) then s
  else
    let s1 := (r.todo p).foldl (fun s i => s.nbrPut r w i) s
    if s.sel = 0 then s1.reqMoved r.id p n
    else { s1 with x := s1.x.setReq { r with parts := if p.1 < p.2 then addPart p.1 p.2 r.parts else r.parts, done := 1 } }

/-- NBR_WRITE_PERFORMED: a part of the send or reduction r is written, the part that `sel` names; with 0 all that is left is
written, and its group's ST falls. -/
def execNbrWritePerformed (r : Nat) (s : State) : Host.Outcome State Fault Refusal :=
  s.reqGo r (fun q w => if q.isNbr then s.nbrStep q w else s)

end Sys2Proof.Machine
end

