-- ==== Sys2Proof/Machine/Freeze.lean ====
section
/-!
DEFINITION. Stopping and restarting contexts (19_traps R415 to R425): the commands of CTX_CMD, the freeze of a context's
workgroups, the Firn image, and its resume.
-/

set_option linter.unusedVariables false

namespace Sys2Proof.Config

/-- The meaning of a Firn image that this device has not written (19_traps R422; assumption 10). -/
opaque imageOf : List (BitVec 8) → Sys2Proof.Machine.Image

end Sys2Proof.Config

namespace Sys2Proof.Machine

/-! ### CTX_CMD (R415) -/

/-- The fields that every write of CTX_CMD sets: ASID and DEADLINE, DONE and REJECT under w1c. -/
def State.ctxFields (s : State) (x : DWord) : State :=
  { s with sch := { s.sch with
      cmdDone := s.sch.cmdDone && !bit x 62
      cmdReject := s.sch.cmdReject && !bit x 61
      cmdAsid := bits x 48 8
      cmdDeadline := bits x 32 16 } }

/-- The time base at the deadline of a command that begins now: microseconds, 0 meaning 65,536. -/
def State.cmdDue (s : State) : Nat := s.time + 1000 * (if s.sch.cmdDeadline = 0 then 65536 else s.sch.cmdDeadline)

/-- A write of CTX_CMD that starts a command, unless one runs. -/
def State.ctxStart (s : State) (cmd v : Nat) (f : State → Nat → Host.Outcome State Fault Refusal) :
    Host.Outcome State Fault Refusal :=
  if !s.pkg.ready then .next s
  else
    let s1 := s.ctxFields (BitVec.ofNat 64 v)
    if s1.sch.cmd.isSome then .next { s1 with sch := { s1.sch with cmdReject := true } }
    else
      let a := s1.sch.cmdAsid
      let was := (s1.sch.launches.filter (fun l => l.asid == a && l.open)).map (fun l => l.id)
      f { s1 with sch := { s1.sch with cmd := some { cmd := cmd, asid := a, due := s1.cmdDue, was := was } } } a

/-- A command ends: DONE is set, whatever its outcome. -/
def State.cmdEnd (s : State) : State := { s with sch := { s.sch with cmd := none, cmdDone := true } }

/-- Every enabled queue of a context stopped (R351, R416). -/
def State.stopQueues (s : State) (a : Nat) : State :=
  { s with sch := { s.sch with queues := s.sch.queues.map (fun e =>
      if e.2.asid = a ∧ e.2.run = true then (e.1, { e.2 with run := false, stopped := true }) else e) } }

/-! ### Kill (R420) -/

/-- The state of a context discarded: one KILLED record for each launch that has begun; its passes, its undealt packets,
its logical core numbers and what a freeze or a resume holds of it go. -/
def State.killCtx (s : State) (a : Nat) : State :=
  let s0 := s.stopQueues a
  let mine := s0.sch.launches.filter (fun l => l.asid == a && l.open)
  let s1 := (mine.filter s0.begun).foldl (fun s l => s.endLaunch l stKILLED 0 0) s0
  let ids := (mine.filter (fun l => !s0.begun l)).map (fun l => l.id)
  let s2 := ((s1.x.wgs.filter (fun w => w.asid == a)).foldl (fun s w => s.dropWg w) s1)
  let s3 := (s2.gfx.passes.filter (fun p => p.asid == a && !p.ended)).foldl (fun s p => (s.passDrop p.id).setPass { p with ended := true }) s2
  let s4 := { s3 with sch := { s3.sch with
      launches := s3.sch.launches.filter (fun l => !ids.contains l.id)
      slots := s3.sch.slots.filter (fun e => (s3.x.wg? e.wg).isSome)
      resuming := s3.sch.resuming.filter (fun e => e.2.asid != a) } }
  s4.setCtx a { s4.ctx a with lcores := [] }

/-- KILL. -/
def State.cmdKill (s : State) (v : Nat) : Host.Outcome State Fault Refusal :=
  s.ctxStart 3 v (fun s a => .next (s.killCtx a).cmdEnd)

/-- KILL of CTX_CMD. -/
def execKill (v : Nat) (s : State) : Host.Outcome State Fault Refusal := s.cmdKill v

/-! ### Freeze (R417, R418) -/

/-- A workgroup that a freeze of its context stops: it belongs to no pass in progress. -/
def State.freezes (s : State) (a : Nat) (w : Wg) : Bool :=
  w.asid == a && (match s.launch? w.launch with
    | some l => !s.inPass l
    | none => true)

/-- The active slots of a workgroup dropped (R417 step 7). -/
def State.dropSlots (s : State) (w : Wg) : State :=
  ((s.x.core w.die w.core).stand.filter (fun e => e.2.wg == w.id && e.2.st == .active)).foldl
    (fun s e => s.dropSlot w 0 e.1 (.nop default) 0 none []) s

/-- Issue stops for the workgroups of a context that have a live thread (R417 steps 1, 2 and 7). -/
def State.freezeNow (s : State) (a : Nat) : State :=
  let s1 := s.stopQueues a
  let hit (w : Wg) : Bool := s1.freezes a w && w.st == .running && w.takesPart
  let s2 := { s1 with x := { s1.x with wgs := s1.x.wgs.map (fun w => if hit w then { w with st := .frozen } else w) } }
  (s2.x.wgs.filter (fun w => w.asid == a && w.st == .frozen)).foldl (fun s w => s.dropSlots w) s2

/-- FREEZE. -/
def State.cmdFreeze (s : State) (v : Nat) : Host.Outcome State Fault Refusal :=
  s.ctxStart 2 v (fun s a => .next (s.freezeNow a))

/-- FREEZE of CTX_CMD. -/
def execFreeze (v : Nat) (s : State) : Host.Outcome State Fault Refusal := s.cmdFreeze v

/-- DRAIN (R416). -/
def State.cmdDrain (s : State) (v : Nat) : Host.Outcome State Fault Refusal :=
  s.ctxStart 1 v (fun s a => .next (s.stopQueues a))

/-- DRAIN of CTX_CMD. -/
def execDrain (v : Nat) (s : State) : Host.Outcome State Fault Refusal := s.cmdDrain v

/-- DRAIN_DEADLINE_EXPIRY: the drain goes on as a freeze with a new deadline. -/
def execDrainDeadlineExpiry (s : State) : Host.Outcome State Fault Refusal :=
  match s.sch.cmd with
  | some c =>
    if c.cmd = 1 ∧ c.due ≤ s.time then
      .next ({ s with sch := { s.sch with cmd := some { c with cmd := 2, due := s.cmdDue } } }.freezeNow c.asid)
    else .next s
  | none => .next s

/-- The context reset as by KILL, and a DEADLINE record after its KILLED records (R417). -/
def State.freezeFail (s : State) (a : Nat) (detail : Nat) : State :=
  ((s.killCtx a).postCmd a stDEADLINE 0xB001 (BitVec.ofNat 64 detail)).cmdEnd

/-- FREEZE_DEADLINE_EXPIRY. -/
def execFreezeDeadlineExpiry (s : State) : Host.Outcome State Fault Refusal :=
  match s.sch.cmd with
  | some c => if c.cmd = 2 ∧ c.due ≤ s.time then .next (s.freezeFail c.asid 0) else .next s
  | none => .next s

/-! ### What a freeze saves -/

/-- A younger access of a group that an older one of the same kind of path keeps back: in the scratchpad (03_kernel_memory R61),
in the store queue, behind a store that waits for its fence (07_ordering R163), or at a place that a thread of both touches
(R161). -/
def Exec.behind (x : Exec) (a b : Access) : Bool :=
  b.wg == a.wg && b.grp == a.grp && decide (b.id < a.id) &&
    ((a.onScratch && b.onScratch) || (a.kind.isStore && b.kind.isStore && !a.inScratch && !b.inScratch && !(x.waits b.after).isEmpty) ||
      (!a.inScratch && !b.inScratch && a.lanes.any (fun l => b.lanes.any (fun m => m.lane == l.lane && m.meets l))))

/-- Accesses of the frozen workgroups that are held in an operand log, or stand behind one that is (R181). `n` bounds
the chain of those that wait for one another. -/
def heldIds (x : Exec) (accs : List Access) (reqs : List Req) : Nat → List Nat → List Nat
  | 0, ids => ids
  | n + 1, ids =>
    let hit (l : List (Nat × Nat)) : Bool := l.any (fun p => ids.contains p.1)
    let more := (accs.filter (fun a => !ids.contains a.id && (hit a.after || accs.any (fun b => ids.contains b.id && x.behind a b)))).map (fun a => a.id) ++
      (reqs.filter (fun r => !ids.contains r.id && hit r.after)).map (fun r => r.id)
    heldIds x accs reqs n (ids ++ more)

/-- A lane held in its group's operand log at a freeze: with a fault, behind one on its page, or waiting for a hardware bind
that has not begun (R410, R411, R418). A lane that merely waits for its walk is translated and performed first (R181). -/
def State.laneLogged (s : State) (a : Access) (l : LaneAcc) : Bool :=
  s.x.inLog a l || (l.st == .wait && (match s.x.wg? a.wg with
    | some w => (pieces l.va a.width).any (fun p => (s.cached w.die w.core w.asid p.1).isNone && (match s.walk w.die w.asid p.1 with
      | .bind _ _ => true
      | _ => false))
    | none => false))

/-- An access held in the log. -/
def State.accLogged (s : State) (a : Access) : Bool := a.lanes.any (s.laneLogged a)

/-- A copy or a base-die request (R417 step 6). -/
def Req.saves (r : Req) : Bool :=
  match r.ins with
  | .copy _ | .bdeGather _ | .bdeReduce _ | .bdeCvt _ => true
  | _ => false

/-- Everything of the frozen workgroups `ws` but what the image takes has ended: queues of the matrix engine, sends,
drains, stores, slots. -/
def State.wgsQuiet (s : State) (ws : List Wg) (held : List Nat) : Bool :=
  let mine (i : Nat) : Bool := ws.any (fun w => w.id == i)
  s.x.accs.all (fun c => !mine c.wg || c.kind == .fetch ||
    (held.contains c.id && c.res.isEmpty && (!s.accLogged c || c.lanes.all (fun l => l.over || s.laneLogged c l)))) &&
  s.x.cores.all (fun e => (e.2.mq ++ e.2.mq1).all (fun o => !mine o.wg) &&
    e.2.stand.all (fun t => !mine t.2.wg || (t.2.st == .pending && held.contains t.2.acc))) &&
  ws.all (fun w => w.ks.all (fun k => k.st != .issuing)) &&
  s.sch.pend.all (fun r => match r.wake with
    | some (w, _, _) => !mine w
    | none => true) &&
  s.x.reqs.all (fun r => !mine r.wg || r.saves)

/-- The same of a whole context, every workgroup of which that a freeze stops is frozen. -/
def State.frozenQuiet (s : State) (a : Nat) (ws : List Wg) (held : List Nat) : Bool :=
  s.x.wgs.all (fun w => w.asid != a || w.st == .frozen || !s.freezes a w) && s.wgsQuiet ws held

/-- The identifiers that the logged accesses of some workgroups hold back. -/
def State.heldOf (s : State) (ws : List Wg) : List Nat :=
  let accs := s.x.accs.filter (fun k => k.kind != .fetch && ws.any (fun w => w.id == k.wg))
  let reqs := s.x.reqs.filter (fun r => ws.any (fun w => w.id == r.wg))
  heldIds s.x accs reqs (accs.length + reqs.length) ((accs.filter s.accLogged).map (fun k => k.id))

/-- Unfinished copies and base-die requests run on until the last microsecond, unless they are held (R417 step 6). -/
def State.copiesDone (s : State) (ws : List Wg) (held : List Nat) (due : Nat) : Bool :=
  decide (due ≤ s.time + 1000) ||
    s.x.reqs.all (fun r => !ws.any (fun w => w.id == r.wg) || r.fault.isSome || held.contains r.id)

/-- The rank of a group's age among the context's groups on its scheduler of its physical core (R422). -/
def ageRank (ws : List Wg) (w : Wg) (g : Group) : Nat :=
  (ws.filter (fun u => u.die == w.die && u.core == w.core)).foldl (fun n u =>
    n + (u.groups.filter (fun h => h.idx % 4 == g.idx % 4 && decide (h.age < g.age))).length) 0

/-- A thread as saved: a fetch that it waits for starts anew, and its pass-over counts are not kept (R425). -/
def Lane.saved (t : Lane) : Lane :=
  let un (h : Hold) : Hold := match h with
    | .fetch _ => .free
    | h => h
  { t with hold := un t.hold, resHold := un t.resHold, pass := 0, waited := 0 }

def Group.saved (g : Group) (rank : Nat) : Group :=
  { g with age := rank, pass := 0, busy := g.busy.filter (fun b => match b.due with
      | .acc _ => true
      | .clk _ => false), lanes := g.lanes.map Lane.saved }

/-- The words of a bank. -/
def Core.bankWords (k : Core) (b : Nat) : List Word := (List.range 4096).map (fun i => cget 0 (4096 * b + i) k.acc)

/-- The graph launches of a list. -/
def graphIds (ls : List Launch) : List Nat := (ls.filter (fun l => pkStage l.pkt == 4)).map (fun l => l.id)

/-- The deque and wait-list records of a context by logical core (R417 step 8). -/
def State.savedRecs (s : State) (a : Nat) (gs : List Nat) : List (Nat × List GRec) :=
  (s.ctx a).lcores.map (fun e =>
    let w := (s.gdie (e.1 / 16)).waits.filter (fun w => w.2.1 == e.1 % 16 && gs.contains w.2.2.graph)
    ((minBy (fun n => n) e.2).getD 0, (gs.flatMap (s.recs (e.1 / 16) (e.1 % 16)) ++ w.map (fun t => t.2.2)).map (fun r => { r with slot := none })))

/-- The image of a context whose frozen workgroups are `ws`. -/
def State.imageNow (s : State) (a : Nat) (was : List Nat) (ws : List Wg) (held : List Nat) : Image :=
  let mine (i : Nat) : Bool := ws.any (fun w => w.id == i)
  let ls := s.sch.launches.filter (fun l => l.asid == a && (l.open || was.contains l.id))
  let pend := s.x.cores.flatMap (fun e => (e.2.stand.filter (fun t => mine t.2.wg && t.2.st == .pending)).map (fun t => t.2))
  { asid := a
    launches := ls
    wgs := ws.map (fun w => { w with groups := w.groups.map (fun g => g.saved (ageRank ws w g)) })
    banks := ws.flatMap (fun w => w.allBanks.map (fun b => (w.id, b, (s.x.core w.die w.core).bankWords b)))
    accs := s.x.accs.filter (fun c => mine c.wg && c.kind != .fetch)
    reqs := s.x.reqs.filter (fun r => mine r.wg && r.saves)
    stands := s.sch.slots.filter (fun e => mine e.wg) ++ pend
    deque := (s.savedRecs a (graphIds ls)).filter (fun e => !e.2.isEmpty)
    rime := (s.ctx a).rimeCur
    next := s.x.nextId }

/-! ### The bytes of an image (R421, R422) -/

/-- A record's header fields and the length of its content. -/
structure RecHead where
  type : Nat
  queue : Nat := 0
  lcore : Nat := 0
  wg : Nat := 0
  grp : Nat := 255
  len : Nat := 0
  deriving DecidableEq, Repr

/-- LEN: the header and its content, a multiple of 16. -/
def RecHead.size (h : RecHead) : Nat := 16 + (h.len + 15) / 16 * 16

/-- The length of a saved partition: its bytes other than zero, each with its place, or all of its bytes if fewer. -/
def Wg.scrLen (w : Wg) : Nat := min w.scrSize (4 * w.scratch.length)

/-- The length of a saved bank, in the same way. -/
def bankLen (ws : List Word) : Nat := min 16384 (8 * (ws.filter (fun x => x != 0)).length)

/-- The length of a group's saved registers, in the same way. -/
def Group.regLen (g : Group) (regs : Nat) : Nat :=
  (g.lanes.map (fun l => min (5 * regs) (8 * (l.v.filter (fun r => r != {})).length))).foldl (fun a b => a + b) 0

/-- The records of an image in their order; the lengths of their contents are the model's (assumption 25). -/
def Image.heads (m : Image) : List RecHead :=
  let q (w : Wg) : Nat := ((m.launches.find? (fun l => l.id == w.launch)).map (fun l => l.queue)).getD 0
  let of (i : Nat) : Wg := (m.wgs.find? (fun w => w.id == i)).getD {}
  m.launches.map (fun l => { type := 1, queue := l.queue, len := 192 }) ++
  m.wgs.map (fun w => { type := 2, queue := q w, lcore := w.lcore, wg := w.index, len := 1024 + w.scrLen + ((m.banks.filter (fun b => b.1 == w.id)).map (fun b => bankLen b.2.2)).foldl (fun a b => a + b) 0 }) ++
  m.wgs.flatMap (fun w => w.groups.map (fun g => { type := 3, queue := q w, lcore := w.lcore, wg := w.index, grp := g.idx, len := 512 + 768 * (m.accs.filter (fun c => c.wg == w.id && c.grp == g.idx)).length })) ++
  m.wgs.flatMap (fun w => w.groups.map (fun g => { type := 4, queue := q w, lcore := w.lcore, wg := w.index, grp := g.idx, len := 2048 + g.regLen w.regs })) ++
  m.reqs.map (fun r => { type := 5, queue := q (of r.wg), lcore := (of r.wg).lcore, wg := (of r.wg).index, len := 64 }) ++
  (m.stands.filter (fun e => e.st != .pending)).map (fun e => { type := 6, queue := q (of e.wg), lcore := (of e.wg).lcore, wg := (of e.wg).index, len := 32 }) ++
  m.deque.map (fun e => { type := 7, lcore := e.1, len := 80 * e.2.length }) ++
  [{ type := 8 }]

/-- SIZE of an image. -/
def Image.size (m : Image) : Nat := m.heads.foldl (fun n h => n + h.size) 64

/-- The header of an image. -/
def Image.header (m : Image) (time : Nat) : List Byte :=
  let flags := (if m.wgs.isEmpty then 1 else 0) + (if m.launches.any (fun l => pkCores l.pkt) then 2 else 0)
  let nl := (m.wgs.map (fun (w : Wg) => w.lcore + 1) ++ m.deque.map (fun (e : Nat × List GRec) => e.1 + 1)).foldl max 0
  natLe 4 0x4E524946 ++ natLe 2 1 ++ natLe 2 flags ++ natLe 8 m.size ++ natLe 8 m.rime.toNat ++ natLe 8 time ++
    natLe 4 nl ++ natLe 4 m.heads.length ++ List.replicate 24 0

/-- The bytes of a record whose content begins at the n-th free value. -/
def RecHead.bytes (h : RecHead) (n : Nat) : List Byte :=
  [BitVec.ofNat 8 h.type, 0, 0, 0] ++ natLe 4 h.size ++ natLe 2 h.queue ++ natLe 2 h.lcore ++ natLe 3 h.wg ++ natLe 1 h.grp ++
    (List.range (h.size - 16)).map (fun k => (Config.freeValue (n + k)).setWidth 8)

/-- The bytes of an image: the content of a record is in the family's encoding, which the manual does not give. -/
def Image.bytes (m : Image) (time n : Nat) : List Byte :=
  (m.heads.foldl (fun (p : List Byte × Nat) h => (p.1 ++ h.bytes p.2, p.2 + h.size)) (m.header time, n)).1

/-! ### Writing the image -/

/-- A saved workgroup's partition stays reserved for each unfinished copy or engine request of it (R419). -/
def State.keep (s : State) (w : Wg) (reqs : List Req) : State :=
  let k := s.x.core w.die w.core
  let new := (reqs.filter (fun r => r.wg == w.id && w.scrSize != 0)).map (fun r => (r.id, w.scrBase, w.scrSize / 4096))
  { s with x := s.x.setCore w.die w.core { k with kept := k.kept ++ new } }

/-- The saved parts of a context removed from the device. -/
def State.unload (s : State) (m : Image) : State :=
  let s1 := m.wgs.foldl (fun s w => match s.x.wg? w.id with
    | some u => (s.dropWg u).keep u m.reqs
    | none => s) s
  let gs := graphIds m.launches
  let ids := m.launches.map (fun l => l.id)
  let cores := s1.x.cores.map (fun e => (e.1, { e.2 with
    deque := e.2.deque.filter (fun r => !gs.contains r.graph), rings := e.2.rings.filter (fun r => !gs.contains r.graph), steals := e.2.steals.filter (fun t => !gs.contains t.graph) }))
  let gd := s1.gfx.dies.map (fun e => (e.1, { e.2 with waits := e.2.waits.filter (fun w => !gs.contains w.2.2.graph) }))
  let passes := s1.gfx.passes.map (fun p => if p.asid = m.asid then { p with ended := true } else p)
  let sch := { s1.sch with
    launches := s1.sch.launches.filter (fun l => !(ids.contains l.id && l.open))
    slots := s1.sch.slots.filter (fun e => !m.wgs.any (fun w => w.id == e.wg)) }
  let s2 := { s1 with x := { s1.x with cores := cores }, gfx := { s1.gfx with dies := gd, passes := passes }, sch := sch }
  s2.setCtx m.asid { s2.ctx m.asid with lcores := [] }

/-- The image area's base. -/
def State.imgPa (s : State) : Nat := bits s.sch.imgBase 12 40 * 4096

/-- An image written to CTX_IMG once its lines are quiet, and the SAVED record; an image beyond PAGES resets the context
instead (R417). -/
def State.saveImage (s : State) (m : Image) : Host.Outcome State Fault Refusal :=
  if 4096 * s.sch.imgPages < m.size then .next (s.freezeFail m.asid m.size)
  else
    let bs := m.bytes s.time s.x.free
    let pas := regsFrom s.imgPa bs.length
    match pas.find? (fun p => !s.paExists p) with
    | some p => .fault (.noMemory p)
    | none =>
      let w := pas.zip bs
      if !s.quietAll w then .next (s.snoopAsk (linesOf w))
      else
        let s1 := (s.engineWrite w {}).unload m
        let s2 := { s1 with sch := { s1.sch with images := (bs, m) :: s1.sch.images }, x := { s1.x with free := s1.x.free + m.size } }
        .next (s2.postCmd m.asid stSAVED 0 0).cmdEnd

/-- DRAIN_COMPLETE: nothing of the context is resident, and no launch of it is dealt and still to be recorded (R416). -/
def execDrainComplete (s : State) : Host.Outcome State Fault Refusal :=
  match s.sch.cmd with
  | none => .next s
  | some c =>
    let s0 := (s.gfx.passes.filter (fun p => p.asid == c.asid && !p.ended)).foldl (fun s p => s.passCheck p.id) s
    if c.cmd ≠ 1 ∨ s0.x.wgs.any (fun w => w.asid == c.asid) = true ∨
        s0.gfx.passes.any (fun p => p.asid == c.asid && s0.passGoing p) = true ∨
        s0.sch.launches.any (fun l => l.asid == c.asid && l.st == .dealt && pkStage l.pkt != 4) = true then .next s
    else s0.saveImage (s0.imageNow c.asid c.was [] [])

/-- FREEZE_IMAGE_WRITE: step 9 of R417. A slot that became active after issue stopped is dropped first. -/
def execFreezeImageWrite (s : State) : Host.Outcome State Fault Refusal :=
  match s.sch.cmd with
  | none => .next s
  | some c =>
    if c.cmd ≠ 2 then .next s
    else
      let s0 := (s.gfx.passes.filter (fun p => p.asid == c.asid && !p.ended)).foldl (fun s p => s.passCheck p.id) s
      let ws := s0.x.wgs.filter (fun w => w.asid == c.asid && w.st == .frozen)
      let s1 := ws.foldl (fun s w => s.dropSlots w) s0
      let held := s1.heldOf ws
      if !s1.frozenQuiet c.asid ws held || !s1.copiesDone ws held c.due ||
          s1.gfx.passes.any (fun p => p.asid == c.asid && s1.passGoing p) then .next s1
      else s1.saveImage (s1.imageNow c.asid c.was ws held)

/-! ### Reading an image (R423) -/

/-- The headers of an image's records from an offset: total length and number, up to and including END; none if they run
beyond the bytes or a LEN is wrong. -/
def recWalk (bs : List Byte) : Nat → Nat → Nat → Option (Nat × Nat)
  | 0, _, _ => none
  | n + 1, o, k =>
    let h := (bs.drop o).take 16
    let len := leNat ((h.drop 4).take 4)
    if h.length < 16 ∨ len < 16 ∨ len % 16 ≠ 0 ∨ bs.length < o + len then none
    else if h.headD 0 = 8 then some (o + len, k + 1)
    else recWalk bs n (o + len) (k + 1)

/-- The image at CTX_IMG passes the checks of R423 within PAGES. -/
def State.imageRead (s : State) : Option (List Byte) :=
  let at_ (o n : Nat) : Nat := s.freshNum (s.imgPa + o) n
  let size := at_ 8 8
  if at_ 0 4 ≠ 0x4E524946 ∨ at_ 4 2 ≠ 1 ∨ size % 16 ≠ 0 ∨ size < 80 ∨ 4096 * s.sch.imgPages < size then none
  else
    let bs := s.freshBytes s.imgPa size
    match recWalk bs (size / 16) 64 0 with
    | some (n, k) => if n = size ∧ k = at_ 36 4 then some bs else none
    | none => none

/-- What an image holds: as this device saved it, else as the family's encoding says. -/
def State.imageFor (s : State) (bs : List Byte) : Image :=
  match s.sch.images.find? (fun e => e.1 == bs) with
  | some e => e.2
  | none => Config.imageOf bs

/-! ### Names of a resumed context -/

/-- Identifiers shifted by `off`, launches by `lo`, banks renamed. -/
structure Ren where
  off : Nat
  lo : Nat
  bank : List (Nat × Nat) := []

def Ren.b (r : Ren) (b : Nat) : Nat := ((r.bank.find? (fun p => p.1 == b)).map (fun p => p.2)).getD b
def Ren.ids (r : Ren) (l : List (Nat × Nat)) : List (Nat × Nat) := l.map (fun p => (p.1 + r.off, p.2))
def Ren.hold (r : Ren) : Hold → Hold
  | .watch i => .watch (i + r.off)
  | h => h
def Ren.park (r : Ren) : Park → Park
  | .remote i => .remote (i + r.off)
  | .recPush w g => .recPush w (g + r.lo)
  | p => p
def Ren.group (r : Ren) (g : Group) : Group :=
  { g with
    park := r.park g.park
    phaseAt := 0
    busy := g.busy.map (fun b => { b with due := match b.due with
      | .acc i => .acc (i + r.off)
      | d => d })
    fences := g.fences.map (fun f => { f with preds := f.preds.map (fun i => i + r.off) })
    seen := g.seen.map (fun i => i + r.off)
    lanes := g.lanes.map (fun (t : Lane) => { t with hold := r.hold t.hold, resHold := r.hold t.resHold }) }
def Ren.sign (r : Ren) (k : Sign) : Sign :=
  { k with id := k.id + r.off, after := r.ids k.after, banks := k.banks.map r.b, shadows := k.shadows.map r.b, declAt := 0 }
def Ren.wg (r : Ren) (w : Wg) : Wg :=
  { w with
    id := w.id + r.off
    launch := w.launch + r.lo
    passId := none
    frag := none
    ks := w.ks.map r.sign
    hs := w.hs.map (fun bs => bs.map (fun b => { b with bank := r.b b.bank, prev := b.owner, since := 0 }))
    cs := w.cs.map (fun c => { c with shadows := c.shadows.map (fun p => (r.b p.1, p.2)) })
    bs := w.bs.map (fun (b : Barrier) => { b with
      preds := b.preds.map (fun i => i + r.off)
      who := b.who.map (fun e => (e.1, match e.2 with
        | .ready v t ps => .ready v t (ps.map (fun i => i + r.off))
        | y => y)) })
    groups := w.groups.map r.group }
def Ren.acc (r : Ren) (a : Access) : Access :=
  { a with
    id := a.id + r.off, wg := a.wg + r.off, after := r.ids a.after, at_ := a.at_ + r.off, sent := []
    lanes := if a.held then a.lanes else a.lanes.map (fun (l : LaneAcc) =>
      if l.over then l else { lane := l.lane, va := l.va, ops := l.ops }) }
def Ren.req (r : Ren) (q : Req) : Req :=
  { q with id := q.id + r.off, wg := q.wg + r.off, after := r.ids q.after, done := 0, parts := [], buf := [], out := [], fault := none }

/-! ### Placement of logical cores (R423, R424) -/

/-- The part of an image that belongs to one logical core, with the names of the device. -/
def Image.part (m : Image) (off lo lc : Nat) : Image :=
  let ws := m.wgs.filter (fun w => w.lcore == lc)
  let mine (i : Nat) : Bool := ws.any (fun w => w.id == i)
  let r : Ren := { off := off, lo := lo }
  { asid := m.asid
    wgs := ws.map r.wg
    banks := (m.banks.filter (fun b => mine b.1)).map (fun b => (b.1 + off, b.2))
    accs := (m.accs.filter (fun a => mine a.wg)).map r.acc
    reqs := (m.reqs.filter (fun q => mine q.wg)).map r.req
    stands := (m.stands.filter (fun e => mine e.wg)).map (fun e => { e with wg := e.wg + off, acc := e.acc + off })
    deque := (m.deque.filter (fun e => e.1 == lc)).map (fun e => (e.1, e.2.map (fun (g : GRec) => { g with graph := g.graph + lo, slot := none }))) }

/-- The logical cores of an image, ascending. -/
def Image.lcores (m : Image) : List Nat :=
  let used := m.wgs.map (fun w => w.lcore) ++ m.deque.map (fun e => e.1)
  (List.range (used.foldl max 0 + 1)).filter (fun n => used.contains n)

/-- The matrix context that takes a workgroup with n banks: with free banks for all of them, the one with fewer bound
workgroups, then context 0. -/
def mctxFor (k : Core) (ws : List Wg) (n : Nat) : Option Nat :=
  minBy (fun c => (ws.filter (fun w => w.mctx == some c)).length) ([0, 1].filter (fun c => decide (n ≤ (k.freeBanks c).length)))

/-- The contents of banks written. -/
def Core.fillBank (k : Core) (b : Nat) (vs : List Word) : Core :=
  { k with acc := (vs.mapIdx (fun i v => (i, v))).foldl (fun t e => cput 0 (4096 * b + e.1) e.2 t) k.acc }

/-- A saved workgroup put back on a core; none if it does not fit (R343, R423). -/
def State.resumeWg (s : State) (m : Image) (d c : Nat) (w : Wg) : Option State :=
  let ws := s.x.onCore d c
  let k := s.x.core d c
  let onRing : Bool := !w.meshl || (match s.launch? w.launch with
    | some l => l.ring[w.ring]? == some d
    | none => false)
  match fitsCore ws k.kept w.groups.length (w.regs / 8) (w.scrSize / 4096), onRing with
  | some base, true =>
    let old := w.allBanks
    let mc := match w.mctx with
      | none => some none
      | some _ => (mctxFor k ws old.length).map some
    match mc with
    | none => none
    | some mctx =>
      let new := (k.freeBanks (mctx.getD 0)).take old.length
      let r : Ren := { off := 0, lo := 0, bank := old.zip new }
      let k1 := (m.banks.filter (fun b => b.1 == w.id)).foldl (fun k b => k.fillBank (r.b b.2.1) b.2.2) (k.holdBanks new)
      let w1 := { r.wg w with asid := m.asid, die := d, core := c, scrBase := base, mctx := mctx, st := WgSt.running }
      some { s with x := { (s.x.setCore d c k1) with wgs := s.x.wgs ++ [w1] } }
  | _, _ => none

/-- Every workgroup of a logical core on a core. -/
def State.resumeAll (m : Image) (d c : Nat) : List Wg → State → Option State
  | [], s => some s
  | w :: r, s =>
    match s.resumeWg m d c w with
    | none => none
    | some s1 => State.resumeAll m d c r s1

/-- The working cores that take a logical core, with the state in which they hold it. -/
def State.resumeCores (s : State) (m : Image) : List (Nat × Nat × State) :=
  s.dieOrder.flatMap (fun d => (List.range Config.nCores).filterMap (fun c =>
    if s.coreWorks d c then (State.resumeAll m d c m.wgs s).map (fun t => (d, c, t)) else none))

/-- A request that subscribes the line of a resumed slot again (R425, R92). -/
def State.resub (s : State) (r : Req) : State :=
  match s.x.wg? r.wg with
  | none => { s with x := s.x.delReq r.id }
  | some w =>
    match cfind r.idx (s.x.core w.die w.core).stand with
    | none => { s with x := s.x.delReq r.id }
    | some e =>
      match s.reqRanges r w [(e.va, 1, false)] with
      | .error t => t
      | .ok s1 =>
        match s1.pageX w false e.va with
        | .ok pa0 rt =>
          if isHost pa0 then s1.resubLost r
          else
            let line := lineOf (s1.subPa w e.va pa0)
            let k := s1.x.core w.die w.core
            let x := (s1.x.delReq r.id).setCore w.die w.core { k with stand := cset r.idx { e with line := line } k.stand }
            ({ s1 with x := x }).subSend w.die w.core line (.sub w.core r.idx 0 e.every rt)
        | _ => s1

/-- The subscriptions of resumed slots that no fault holds, made again. -/
def State.resubAll (s : State) : State :=
  (s.x.reqs.filter (fun r => r.isResub && r.fault.isNone)).foldl (fun s r => s.resub r) s

/-- A saved slot active at once (R425); its SEQ and FOLDED are not saved and are free. A pending subscription stands in
the table again for its logged access; where the table is full it answers CORE_FULL. -/
def State.resumeSlot (s : State) (d c : Nat) (e : Stand) : State :=
  let k := s.x.core d c
  match k.standFree, e.st with
  | none, .pending =>
    match s.x.acc? e.acc with
    | some a => { s with x := s.x.setAcc { a with aux := if a.aux = 0 then 2 else a.aux } }
    | none => s
  | some i, .pending => { s with x := s.x.setCore d c { k with stand := cset i e k.stand } }
  | free, _ =>
    let i := match free with
      | some i => i
      | none => ((List.range 1024).find? (fun i => (cfind i k.stand).isNone)).getD 0
    let (f, s1) := s.freeNum
    let e1 : Stand := { e with st := .active, acc := 0, seq := loWord f, folded := bits f 32 16, lost := e.lost || free.isNone }
    let s2 := { s1 with x := s1.x.setCore d c { k with stand := cset i e1 k.stand } }
    match free, s2.x.wg? e.wg with
    | some _, some w =>
      s2.addReq { id := s2.x.nextId, wg := e.wg, grp := 0, asid := w.asid, die := d, ins := .standSub default, idx := i }
    | _, _ => s2

/-- A saved record put back at the head of a deque; beside the entries of its ring if neither has room (assumption 34). -/
def State.recBack (s : State) (d c : Nat) (r : GRec) : State :=
  match s.recPut d c r with
  | some s1 => s1
  | none =>
    let k := s.x.core d c
    { s with x := { s.x.setCore d c { k with rings := { r with id := s.x.nextId } :: k.rings } with nextId := s.x.nextId + 1 } }

/-- A logical core placed: its workgroups, logged accesses, requests, slots and deque records, and its number (R425). -/
def State.resumeOn (s : State) (m : Image) (lc d c : Nat) : State :=
  let x := { s.x with accs := s.x.accs ++ m.accs, reqs := s.x.reqs ++ m.reqs.map (fun (q : Req) => { q with asid := m.asid, die := d }) }
  let cx := s.ctx m.asid
  let core := coreNo d c
  let tab := if cx.lcores.any (fun e => e.1 == core) then cx.lcores.map (fun e => if e.1 = core then (core, e.2 ++ [lc]) else e)
    else cx.lcores ++ [(core, [lc])]
  let s1 := ({ s with x := x }).setCtx m.asid { cx with lcores := tab }
  let s2 := (m.deque.flatMap (fun e => e.2)).reverse.foldl (fun (s : State) r => s.recBack d c r) s1
  m.stands.foldl (fun s e => s.resumeSlot d c e) s2

/-- One pass over the logical cores that wait, in ascending order: those that fit are placed; the rest waits on. -/
def State.resumeFit (s : State) : List (Nat × Image) → State × List (Nat × Image) × List Nat
  | [] => (s, [], [])
  | e :: r =>
    match maxBy (fun (p : Nat × Nat × State) => freeSlots (s.x.onCore p.1 p.2.1)) (s.resumeCores e.2) with
    | none =>
      let q := s.resumeFit r
      (q.1, e :: q.2.1, q.2.2)
    | some p =>
      let q := (p.2.2.resumeOn e.2 e.1 p.1 p.2.1).resumeFit r
      (q.1, q.2.1, e.2.wgs.map (fun w => w.id) ++ q.2.2)

/-- The order of R425 in which resumed groups take age stamps: saved rank, logical core, workgroup, group. -/
def ageKey (w : Wg) (g : Group) : Nat := ((g.age * 65536 + w.lcore) * 2 ^ 24 + w.index) * 32 + g.idx
def insertKey (e : Nat × Nat × Nat) : List (Nat × Nat × Nat) → List (Nat × Nat × Nat)
  | [] => [e]
  | f :: r => if e.1 ≤ f.1 then e :: f :: r else f :: insertKey e r

/-- Age stamps of the groups of the workgroups just placed. -/
def State.restamp (s : State) (ids : List Nat) : State :=
  let es := (s.x.wgs.filter (fun w => ids.contains w.id)).flatMap (fun w => w.groups.map (fun g => (ageKey w g, w.id, g.idx)))
  let x := (es.foldr insertKey []).foldl (fun (x : Exec) e =>
    { x.onGrp e.2.1 e.2.2 (fun g => { g with age := x.nextAge }) with nextAge := x.nextAge + 1 }) s.x
  { s with x := x }

/-- What the placed workgroups do first: logged accesses are replayed in log order, and slots are subscribed again. -/
def State.resumeGo (s : State) (ids : List Nat) : State :=
  let s1 := (s.restamp ids)
  let as_ := (s1.x.accs.filter (fun a => ids.contains a.wg)).map (fun a => a.id)
  (as_.foldl (fun s i => s.accTry i) s1).resubAll

/-- The logical cores that wait placed as far as they fit; with the last one, the command ends. -/
def State.resumeStep (s : State) : State :=
  let q := s.resumeFit s.sch.resuming
  let s1 := { q.1 with sch := { q.1.sch with resuming := q.2.1 } }.resumeGo q.2.2
  if q.2.1.isEmpty then s1.cmdEnd else s1

/-- The launches of an image with the device's names: a mesh launch takes the rectangle's ring of this device, a launch
of a pass that has not begun its pass. -/
def State.resumeLaunch (s : State) (lo : Nat) (l : Launch) : State :=
  let l1 := { l with id := l.id + lo, pass := none, cpass := none, chosen := false, ring := if pkMeshl l.pkt then s.launchRing l.pkt else l.ring, st := if l.open then l.st else .recorded }
  let s1 := { s with sch := { s.sch with nextLaunch := max s.sch.nextLaunch (l1.id + 1) } }
  if l.pass.isSome ∧ l.open = true then
    let q := match s1.passFor l.asid l.pkt with
      | some (some (p, s2)) => if pkStage l.pkt ≠ 1 then some (p, none, s2) else match s2.passFor l.asid l.tmpl with
        | some (some (c, s3)) => some (p, some c, s3)
        | _ => none
      | _ => none
    match q with
    | some (p, c, s2) => { s2 with sch := { s2.sch with launches := s2.sch.launches ++ [{ l1 with pass := some p, cpass := c }] } }
    | none => (s1.addLaunch { l1 with st := .ended }).postLaunch l1 stBAD_PACKET 0 0
  else { s1 with sch := { s1.sch with launches := s1.sch.launches ++ [l1] } }

/-- RIME of an image's header: the log's cursor at the save, which RIME_CUR and RIME_RD take up (16_translation R369). -/
def imageRime (bs : List Byte) : DWord := BitVec.ofNat 64 (leNat ((bs.drop 16).take 8))

/-- A resume that ends at once with a record. -/
def State.resumeFail (s : State) (a status : Nat) : State := (s.postCmd a status 0 0).cmdEnd

/-- RESUME (R423): the image's launches and logical cores; BAD_PACKET for a wrong image, NO_FIT where a rectangle holds
another number of dies or a CORES image does not fit at once. -/
def State.cmdResume (s : State) (v : Nat) : Host.Outcome State Fault Refusal :=
  s.ctxStart 4 v (fun s a =>
    if !s.paExists s.imgPa then .fault (.noMemory s.imgPa)
    else match s.imageRead with
      | none => .next (s.resumeFail a stBAD_PACKET)
      | some bs =>
        let m0 := s.imageFor bs
        let m := { m0 with asid := a, launches := m0.launches.map (fun (l : Launch) => { l with asid := a }) }
        if m.launches.any (fun l => l.open && pkMeshl l.pkt && (s.launchRing l.pkt).length != l.ring.length) then
          .next (s.resumeFail a stNO_FIT)
        else
          let off := s.x.nextId
          let lo := s.sch.nextLaunch
          let s1 := m.launches.foldl (fun (s : State) (l : Launch) => s.resumeLaunch lo l) { s with x := { s.x with nextId := off + m.next } }
          let parts := m.lcores.map (fun n => (n, m.part off lo n))
          let s2 := ({ s1 with sch := { s1.sch with resuming := parts } }).setCtx a { s1.ctx a with rimeCur := imageRime bs, rimeRd := imageRime bs }
          if m.launches.any (fun l => l.open && pkCores l.pkt) && !(s2.resumeFit parts).2.1.isEmpty then
            .next (s.resumeFail a stNO_FIT)
          else .next s2.resumeStep)

/-- RESUME of CTX_CMD. -/
def execResume (v : Nat) (s : State) : Host.Outcome State Fault Refusal := s.cmdResume v

/-- RESUME_PLACEMENT: logical cores that waited for space are placed; a slot whose page has been bound or fixed is
subscribed. -/
def execResumePlacement (s : State) : Host.Outcome State Fault Refusal :=
  match s.sch.cmd with
  | some c => if c.cmd = 4 then .next s.resumeStep else .next s.resubAll
  | none => .next s.resubAll

end Sys2Proof.Machine
end

