-- ==== Sys2Proof/Machine/Diemap.lean ====
section
/-!
DEFINITION. The die map (21_bringup R434 to R437): its entries, the routes between dies, and what a die or a link that is
mapped out while the device runs takes with it (17_coherence R385, 04_render_mesh R96, 05_tensor_mesh R136).
-/

set_option linter.unusedVariables false

namespace Sys2Proof.Machine

/-! ### The grid (R10, R11) -/

/-- Directions by number: 0 north, 1 east, 2 south, 3 west. -/
def neighbourDie (d dir : Nat) : Option Nat :=
  if dir = 0 then (if d / 8 < 5 then some (d + 8) else none)
  else if dir = 1 then (if d % 8 < 7 then some (d + 1) else none)
  else if dir = 2 then (if 0 < d / 8 then some (d - 8) else none)
  else if 0 < d % 8 then some (d - 1) else none

/-- The number of the mesh link that leaves a die in a direction: 2 × d to the east of die d, 2 × d + 1 to its north. -/
def meshLink (d dir : Nat) : Option Nat :=
  (neighbourDie d dir).map (fun e =>
    if dir = 0 then 2 * d + 1 else if dir = 1 then 2 * d else if dir = 2 then 2 * e + 1 else 2 * e)

/-- The two dies of a mesh link. -/
def linkEnds (n : Nat) : Nat × Nat := (n / 2, n / 2 + (if n % 2 = 0 then 1 else 8))

/-! ### The map (R434, R435) -/

/-- The cores of a die that passed their tests and are not gated (R432, R446). -/
def State.coreMask (s : State) (d : Nat) : Nat := cget 0 d s.pkg.coreMask % 2 ^ 16

/-- A mesh link works. -/
def State.linkUp (s : State) (n : Nat) : Bool := !s.pkg.linksOut.contains n

/-- Dies reached from some dies over one working link, through dies with a working core. -/
def State.spread (s : State) (r : List Nat) : List Nat :=
  (List.range Config.nDies).filter (fun d => r.contains d || (s.coreMask d != 0 &&
    (List.range 4).any (fun i => match neighbourDie d i, meshLink d i with
      | some e, some n => r.contains e && s.linkUp n
      | _, _ => false)))

/-- Dies reached over n links at most. -/
def State.reached (s : State) : Nat → List Nat
  | 0 => (List.range 8).filter (fun d => s.coreMask d != 0 && s.pkg.mgmtOut / 2 ^ d % 2 == 0)
  | n + 1 => s.spread (s.reached n)

/-- The dies that the builder maps in (R434). -/
def State.mappedIn (s : State) : List Nat := s.reached Config.nDies

/-- Bits set in a word. -/
def onesOf (m : Nat) (n : Nat) : Nat := ((List.range n).filter (fun i => m / 2 ^ i % 2 == 1)).length

/-- LINKS of a die (R435): the directions in which a link exists and is mapped out, by itself or with a die at an end. -/
def State.linksField (s : State) (ds : List Nat) (d : Nat) : Nat :=
  (List.range 4).foldl (fun n i => match neighbourDie d i, meshLink d i with
    | some e, some k => if ds.contains d && ds.contains e && s.linkUp k then n else n + 2 ^ i
    | _, _ => n) 0

/-- DMAP_ENT[d] for the mapped-in dies `ds` (R435). -/
def State.dmapEnt (s : State) (ds : List Nat) (d : Nat) : DWord :=
  let links := s.linksField ds d * 2 ^ 44
  if ds.contains d then
    let order := (ds.filter (fun e => decide (e < d))).length
    BitVec.ofNat 64 (s.coreMask d * 2 ^ 48 + links + order * 2 ^ 32 + onesOf (s.die d).pchMap.toNat 64 * 2 ^ 24 + 1)
  else BitVec.ofNat 64 links

/-- Every entry built from the working cores and links. -/
def State.buildMap (s : State) : State :=
  let ds := s.mappedIn
  { s with pkg := { s.pkg with dmap := (List.range Config.nDies).map (fun d => (d, s.dmapEnt ds d)) } }

/-! ### Routes (R436) -/

/-- Working dies at each distance from a die over working links, by rising distance. -/
def State.rings (s : State) : Nat → List Nat → List Nat → List (List Nat)
  | 0, _, _ => []
  | n + 1, seen, now =>
    let next := (List.range Config.nDies).filter (fun d => s.working d && !seen.contains d &&
      (List.range 4).any (fun i => match neighbourDie d i, meshLink d i with
        | some e, some k => now.contains e && s.linkUp k
        | _, _ => false))
    now :: (if next.isEmpty then [] else s.rings n (seen ++ next) next)

/-- The hop of a route to a die at the given distances: east or west before north or south, then the lower die. -/
def State.hop (s : State) (near : List Nat) (d : Nat) : Option Nat :=
  let hops (is : List Nat) : List Nat := is.filterMap (fun i => match neighbourDie d i, meshLink d i with
    | some e, some k => if near.contains e && s.linkUp k then some e else none
    | _, _ => none)
  match minBy (fun (n : Nat) => n) (hops [1, 3]) with
  | some e => some e
  | none => minBy (fun (n : Nat) => n) (hops [0, 2])

/-- The dies of a route from d, given the rings around its end by falling distance. -/
def State.routeBy (s : State) : List (List Nat) → Nat → List Nat
  | [], _ => []
  | near :: r, d => match s.hop near d with
    | some e => e :: s.routeBy r e
    | none => []

/-- The route of R129 between two working dies, both included; none where no working path exists. -/
def State.route (s : State) (a b : Nat) : Option (List Nat) :=
  let rs := s.rings 48 [b] [b]
  match (rs.zipIdx.find? (fun p => p.1.contains a)) with
  | some (_, n) => some (a :: s.routeBy ((rs.take n).reverse) a)
  | none => none

/-! ### Lines of a die that is lost (R385) -/

/-- An agent on a lost die. -/
def Agent.on (ds : List Nat) : Agent → Bool
  | .die d => ds.contains d
  | .core d _ => ds.contains d
  | _ => false

/-- The messages that a home or an LLC makes again when a line is settled. -/
def MsgK.settles : MsgK → Bool
  | .getS | .getM | .upg | .putM _ | .putO _ | .putE | .mod | .fwdGetS _ | .fwdGetM _ _ | .inv _ | .backInv | .data _ _ _
  | .invAck | .backInvAck _ | .putAck | .retry _ | .nackWT => true
  | _ => false

/-- The value of a line that a survivor owns: its LLC, a slice, or a message to or from a survivor carries it. -/
def State.survivor (s : State) (line : Nat) : Option (BitVec 1024) :=
  let owned := s.fab.dies.findSome? (fun e => match cfind line e.2.llc with
    | some v => match v.st with
      | .M | .O | .E | .MIA | .OIA | .EIA => some v.data
      | _ => if v.own then some v.data else none
    | none => none)
  let flying := s.fab.net.findSome? (fun m => if m.line = line then (match m.k with
      | .data st d _ => if st = 2 ∨ st = 3 then some d else none
      | .backInvAck d => d
      | _ => none) else none)
  let kept := s.fab.dies.findSome? (fun e => (e.2.evb.find? (fun v => v.line == line)).bind (fun v => v.data))
  let slice := match cfind line s.fab.slices with
    | some v => if v.st = .none then none else some v.data
    | none => none
  let shared := s.fab.dies.findSome? (fun e => match cfind line e.2.llc with
    | some v => if v.st = .S ∨ v.st = .SWT then some v.data else none
    | none => none)
  (owned.or flying).or ((kept.or slice).or shared)

/-- Memory is current without the owner: no entry, shared, or X with D clear (R374, R385). -/
def Dir.memCurrent : Option Dir → Bool
  | none => true
  | some e => e.st == .S || (e.st == .X && !e.d)

/-- A line with nothing under way, under the rules of R385. `s` has lost the dies, `e` is its entry. -/
def State.lineLost (s : State) (ds : List Nat) (h line : Nat) (e : Dir) : State :=
  let dead (n : Nat) : Bool := h < 64 && ds.contains n
  let e1 := { e with sharers := (List.range 48).foldl (fun m n => if dead n then m &&& ~~~(1#48 <<< n) else m) e.sharers }
  if e1 = e ∧ dead e.owner = false then s
  else if (e.st = .X ∨ e.st = .O) ∧ dead e.owner = true then
    match s.survivor line with
    | some d => { s.putDir h line { e1 with st := .S, owner := 0, d := false } with mem := s.mem.putLine line d }
    | none => if e.st = .X ∧ e.d = false then s.delDir h line else s.loseLine h line
  else if e1.st = .S ∧ (e1.holders h line).isEmpty then s.delDir h line
  else s.putDir h line e1

/-- A line with something under way between survivors and a lost die: every copy is recalled, memory takes the value
that survives, and what waits asks again; without one the line is LOST unless memory is current. The writes and atomics
that waited at its slice reach the slice again. -/
def State.lineSettle (s0 : State) (h line : Nat) : State :=
  let v := s0.survivor line
  let again := ((s0.slice line).waits).filter (fun m => !m.k.settles)
  let s := again.foldl (fun (s : State) (m : Msg) => s.send m.src (sliceOf line) line m.k) s0
  let cur := Dir.memCurrent (s.dir? h line) && !(s.die h).evb.any (fun b => b.line == line)
  let s1 := { s with fab := { s.fab with
    net := s.fab.net.filter (fun m => !(m.line == line && m.k.settles))
    slices := cdel line s.fab.slices
    gathers := s.fab.gathers.filter (fun g => g.line != line)
    dies := s.fab.dies.map (fun (e : Nat × Die) => (e.1, { e.2 with evb := e.2.evb.filter (fun b => b.line != line) })) } }
  let s2 := s1.fab.dies.foldl (fun (s : State) (e : Nat × Die) => if (cfind line e.2.llc).isSome then s.llcGone e.1 line else s) s1
  match v with
  | some d => { s2.delDir h line with mem := s2.mem.putLine line d }
  | none => if cur then s2.delDir h line else s2.loseLine h line

/-- The answer that a request to a lost home receives from the requester's own router (R385). -/
def State.homeGone (s : State) (m : Msg) : State :=
  if m.src = .host then s
  else match m.k with
  | .unsub core idx req => s.send m.src (s.subAgent { die := agKey m.src % 64, dev := s.pkg.dev, core := core, idx := idx }) m.line (.unsubAck idx req)
  | _ => match lostAnswer m.k with
    | some q => s.send m.src m.src m.line q
    | none => s

/-- A line number is homed on one of some dies of this device. -/
def State.homedOn (s : State) (ds : List Nat) (line : Nat) : Bool :=
  match s.homeDie line with
  | .die h => ds.contains h
  | _ => false

/-- The lines homed elsewhere that something names a lost die for. -/
def State.touched (s : State) (ds : List Nat) : List Nat :=
  let add (t : List Nat) (l : Nat) : List Nat := if t.contains l || s.homedOn ds l then t else t ++ [l]
  let t1 := s.fab.net.foldl (fun t m => if m.k.settles && (m.src.on ds || m.dst.on ds) then add t m.line else t) []
  let t2 := s.fab.dies.foldl (fun t e => if ds.contains e.1 then e.2.llc.foldl (fun t v => if v.2.st.stable && v.2.fwds.isEmpty then t else add t v.1) t else t) t1
  s.fab.slices.foldl (fun t e => if (match e.2.owner with
      | some o => ds.contains o
      | none => false) then add t e.1 else t) t2

/-- The requests of surviving agents that some lost homes have not answered: on their way, waiting at the home or at the
slice of the line, or kept for their reissue. -/
def State.unanswered (s : State) (ds : List Nat) : List Msg :=
  let at_ := s.fab.dies.flatMap (fun e => if ds.contains e.1 then e.2.waitq ++ e.2.held
    else (e.2.again.map (fun p => p.2)).filter (fun m => m.dst.on ds))
  let sl := s.fab.slices.flatMap (fun e => e.2.waits)
  (s.fab.net.filter (fun m => m.dst.on ds) ++ at_ ++ sl).filter (fun m => !m.src.on ds && s.homedOn ds m.line)

/-- The records of the subscribers on some lost dies removed without messages; an entry left with none is freed, and the
line's directory entry follows (R377, R384). -/
def State.subsLoss (s : State) (ds : List Nat) : State :=
  { s with fab := { s.fab with dies := s.fab.dies.map (fun (e : Nat × Die) =>
    let left := (e.2.subs.map (fun v =>
      let l : List (Option Subscr) := v.2.subs.map (fun (o : Option Subscr) => match o with
        | some u => if u.dev = s.pkg.dev ∧ ds.contains u.die = true then none else some u
        | none => none)
      (v.1, { v.2 with subs := trimSubs l.length l }))).filter (fun v => v.2.subs != [])
    (e.1, { e.2 with
      subs := left
      dir := e.2.dir.map (fun v => (v.1, { v.2 with sub := v.2.sub && (cfind v.1 left).isSome })) })) } }

/-- The fabric without some dies of this device: their subscriptions, records and messages go, homes treat their entries
under R385, every copy of a line homed on them goes, and the requests that they leave open are answered. -/
def State.fabricLoss (st : State) (ds : List Nat) : State :=
  let gone := st.unanswered ds
  let s := st.subsLoss ds
  let lines := s.touched ds
  let s1 := { s with fab := { s.fab with
    net := s.fab.net.filter (fun m => !(m.dst.on ds || (m.src.on ds && m.k.settles)))
    dies := s.fab.dies.map (fun (e : Nat × Die) => if ds.contains e.1 then (e.1, { pchMap := e.2.pchMap, pchFail := e.2.pchFail
                                                                                   dringBase := e.2.dringBase, dringCtl := e.2.dringCtl, dringWp := e.2.dringWp, dringRd := e.2.dringRd })
      else (e.1, { e.2 with again := e.2.again.filter (fun p => !p.2.dst.on ds) })) } }
  let s2 := s1.fab.dies.foldl (fun (s : State) (e : Nat × Die) => (e.2.llc.filter (fun v => s.homedOn ds v.1)).foldl (fun (s : State) v => s.llcGone e.1 v.1) s) s1
  let s3 := { s2 with fab := { s2.fab with
    slices := s2.fab.slices.filter (fun (e : Nat × SliceEnt) => !s2.homedOn ds e.1)
    gathers := s2.fab.gathers.filter (fun g => !s2.homedOn ds g.line) } }
  let s4 := lines.foldl (fun (s : State) l => s.lineSettle (s.homeKey l) l) s3
  let s5 := s4.fab.dies.foldl (fun (s : State) (e : Nat × Die) => (e.2.dir.filter (fun v => !lines.contains v.1)).foldl (fun (s : State) v => s.lineLost ds e.1 v.1 v.2) s) s4
  gone.foldl (fun s m => s.homeGone m) s5

/-! ### Work that uses a lost die (R96, R136, R437) -/

/-- A launch uses a die: its ring holds the die, a workgroup of it is there, or a record of its graph. -/
def State.usesDie (s : State) (ds : List Nat) (l : Launch) : Bool :=
  (pkMeshl l.pkt && l.ring.any ds.contains) || s.x.wgs.any (fun w => w.launch == l.id && ds.contains w.die) ||
    s.x.cores.any (fun e => ds.contains (e.1 / 16) && (e.2.deque ++ e.2.rings).any (fun r => r.graph == l.id)) ||
    s.gfx.dies.any (fun e => ds.contains e.1 && (e.2.waits.any (fun w => w.2.2.graph == l.id) || (e.2.amp ++ e.2.ring).any (fun c => c.launch == l.id)))

/-- A pass uses a die: it owns regions there, holds packets or fragments there, or a launch of it uses the die. -/
def State.passUses (s : State) (ds : List Nat) (p : Pass) : Bool :=
  p.active.any ds.contains ||
    s.gfx.dies.any (fun e => ds.contains e.1 && (e.2.store.any (fun q => q.pass == p.id) || e.2.frags.any (fun f => f.pass == p.id))) ||
    s.gfx.net.any (fun m => (ds.contains m.src || ds.contains m.dst) && (match m.k with
      | .pkt q => q.pass == p.id
      | .frontier q _ _ => q == p.id
      | .contrib q _ _ _ _ _ => q == p.id)) ||
    s.sch.launches.any (fun l => (l.pass == some p.id || l.cpass == some p.id) && l.open && s.usesDie ds l)

/-- The passes and launches that use some lost dies end with DIE_LOST. -/
def State.workLoss (s : State) (ds : List Nat) : State :=
  let ps := s.gfx.passes.filter (fun p => !p.ended && s.passUses ds p)
  let ids := ps.map (fun p => p.id)
  let ls := s.sch.launches.filter (fun l => l.open && (s.usesDie ds l || (l.pass.toList ++ l.cpass.toList).any ids.contains))
  let s1 := ls.foldl (fun s l => s.endLaunch l stDIE_LOST 0 0) s
  let s2 := ps.foldl (fun s p => (s.passDrop p.id).setPass { p with ended := true }) s1
  { s2 with gfx := { s2.gfx with
      net := s2.gfx.net.filter (fun m => !(ds.contains m.src || ds.contains m.dst))
      dies := s2.gfx.dies.filter (fun e => !ds.contains e.1) } }

/-- Slots of the surviving cores whose line is homed on a lost die show LOST. -/
def State.standLoss (s : State) (ds : List Nat) : State :=
  { s with x := ({ s.x with cores := s.x.cores.map (fun (e : Nat × Core) => (e.1, { e.2 with
      stand := e.2.stand.map (fun (t : Nat × Stand) => if s.homedOn ds t.2.line then (t.1, { t.2 with lost := true }) else t) })) }).standWake }

/-- Everything that goes with some dies, in the step in which GEN rises (R437). -/
def State.diesLost (s : State) (ds : List Nat) : State :=
  if ds.isEmpty then s
  else
    let s1 := (s.workLoss ds).fabricLoss ds
    let s2 := s1.standLoss ds
    { s2 with
        x := { s2.x with cores := s2.x.cores.filter (fun (e : Nat × Core) => !ds.contains (e.1 / 16)) }
        tue := { s2.tue with collapse := s2.tue.collapse.filter (fun c => !ds.contains c.home) } }

/-! ### A change of the map (R437, R445) -/

/-- What the ports gather goes on at the ports that now carry it (R391). -/
def State.rePort (s : State) : State :=
  { s with fab := { s.fab with gathers := s.fab.gathers.map (fun (g : Gather) => { g with port := s.portFor g.dev (g.line % 24) }) } }

/-- The map rebuilt after a change of the working cores or links, with what it takes along, as one step. -/
def State.remap (s : State) (f : Pkg → Pkg) : State :=
  let s1 := { s with pkg := f s.pkg }
  let ds := s1.mappedIn
  let lost := s.dieOrder.filter (fun d => !ds.contains d)
  let s2 := (s1.diesLost lost).buildMap
  ({ s2 with pkg := { s2.pkg with gen := (s2.pkg.gen + 1) % 2 ^ 32 } }).rePort

/-- Die d is mapped out. -/
def State.dieOut (s : State) (d : Nat) : State :=
  if s.coreMask d = 0 then s else s.remap (fun p => { p with coreMask := cset d 0 p.coreMask })

/-- Mesh link n is mapped out. -/
def State.linkOut (s : State) (n : Nat) : State :=
  if s.linkUp n = false ∨ (meshLink (n / 2) (if n % 2 = 0 then 1 else 0)).isNone then s
  else if !(s.working (linkEnds n).1 && s.working (linkEnds n).2) then { s with pkg := { s.pkg with linksOut := s.pkg.linksOut ++ [n] } }
  else s.remap (fun p => { p with linksOut := p.linksOut ++ [n] })

/-- Core c of die d leaves the map; with its last core, the die does (R446). -/
def State.coreOut (s : State) (d c : Nat) : State :=
  let m := s.coreMask d
  if m / 2 ^ c % 2 = 0 then s else s.remap (fun p => { p with coreMask := cset d (m - 2 ^ c) p.coreMask })

/-- DIE_MAP_CHANGE: kind 0 maps die i out, kind 1 mesh link i. -/
def execDieMapChange (kind i : Nat) (s : State) : Host.Outcome State Fault Refusal :=
  if !s.pkg.ready then .next s
  else if kind = 0 then .next (if i < Config.nDies then s.dieOut i else s)
  else if kind = 1 then .next (if i < 96 then s.linkOut i else s)
  else .next s

end Sys2Proof.Machine
end

