-- ==== Sys2Proof/Machine/Boot.lean ====
section
/-!
DEFINITION. Bring-up and removal of power (21_bringup R432 to R438), attestation and firmware update (22_fleet R447 to
R452).
-/

set_option linter.unusedVariables false

namespace Sys2Proof.Machine

/-! ### Firmware images (R450) -/

/-- A number as n bytes, most significant first (R448). -/
def natBe (n v : Nat) : List Byte := (natLe n v).reverse

/-- The digest of an image: SM3 of bytes 0 to 63 and of bytes 128 to L − 1. -/
def fwDigest (bs : List Byte) : BitVec 256 := Config.sm3 (bs.take 64 ++ bs.drop 128)
def fwSvn (bs : List Byte) : Nat := leNat ((bs.drop 4).take 4)
def fwLen (bs : List Byte) : Nat := leNat ((bs.drop 8).take 4)
/-- The vendor's signature: r and s, big-endian. -/
def fwSig (bs : List Byte) : BitVec 512 := BitVec.ofNat 512 (leNat ((bs.drop 64).take 64).reverse)
/-- The header is that of an image, with a length in range and its zero bytes zero. -/
def fwFormed (bs : List Byte) : Bool :=
  leNat (bs.take 4) == 0x57465844 && decide (128 ≤ fwLen bs ∧ fwLen bs ≤ 2 ^ 24) && ((bs.drop 12).take 52).all (fun b => b == 0)
/-- The vendor's signature holds. -/
def fwSigned (bs : List Byte) : Bool := Config.sm2Verify Config.vendorKey (natBe 32 (fwDigest bs).toNat) (fwSig bs)

/-- What an update finds of the image at an address (R451): STATUS. Length and magic are tested first, then the
signature, then the SVN. -/
def fwCheck (min : Nat) (bs : List Byte) : Nat :=
  if !fwFormed bs then 3 else if !fwSigned bs then 1 else if fwSvn bs < min then 2 else 0

/-! ### Power on (R432) -/

/-- The input of POWER_ON: what fails. `dies` holds each die's 16 working-core bits, 0 for a die that fails as a whole;
`links` the failed mesh links (96 bits by number), the failed management links (8 bits) and each die's failed
pseudo-channels (64 bits a die); `fw` bit 0 a failure of the controller's supply, bit 1 of its PLL, bit 2 a rejection
of the shipped image, and from bit 3 the shipped image's SVN (assumption 8). -/
structure BootIn where
  dies : Nat
  links : Nat
  fw : Nat
  deriving DecidableEq, Repr

def BootIn.pch (b : BootIn) (d : Nat) : Nat := b.links / 2 ^ (104 + 64 * d) % 2 ^ 64

/-- The cores of a die that bring-up finds working; none where more than 8 pseudo-channels fail (R432, R438). -/
def BootIn.cores (b : BootIn) (d : Nat) : Nat :=
  if 8 < onesOf (b.pch d) 64 then 0 else b.dies / 2 ^ (16 * d) % 2 ^ 16

/-- The image of a slot passes step 8: its digest and SVN. Slot 0 empty stands for the image that the device ships with. -/
def Pkg.slotOk (p : Pkg) (b : BootIn) (i : Nat) : Option (BitVec 256 × Nat) :=
  match (p.fwSlots[i]?).getD [] with
  | [] => if i = 0 ∧ b.fw / 4 % 2 = 0 then some (Config.shippedDigest, b.fw / 8) else none
  | bs => if fwFormed bs && fwSigned bs then some (fwDigest bs, fwSvn bs) else none

/-- The digest of a slot's image, zero for an empty slot. -/
def Pkg.slotDigest (p : Pkg) (i : Nat) : BitVec 256 :=
  match (p.fwSlots[i]?).getD [] with
  | [] => if i = 0 then Config.shippedDigest else 0
  | bs => fwDigest bs

/-- The sequence stops: FAIL with its FCODE, STEP as it stands. -/
def State.bootFail (s : State) (step code : Nat) : State :=
  { s with pkg := { s.pkg with power := true, fail := true, step := step, fcode := code } }

/-- Steps 3 to 6: the stacks, the links and the map. -/
def State.bootMap (s : State) (b : BootIn) : State :=
  let pkg := { s.pkg with
    coreMask := (List.range Config.nDies).map (fun d => (d, b.cores d))
    linksOut := (List.range 96).filter (fun n => b.links / 2 ^ n % 2 == 1)
    mgmtOut := b.links / 2 ^ 96 % 256 }
  let dies := (List.range Config.nDies).foldl (fun t d => if b.pch d = 0 then t else cset d { pchMap := BitVec.ofNat 64 (b.pch d) } t) s.fab.dies
  let s1 := ({ s with pkg := pkg, fab := { s.fab with dies := dies } }).buildMap
  { s1 with pkg := { s1.pkg with gen := 1 } }

/-- The islands that have power: those of mapped-in dies with their working cores, and the controller's (R440). -/
def State.bootIslands (s : State) : Cells Island :=
  s.dieOrder.flatMap (fun d => ((List.range 21).filter (fun k => decide (16 ≤ k) || s.coreWorks d k)).map (fun k => (21 * d + k, { on := true }))) ++
    (List.range 16).map (fun k => (1008 + k, { on := true }))

/-- Step 8 and READY (R432, R452). -/
def State.bootReady (s : State) (b : BootIn) : State :=
  let p := s.pkg
  let i := p.fwBoot % 2
  let run (j : Nat) (r : BitVec 256 × Nat) : State :=
    { s with pkg := { p with
        power := true, ready := true, step := 9, fcode := if s.dieOrder.length < 46 then 1 else 0
        fwSlot := j, fwBoot := j, fwRun := r.1, fwStage := p.slotDigest (1 - j), minSvn := max p.minSvn r.2
        islands := s.bootIslands } }
  match p.slotOk b i with
  | some r => run i r
  | none => match p.slotOk b (1 - i) with
    | some r => run (1 - i) r
    | none => s.bootFail 8 3

/-- The memory of this device zeroed (step 5); other devices of the pod keep theirs. -/
def State.bootMem (s : State) : Mem := s.mem.filter (fun e => e.1 / 2 ^ 46 != s.pkg.dev)

/-- POWER_ON (R432). -/
def execPowerOn (dies links fw : Nat) (s : State) : Host.Outcome State Fault Refusal :=
  let b : BootIn := { dies := dies, links := links, fw := fw }
  if s.pkg.power then .next s
  else if b.fw % 2 = 1 then .next (s.bootFail 1 2)
  else if b.fw / 2 % 2 = 1 then .next (s.bootFail 2 2)
  else
    let t0 := { s with pkg := { s.pkg with timeOff := 2 ^ 64 - 2 * s.x.clk / 3 % 2 ^ 64 } }
    if b.links / 2 ^ 96 % 256 = 255 then .next (t0.bootFail 3 4)
    else
      let s1 := ({ t0 with mem := t0.bootMem }).bootMap b
      if s1.dieOrder.isEmpty then .next (s1.bootFail 6 1) else .next (s1.bootReady b)

/-- POWER_REMOVED (R433): the device is as at reset, but for the firmware slots, the fused SVN, its place in the pod, and
the clocks of the model; the pod's other devices and the host keep what is theirs. -/
def execPowerRemoved (s : State) : Host.Outcome State Fault Refusal :=
  let s1 := s.fabricLoss (List.range Config.nDies)
  let p : Pkg := { fwSlots := s.pkg.fwSlots, fwBoot := s.pkg.fwBoot, minSvn := s.pkg.minSvn, dev := s.pkg.dev }
  .next { State.reset with
    agenda := s.agenda, sel := s.sel, host := s1.host
    mem := s1.bootMem
    x := { clk := s.x.clk, nextId := s1.x.nextId, nextAge := s.x.nextAge, free := s1.x.free }
    fab := { dies := s1.fab.dies.filter (fun e => decide (64 ≤ e.1)), net := s1.fab.net.filter (fun m => !(m.src.on (List.range 48) || m.dst.on (List.range 48) || m.src == .host)), slices := s1.fab.slices, reads := s1.fab.reads }
    sch := { images := s.sch.images }
    pkg := p }

/-! ### Attestation (R447 to R449) -/

/-- The die-map digest's input (R435). -/
def State.dmapBytes (s : State) : List Byte := (List.range Config.nDies).flatMap (fun d => natLe 8 (s.dmap d).toNat)

/-- Bytes 0 to 319 of a report (R448). -/
def State.reportBody (s : State) (nonce : List Byte) : List Byte :=
  natLe 4 0x54535441 ++ natLe 2 1 ++ natLe 2 0 ++ natLe 8 Config.serial.toNat ++ nonce ++
    natBe 32 s.pkg.fwRun.toNat ++ natBe 32 s.pkg.fwStage.toNat ++ natBe 32 (Config.sm3 s.dmapBytes).toNat ++
    natBe 32 (Config.sm3 Config.fuseArray).toNat ++ natLe 8 s.pkg.gen ++ natLe 8 s.time ++ natBe 64 Config.deviceKey.toNat ++
    natBe 64 Config.endorsement.toNat

/-- A whole report. -/
def State.report (s : State) (nonce : List Byte) : List Byte :=
  s.reportBody nonce ++ natBe 64 (Config.sm2Sign (s.reportBody nonce)).toNat

/-- A write to ATT_CMD. Before READY it is discarded, but for a GO, which sets REJECT (R447). -/
def State.attWrite (s : State) (x : DWord) : State :=
  let p := s.pkg
  if !p.power then s
  else if !p.ready then (if bit x 0 then { s with pkg := { p with attReject := true } } else s)
  else
    let p1 := { p with attDone := p.attDone && !bit x 62, attReject := p.attReject && !bit x 61 }
    let p2 := { p1 with attAddr := bits x 7 45 }
    if p.attBusy then { s with pkg := { p2 with attReject := p2.attReject || bit x 0 } }
    else { s with pkg := { p2 with attBusy := bit x 0, attAt := if bit x 0 then bits x 7 45 else p.attAt } }

/-- ATTESTATION_REPORT: with v below 2^64 a write of v to ATT_CMD; else the report that it asked for is written, with the
die map, GEN and the fuses taken in this one step (R449). -/
def execAttestationReport (v : Nat) (s : State) : Host.Outcome State Fault Refusal :=
  if v < 2 ^ 64 then .next (s.attWrite (BitVec.ofNat 64 v))
  else if !s.pkg.attBusy then .next s
  else
    let pa := 128 * s.pkg.attAt
    match (regsFrom pa 384).find? (fun p => !s.paExists p) with
    | some p => .fault (.noMemory p)
    | none =>
      match s.paPut pa (s.report (s.freshBytes (pa + 16) 32)) with
      | (s1, false) => .next s1
      | (s1, true) => .next { s1 with pkg := { s1.pkg with attBusy := false, attDone := true } }

/-! ### Firmware update (R451) -/

/-- A write to FW_CMD. -/
def State.fwWrite (s : State) (x : DWord) : State :=
  let p := s.pkg
  if !p.ready then s
  else
    let p1 := { p with fwDone := p.fwDone && !bit x 62 }
    let p2 := { p1 with fwAddr := bits x 12 40 }
    if p.fwBusy then { s with pkg := (if bit x 0 then { p2 with fwStatus := 4, fwDone := true } else p2) }
    else { s with pkg := { p2 with fwBusy := bit x 0, fwAt := if bit x 0 then bits x 12 40 else p.fwAt } }

/-- FIRMWARE_UPDATE: with v below 2^64 a write of v to FW_CMD; else the image that it names is verified, and one that
passes goes to the slot that is not running, which becomes the one to boot from. -/
def execFirmwareUpdate (v : Nat) (s : State) : Host.Outcome State Fault Refusal :=
  if v < 2 ^ 64 then .next (s.fwWrite (BitVec.ofNat 64 v))
  else if !s.pkg.fwBusy then .next s
  else
    let pa := 4096 * s.pkg.fwAt
    let n := s.freshNum (pa + 8) 4
    let len := if 128 ≤ n ∧ n ≤ 2 ^ 24 then n else 128
    if !s.paExists pa || !s.paExists (pa + len - 1) then .fault (.noMemory pa)
    else
      let bs := s.freshBytes pa len
      let st := fwCheck s.pkg.minSvn bs
      let p := { s.pkg with fwBusy := false, fwDone := true, fwStatus := st }
      let j := 1 - s.pkg.fwSlot
      if st = 0 then .next { s with pkg := { p with fwSlots := p.fwSlots.set j bs, fwBoot := j, fwStage := fwDigest bs } }
      else .next { s with pkg := p }

end Sys2Proof.Machine
end

