-- ==== Sys2Proof/Machine/Power.lean ====
section
/-!
DEFINITION. Power delivery (21_bringup R439 to R444, 22_fleet R446): grants of the Bora arbiter, islands that power on,
failing phases, gated islands and the workgroups that leave them, rail minima.
-/

set_option linter.unusedVariables false

namespace Sys2Proof.Machine

/-- The power region of a die's site (R439), and of an island; the controller's islands belong to none. -/
def dieRegion (d : Nat) : Nat := 4 * (d / 8 / 2) + d % 8 / 2
def islandRegion (i : Nat) : Option Nat := if i < 1008 then some (dieRegion (i / 21)) else none

/-- The working core islands of a region (R441). -/
def State.coreIslands (s : State) (r : Nat) : List Nat :=
  (s.dieOrder.filter (fun d => dieRegion d == r)).flatMap (fun d =>
    ((List.range Config.nCores).filter (fun c => s.coreWorks d c)).map (fun c => 21 * d + c))

/-- Some islands changed. -/
def State.onIslands (s : State) (is : List Nat) (f : Island → Island) : State :=
  is.foldl (fun s i => s.setIsland i (f (s.island i))) s

/-- BORA_GRANT: every working core island of the region receives n issue slots of 8; an island with two failed phases
stays at one (R443). A request that waits counts the period (R442, R444). -/
def execBoraGrant (region n : Nat) (s : State) : Host.Outcome State Fault Refusal :=
  if !s.pkg.ready || decide (n < 1 ∨ 8 < n ∨ 12 ≤ region) then .next s
  else
    let s1 := s.onIslands (s.coreIslands region) (fun k => { k with slots := if 2 ≤ k.fails then 0 else n - 1 })
    let asks := (List.range 1008).filter (fun i => islandRegion i == some region && (s.island i).asked.isSome)
    .next (s1.onIslands asks (fun k => { k with waits := min 1023 (k.waits + 1) }))

/-- The request that a region serves next: one that has waited 64 periods, else the lowest island number (R442). -/
def State.nextAsk (s : State) (region : Nat) : Option Nat :=
  let asks := (List.range 1008).filter (fun i => islandRegion i == some region && (s.island i).asked.isSome)
  match asks.find? (fun i => decide (64 ≤ (s.island i).waits)) with
  | some i => some i
  | none => asks.head?

/-- ISLAND_POWER_ON: an island that is off asks, and is served in a later occurrence, its region having the headroom. A
request that has waited 64 periods makes its headroom from the grant of the region's core islands, by how much is not
defined: a free value (assumption 10). -/
def execIslandPowerOn (i : Nat) (s : State) : Host.Outcome State Fault Refusal :=
  let k := s.island i
  match islandRegion i with
  | none => .next s
  | some r =>
    if !s.pkg.ready || k.on || k.gated then .next s
    else match k.asked with
      | none => .next (s.setIsland i { k with asked := some s.x.clk, waits := 0 })
      | some _ =>
        if s.nextAsk r ≠ some i then .next s
        else
          let s1 := s.setIsland i { k with on := true, asked := none }
          if k.waits < 64 then .next s1
          else
            let (f, s2) := s1.freeNum
            .next (s2.onIslands (s2.coreIslands r) (fun t => { t with slots := min t.slots (f.toNat % 8) }))

/-! ### Failing phases (R443) -/

/-- The workgroups of a core frozen, alone: issue stops and their slots are dropped (R417 steps 2 and 7). -/
def State.freezeCore (s : State) (d c : Nat) : State :=
  let hit (w : Wg) : Bool := w.die == d && w.core == c && w.st == .running && w.takesPart
  let ids := (s.x.wgs.filter hit).map (fun w => w.id)
  let s1 := { s with x := { s.x with wgs := s.x.wgs.map (fun w => if hit w then { w with st := .frozen } else w) } }
  (s1.x.wgs.filter (fun w => ids.contains w.id)).foldl (fun s w => s.dropSlots w) s1

/-- PHASE_FAILURE: the first phase sets DEGRADED; the second leaves the island one issue slot of 8, and freezes the
workgroups of a core island. -/
def execPhaseFailure (i : Nat) (s : State) : Host.Outcome State Fault Refusal :=
  let k := s.island i
  if !s.pkg.ready || !k.on || decide (1024 ≤ i) then .next s
  else if k.fails = 0 then .next (s.setIsland i { k with fails := 1, degraded := true })
  else if k.fails = 1 then
    let s1 := s.setIsland i { k with fails := 2, degraded := true, slots := 0, failedAt := s.x.clk }
    .next (if i < 1008 ∧ i % 21 < 16 then s1.freezeCore (i / 21) (i % 21) else s1)
  else .next s

/-- The workgroups of a context on a core are frozen, and nothing of them is under way. -/
def State.coreQuiet (s : State) (d c a : Nat) : Bool :=
  let ws := (s.x.onCore d c).filter (fun w => w.asid == a)
  ws.all (fun w => w.st == .frozen) && s.wgsQuiet ws (s.heldOf ws)

/-- The frozen workgroups of a context on a core placed on other cores with their logical names, and its graph records
with them (R443); none if they do not fit. -/
def State.moveCore (s : State) (d c a : Nat) : Option State :=
  let ws := (s.x.onCore d c).filter (fun w => w.asid == a)
  let cx := s.ctx a
  let gs := graphIds (s.sch.launches.filter (fun l => l.asid == a))
  let m0 := s.imageNow a [] ws (s.heldOf ws)
  let own := ((cx.lcores.find? (fun e => e.1 == coreNo d c)).map (fun e => e.2)).getD []
  let m := { m0 with launches := [], deque := (s.savedRecs a gs).filter (fun e => own.contains e.1 && !e.2.isEmpty) }
  let s1 := ws.foldl (fun s w => s.dropWg w) s
  let k := s1.x.core d c
  let k1 := { k with deque := k.deque.filter (fun r => !gs.contains r.graph), rings := k.rings.filter (fun r => !gs.contains r.graph), steals := k.steals.filter (fun t => !gs.contains t.graph) }
  let gfx := { s.gfx with dies := s.gfx.dies.map (fun e => if e.1 = d then (e.1, { e.2 with waits := e.2.waits.filter (fun w => !(w.2.1 == c && gs.contains w.2.2.graph)) }) else e) }
  let s2 := { s1 with
    x := s1.x.setCore d c k1, gfx := gfx
    sch := { s1.sch with slots := s1.sch.slots.filter (fun e => !ws.any (fun w => w.id == e.wg)) } }
  let s3 := s2.setCtx a { cx with lcores := cx.lcores.filter (fun e => e.1 != coreNo d c) }
  let q := s3.resumeFit (m.lcores.map (fun n => (n, m.part 0 0 n)))
  if !q.2.1.isEmpty then none
  else
    let s4 := { q.1 with x := { q.1.x with wgs := q.1.x.wgs.map (fun (w : Wg) => match ws.find? (fun (u : Wg) => u.id == w.id) with
      | some u => { w with passId := u.passId, frag := u.frag }
      | none => w) } }
    some (s4.resumeGo q.2.2)

/-- The launches of graphs with a record on a core. -/
def State.coreGraphs (s : State) (d c : Nat) : List Launch :=
  let k := s.x.core d c
  s.sch.launches.filter (fun l => (k.deque ++ k.rings).any (fun r => r.graph == l.id) ||
    (s.gdie d).waits.any (fun w => w.2.1 == c && w.2.2.graph == l.id))

/-- The records left on a core that has no logical number in their context go, in their order, to the head of the deque of
the lowest working core (assumption 84). -/
def State.moveRecs (s : State) (d c : Nat) : State :=
  let k := s.x.core d c
  let ws := (s.gdie d).waits
  let recs := k.deque ++ k.rings ++ (ws.filter (fun w => w.2.1 == c)).map (fun w => w.2.2)
  match (s.dieOrder.flatMap (fun e => ((List.range Config.nCores).filter (fun n => s.coreWorks e n && !(e == d && n == c))).map (fun n => (e, n)))).head? with
  | none => s
  | some (e, n) =>
    let s1 := s.setGdie d { s.gdie d with waits := ws.filter (fun w => w.2.1 != c) }
    let s2 := { s1 with x := s1.x.setCore d c { k with deque := [], rings := [], steals := [] } }
    recs.reverse.foldl (fun (s : State) r => s.recBack e n r) s2

/-- A context leaves a gated core: moved, or ended with DEADLINE where it is not frozen in time, or NO_FIT. -/
def State.leaveCore (s : State) (d c a : Nat) : State :=
  if !s.coreQuiet d c a then (s.killCtx a).postCmd a stDEADLINE 0xB001 0
  else match s.moveCore d c a with
    | some t => t
    | none => (s.killCtx a).postCmd a stNO_FIT 0 0

/-- ISLAND_GATE: after the second phase failure, at the latest 100 µs later, the island is gated. A core's workgroups
leave it and its core goes from the map; with any other island of a die, the die goes (R443, R446). -/
def execIslandGate (i : Nat) (s : State) : Host.Outcome State Fault Refusal :=
  let k := s.island i
  let d := i / 21
  let c := i % 21
  let asids := (s.x.onCore d c).map (fun w => w.asid) ++ ((s.coreGraphs d c).map (fun l => l.asid)).filter (fun a => (s.ctx a).lcores.any (fun e => e.1 == coreNo d c))
  let ctxs := asids.foldl (fun t a => if t.contains a then t else t ++ [a]) ([] : List Nat)
  if !s.pkg.ready || k.fails != 2 || k.gated then .next s
  else
    let gate (s : State) : State := s.setIsland i { s.island i with gated := true, on := false }
    if 1008 ≤ i then .next (gate s)
    else if 16 ≤ c then .next ((gate s).dieOut d)
    else if s.x.clk < k.failedAt + 150000 ∧ ctxs.all (fun a => s.coreQuiet d c a) = false then .next s
    else
      let s1 := { s with pkg := { s.pkg with dmap := cset d (s.dmap d &&& ~~~(1#64 <<< (48 + c))) s.pkg.dmap } }
      let s2 := ctxs.foldl (fun s a => s.leaveCore d c a) s1
      .next ((gate (s2.moveRecs d c)).coreOut d c)

/-! ### Rail voltage (R444) -/

/-- RAIL_VOLTAGE_MINIMUM: a new minimum replaces MV and TIME together. -/
def execRailVoltageMinimum (i v : Nat) (s : State) : Host.Outcome State Fault Refusal :=
  let k := s.island i
  if !s.pkg.power || decide (1024 ≤ i ∨ k.mv ≤ v) then .next s
  else .next (s.setIsland i { k with mv := v, time := s.time % 2 ^ 48 })

/-- ISL_VMIN of an island. -/
def Island.vmin (k : Island) : DWord := BitVec.ofNat 64 (k.mv % 65536 * 2 ^ 48 + k.time)

/-- ISL_STATUS of an island. -/
def Island.status (k : Island) : DWord :=
  BitVec.ofNat 64 ((if k.on then 2 ^ 63 else 0) + (if k.gated then 2 ^ 62 else 0) + (if k.degraded then 2 ^ 61 else 0) +
    k.slots % 8 * 2 ^ 58 + k.waits % 1024 * 2 ^ 40)

/-- ISL_VMIN_READ: a read returns MV and TIME, and sets them to 0xFFFF and 0. -/
def execIslVminRead (i : Nat) (s : State) : Host.Outcome State Fault Refusal :=
  let k := s.island i
  if 1024 ≤ i then .next s
  else .next ((s.setIsland i { k with mv := 0xFFFF, time := 0 }).regReadLog (0x500000 + 16 * i + 8) k.vmin)

end Sys2Proof.Machine
end

