-- ==== Sys2Proof/Machine/Links.lean ====
section
/-!
DEFINITION. Link protection (17_coherence R392 to R394): flits, their CRC, the receiver's expected number, the replay
buffer, NAKs and retraining. Link 2 × n + r is one direction of the mesh link n (below 96) or of Cezil port n − 96; the
other direction of a link is the other parity. The messages of R378 travel apart from these flits: the link loses,
duplicates and reorders none of them (R394), so they are held as messages in flight.
-/

set_option linter.unusedVariables false

namespace Sys2Proof.Machine

/-- The other direction of a link. -/
def otherWay (k : Nat) : Nat := if k % 2 = 0 then k + 1 else k - 1

/-! ### Flits (R392, R393) -/

/-- One bit of CRC-32C, reflected: polynomial 0x1EDC_6F41. -/
def crcBit (r : BitVec 32) : BitVec 32 := if r.getLsbD 0 then (r >>> 1) ^^^ 0x82F63B78#32 else r >>> 1
def crcBits : Nat → BitVec 32 → BitVec 32
  | 0, r => r
  | n + 1, r => crcBits n (crcBit r)
/-- The register after some bytes. -/
def crcBytes : List Byte → BitVec 32 → BitVec 32
  | [], r => r
  | b :: t, r => crcBytes t (crcBits 8 (r ^^^ b.setWidth 32))

/-- The CRC of bytes 0 to 251 under the flit number S: the register starts at {NOT S, S}. -/
def flitCrc (bs : List Byte) (n : Nat) : BitVec 32 :=
  let s := BitVec.ofNat 16 n
  crcBytes bs (~~~s ++ s) ^^^ 0xFFFFFFFF#32

/-- The 252 bytes of a flit that its CRC covers. -/
def flitBytes (f : BitVec 2048) : List Byte := (List.range 252).map (fun i => f.extractLsb' (8 * i) 8)

def flitKind (f : BitVec 2048) : Nat := bits f 30 2
def flitNak (f : BitVec 2048) : Bool := f.getLsbD 29
def flitAck (f : BitVec 2048) : Nat := bits f 0 16
/-- PAYLOAD, bytes 4 to 251. -/
def flitPayload (f : BitVec 2048) : BitVec 1984 := f.extractLsb' 32 1984
def flitCrcField (f : BitVec 2048) : BitVec 32 := f.extractLsb' 2016 32

/-- A flit with the NAK bit and ACKSEQ of the moment it leaves, and its CRC. -/
def sealFlit (f : BitVec 2048) (n : Nat) (nak : Bool) (ack : Nat) : BitVec 2048 :=
  let hdr : BitVec 32 := BitVec.ofNat 32 (flitKind f * 2 ^ 30 + (if nak then 2 ^ 29 else 0) + bits f 24 3 * 2 ^ 24 + ack % 2 ^ 16)
  let body : BitVec 2016 := flitPayload f ++ hdr
  flitCrc ((List.range 252).map (fun i => body.extractLsb' (8 * i) 8)) n ++ body

/-- A new flit: idle for 0, else a payload flit with the bytes of p − 1. -/
def newFlit (p : Nat) : BitVec 2048 :=
  if p = 0 then 0 else BitVec.ofNat 2048 (2 ^ 30 + (p - 1) % 2 ^ 1984 * 2 ^ 32)

/-- The flit passes at a receiver that expects number E: its CRC under E, and a KIND that is not reserved. -/
def flitOk (f : BitVec 2048) (e : Nat) : Bool := flitCrc (flitBytes f) e == flitCrcField f && decide (flitKind f < 2)

/-! ### The sender (R394) -/

/-- The replay buffer without the flits numbered below E. -/
def freeBelow (e : Nat) (l : List (Nat × BitVec 2048)) : List (Nat × BitVec 2048) :=
  if l.any (fun f => f.1 == e) then l.dropWhile (fun f => f.1 != e) else l

/-- An acknowledged number reaches the sender: the flits below it go; all of them when it is the next new number. -/
def Link.acked (k : Link) (e : Nat) : Link :=
  { k with replay := if e = k.tx then [] else freeBelow e k.replay }

/-- The sender resends from E, in order. -/
def Link.resend (k : Link) (e : Nat) : Link :=
  let r := if e = k.tx then [] else freeBelow e k.replay
  { k with replay := r, wire := r }

/-- The flit that the sender transmits next, as stored with its number: one to be replayed, else a new one unless 512
are held. -/
def Link.transmit (k : Link) (p : Nat) : Option ((Nat × BitVec 2048) × Link) :=
  match k.wire with
  | f :: r => some (f, { k with wire := r })
  | [] =>
    if 512 ≤ k.replay.length then none
    else
      let f := (k.tx, newFlit p)
      some (f, { k with tx := (k.tx + 1) % 2 ^ 16, replay := k.replay ++ [f] })

/-! ### The receiver (R393, R394) -/

/-- A flit that fails: the first one of a row asks for NAK, and every later one is discarded. -/
def Link.reject (k : Link) : Link :=
  if k.bad then { k with sinceNak := k.sinceNak + 1 }
  else { k with bad := true, nakOut := some k.exp, naks := 1, sinceNak := 0 }

/-- A flit that passes: a payload is delivered. -/
def Link.take (k : Link) (f : BitVec 2048) : Link :=
  { k with
    exp := (k.exp + 1) % 2 ^ 16, bad := false, naks := 0, sinceNak := 0, nakOut := none
    got := if flitKind f = 1 then k.got ++ [flitPayload f] else k.got }

/-- A link in use: not mapped out and not training. -/
def Link.runs (k : Link) : Bool := !k.out && !k.training

/-- A direction exists, its link is in the map and the dies at its ends are: a die that is mapped out takes its four mesh
links and its Cezil port with it (R11, R12, R435). -/
def State.linkRuns (s : State) (k : Nat) : Bool :=
  s.pkg.power && (s.link k).runs &&
    (if k / 2 < 96 then (meshLink (k / 4) (if k / 2 % 2 = 0 then 1 else 0)).isSome && s.linkUp (k / 2) &&
        s.working (linkEnds (k / 2)).1 && s.working (linkEnds (k / 2)).2
      else decide (k / 2 < 120) && s.working (portDie (k / 2 - 96)))

/-- FLIT_RECEIVE: the next flit of the direction arrives, or is lost. `sel` modulo 4 says how it travels: 1 corrupted in
one bit, 2 lost, else intact; `sel` / 4 is the payload of a new flit plus one, 0 for an idle flit. -/
def execFlitReceive (k : Nat) (s : State) : Host.Outcome State Fault Refusal :=
  let l := s.link k
  let o := s.link (otherWay k)
  if !s.linkRuns k then .next s
  else match l.transmit (s.sel / 4) with
    | none => .next s
    | some (f, l1) =>
      let s1 := s.setLink (otherWay k) { o with nakOut := none }
      if s.sel % 4 = 2 then .next (s1.setLink k l1)
      else
        let sent := sealFlit f.2 f.1 o.nakOut.isSome ((o.nakOut).getD o.exp)
        let (b, s2) := s1.freeNum
        let g := if s.sel % 4 = 1 then sent ^^^ (1#2048 <<< (b.toNat % 2048)) else sent
        let s3 := if s.sel % 4 = 1 then s2 else s1
        if !flitOk g l1.exp then .next (s3.setLink k l1.reject)
        else
          let s4 := s3.setLink k (l1.take g)
          let r := (s4.link (otherWay k)).acked (flitAck g)
          .next (s4.setLink (otherWay k) (if flitNak g then { r with nakIn := some (flitAck g) } else r))

/-- NAK_RECEIVE: the sender resends from E, in order, and then continues. -/
def execNakReceive (k : Nat) (s : State) : Host.Outcome State Fault Refusal :=
  let l := s.link k
  match l.nakIn with
  | none => .next s
  | some e => if !s.linkRuns k then .next s else .next (s.setLink k { l.resend e with nakIn := none })

/-- Both directions of a link train. -/
def State.train (s : State) (k : Nat) : State :=
  let s1 := s.setLink k { s.link k with training := true }
  s1.setLink (otherWay k) { s1.link (otherWay k) with training := true }

/-- NAK_REPEAT_EXPIRY: 64 flits after its NAK the receiver repeats it; after 8 NAKs for one E the link retrains. -/
def execNakRepeatExpiry (k : Nat) (s : State) : Host.Outcome State Fault Refusal :=
  let l := s.link k
  if !s.linkRuns k || !l.bad || decide (l.sinceNak < 64) then .next s
  else if 8 ≤ l.naks then .next (s.train k)
  else .next (s.setLink k { l with nakOut := some l.exp, naks := l.naks + 1, sinceNak := 0 })

/-- One direction after a training that succeeded: the receiver has passed E, and the sender resumes at it. -/
def Link.trained (k : Link) : Link :=
  { k.resend k.exp with training := false, bad := false, naks := 0, sinceNak := 0, nakOut := none, nakIn := none, fails := 0 }

/-- LINK_TRAINING_END: a training ends; after the third that fails the link is mapped out (R394, R437). -/
def execLinkTrainingEnd (k ok : Nat) (s : State) : Host.Outcome State Fault Refusal :=
  let l := s.link k
  let o := otherWay k
  if !l.training || l.out then .next s
  else if ok ≠ 0 then
    let s1 := s.setLink k l.trained
    .next (s1.setLink o (s1.link o).trained)
  else
    let n := l.fails + 1
    let both (f : Link → Link) : State :=
      let s1 := s.setLink k (f l)
      s1.setLink o (f (s1.link o))
    if n < 3 then .next (both (fun t => { t with fails := n }))
    else
      let s1 := both (fun t => { t with fails := n, training := false, out := true })
      .next (if k / 2 < 96 then s1.linkOut (k / 2) else s1.rePort)

end Sys2Proof.Machine
end

