-- ==== Sys2Proof/Machine/Regs.lean ====
section
/-!
DEFINITION. Device registers (15_launch R349 to R355) and the operations that writes to them start: queues, contexts,
event pointers, the Rime log (16_translation R369), debug registers (19_traps R409), render-target ways (04_render R110,
R111), and the value that a read of each register returns.
-/

set_option linter.unusedVariables false

namespace Sys2Proof.Machine

/-! ### Queues (R328, R351) -/

/-- A queue descriptor read at an enable: 64 bytes (R328). -/
structure QDesc where
  base : DWord
  log2n : Nat
  asid : Nat
  evr : Nat
  rptra : DWord
  read0 : Nat
  rsv : Bool
  deriving DecidableEq, Repr

def readQDesc (b : BitVec 512) : QDesc :=
  { base := b.extractLsb' 0 64, log2n := bits b 64 5, asid := bits b 72 8, evr := bits b 80 10
    rptra := b.extractLsb' 128 64, read0 := bits b 192 64
    rsv := bits b 69 3 != 0 || bits b 90 6 != 0 || bits b 96 32 != 0 || bits b 256 256 != 0 ||
      bits b 0 12 != 0 || decide (bits b 64 5 < 1 ∨ 24 < bits b 64 5) }

/-- The enabled queues of a context. -/
def State.enabledOf (s : State) (a : Nat) : Nat := (s.sch.queues.filter (fun e => e.2.run && e.2.asid == a)).length

/-- A write of EN = 1 to Q_CTL (R351). What EN reads after an enable that REJECT refused is not said: EN reads as RUN
does, 0 (assumption 108). -/
def State.queueOn (s : State) (q : Nat) : Host.Outcome State Fault Refusal :=
  let k := s.queue q
  let pa := bits k.desc 6 46 * 64
  if !s.pkg.ready || decide (4096 ≤ q) || k.run then .next s
  else if !s.paExists pa then .fault (.noMemory pa)
  else
    let r := readQDesc (BitVec.ofNat 512 (s.freshNum pa 64))
    if r.rsv || !(s.ctx r.asid).live || decide (64 ≤ s.enabledOf r.asid) then .next (s.setQueue q { k with reject := true })
    else .next (s.setQueue q { k with
      run := true, stopped := false, base := r.base, log2n := r.log2n, asid := r.asid, evr := r.evr, rptra := r.rptra, rd := r.read0, wr := r.read0 })

/-- A write of EN = 0: fetching stops at the packet boundary, read is unchanged. -/
def State.queueOff (s : State) (q : Nat) : State :=
  if !s.pkg.ready || decide (4096 ≤ q) then s else s.setQueue q { s.queue q with run := false }

/-- QUEUE_ENABLE. -/
def execQueueEnable (q : Nat) (s : State) : Host.Outcome State Fault Refusal := s.queueOn q

/-- QUEUE_DISABLE. -/
def execQueueDisable (q : Nat) (s : State) : Host.Outcome State Fault Refusal := .next (s.queueOff q)

/-! ### Contexts (R352, R353) -/

/-- An event-ring table entry (R353); none for one with a reserved value. -/
def readRing (b : BitVec 256) : Option Ring :=
  if bits b 0 12 ≠ 0 ∨ bits b 64 5 < 1 ∨ 20 < bits b 64 5 ∨ bits b 69 11 ≠ 0 ∨ bits b 203 5 ≠ 0 ∨ bits b 208 48 ≠ 0 then none
  else some { base := b.extractLsb' 0 64, log2n := bits b 64 5, c := bits b 80 16, t := bits b 96 32, wpa := b.extractLsb' 128 64, vec := bits b 192 11 }

/-- Some entries of a table by physical address. -/
def State.ringTable (s : State) (pa : Nat) : Nat → Option (List Ring)
  | 0 => some []
  | n + 1 =>
    match readRing (BitVec.ofNat 256 (s.freshNum pa 32)), s.ringTable (pa + 32) n with
    | some r, some t => some (r :: t)
    | _, _ => none

/-- CX_CTL with REJECT set. -/
def State.cxReject (s : State) (a : Nat) : State := s.setCtx a { s.ctx a with reject := true }

/-- A write of REG = 1 (R352). -/
def State.ctxOn (s : State) (a : Nat) : Host.Outcome State Fault Refusal :=
  let c := s.ctx a
  let rpa := bits c.roots 6 46 * 64
  let epa := bits c.evt 12 40 * 4096
  let n := bits c.evt 0 11
  if !s.pkg.ready || decide (256 ≤ a) then .next s
  else if c.live || decide (n < 1 ∨ 1024 < n) then .next (s.cxReject a)
  else if !s.paExists rpa then .fault (.noMemory rpa)
  else if !s.paExists epa then .fault (.noMemory epa)
  else
    let tab := (List.range 48).map (fun d => BitVec.ofNat 64 (s.freshNum (rpa + 8 * d) 8))
    if s.dieOrder.any (fun d => (tab[d]?).getD 0 == 0) then .next (s.cxReject a)
    else match s.ringTable epa n with
      | none => .next (s.cxReject a)
      | some rs => .next (s.setCtx a { c with live := true, rootTab := tab, rings := rs })

/-- A write of UNREG = 1 (R352): a SHOOT of the whole ASID, then LIVE falls. -/
def State.ctxOff (s : State) (a : Nat) : State :=
  if !s.pkg.ready || decide (256 ≤ a) then s
  else if s.sch.queues.any (fun e => e.2.run && e.2.asid == a) || s.x.wgs.any (fun w => w.asid == a) then s.cxReject a
  else
    let s1 := { s with
      x := { s.x with cores := s.x.cores.map (fun (e : Nat × Core) => (e.1, { e.2 with tlb := e.2.tlb.filter (fun t => t.asid != a) })) }
      fab := { s.fab with dies := s.fab.dies.map (fun (e : Nat × Die) => (e.1, { e.2 with tlb := e.2.tlb.filter (fun t => t.asid != a) })) } }
    s1.setCtx a { s1.ctx a with live := false, rootTab := [], rings := [], lcores := [] }

/-- CONTEXT_REGISTER. -/
def execContextRegister (asid : Nat) (s : State) : Host.Outcome State Fault Refusal := s.ctxOn asid

/-- CONTEXT_UNREGISTER. -/
def execContextUnregister (asid : Nat) (s : State) : Host.Outcome State Fault Refusal := .next (s.ctxOff asid)

/-- A write to CX_EVRD: the ring's read pointer takes the upper bits of the device's write pointer. -/
def State.evRead (s : State) (a v : Nat) : State :=
  let c := s.ctx a
  let r := v / 2 ^ 54 % 1024
  match c.rings[r]? with
  | some k => if !s.pkg.ready || decide (256 ≤ a) then s
    else s.setCtx a { c with rings := c.rings.set r { k with rp := k.wp / 2 ^ 54 * 2 ^ 54 + v % 2 ^ 54 } }
  | none => s

/-- EVENT_READ_POINTER. -/
def execEventReadPointer (asid v : Nat) (s : State) : Host.Outcome State Fault Refusal := .next (s.evRead asid v)

/-! ### The Rime log (R369) -/

/-- EN and LOG2N of a write to RIME_CTL: while EN is set, a write that changes LOG2N is discarded. The entries that are open
as EN clears name writes performed while it was set, and are still appended (R368). -/
def Ctx.rimeSet (c : Ctx) (v : Nat) : Ctx :=
  let n := v % 32
  let en := v / 2 ^ 63 % 2 == 1
  if c.rimeEn && n != c.rimeLog2 then c
  else { c with rimeEn := en, rimeLog2 := n }

/-- OVF is write-one-to-clear. -/
def Ctx.rimeArm (c : Ctx) : Ctx := { c with rimeOvf := false }

/-- A whole write to RIME_CTL. -/
def Ctx.rimeWrite (c : Ctx) (v : Nat) : Ctx :=
  if c.rimeEn && v % 32 != c.rimeLog2 then c
  else if v / 2 ^ 62 % 2 = 1 then (c.rimeSet v).rimeArm else c.rimeSet v

/-- RIME_ENABLE: a write to RIME_CTL without OVF. -/
def execRimeEnable (asid v : Nat) (s : State) : Host.Outcome State Fault Refusal :=
  if !s.pkg.ready || decide (256 ≤ asid) then .next s else .next (s.setCtx asid ((s.ctx asid).rimeSet v))

/-- RIME_REARM: 1 written to OVF, EN and LOG2N as they stand. -/
def execRimeRearm (asid : Nat) (s : State) : Host.Outcome State Fault Refusal :=
  if !s.pkg.ready || decide (256 ≤ asid) then .next s else .next (s.setCtx asid (s.ctx asid).rimeArm)

/-! ### Render-target ways (R110, R111) -/

/-- The ways between two settings of WAYS. -/
def waysBetween (n m : Nat) : List Nat :=
  (List.range Config.llcWays).filter (fun w => decide (Config.llcWays - max n m ≤ w ∧ w < Config.llcWays - min n m))

/-- The stable lines of a die in the ways that change class are written back and invalidated. -/
def State.carve (s : State) (d : Nat) : State :=
  let k := s.die d
  let ws := waysBetween k.rtWays k.rtNew
  (k.llc.filter (fun e => ws.contains e.2.way && e.2.st.stable)).foldl (fun s e => s.evict d e.1) s

/-- A write to RTW_CTL. -/
def State.waysWrite (s : State) (d v : Nat) : State :=
  if !s.pkg.ready || !s.working d then s
  else
    let k := s.die d
    let n := v % 32
    let k1 := { k with rtReject := k.rtReject && v / 2 ^ 30 % 2 == 0 }
    if k.rtBusy ∨ 24 < n then s.setDie d { k1 with rtReject := true }
    else (s.setDie d { k1 with rtBusy := true, rtNew := n }).carve d

/-- RT_WAYS_CHANGE. -/
def execRtWaysChange (d v : Nat) (s : State) : Host.Outcome State Fault Refusal := .next (s.waysWrite d v)

/-- RT_CARVE: with no line left in an affected way, WAYS takes its new value and the die ring receives its record. -/
def execRtCarve (d : Nat) (s : State) : Host.Outcome State Fault Refusal :=
  let k := s.die d
  let ws := waysBetween k.rtWays k.rtNew
  if !k.rtBusy then .next s
  else if k.llc.any (fun e => ws.contains e.2.way) then .next (s.carve d)
  else
    let s1 := s.setDie d { k with rtBusy := false, rtWays := k.rtNew }
    .next (s1.post { ring := dieRing d, body := recBody stRT_CARVE 0 0 1 d 0 (BitVec.ofNat 64 k.rtNew) })

/-! ### Writes by offset (R349 to R355) -/

/-- The bits of a value under a mask. -/
def maskTo (v lo len : Nat) : DWord := BitVec.ofNat 64 (v / 2 ^ lo % 2 ^ len * 2 ^ lo)

/-- FLT_CTL and DRING_CTL without their reserved bits. -/
def ringCtl (v : Nat) : DWord := maskTo v 21 43 ||| maskTo v 0 5

/-- A write to FLT_RESP (R413). -/
def State.respond (s : State) (v : Nat) : Host.Outcome State Fault Refusal :=
  let i := v % 2 ^ 32
  if v / 2 ^ 34 % 2 = 1 then .next { s with sch := { s.sch with fltReject := false } }
  else match v / 2 ^ 32 % 4 with
    | 0 => s.faultReplay i
    | 1 => s.faultDeliver i
    | 2 => s.faultEnd i
    | _ => .next s.faultUnknown

/-- A write to CTX_CMD (R415). -/
def State.command (s : State) (v : Nat) : Host.Outcome State Fault Refusal :=
  match v % 8 with
  | 0 => .next (s.ctxFields (BitVec.ofNat 64 v))
  | 1 => s.cmdDrain v
  | 2 => s.cmdFreeze v
  | 3 => s.cmdKill v
  | 4 => s.cmdResume v
  | _ =>
    let s1 := s.ctxFields (BitVec.ofNat 64 v)
    .next { s1 with sch := { s1.sch with cmdReject := true } }

/-- Registers of the package block (R350). -/
def State.writePkg (s : State) (off v : Nat) : Host.Outcome State Fault Refusal :=
  if off = 0x018 then .next (s.fwWrite (BitVec.ofNat 64 v))
  else if off = 0x020 then s.command v
  else if off = 0x028 then .next { s with sch := { s.sch with imgBase := maskTo v 12 40 } }
  else if off = 0x030 then .next { s with sch := { s.sch with imgPages := v % 2 ^ 32 } }
  else if off = 0x040 then .next { s with tue := { s.tue with base := maskTo v 12 40 } }
  else if off = 0x048 then s.tueSet v
  else if off = 0x050 then s.tueRing v
  else if off = 0x060 then .next { s with sch := { s.sch with fltBase := maskTo v 12 40 } }
  else if off = 0x068 then .next { s with sch := { s.sch with fltCtl := ringCtl v } }
  else if off = 0x078 then .next { s with sch := { s.sch with fltRd := v } }
  else if off = 0x080 then s.respond v
  else .next s

/-- Registers of a queue (R351). -/
def State.writeQueue (s : State) (q r v : Nat) : Host.Outcome State Fault Refusal :=
  let k := s.queue q
  if r = 0x00 then .next (s.setQueue q { k with desc := maskTo v 6 46 })
  else if r = 0x08 then
    let s1 := s.setQueue q { k with reject := k.reject && v / 2 ^ 61 % 2 == 0 }
    if v % 2 = 1 then s1.queueOn q else .next (s1.queueOff q)
  else if r = 0x10 then s.doorbell q v
  else .next s

/-- A write to CX_CTL: REJECT under w1c, then REG, then UNREG. -/
def State.writeCxCtl (s : State) (a v : Nat) : Host.Outcome State Fault Refusal :=
  let c := s.ctx a
  let s1 := s.setCtx a { c with reject := c.reject && v / 2 ^ 62 % 2 == 0 }
  let fin (s : State) : State := if v / 2 % 2 = 1 then s.ctxOff a else s
  if v % 2 = 1 then match s1.ctxOn a with
    | .next s2 => .next (fin s2)
    | r => r
  else .next (fin s1)

/-- DBG_WLO and DBG_WHI (R409). -/
def Ctx.setWatch (c : Ctx) (r v : Nat) : Ctx :=
  let i := (r - 0x80) / 16
  if (r - 0x80) % 16 = 0 then { c with wlo := c.wlo.set i (maskTo v 62 2 ||| maskTo v 0 57) }
  else { c with whi := c.whi.set i (maskTo v 0 57) }

/-- Registers of a context (R352). -/
def State.writeCtx (s : State) (a r v : Nat) : Host.Outcome State Fault Refusal :=
  let c := s.ctx a
  if r = 0x000 then s.writeCxCtl a v
  else if r = 0x008 then .next (if c.live then s.cxReject a else s.setCtx a { c with roots := maskTo v 6 46 })
  else if r = 0x010 then .next (if c.live then s.cxReject a else s.setCtx a { c with evt := maskTo v 12 40 ||| maskTo v 0 11 })
  else if r = 0x018 then .next (s.evRead a v)
  else if r = 0x020 then .next (if c.rimeEn then s else s.setCtx a { c with rimeBase := maskTo v 12 40 })
  else if r = 0x028 then .next (s.setCtx a (c.rimeWrite v))
  else if r = 0x038 then .next (s.setCtx a { c with rimeRd := BitVec.ofNat 64 v })
  else if r = 0x040 then .next (s.setCtx a { c with step := v / 2 % 2 == 1, watch := v % 2 == 1 })
  else if 0x080 ≤ r ∧ r < 0x0C0 then .next (s.setCtx a (c.setWatch r v))
  else .next s

/-- Registers of a mapped-in die (R354). -/
def State.writeDie (s : State) (d r v : Nat) : Host.Outcome State Fault Refusal :=
  let k := s.die d
  if r = 0x000 then .next (s.waysWrite d v)
  else if r = 0x008 then .next (s.setDie d { k with fpq4 := maskTo v 12 52 ||| maskTo v 0 5 })
  else if r = 0x010 then .next (s.setDie d { k with fpq4Tail := v / 2 ^ 32 })
  else if r = 0x018 then .next (s.setDie d { k with fpq2 := maskTo v 12 52 ||| maskTo v 0 5 })
  else if r = 0x020 then .next (s.setDie d { k with fpq2Tail := v / 2 ^ 32 })
  else if r = 0x028 then s.reclaim d v
  else if r = 0x038 then .next (s.setDie d { k with biasBase := maskTo v 12 40 })
  else if r = 0x040 then s.biasCmd d v
  else if r = 0x048 then .next (s.setDie d { k with dringBase := maskTo v 12 40 })
  else if r = 0x050 then .next (s.setDie d { k with dringCtl := ringCtl v })
  else if r = 0x060 then .next (s.setDie d { k with dringRd := v })
  else .next s

/-- REGISTER_WRITE: an aligned write of 8 bytes at an offset of the device's window. Before READY it is discarded. -/
def execRegisterWrite (off v : Nat) (s : State) : Host.Outcome State Fault Refusal :=
  let w := v % 2 ^ 64
  if off = 0x010 then .next (s.attWrite (BitVec.ofNat 64 w))
  else if !s.pkg.ready || off % 8 != 0 then .next s
  else if off < 0x1000 then s.writePkg off w
  else if 0x10000 ≤ off ∧ off < 0x50000 then s.writeQueue ((off - 0x10000) / 64) (off % 64) w
  else if 0x100000 ≤ off ∧ off < 0x200000 then s.writeCtx ((off - 0x100000) / 4096) (off % 4096) w
  else if 0x200000 ≤ off ∧ off < 0x500000 ∧ s.working ((off - 0x200000) / 65536) = true then
    s.writeDie ((off - 0x200000) / 65536) (off % 65536) w
  else .next s

/-! ### Reads by offset (R349 to R355) -/

/-- A flag at a bit. -/
def flagAt (b : Bool) (n : Nat) : Nat := if b then 2 ^ n else 0

/-- PKG_STATUS (R433). -/
def Pkg.status (p : Pkg) : DWord :=
  BitVec.ofNat 64 (flagAt p.ready 63 + flagAt p.fail 62 + p.step % 16 * 2 ^ 52 + p.fcode % 256 * 2 ^ 44 + p.gen % 2 ^ 32)

/-- Registers of the package block. -/
def State.readPkg (s : State) (off : Nat) : DWord :=
  let p := s.pkg
  let c := s.sch
  if off = 0x000 then p.status
  else if off = 0x010 then BitVec.ofNat 64 (flagAt p.attBusy 63 + flagAt p.attDone 62 + flagAt p.attReject 61 + p.attAddr * 2 ^ 7)
  else if off = 0x018 then BitVec.ofNat 64 (flagAt p.fwBusy 63 + flagAt p.fwDone 62 + p.fwStatus * 2 ^ 56 + p.fwAddr * 2 ^ 12)
  else if off = 0x020 then
    BitVec.ofNat 64 (flagAt c.cmd.isSome 63 + flagAt c.cmdDone 62 + flagAt c.cmdReject 61 + c.cmdAsid * 2 ^ 48 + c.cmdDeadline * 2 ^ 32)
  else if off = 0x028 then c.imgBase
  else if off = 0x030 then BitVec.ofNat 64 c.imgPages
  else if off = 0x040 then s.tue.base
  else if off = 0x048 then BitVec.ofNat 64 (flagAt s.tue.stopped 63 + s.tue.log2n)
  else if off = 0x058 then BitVec.ofNat 64 s.tue.rd
  else if off = 0x060 then c.fltBase
  else if off = 0x068 then c.fltCtl
  else if off = 0x070 then BitVec.ofNat 64 c.fltWp
  else if off = 0x078 then BitVec.ofNat 64 c.fltRd
  else if off = 0x080 then BitVec.ofNat 64 (flagAt c.fltReject 34)
  else if 0x100 ≤ off ∧ off < 0x280 then s.dmap ((off - 0x100) / 8)
  else 0

/-- Registers of a queue. -/
def Queue.read (k : Queue) (r : Nat) : DWord :=
  if r = 0x00 then k.desc
  else if r = 0x08 then BitVec.ofNat 64 (flagAt k.run 63 + flagAt k.stopped 62 + flagAt k.reject 61 + flagAt k.run 0)
  else if r = 0x18 then BitVec.ofNat 64 k.rd
  else 0

/-- Registers of a context. -/
def Ctx.read (c : Ctx) (r : Nat) : DWord :=
  if r = 0x000 then BitVec.ofNat 64 (flagAt c.live 63 + flagAt c.reject 62)
  else if r = 0x008 then c.roots
  else if r = 0x010 then c.evt
  else if r = 0x020 then c.rimeBase
  else if r = 0x028 then BitVec.ofNat 64 (flagAt c.rimeEn 63 + flagAt c.rimeOvf 62 + c.rimeLog2)
  else if r = 0x030 then c.rimeCur
  else if r = 0x038 then c.rimeRd
  else if r = 0x040 then BitVec.ofNat 64 (flagAt c.step 1 + flagAt c.watch 0)
  else if 0x080 ≤ r ∧ r < 0x0C0 then
    (if (r - 0x80) % 16 = 0 then c.wlo[(r - 0x80) / 16]? else if (r - 0x80) % 16 = 8 then c.whi[(r - 0x80) / 16]? else none).getD 0
  else 0

/-- Registers of a mapped-in die. -/
def Die.read (k : Die) (r : Nat) : DWord :=
  if r = 0x000 then BitVec.ofNat 64 (flagAt k.rtBusy 31 + flagAt k.rtReject 30 + k.rtWays)
  else if r = 0x008 then k.fpq4
  else if r = 0x010 then BitVec.ofNat 64 (k.fpq4Tail % 2 ^ 32 * 2 ^ 32 + k.fpq4Head % 2 ^ 32)
  else if r = 0x018 then k.fpq2
  else if r = 0x020 then BitVec.ofNat 64 (k.fpq2Tail % 2 ^ 32 * 2 ^ 32 + k.fpq2Head % 2 ^ 32)
  else if r = 0x028 then BitVec.ofNat 64 (flagAt k.recBusy 63 + flagAt k.recDone 62 + flagAt k.recNot 61 + k.recLine * 2 ^ 7)
  else if r = 0x030 then BitVec.ofNat 64 k.lostCnt
  else if r = 0x038 then k.biasBase
  else if r = 0x040 then BitVec.ofNat 64 (flagAt k.biasBusy 63 + flagAt k.biasReject 62 + k.biasPage * 2 ^ 12 + flagAt k.biasTarget 1)
  else if r = 0x048 then k.dringBase
  else if r = 0x050 then k.dringCtl
  else if r = 0x058 then BitVec.ofNat 64 k.dringWp
  else if r = 0x060 then BitVec.ofNat 64 k.dringRd
  else if r = 0x068 then k.pchMap
  else 0

/-- What a read of 8 aligned bytes at an offset of the window returns. -/
def State.readReg (s : State) (off : Nat) : DWord :=
  if off % 8 ≠ 0 then 0
  else if off < 0x1000 then s.readPkg off
  else if 0x10000 ≤ off ∧ off < 0x50000 then (s.queue ((off - 0x10000) / 64)).read (off % 64)
  else if 0x100000 ≤ off ∧ off < 0x200000 then (s.ctx ((off - 0x100000) / 4096)).read (off % 4096)
  else if 0x200000 ≤ off ∧ off < 0x500000 ∧ s.working ((off - 0x200000) / 65536) = true then
    (s.die ((off - 0x200000) / 65536)).read (off % 65536)
  else if 0x500000 ≤ off ∧ off < 0x504000 then
    let k := s.island ((off - 0x500000) / 16)
    if off % 16 = 0 then k.status else k.vmin
  else 0

end Sys2Proof.Machine
end

