-- ==== Sys2Proof/Machine/Dispatch.lean ====
section
/-!
DEFINITION. The dispatcher: one arm for each constructor of Instr, each one direct call of its meaning.
-/

namespace Sys2Proof.Machine

def exec (i : Instr) (s : State) : Host.Outcome State Fault Refusal :=
  match i with
  | .issueClock d c q => Sys2Proof.Machine.execIssueClock d c q s
  | .loadReply a => Sys2Proof.Machine.execLoadReply a s
  | .storeReachesL1 w g => Sys2Proof.Machine.execStoreReachesL1 w g s
  | .superstepBarrierComplete l => Sys2Proof.Machine.execSuperstepBarrierComplete l s
  | .signedOperationEnqueue w k => Sys2Proof.Machine.execSignedOperationEnqueue w k s
  | .tileStep d c => Sys2Proof.Machine.execTileStep d c s
  | .drainPerform r => Sys2Proof.Machine.execDrainPerform r s
  | .bankZeroed d c b => Sys2Proof.Machine.execBankZeroed d c b s
  | .copyComplete r n => Sys2Proof.Machine.execCopyComplete r n s
  | .bdeRequestComplete r => Sys2Proof.Machine.execBdeRequestComplete r s
  | .nbrWritePerformed r => Sys2Proof.Machine.execNbrWritePerformed r s
  | .workgroupComplete w => Sys2Proof.Machine.execWorkgroupComplete w s
  | .resourceRelease w => Sys2Proof.Machine.execResourceRelease w s
  | .ampQueueDequeue d => Sys2Proof.Machine.execAmpQueueDequeue d s
  | .overflowRingRefill d => Sys2Proof.Machine.execOverflowRingRefill d s
  | .frontierSend d p k => Sys2Proof.Machine.execFrontierSend d p k s
  | .frontierHoldExpiry d p k => Sys2Proof.Machine.execFrontierHoldExpiry d p k s
  | .rasterisePrimitive d p => Sys2Proof.Machine.execRasterisePrimitive d p s
  | .depthTest d p f => Sys2Proof.Machine.execDepthTest d p f s
  | .occContribution d p j => Sys2Proof.Machine.execOccContribution d p j s
  | .graphRecordRun d c l => Sys2Proof.Machine.execGraphRecordRun d c l s
  | .waitListResolve d j => Sys2Proof.Machine.execWaitListResolve d j s
  | .recPushParkRelease w g => Sys2Proof.Machine.execRecPushParkRelease w g s
  | .stealAttempt d c l => Sys2Proof.Machine.execStealAttempt d c l s
  | .stealRequest d c l => Sys2Proof.Machine.execStealRequest d c l s
  | .stealRetryExpiry d c l => Sys2Proof.Machine.execStealRetryExpiry d c l s
  | .graphLaunchComplete l => Sys2Proof.Machine.execGraphLaunchComplete l s
  | .queueDoorbell q v => Sys2Proof.Machine.execQueueDoorbell q v s
  | .packetFetch q => Sys2Proof.Machine.execPacketFetch q s
  | .workgroupPlacement l => Sys2Proof.Machine.execWorkgroupPlacement l s
  | .launchComplete l => Sys2Proof.Machine.execLaunchComplete l s
  | .registerWrite off v => Sys2Proof.Machine.execRegisterWrite off v s
  | .queueEnable q => Sys2Proof.Machine.execQueueEnable q s
  | .queueDisable q => Sys2Proof.Machine.execQueueDisable q s
  | .contextRegister asid => Sys2Proof.Machine.execContextRegister asid s
  | .contextUnregister asid => Sys2Proof.Machine.execContextUnregister asid s
  | .eventReadPointer asid v => Sys2Proof.Machine.execEventReadPointer asid v s
  | .rimeEnable asid v => Sys2Proof.Machine.execRimeEnable asid v s
  | .rimeRearm asid => Sys2Proof.Machine.execRimeRearm asid s
  | .rtWaysChange d v => Sys2Proof.Machine.execRtWaysChange d v s
  | .rtCarve d => Sys2Proof.Machine.execRtCarve d s
  | .tueDoorbell v => Sys2Proof.Machine.execTueDoorbell v s
  | .tueCtlWrite v => Sys2Proof.Machine.execTueCtlWrite v s
  | .lineReclaim d v => Sys2Proof.Machine.execLineReclaim d v s
  | .lostCntRead d => Sys2Proof.Machine.execLostCntRead d s
  | .biasFlip d v => Sys2Proof.Machine.execBiasFlip d v s
  | .biasFlipComplete d => Sys2Proof.Machine.execBiasFlipComplete d s
  | .attestationReport v => Sys2Proof.Machine.execAttestationReport v s
  | .firmwareUpdate v => Sys2Proof.Machine.execFirmwareUpdate v s
  | .drain v => Sys2Proof.Machine.execDrain v s
  | .freeze v => Sys2Proof.Machine.execFreeze v s
  | .kill v => Sys2Proof.Machine.execKill v s
  | .resume v => Sys2Proof.Machine.execResume v s
  | .replay j => Sys2Proof.Machine.execReplay j s
  | .deliver j => Sys2Proof.Machine.execDeliver j s
  | .faultKill j => Sys2Proof.Machine.execFaultKill j s
  | .islVminRead j => Sys2Proof.Machine.execIslVminRead j s
  | .rimeEntryExpiry asid page => Sys2Proof.Machine.execRimeEntryExpiry asid page s
  | .retryReissue d line => Sys2Proof.Machine.execRetryReissue d line s
  | .birsp d line dirty => Sys2Proof.Machine.execBirsp d line dirty s
  | .hostMemrd pa => Sys2Proof.Machine.execHostMemrd pa s
  | .hostMemwr pa n v => Sys2Proof.Machine.execHostMemwr pa n v s
  | .flitReceive k => Sys2Proof.Machine.execFlitReceive k s
  | .nakReceive k => Sys2Proof.Machine.execNakReceive k s
  | .nakRepeatExpiry k => Sys2Proof.Machine.execNakRepeatExpiry k s
  | .dieMapChange kind j => Sys2Proof.Machine.execDieMapChange kind j s
  | .powerOn dies links fw => Sys2Proof.Machine.execPowerOn dies links fw s
  | .boraGrant region n => Sys2Proof.Machine.execBoraGrant region n s
  | .islandPowerOn j => Sys2Proof.Machine.execIslandPowerOn j s
  | .phaseFailure j => Sys2Proof.Machine.execPhaseFailure j s
  | .islandGate j => Sys2Proof.Machine.execIslandGate j s
  | .pseudoChannelFailure d p => Sys2Proof.Machine.execPseudoChannelFailure d p s
  | .uncorrectableError a l => Sys2Proof.Machine.execUncorrectableError a l s
  | .addI f => Sys2Proof.Machine.execAddI f s
  | .addIImm f => Sys2Proof.Machine.execAddIImm f s
  | .subI f => Sys2Proof.Machine.execSubI f s
  | .addcN f => Sys2Proof.Machine.execAddcN f s
  | .subbN f => Sys2Proof.Machine.execSubbN f s
  | .mulI f => Sys2Proof.Machine.execMulI f s
  | .mulhiI f => Sys2Proof.Machine.execMulhiI f s
  | .mulhiN f => Sys2Proof.Machine.execMulhiN f s
  | .madI f => Sys2Proof.Machine.execMadI f s
  | .divI f => Sys2Proof.Machine.execDivI f s
  | .divN f => Sys2Proof.Machine.execDivN f s
  | .remI f => Sys2Proof.Machine.execRemI f s
  | .remN f => Sys2Proof.Machine.execRemN f s
  | .minI f => Sys2Proof.Machine.execMinI f s
  | .maxI f => Sys2Proof.Machine.execMaxI f s
  | .minN f => Sys2Proof.Machine.execMinN f s
  | .maxN f => Sys2Proof.Machine.execMaxN f s
  | .absI f => Sys2Proof.Machine.execAbsI f s
  | .addI16x2 f => Sys2Proof.Machine.execAddI16x2 f s
  | .subI16x2 f => Sys2Proof.Machine.execSubI16x2 f s
  | .addN16x2 f => Sys2Proof.Machine.execAddN16x2 f s
  | .subN16x2 f => Sys2Proof.Machine.execSubN16x2 f s
  | .addI8x4 f => Sys2Proof.Machine.execAddI8x4 f s
  | .subI8x4 f => Sys2Proof.Machine.execSubI8x4 f s
  | .addN8x4 f => Sys2Proof.Machine.execAddN8x4 f s
  | .subN8x4 f => Sys2Proof.Machine.execSubN8x4 f s
  | .and f => Sys2Proof.Machine.execAnd f s
  | .or f => Sys2Proof.Machine.execOr f s
  | .xor f => Sys2Proof.Machine.execXor f s
  | .andn f => Sys2Proof.Machine.execAndn f s
  | .andImm f => Sys2Proof.Machine.execAndImm f s
  | .orImm f => Sys2Proof.Machine.execOrImm f s
  | .xorImm f => Sys2Proof.Machine.execXorImm f s
  | .shl f => Sys2Proof.Machine.execShl f s
  | .shrN f => Sys2Proof.Machine.execShrN f s
  | .shrI f => Sys2Proof.Machine.execShrI f s
  | .shlImm f => Sys2Proof.Machine.execShlImm f s
  | .shrNImm f => Sys2Proof.Machine.execShrNImm f s
  | .shrIImm f => Sys2Proof.Machine.execShrIImm f s
  | .bfxN f => Sys2Proof.Machine.execBfxN f s
  | .bfxI f => Sys2Proof.Machine.execBfxI f s
  | .bfi f => Sys2Proof.Machine.execBfi f s
  | .popc f => Sys2Proof.Machine.execPopc f s
  | .clz f => Sys2Proof.Machine.execClz f s
  | .brev f => Sys2Proof.Machine.execBrev f s
  | .lea f => Sys2Proof.Machine.execLea f s
  | .setpI f => Sys2Proof.Machine.execSetpI f s
  | .setpN f => Sys2Proof.Machine.execSetpN f s
  | .sel f => Sys2Proof.Machine.execSel f s
  | .mov f => Sys2Proof.Machine.execMov f s
  | .movImm f => Sys2Proof.Machine.execMovImm f s
  | .movLit f => Sys2Proof.Machine.execMovLit f s
  | .shfl f => Sys2Proof.Machine.execShfl f s
  | .vote f => Sys2Proof.Machine.execVote f s
  | .xint f => Sys2Proof.Machine.execXint f s
  | .addF f => Sys2Proof.Machine.execAddF f s
  | .subF f => Sys2Proof.Machine.execSubF f s
  | .mulF f => Sys2Proof.Machine.execMulF f s
  | .fmaF f => Sys2Proof.Machine.execFmaF f s
  | .minF f => Sys2Proof.Machine.execMinF f s
  | .maxF f => Sys2Proof.Machine.execMaxF f s
  | .absF f => Sys2Proof.Machine.execAbsF f s
  | .negF f => Sys2Proof.Machine.execNegF f s
  | .divF f => Sys2Proof.Machine.execDivF f s
  | .setpF f => Sys2Proof.Machine.execSetpF f s
  | .addF16x2 f => Sys2Proof.Machine.execAddF16x2 f s
  | .mulF16x2 f => Sys2Proof.Machine.execMulF16x2 f s
  | .fmaF16x2 f => Sys2Proof.Machine.execFmaF16x2 f s
  | .minF16x2 f => Sys2Proof.Machine.execMinF16x2 f s
  | .maxF16x2 f => Sys2Proof.Machine.execMaxF16x2 f s
  | .setpF16x2 f => Sys2Proof.Machine.execSetpF16x2 f s
  | .addBf16x2 f => Sys2Proof.Machine.execAddBf16x2 f s
  | .mulBf16x2 f => Sys2Proof.Machine.execMulBf16x2 f s
  | .fmaBf16x2 f => Sys2Proof.Machine.execFmaBf16x2 f s
  | .minBf16x2 f => Sys2Proof.Machine.execMinBf16x2 f s
  | .maxBf16x2 f => Sys2Proof.Machine.execMaxBf16x2 f s
  | .setpBf16x2 f => Sys2Proof.Machine.execSetpBf16x2 f s
  | .addF64 f => Sys2Proof.Machine.execAddF64 f s
  | .subF64 f => Sys2Proof.Machine.execSubF64 f s
  | .mulF64 f => Sys2Proof.Machine.execMulF64 f s
  | .fmaF64 f => Sys2Proof.Machine.execFmaF64 f s
  | .minF64 f => Sys2Proof.Machine.execMinF64 f s
  | .maxF64 f => Sys2Proof.Machine.execMaxF64 f s
  | .divF64 f => Sys2Proof.Machine.execDivF64 f s
  | .setpF64 f => Sys2Proof.Machine.execSetpF64 f s
  | .rcpF f => Sys2Proof.Machine.execRcpF f s
  | .sqrtF f => Sys2Proof.Machine.execSqrtF f s
  | .rsqrtF f => Sys2Proof.Machine.execRsqrtF f s
  | .exp2F f => Sys2Proof.Machine.execExp2F f s
  | .log2F f => Sys2Proof.Machine.execLog2F f s
  | .rcpF64 f => Sys2Proof.Machine.execRcpF64 f s
  | .sqrtF64 f => Sys2Proof.Machine.execSqrtF64 f s
  | .rintF f => Sys2Proof.Machine.execRintF f s
  | .rintF64 f => Sys2Proof.Machine.execRintF64 f s
  | .crel f => Sys2Proof.Machine.execCrel f s
  | .dot4 f => Sys2Proof.Machine.execDot4 f s
  | .cvt f => Sys2Proof.Machine.execCvt f s
  | .xflt f => Sys2Proof.Machine.execXflt f s
  | .ld f => Sys2Proof.Machine.execLd f s
  | .ldw f => Sys2Proof.Machine.execLdw f s
  | .st f => Sys2Proof.Machine.execSt f s
  | .stw f => Sys2Proof.Machine.execStw f s
  | .lds f => Sys2Proof.Machine.execLds f s
  | .sts f => Sys2Proof.Machine.execSts f s
  | .atom f => Sys2Proof.Machine.execAtom f s
  | .red f => Sys2Proof.Machine.execRed f s
  | .cas f => Sys2Proof.Machine.execCas f s
  | .atoms f => Sys2Proof.Machine.execAtoms f s
  | .standSub f => Sys2Proof.Machine.execStandSub f s
  | .standRead f => Sys2Proof.Machine.execStandRead f s
  | .standSeq f => Sys2Proof.Machine.execStandSeq f s
  | .standWait f => Sys2Proof.Machine.execStandWait f s
  | .standDrop f => Sys2Proof.Machine.execStandDrop f s
  | .copy f => Sys2Proof.Machine.execCopy f s
  | .fence f => Sys2Proof.Machine.execFence f s
  | .bra f => Sys2Proof.Machine.execBra f s
  | .call f => Sys2Proof.Machine.execCall f s
  | .brx f => Sys2Proof.Machine.execBrx f s
  | .ret f => Sys2Proof.Machine.execRet f s
  | .exit f => Sys2Proof.Machine.execExit f s
  | .mjoin f => Sys2Proof.Machine.execMjoin f s
  | .mleave f => Sys2Proof.Machine.execMleave f s
  | .mwait f => Sys2Proof.Machine.execMwait f s
  | .mrd f => Sys2Proof.Machine.execMrd f s
  | .barArrive f => Sys2Proof.Machine.execBarArrive f s
  | .barSync f => Sys2Proof.Machine.execBarSync f s
  | .barWait f => Sys2Proof.Machine.execBarWait f s
  | .signDecl f => Sys2Proof.Machine.execSignDecl f s
  | .wait f => Sys2Proof.Machine.execWait f s
  | .condArm f => Sys2Proof.Machine.execCondArm f s
  | .condSet f => Sys2Proof.Machine.execCondSet f s
  | .tileSet f => Sys2Proof.Machine.execTileSet f s
  | .accAlloc f => Sys2Proof.Machine.execAccAlloc f s
  | .accFree f => Sys2Proof.Machine.execAccFree f s
  | .accBand f => Sys2Proof.Machine.execAccBand f s
  | .accRead f => Sys2Proof.Machine.execAccRead f s
  | .accDrain f => Sys2Proof.Machine.execAccDrain f s
  | .mma f => Sys2Proof.Machine.execMma f s
  | .mmaSpec f => Sys2Proof.Machine.execMmaSpec f s
  | .mmaIdx f => Sys2Proof.Machine.execMmaIdx f s
  | .taskAmp f => Sys2Proof.Machine.execTaskAmp f s
  | .primEmit f => Sys2Proof.Machine.execPrimEmit f s
  | .visMin f => Sys2Proof.Machine.execVisMin f s
  | .occBegin f => Sys2Proof.Machine.execOccBegin f s
  | .occEnd f => Sys2Proof.Machine.execOccEnd f s
  | .pxDiscard f => Sys2Proof.Machine.execPxDiscard f s
  | .pxDepth f => Sys2Proof.Machine.execPxDepth f s
  | .tstBox f => Sys2Proof.Machine.execTstBox f s
  | .tstTri f => Sys2Proof.Machine.execTstTri f s
  | .stkPush f => Sys2Proof.Machine.execStkPush f s
  | .stkPop f => Sys2Proof.Machine.execStkPop f s
  | .recPush f => Sys2Proof.Machine.execRecPush f s
  | .recPop f => Sys2Proof.Machine.execRecPop f s
  | .sstep f => Sys2Proof.Machine.execSstep f s
  | .nbrSend f => Sys2Proof.Machine.execNbrSend f s
  | .nbrReduce f => Sys2Proof.Machine.execNbrReduce f s
  | .bdeGather f => Sys2Proof.Machine.execBdeGather f s
  | .bdeReduce f => Sys2Proof.Machine.execBdeReduce f s
  | .bdeCvt f => Sys2Proof.Machine.execBdeCvt f s
  | .sregRd f => Sys2Proof.Machine.execSregRd f s
  | .sregWr f => Sys2Proof.Machine.execSregWr f s
  | .trap f => Sys2Proof.Machine.execTrap f s
  | .sys f => Sys2Proof.Machine.execSys f s
  | .eret f => Sys2Proof.Machine.execEret f s
  | .brk f => Sys2Proof.Machine.execBrk f s
  | .nop f => Sys2Proof.Machine.execNop f s
  | .hostCacheCompletion j v => Sys2Proof.Machine.execHostCacheCompletion j v s
  | .railVoltageMinimum j v => Sys2Proof.Machine.execRailVoltageMinimum j v s
  | .linkTrainingEnd k ok => Sys2Proof.Machine.execLinkTrainingEnd k ok s
  | .packetArrival => Sys2Proof.Machine.execPacketArrival s
  | .frontierArrival => Sys2Proof.Machine.execFrontierArrival s
  | .occCellUpdate => Sys2Proof.Machine.execOccCellUpdate s
  | .schedulingRound => Sys2Proof.Machine.execSchedulingRound s
  | .eventRecordWrite => Sys2Proof.Machine.execEventRecordWrite s
  | .interruptTimeExpiry => Sys2Proof.Machine.execInterruptTimeExpiry s
  | .write => Sys2Proof.Machine.execWrite s
  | .shoot => Sys2Proof.Machine.execShoot s
  | .migrate => Sys2Proof.Machine.execMigrate s
  | .flush => Sys2Proof.Machine.execFlush s
  | .tueReservedCommand => Sys2Proof.Machine.execTueReservedCommand s
  | .tueDone => Sys2Proof.Machine.execTueDone s
  | .drainComplete => Sys2Proof.Machine.execDrainComplete s
  | .drainDeadlineExpiry => Sys2Proof.Machine.execDrainDeadlineExpiry s
  | .freezeImageWrite => Sys2Proof.Machine.execFreezeImageWrite s
  | .freezeDeadlineExpiry => Sys2Proof.Machine.execFreezeDeadlineExpiry s
  | .resumePlacement => Sys2Proof.Machine.execResumePlacement s
  | .pageWalk => Sys2Proof.Machine.execPageWalk s
  | .firstTouchBind => Sys2Proof.Machine.execFirstTouchBind s
  | .replCollapse => Sys2Proof.Machine.execReplCollapse s
  | .replCollapseComplete => Sys2Proof.Machine.execReplCollapseComplete s
  | .gets => Sys2Proof.Machine.execGets s
  | .getm => Sys2Proof.Machine.execGetm s
  | .upg => Sys2Proof.Machine.execUpg s
  | .putm => Sys2Proof.Machine.execPutm s
  | .puto => Sys2Proof.Machine.execPuto s
  | .pute => Sys2Proof.Machine.execPute s
  | .mod => Sys2Proof.Machine.execMod s
  | .wrthru => Sys2Proof.Machine.execWrthru s
  | .atomMsg => Sys2Proof.Machine.execAtomMsg s
  | .sub => Sys2Proof.Machine.execSub s
  | .unsub => Sys2Proof.Machine.execUnsub s
  | .fwdGets => Sys2Proof.Machine.execFwdGets s
  | .fwdGetm => Sys2Proof.Machine.execFwdGetm s
  | .inv => Sys2Proof.Machine.execInv s
  | .backinv => Sys2Proof.Machine.execBackinv s
  | .data => Sys2Proof.Machine.execData s
  | .invack => Sys2Proof.Machine.execInvack s
  | .backinvack => Sys2Proof.Machine.execBackinvack s
  | .putack => Sys2Proof.Machine.execPutack s
  | .wtack => Sys2Proof.Machine.execWtack s
  | .atomrsp => Sys2Proof.Machine.execAtomrsp s
  | .retry => Sys2Proof.Machine.execRetry s
  | .nackwt => Sys2Proof.Machine.execNackwt s
  | .nacklost => Sys2Proof.Machine.execNacklost s
  | .push => Sys2Proof.Machine.execPush s
  | .pushack => Sys2Proof.Machine.execPushack s
  | .unsuback => Sys2Proof.Machine.execUnsuback s
  | .subrsp => Sys2Proof.Machine.execSubrsp s
  | .pushlost => Sys2Proof.Machine.execPushlost s
  | .powerRemoved => Sys2Proof.Machine.execPowerRemoved s

end Sys2Proof.Machine
end

