-- ==== Sys2Proof/Machine/Schedule.lean ====
section
/-!
DEFINITION. The order in which the machine's own agents act when the agenda names none (assumption 3): every event that
an agent may make is a candidate, and which of them comes next is a free value. An event whose condition does not hold
leaves the state as it is (assumption 15).
-/

set_option linter.unusedVariables false

namespace Sys2Proof.Machine

/-- Issue clocks of the cores that hold a workgroup; of one core where none does, so that time goes on. -/
def State.issueEvents (s : State) : List (Nat × Instr) :=
  let ks := s.x.wgs.foldl (fun t w => if t.contains (w.die, w.core) then t else t ++ [(w.die, w.core)]) ([] : List (Nat × Nat))
  (if ks.isEmpty then [(0, 0)] else ks).flatMap (fun k => (List.range 4).map (fun q => (0, Instr.issueClock k.1 k.2 q)))

/-- What an outstanding access may do next. -/
def State.accEvents (s : State) : List (Nat × Instr) :=
  s.x.accs.flatMap (fun a => [(0, Instr.loadReply a.id), (0, Instr.storeReachesL1 a.wg a.grp), (a.id, Instr.pageWalk), (a.id, Instr.firstTouchBind), (a.id, Instr.replCollapse)])

/-- A number below 2^32 of a free value's bits, every size alike. -/
def anySize (f : Nat) : Nat := f % 2 ^ 26 % 2 ^ (f / 2 ^ 26 % 33)

/-- What a unit request may do next: all of it, or a part that a free value chooses, since the manual gives no order of its
bytes (07_ordering R175). -/
def Req.events (f : Nat) (r : Req) : List (Nat × Instr) :=
  let a := anySize f
  let n := anySize (f / 2 ^ 32) + 1
  [(0, .copyComplete r.id 0), (0, .drainPerform r.id), (0, .bdeRequestComplete r.id), (0, .nbrWritePerformed r.id),
    (a, .copyComplete r.id n), (n * 2 ^ 32 + a, .drainPerform r.id), (n * 2 ^ 32 + a, .bdeRequestComplete r.id),
    (n * 2 ^ 32 + a, .nbrWritePerformed r.id)]

/-- What ends the reservation of a saved workgroup's partition (19_traps R419). -/
def State.keptEvents (s : State) : List (Nat × Instr) :=
  s.x.cores.flatMap (fun e => e.2.kept.map (fun k => (0, Instr.copyComplete k.1 0)))

/-- The event of a message's arrival. -/
def MsgK.event : MsgK → Instr
  | .getS => .gets
  | .getM => .getm
  | .upg => .upg
  | .putM _ => .putm
  | .putO _ => .puto
  | .putE => .pute
  | .mod => .mod
  | .wrThru _ _ _ _ => .wrthru
  | .atom _ _ _ => .atomMsg
  | .sub _ _ _ _ _ => .sub
  | .unsub _ _ _ => .unsub
  | .fwdGetS _ => .fwdGets
  | .fwdGetM _ _ => .fwdGetm
  | .inv _ => .inv
  | .backInv => .backinv
  | .data _ _ _ => .data
  | .invAck => .invack
  | .backInvAck _ => .backinvack
  | .putAck => .putack
  | .wtAck _ => .wtack
  | .atomRsp _ _ => .atomrsp
  | .retry _ => .retry
  | .nackWT => .nackwt
  | .nackLost _ => .nacklost
  | .push _ _ _ _ => .push
  | .pushAck _ _ => .pushack
  | .unsubAck _ _ => .unsuback
  | .subRsp _ _ _ => .subrsp
  | .pushLost _ => .pushlost

/-- Messages, retries, bias flips and the ways that change class. -/
def State.fabricEvents (s : State) : List (Nat × Instr) :=
  s.fab.net.map (fun m => (m.id, m.k.event)) ++
  s.fab.dies.flatMap (fun e =>
    (e.2.llc.map (fun v => v.1) ++ e.2.waitq.map (fun m => m.line) ++ e.2.again.map (fun p => p.2.line) ++ (s.x.wtOf e.1).map (fun t => t.2.line)).map (fun l => (0, Instr.retryReissue e.1 l)) ++
      [(0, Instr.biasFlipComplete e.1), (0, Instr.rtCarve e.1)]) ++
  s.fab.slices.map (fun e => (0, Instr.retryReissue (100000 + e.1 % 24) e.1))

/-- The matrix engine, the workgroups and the supersteps. -/
def State.workEvents (s : State) : List (Nat × Instr) :=
  s.x.cores.flatMap (fun e =>
    (if e.2.mq.isEmpty && e.2.mq1.isEmpty then [] else [(0, Instr.tileStep (e.1 / 16) (e.1 % 16))]) ++
      e.2.banks.map (fun b => (0, Instr.bankZeroed (e.1 / 16) (e.1 % 16) b.1))) ++
  s.x.wgs.flatMap (fun w =>
    (List.range 16).map (fun k => (0, Instr.signedOperationEnqueue w.id k)) ++
      w.groups.map (fun g => (0, Instr.recPushParkRelease w.id g.idx)) ++
      [(0, Instr.superstepBarrierComplete w.launch), (0, Instr.workgroupComplete w.id), (0, Instr.resourceRelease w.id)])

/-- The graphics units. -/
def State.gfxEvents (s : State) : List (Nat × Instr) :=
  s.gfx.dies.flatMap (fun e => [(0, Instr.ampQueueDequeue e.1), (0, Instr.overflowRingRefill e.1)] ++
    e.2.frags.map (fun f => (0, Instr.depthTest e.1 f.pass f.id)) ++
    e.2.cells.map (fun o => (2 ^ 32 + o.id, Instr.occCellUpdate)) ++
    e.2.queries.mapIdx (fun i q => (0, Instr.occContribution e.1 q.pass i)) ++
    e.2.waits.map (fun w => (0, Instr.waitListResolve e.1 w.1))) ++
  (s.gfx.passes.filter (fun p => !p.ended)).flatMap (fun p =>
    s.dieOrder.flatMap (fun d => (0, Instr.rasterisePrimitive d p.id) ::
      (List.range 16).flatMap (fun k => [(0, Instr.frontierSend d p.id k), (0, Instr.frontierHoldExpiry d p.id k)]))) ++
  (List.range s.gfx.net.length).flatMap (fun i => [(i, Instr.packetArrival), (i, Instr.frontierArrival), (i, Instr.occCellUpdate)])

/-- Work graphs: the records of the cores and their steals. -/
def State.graphEvents (s : State) : List (Nat × Instr) :=
  (s.sch.launches.filter (fun l => l.open && pkStage l.pkt == 4)).flatMap (fun l =>
    (0, Instr.graphLaunchComplete l.id) :: s.dieOrder.flatMap (fun d => (List.range Config.nCores).flatMap (fun c =>
      [(0, Instr.graphRecordRun d c l.id), (0, Instr.stealAttempt d c l.id), (0, Instr.stealRequest d c l.id), (0, Instr.stealRetryExpiry d c l.id)])))

/-- The rings with a record written and not yet counted by an interrupt (15_launch R348). -/
def State.countedRings (s : State) : List Nat :=
  s.sch.ctxs.flatMap (fun e => ((List.range e.2.rings.length).filter (fun r => ((e.2.rings[r]?).bind (fun k => k.oldest)).isSome)).map (ctxRing e.1)) ++
    s.sch.dieOldest.map (fun e => dieRing e.1) ++ (if s.sch.fltOldest.isSome then [faultRing] else [])

/-- Queues, launches, records, commands and the table-update engine. -/
def State.ctlEvents (s : State) : List (Nat × Instr) :=
  (s.sch.queues.filter (fun e => e.2.run)).map (fun e => (0, Instr.packetFetch e.1)) ++
  (s.sch.launches.filter Launch.open).flatMap (fun l => [(0, Instr.workgroupPlacement l.id), (0, Instr.launchComplete l.id)]) ++
  s.sch.pend.map (fun r => (r.ring, Instr.eventRecordWrite)) ++ s.countedRings.map (fun r => (r, Instr.interruptTimeExpiry)) ++
  [(0, .schedulingRound), (0, .drainDeadlineExpiry), (0, .freezeDeadlineExpiry), (0, .drainComplete), (0, .freezeImageWrite),
    (0, .resumePlacement), (0, .write), (0, .shoot), (0, .migrate), (0, .flush), (0, .tueReservedCommand), (0, .tueDone),
    (0, .replCollapseComplete)] ++
  s.sch.ctxs.flatMap (fun e => e.2.rimeOpen.map (fun r => (0, Instr.rimeEntryExpiry e.1 r.1)))

/-- The package controller and the links. -/
def State.pkgEvents (s : State) : List (Nat × Instr) :=
  (if s.pkg.attBusy then [(0, Instr.attestationReport (2 ^ 64))] else []) ++
  (if s.pkg.fwBusy then [(0, Instr.firmwareUpdate (2 ^ 64))] else []) ++
  (s.pkg.islands.filter (fun e => e.2.fails == 2 && !e.2.gated)).map (fun e => (0, Instr.islandGate e.1)) ++
  s.links.flatMap (fun e => [(0, Instr.nakReceive e.1), (0, Instr.nakRepeatExpiry e.1)])

/-- Every event that an agent of the machine may make. -/
def State.events (s : State) : List (Nat × Instr) :=
  s.issueEvents ++ s.accEvents ++ s.x.reqs.flatMap (Req.events (Config.freeValue (2 ^ 64 + s.x.free)).toNat) ++ s.keptEvents ++ s.fabricEvents ++ s.workEvents ++ s.gfxEvents ++ s.graphEvents ++
    s.ctlEvents ++ s.pkgEvents

/-- The next event of the machine's own agents, with the number that `sel` shows to it: one of the candidates, by a free
value. -/
def State.nextEvent (s : State) : Nat × Instr :=
  let l := s.events
  (l[(Config.freeValue s.x.free).toNat % l.length]?).getD (0, .issueClock 0 0 0)

end Sys2Proof.Machine
end

