-- ==== Sys2Proof/Machine/Step.lean ====
section
/-!
DEFINITION. One step: the next instruction selected in the current clock, else the next entry of the agenda, else the
next event of the machine's own agents (assumption 3).
-/

set_option linter.unusedVariables false

namespace Sys2Proof.Machine

/-- One event runs with its number in `sel`. -/
def State.event (s : State) (e : Nat × Instr) : Host.Outcome State Fault Refusal := exec e.2 { s with sel := e.1 }

/-- The step: a selected instruction runs before anything else (02_execution R33). -/
def step (s : State) : Host.Outcome State Fault Refusal :=
  match s.slots with
  | sl :: rest =>
    match ({ s with slots := rest }).runSlot sl with
    | .done t => .next t
    | .run i t => exec i t
  | [] =>
    match s.agenda with
    | e :: rest => ({ s with agenda := rest }).event e
    | [] => ({ s with x := { s.x with free := s.x.free + 1 } }).event s.nextEvent

/-- The state with an instruction placed as the one that the next step fetches and runs: in memory behind a clause
header, at the PC of a resident thread that the scheduler has selected (assumption 14). -/
def State.withFetchWord (s : State) (nbits w : Nat) : State := s.probe (w % 2 ^ 32) (w / 2 ^ 32)

end Sys2Proof.Machine
end

