-- ==== Sys2Proof/WellFormed.lean ====
section
/-!
DEFINITION. When a term of `Instr` is an instruction word of the machine: it has an encoding, every bit that its opcode or
its form does not use is zero (R195, R275), and every used field holds a value that the manual defines (R195 step 5).
The widths of the fields are in their types.
-/

set_option linter.unusedVariables false

namespace Sys2Proof

/-- The bits that no form of the opcode uses, and the fields that the instruction's own form does not, are zero
(R195 step 4). -/
def Instr.rsvOk (i : Instr) : Bool :=
  match i.enc with
  | some (op, f) => (f.word op &&& rsvMask1 op.toNat == 0) && (f.word2 &&& rsvMask2 op.toNat == 0) && i.unusedOk
  | none => false

/-- A well-formed instruction of the instruction set: encoded, reserved bits zero, used fields defined. -/
def WellFormed (i : Instr) : Prop := i.rsvOk = true ∧ i.fieldsOk = true

end Sys2Proof
end

