-- ==== Sys2Proof/Safety.lean ====
section
/-!
DEFINITION. The terms in which claims speak of the machine: when an instruction is selected and passes the checks of
08_encoding R195, what it finds, what is left of the state around its own effect, and the invariant of every state.
-/

set_option linter.unusedVariables false

namespace Sys2Proof.Machine

/-- What an instruction of the scheduler's current slot finds: its workgroup and group with the issuing threads
advanced past it, the issuing and the executing threads, and its address. The flag tells that one of the issuing
threads completes a clause with YLD. None if no slot is current or no issuing thread is live. -/
def State.pick (s : State) (i : Instr) : Option (Cx × Bool) :=
  match s.x.cur with
  | none => none
  | some sl =>
    match s.x.wg? sl.wg with
    | none => none
    | some w =>
      match w.grp? sl.grp with
      | none => none
      | some g0 =>
        match (lanesOf sl.lanes).filter (fun l => (g0.lane l).st == .live) with
        | [] => none
        | l0 :: r =>
          let gh := g0.onLanes (l0 :: r) (fun _ t => t.open_ sl.hdr)
          let ga := gh.onLanes (l0 :: r) (fun _ t => t.advance (wordsOf i))
          let y := (l0 :: r).any (fun l => (gh.lane l).yields (wordsOf i))
          some ({ sl := sl, w := w.setGrp ga, g := ga, iss := l0 :: r, ex := (l0 :: r).filter (fun l => (gh.lane l).pred (guardOf i)), pc := (gh.lane l0).pc, clk := s.x.clk, yld := y }, y)

/-- The trap of the register fields and tags that an instruction finds (R195 steps 6 and 7), if there is one. -/
def State.checks (s : State) (i : Instr) : Option Trap :=
  match s.x.cur with
  | none => none
  | some sl =>
    match s.x.wg? sl.wg with
    | none => none
    | some w =>
      match w.grp? sl.grp with
      | none => none
      | some g0 =>
        let iss := (lanesOf sl.lanes).filter (fun l => (g0.lane l).st == .live)
        let gh := g0.onLanes iss (fun _ t => t.open_ sl.hdr)
        match regCheck w.regs (regFields i) with
        | some t => some t
        | none => tagCheck (uniOf sl g0) gh (iss.filter (fun l => (gh.lane l).pred (guardOf i))) (srcOps i)

/-- Instruction i is selected, its registers are in range and paired, its operands have the tags of their classes, and
its context is not single-stepped. -/
def State.Selected (s : State) (i : Instr) (c : Cx) (y : Bool) : Prop :=
  s.pick i = some (c, y) ∧ s.checks i = none ∧ (s.ctx c.w.asid).step = false

/-- The state in which the effect of a selected instruction takes place: the slot is used up and the issuing threads
stand behind the instruction. -/
def State.base (s : State) (c : Cx) : State := s.clearCur.putWg c.w

/-- Instruction i has issued with the effect that gives state t, and takes no trap. -/
def State.Issues (s : State) (i : Instr) (c : Cx) (y : Bool) (t : State) : Prop := exec i s = .next (t.issued i c y false)

/-- A precise trap of a selected instruction (19_traps R404, R406): the threads that execute it, or every issuing
thread if none does, take it at the instruction, or behind it for the traps of R406 step 2. -/
def State.trapped (s : State) (c : Cx) (t : Trap) : State :=
  match s.x.wg? c.sl.wg with
  | none => s
  | some w =>
    match w.grp? c.sl.grp with
    | none => s
    | some g0 =>
      let r := s.clearCur.resumePoint (g0.onLanes c.iss (fun _ u => u.open_ c.sl.hdr)) c.g t.after c.yld
      r.1.trapAt c.sl w.id g0 r.2 (c.iss.headD 0) (if c.ex = [] then c.iss else c.ex) c.pc t

/-- Instruction i takes trap t, and has no other effect. -/
def State.Traps (s : State) (i : Instr) (c : Cx) (t : Trap) : Prop := exec i s = .next (s.trapped c t)

/-- The group of a selected instruction in a later state. -/
def State.grpOf (t : State) (c : Cx) : Option Group := (t.x.wg? c.w.id).bind (fun w => w.grp? c.g.idx)

/-- The group of a selected instruction stands at its own index, as every group of a placed workgroup does. -/
def State.Placed (s : State) (c : Cx) : Prop := (s.base c).grpOf c = some c.g

/-- The registers of a group, uniform, vector and predicate, are those of another. -/
def SameRegs (g h : Group) : Prop :=
  g.s = h.s ∧ g.m = h.m ∧ g.fmode = h.fmode ∧ ∀ l, (g.lane l).v = (h.lane l).v ∧ (g.lane l).p = (h.lane l).p ∧ (g.lane l).pc = (h.lane l).pc

/-- State t holds the record of an access that instruction i has issued: its addresses and operands, lane by lane. -/
def State.Sent (t : State) (id : Nat) (i : Instr) (c : Cx) (kind : AccKind) (width : Nat) (va : Nat → DWord)
    (ops : Nat → List Word) : Prop :=
  ∃ a ∈ t.x.accs, a.id = id ∧ a.wg = c.w.id ∧ a.grp = c.g.idx ∧ a.ins = i ∧ a.kind = kind ∧ a.width = width ∧
    a.lanes.map (fun l => (l.lane, l.va, l.ops)) = c.ex.map (fun l => (l, va l, ops l))

/-- Nothing but the execution state and the queue of internal work differs: memories, caches, fabric, links, package
and queues are the same. -/
def SameOutside (s t : State) : Prop :=
  t.mem = s.mem ∧ t.host = s.host ∧ t.fab = s.fab ∧ t.gfx = s.gfx ∧ t.links = s.links ∧ t.pkg = s.pkg

/-- Values written to the vector registers from d in every executing lane, with the flags that their computation sets
(06_numbers R150, R151). -/
def vecEffect (d : Nat) (f : List Word → Nat → Lane → List VCell × Flags) (s : State) (c : Cx) : State :=
  s.putGrp c.w.id ((c.g.putVec c.ex d (fun l => (f c.uni l (c.g.lane l)).1)).withFmode
    (setFlags c.g.fmode (c.ex.foldl (fun e l => e ||| (f c.uni l (c.g.lane l)).2) 0)))

/-- Values written to the uniform registers from d, once per issue (09_isa R206). -/
def uniEffect (d : Nat) (f : List Word → List Word × Flags) (s : State) (c : Cx) : State :=
  if c.ex = [] then s
  else s.putGrp c.w.id ((c.g.setUni d (f c.uni).1).withFmode (setFlags c.g.fmode (f c.uni).2))

/-- What an operation writes: vector registers of each executing lane, or uniform registers once (R206, R191). -/
def effect (d : Nat) (uniD : Bool) (f : List Word → Nat → Lane → List VCell × Flags) (s : State) (c : Cx) : State :=
  if uniD then uniEffect d (fun u => ((f u 0 Lane.nil).1.map (fun v => v.val), (f u 0 Lane.nil).2)) s c else vecEffect d f s c

/-- The exceptions that an operation signals: those of its executing lanes together, or those of the one computation
of a uniform result (06_numbers R151). -/
def signalled (uniD : Bool) (f : List Word → Nat → Lane → List VCell × Flags) (c : Cx) : Flags :=
  if uniD then (if c.ex = [] then 0 else (f c.uni 0 Lane.nil).2) else c.ex.foldl (fun e l => e ||| (f c.uni l (c.g.lane l)).2) 0

/-- Predicate d written in each executing lane, and the flags of the comparison set (09_isa R222). -/
def predEffect (d : Nat) (f : List Word → Nat → Lane → Bool × Flags) (s : State) (c : Cx) : State :=
  s.putGrp c.w.id ((c.g.onLanes c.ex (fun l t => t.setPred d (f c.uni l (c.g.lane l)).1)).withFmode
    (setFlags c.g.fmode (c.ex.foldl (fun e l => e ||| (f c.uni l (c.g.lane l)).2) 0)))

/-- Registers written with no exception: vector registers of each executing lane, or uniform registers once if a lane
executes (R206). -/
def wrote (d : Nat) (uniD : Bool) (f : List Word → Nat → Lane → List VCell) (s : State) (c : Cx) : State :=
  if uniD then (if c.ex = [] then s else s.putGrp c.w.id (c.g.setUni d ((f c.uni 0 Lane.nil).map (fun v => v.val))))
  else s.putGrp c.w.id (c.g.putVec c.ex d (fun l => f c.uni l (c.g.lane l)))

/-- Whenever instruction i is selected, it completes with the registers from d written, and nothing else of its own. -/
def Yields (i : Instr) (d : Nat) (uniD : Bool) (f : List Word → Nat → Lane → List VCell) : Prop :=
  ∀ (s : State) (c : Cx) (y : Bool), s.Selected i c y → s.Issues i c y (wrote d uniD f (s.base c) c)

/-- Whenever instruction i is selected and no exception that it signals is enabled, it completes with the registers
from d and the flags written. -/
def Computes (i : Instr) (d : Nat) (uniD : Bool) (f : List Word → Nat → Lane → List VCell × Flags) : Prop :=
  ∀ (s : State) (c : Cx) (y : Bool), s.Selected i c y → enables c.fmode &&& signalled uniD f c = 0 → s.Issues i c y (effect d uniD f (s.base c) c)

/-- Whenever a comparison is selected and no exception that it signals is enabled, it completes with predicate d
written. -/
def Compares (i : Instr) (d : Nat) (f : List Word → Nat → Lane → Bool × Flags) : Prop :=
  ∀ (s : State) (c : Cx) (y : Bool), s.Selected i c y →
    enables c.fmode &&& c.ex.foldl (fun e l => e ||| (f c.uni l (c.g.lane l)).2) 0 = 0 →
    s.Issues i c y (predEffect d f (s.base c) c)

/-- Whenever instruction i is selected, it completes with effect e if a lane executes it, and with none otherwise. -/
def Does (i : Instr) (e : State → Cx → State) : Prop :=
  ∀ (s : State) (c : Cx) (y : Bool), s.Selected i c y → s.Issues i c y (if c.ex = [] then s.base c else e (s.base c) c)

/-! ### Operands as 08_encoding R191 reads them -/

/-- The word of a register operand: a lane's vector register, or a uniform register broadcast. -/
def src (uni : Bool) (i : Nat) (u : List Word) (t : Lane) : Word := if uni then uniAt u i else (t.reg i).val

/-- The operand with its tag; a uniform register has none and reads as RAW. -/
def srcCell (uni : Bool) (i : Nat) (u : List Word) (t : Lane) : VCell :=
  if uni then { val := uniAt u i, tag := tRAW } else t.reg i

/-- The 64-bit value of a pair of registers. -/
def src64 (uni : Bool) (i : Nat) (u : List Word) (t : Lane) : Nat :=
  (src uni i u t).toNat + 2 ^ 32 * (src uni (i + 1) u t).toNat

/-- Operands a, b and C of an XA instruction. -/
def opA (f : XF) : List Word → Lane → Word := src (xKA f.c) f.a.toNat
def opB (f : XF) : List Word → Lane → Word := src (xKB f.c) f.b.toNat
def opC (f : XF) : List Word → Lane → Word := src (xKC f.c) (xC f.c)

/-- The classes in which an instruction reads its operands (06_numbers R147), in the order a, b, and any further one. -/
def ReadsIn (i : Instr) (cl : List Cls) : Prop := (srcOps i).map (fun o => o.cls) = cl

/-- An R-format instruction that writes r of its two operands with a tag. -/
def YieldsR (mk : RF → Instr) (tag : Byte) (r : Word → Word → Word) : Prop :=
  ∀ f, Yields (mk f) f.d.toNat false (fun u _ t => [{ val := r (src false f.a.toNat u t) (src false f.b.toNat u t), tag := tag }])

/-- An I-format instruction that writes r of its operand and its immediate with a tag. -/
def YieldsI (mk : IF → Instr) (tag : Byte) (r : Word → BitVec 10 → Word) : Prop :=
  ∀ f, Yields (mk f) f.d.toNat false (fun u _ t => [{ val := r (src false f.a.toNat u t) f.imm, tag := tag }])

/-- An XA instruction that writes r of its control word and its operands a, b and C with a tag. -/
def YieldsX (mk : XF → Instr) (tag : Byte) (r : Word → Word → Word → Word → Word) : Prop :=
  ∀ f, Yields (mk f) f.d.toNat (xKD f.c) (fun u _ t => [{ val := r f.c (opA f u t) (opB f u t) (opC f u t), tag := tag }])

/-- An R-format floating-point instruction: r gives an encoding and the exceptions from the encodings of its operands. -/
def ComputesR (mk : RF → Instr) (tag : Byte) (r : Nat → Nat → Nat × Flags) : Prop :=
  ∀ f, Computes (mk f) f.d.toNat false (fun u _ t =>
    let x := r (src false f.a.toNat u t).toNat (src false f.b.toNat u t).toNat
    ([{ val := BitVec.ofNat 32 x.1, tag := tag }], x.2))

/-- An R-format instruction on two 16-bit floating-point elements: each element has r's result in its own half, and
the exceptions of the two are signalled together (R230). -/
def ComputesR16 (mk : RF → Instr) (tag : Byte) (r : Nat → Nat → Nat × Flags) : Prop :=
  ∀ f, Computes (mk f) f.d.toNat false (fun u _ t =>
    let el (j : Nat) := r (elem 16 j (src false f.a.toNat u t)) (elem 16 j (src false f.b.toNat u t))
    ([{ val := BitVec.ofNat 32 ((el 0).1 + 65536 * (el 1).1), tag := tag }], (el 0).2 ||| (el 1).2))

/-- An R-format FP64 instruction on even:odd pairs (R231). -/
def ComputesR64 (mk : RF → Instr) (r : Nat → Nat → Nat × Flags) : Prop :=
  ∀ f, Computes (mk f) f.d.toNat false (fun u _ t =>
    let x := r (src64 false f.a.toNat u t) (src64 false f.b.toNat u t)
    ([{ val := BitVec.ofNat 32 x.1, tag := tF64L }, { val := BitVec.ofNat 32 (x.1 / 2 ^ 32), tag := tF64H }], x.2))

/-- An exact result rounded once, with the exceptions of the operation, of the rounding, and of signalling operands
(09_isa R228, R229). -/
def rounded (f : FFmt) (rnd : Nat) (sat : Bool) (x : XR × Flags) (sn : Flags) : Nat × Flags :=
  ((roundTo f x.1 rnd sat).1, x.2 ||| (roundTo f x.1 rnd sat).2 ||| sn)

/-- The sums, differences, products and quotients of R227 in a format. -/
def sumIn (f : FFmt) (rnd : Nat) (sat : Bool) (a b : Nat) : Nat × Flags :=
  rounded f rnd sat (xAdd rnd (f.value a) (f.value b)) (f.snanFlag a ||| f.snanFlag b)
def diffIn (f : FFmt) (rnd : Nat) (sat : Bool) (a b : Nat) : Nat × Flags :=
  rounded f rnd sat (xAdd rnd (f.value a) (f.value b).flip) (f.snanFlag a ||| f.snanFlag b)
def prodIn (f : FFmt) (rnd : Nat) (sat : Bool) (a b : Nat) : Nat × Flags :=
  rounded f rnd sat (xMul (f.value a) (f.value b)) (f.snanFlag a ||| f.snanFlag b)
def quotIn (f : FFmt) (rnd : Nat) (sat : Bool) (a b : Nat) : Nat × Flags :=
  rounded f rnd sat (xDiv (f.value a) (f.value b)) (f.snanFlag a ||| f.snanFlag b)

/-- a × b + C, invalid for 0 × ∞ whatever C holds, with one rounding (R227, R228). -/
def fusedIn (f : FFmt) (rnd : Nat) (sat : Bool) (a b c : Nat) : Nat × Flags :=
  let x := f.value a
  let y := f.value b
  let e : XR × Flags :=
    if (x.isZero = true ∧ y.isInf = true) ∨ (x.isInf = true ∧ y.isZero = true) then (.nan, flIV)
    else xAdd rnd (xMul x y).1 (f.value c)
  rounded f rnd sat e (f.snanFlag a ||| f.snanFlag b ||| f.snanFlag c)

/-- The smaller or larger operand, with −0 below +0, the other operand beside one NaN (R228). -/
def lesserIn (f : FFmt) (larger : Bool) (a b : Nat) : Nat × Flags :=
  let x := f.value a
  let y := f.value b
  let below : Bool := xLt x y || (!xLt y x && x.neg)
  (if x.isNan && y.isNan then f.nan else if x.isNan then b else if y.isNan then a
   else if below != larger then a else b, f.snanFlag a ||| f.snanFlag b)

/-- abs and neg on an encoding (R228). -/
def absIn (f : FFmt) (a : Nat) : Nat × Flags :=
  (if (f.value a).isNan then f.nan else a % 2 ^ (f.width - 1), f.snanFlag a)
def negIn (f : FFmt) (a : Nat) : Nat × Flags :=
  (if (f.value a).isNan then f.nan else (a + 2 ^ (f.width - 1)) % 2 ^ f.width, f.snanFlag a)

/-- A function of one operand, rounded once (R233). -/
def funcIn (f : FFmt) (fn : XR → XR × Flags) (rnd : Nat) (sat : Bool) (a : Nat) : Nat × Flags :=
  rounded f rnd sat (fn (f.value a)) (f.snanFlag a)

/-- A comparison of two encodings and whether it signals invalid (R221, R222). -/
def relIn (f : FFmt) (cmp : Nat) (u : Bool) (a b : Nat) : Bool × Flags :=
  let x := f.value a
  let y := f.value b
  let un := x.isNan || y.isNan
  ((match cmp with
    | 0 => xEq x y || (u && un) | 1 => !xEq x y | 2 => xLt x y || (u && un) | 3 => xLt x y || xEq x y || (u && un)
    | 4 => xLt y x || (u && un) | 5 => xLt y x || xEq y x || (u && un) | 6 => !un | _ => un),
   if (un = true ∧ u = false ∧ 2 ≤ cmp ∧ cmp ≤ 5) ∨ f.isSnan a = true ∨ f.isSnan b = true then flIV else 0)

/-- Predicate C combined with a comparison under COMB (R221, R222). -/
def combined (f : XF) (t : Lane) (p : Bool) : Bool :=
  let pc := decide (xC f.c ≥ 7) || t.p.getLsbD (xC f.c)
  match bits f.c 4 2 with
  | 0 => p | 1 => p && pc | 2 => p || pc | _ => p != pc

/-! ### Addresses of memory instructions (10_isa R244, R245) -/

/-- {s[a + 1], s[a]} + ZeroExtend(index) + SignExtend(OFF16), the index from v[b] or s[b]. -/
def globalAddr (f : XF) (c : Cx) (l : Nat) : DWord :=
  (uniAt c.uni (f.a.toNat + 1) ++ uniAt c.uni f.a.toNat) + (src (bit f.c 29) f.b.toNat c.uni (c.g.lane l)).setWidth 64 +
    (f.c.extractLsb' 0 16).signExtend 64

/-- {v[a + 1], v[a]} + 4 × off5. -/
def pairAddr (f : MF) (c : Cx) (l : Nat) : DWord :=
  (((c.g.lane l).reg (f.a.toNat + 1)).val ++ ((c.g.lane l).reg f.a.toNat).val) + 4 * f.off.setWidth 64

/-- s[a] + ZeroExtend(index) + SignExtend(OFF16), modulo 2^32, in the partition. -/
def scratchAddr (f : XF) (c : Cx) (l : Nat) : Nat :=
  (uniAt c.uni f.a.toNat + src (bit f.c 29) f.b.toNat c.uni (c.g.lane l) + (f.c.extractLsb' 0 16).signExtend 32).toNat

/-- Registers of a data group, by SIZE. -/
def groupSize (size : Nat) : Nat := if size ≤ 2 then 1 else if size = 3 then 2 else 4

/-- The n registers from d, in one lane. -/
def groupWords (d : BitVec 7) (n : Nat) (c : Cx) (l : Nat) : List Word :=
  (List.range n).map (fun j => ((c.g.lane l).reg (d.toNat + j)).val)

/-- No fence that the group has met still orders anything, and no scratchpad access of it is held. -/
def Unfenced (s : State) (c : Cx) : Prop := c.g.fences = [] ∧ (s.base c).x.scratchHeld c.w.id c.g.idx = false

/-- The little-endian byte j of some words. -/
def wordByte (ws : List Word) (j : Nat) : Byte := ((ws[j / 4]?).getD 0).extractLsb' (8 * (j % 4)) 8

/-- A pending register write of an access in flight (02_execution R29). -/
def Awaits (g : Group) (kind r : Nat) (c : Cx) (id : Nat) : Prop :=
  ∃ b ∈ g.busy, b.kind = kind ∧ b.idx = r ∧ b.lanes = maskOf c.ex ∧ b.due = .acc id

/-! ### Messages of the coherence fabric (17_coherence R378, R379) -/

/-- Message m arrives next, with no message of the graphics network and no send between its dies before it (05_tensor R129):
the state without it is u. -/
def State.Arrives (s : State) (m : Msg) (u : State) : Prop :=
  deliverable s.sel s.fab.net = some m ∧ s.gfxBefore m.id (agKey m.src) (agKey m.dst) = false ∧
    s.nbrBefore m.id (agKey m.src) (agKey m.dst) = false ∧ u = s.take m.id

/-- One message more than in state u is in flight in state t: from src to dst, of kind k. -/
def State.Replies (u t : State) (src dst : Agent) (line : Nat) (k : MsgK) : Prop :=
  t.fab.net = u.fab.net ++ [{ id := u.x.nextId, src := src, dst := dst, line := line, k := k }]

/-- A line that its home serves at once: not LOST, in device bias, not being recalled, and on no page that a command of the
table-update engine holds (R375, R386, R396, 16_translation R370). -/
def State.Served (u : State) (h line : Nat) : Prop :=
  u.tue.hold ≠ some (line / 32) ∧ u.isLost h line = false ∧ u.bias h line = 0 ∧ 2 * line + 1 ∉ (u.die h).snoops ∧ ∀ e ∈ (u.die h).evb, e.line ≠ line

/-- The set of a line in its home's directory has room for one entry more (R375). -/
def State.DirFree (u : State) (h line : Nat) : Prop :=
  ((u.die h).dir.filter (fun e => e.1 % 2 ^ 17 == line % 2 ^ 17)).length < Config.dirWays

/-- Nothing waits at die k for a line: no near-bank operation and no store of its cores. -/
def State.NoneWait (u : State) (k line : Nat) : Prop :=
  (∀ m ∈ (u.die k).waitq, m.line ≠ line) ∧ ∀ e ∈ u.x.wtOf k, e.2.line ≠ line

/-- No thread of a group is held for the watch or the fetch of an access. -/
def Group.Unwatched (g : Group) (id : Nat) : Prop :=
  ∀ l, (g.lane l).hold ≠ .watch id ∧ (g.lane l).resHold ≠ .watch id ∧ (g.lane l).hold ≠ .fetch id ∧ (g.lane l).resHold ≠ .fetch id

/-- The invariant of the machine: the pod's memory and the host's memory keep their canonical form. -/
def State.Inv (s : State) : Prop := s.mem.wf = true ∧ s.host.wf = true

end Sys2Proof.Machine
end

