-- ==== Sys2Proof/Certificates/Slice0/Obligations.lean ====
section
/-!
DEFINITION. The statements for the provers: what the decoder, each instruction, each hardware step and the whole
machine do, from the numbered rules of the manual.
-/

set_option linter.unusedVariables false

open Sys2Proof Sys2Proof.Machine

/-- Whenever add.i (both forms), sub.i, addc.n, subb.n, mul.i, mulhi.i, mulhi.n, min.i, max.i, min.n, max.n or abs.i
is selected, it completes: each executing lane takes the result and the tag of the table in its destination
register, and nothing else changes beyond the issue. (R211) -/
def Obligations.ScalarIntegerResults : Prop :=
  YieldsR .addI tI32 (fun a b => BitVec.ofInt 32 (a.toInt + b.toInt)) ∧
  YieldsI .addIImm tI32 (fun a imm => BitVec.ofInt 32 (a.toInt + imm.toInt)) ∧
  YieldsR .subI tI32 (fun a b => BitVec.ofInt 32 (a.toInt - b.toInt)) ∧
  YieldsR .addcN tN32 (fun a b => if 2 ^ 32 ≤ a.toNat + b.toNat then 1 else 0) ∧
  YieldsR .subbN tN32 (fun a b => if a.toNat < b.toNat then 1 else 0) ∧
  YieldsR .mulI tI32 (fun a b => BitVec.ofInt 32 (a.toInt * b.toInt)) ∧
  YieldsR .mulI tI32 (fun a b => BitVec.ofNat 32 (a.toNat * b.toNat)) ∧
  YieldsR .mulhiI tI32 (fun a b => (BitVec.ofInt 64 (a.toInt * b.toInt)).extractLsb' 32 32) ∧
  YieldsR .mulhiN tN32 (fun a b => (BitVec.ofNat 64 (a.toNat * b.toNat)).extractLsb' 32 32) ∧
  YieldsR .minI tI32 (fun a b => BitVec.ofInt 32 (min a.toInt b.toInt)) ∧
  YieldsR .maxI tI32 (fun a b => BitVec.ofInt 32 (max a.toInt b.toInt)) ∧
  YieldsR .minN tN32 (fun a b => BitVec.ofNat 32 (min a.toNat b.toNat)) ∧
  YieldsR .maxN tN32 (fun a b => BitVec.ofNat 32 (max a.toNat b.toNat)) ∧
  YieldsR .absI tI32 (fun a _ => BitVec.ofInt 32 |a.toInt|)

/-- Whenever div.i, rem.i, div.n or rem.n is selected it completes, without a trap or a flag, and writes the result
of the table: for b = 0, for the most negative dividend over minus one, and for every other case the quotient
rounded towards zero and its remainder. Whenever mad.i is selected it completes and writes, tagged I32, the low
32 bits of S(a) × S(b) + S(C), or with SAT the value clamped to the signed 32-bit range, where any of a, b, C
and d may be uniform. (R212, R213) -/
def Obligations.DivisionAndMultiplyAddResults : Prop :=
  (
  YieldsR .divI tI32 (fun a b =>
    if b = 0 then 0xFFFFFFFF else if a = 0x80000000 ∧ b = 0xFFFFFFFF then 0x80000000
    else BitVec.ofInt 32 (a.toInt.tdiv b.toInt)) ∧
  YieldsR .remI tI32 (fun a b =>
    if b = 0 then a else if a = 0x80000000 ∧ b = 0xFFFFFFFF then 0
    else BitVec.ofInt 32 (a.toInt - b.toInt * a.toInt.tdiv b.toInt)) ∧
  YieldsR .divN tN32 (fun a b => if b = 0 then 0xFFFFFFFF else BitVec.ofNat 32 (a.toNat / b.toNat)) ∧
  YieldsR .remN tN32 (fun a b => if b = 0 then a else BitVec.ofNat 32 (a.toNat % b.toNat))) ∧
  (
  YieldsX .madI tI32 (fun ctl a b c =>
    if bit ctl 28 then
      BitVec.ofInt 32 (max (-(2 ^ 31)) (min (2 ^ 31 - 1) (a.toInt * b.toInt + c.toInt)))
    else BitVec.ofInt 32 (a.toInt * b.toInt + c.toInt)))

/-- Whenever a packed add or sub is selected, in its R form or under xint, it completes and writes a register whose
element j is the sum or difference of element j of a and of b, read as signed or unsigned: its low bits, or
under xint with SAT the clamped value. The 16-bit forms read their operands in the packed 16-bit class and the
8-bit forms in the packed 8-bit class. (R215) -/
def Obligations.PackedIntegerResults : Prop :=
  ∀ (mk : RF → Instr) (op : Nat) (w : Nat) (signed sub : Bool) (tag : Byte),
    (mk, op, w, signed, sub, tag) ∈ [(Instr.addI16x2, 0x13, 16, true, false, tI16), (.subI16x2, 0x14, 16, true, true, tI16),
      (.addN16x2, 0x15, 16, false, false, tN16), (.subN16x2, 0x16, 16, false, true, tN16),
      (.addI8x4, 0x17, 8, true, false, tI8), (.subI8x4, 0x18, 8, true, true, tI8),
      (.addN8x4, 0x19, 8, false, false, tN8), (.subN8x4, 0x1A, 8, false, true, tN8)] →
    ∃ r : Bool → Word → Word → Word,
      (∀ f, ReadsIn (mk f) (if w = 16 then [.p16, .p16] else [.p8, .p8])) ∧
      YieldsR mk tag (r false) ∧
      (∀ f : XF, xFunc f.c = op →
        Yields (.xint f) f.d.toNat (xKD f.c) (fun u _ t => [{ val := r (xSat f.c) (opA f u t) (opB f u t), tag := tag }])) ∧
      ∀ (sat : Bool) (a b : Word) (j : Nat), j < 32 / w →
        let rd (x : Word) : Int := if signed then (BitVec.ofNat w (elem w j x)).toInt else (elem w j x : Int)
        let v : Int := if sub then rd a - rd b else rd a + rd b
        let lo : Int := if signed then -(2 ^ (w - 1)) else 0
        let hi : Int := if signed then 2 ^ (w - 1) - 1 else 2 ^ w - 1
        (elem w j (r sat a b) : Int) = (if sat then max lo (min hi v) else v) % 2 ^ w

/-- Whenever xint is selected with a FUNC of R210 it completes, and writes what the R-format operation named there
gives on operands that are vector or uniform as the K bits say, once for a uniform destination. With SAT, add.i,
sub.i and abs.i give their exact results clamped to the signed 32-bit range. (09_isa_arith: R210, 09_isa_arith:
R214, 09_isa_arith: Integer arithmetic) -/
def Obligations.XintForms : Prop :=
  (∀ f : XF, xintFuncs.contains (xFunc f.c) = true → xFunc f.c ≠ 0x32 →
    Yields (.xint f) f.d.toNat (xKD f.c) (fun u _ t =>
      ((ropOf (xFunc f.c)).ev (xRnd f.c) (xSat f.c) [{ val := opA f u t }] [{ val := opB f u t }]).1)) ∧
  (∀ f : XF, xFunc f.c = 0x32 → Yields (.xint f) f.d.toNat (xKD f.c) (fun u _ t => [srcCell (xKA f.c) f.a.toNat u t])) ∧
  (∀ (f : RF) (fx : XF) (op : Nat) (mk : RF → Instr), (op, mk) ∈ [(0x04, Instr.addcN), (0x05, .subbN), (0x06, .mulI),
      (0x07, .mulhiI), (0x08, .mulhiN), (0x0A, .divI), (0x0B, .divN), (0x0C, .remI), (0x0D, .remN), (0x0E, .minI),
      (0x0F, .maxI), (0x10, .minN), (0x11, .maxN), (0x1B, .and), (0x1C, .or), (0x1D, .xor), (0x1E, .andn), (0x22, .shl),
      (0x23, .shrN), (0x24, .shrI), (0x2B, .popc), (0x2C, .clz), (0x2D, .brev)] →
    Yields (mk f) f.d.toNat false (fun u _ t =>
      ((ropOf op).ev 0 false [{ val := src false f.a.toNat u t }] [{ val := src false f.b.toNat u t }]).1)) ∧
  (∀ f : XF, xSat f.c = true →
    (xFunc f.c = 0x01 → Yields (.xint f) f.d.toNat (xKD f.c) (fun u _ t =>
      [{ val := BitVec.ofInt 32 (max (-(2 ^ 31)) (min (2 ^ 31 - 1) ((opA f u t).toInt + (opB f u t).toInt))), tag := tI32 }])) ∧
    (xFunc f.c = 0x03 → Yields (.xint f) f.d.toNat (xKD f.c) (fun u _ t =>
      [{ val := BitVec.ofInt 32 (max (-(2 ^ 31)) (min (2 ^ 31 - 1) ((opA f u t).toInt - (opB f u t).toInt))), tag := tI32 }])) ∧
    (xFunc f.c = 0x12 → Yields (.xint f) f.d.toNat (xKD f.c) (fun u _ t =>
      [{ val := BitVec.ofInt 32 (min (2 ^ 31 - 1) |(opA f u t).toInt|), tag := tI32 }])))

/-- Whenever and, or, xor, andn or an immediate form of the first three is selected it completes and writes, tagged
RAW, the word whose every bit is the named function of the bits of its operands; an immediate is zero-extended
from ten bits. The operands are read in the bits class. Whenever popc, clz or brev is selected it completes and
writes RAW: the number of one bits of a; the number of zero bits above its highest one bit, 32 for zero; the
word whose bit 31 − k is bit k of a. They read the bits class. (R216, R219) -/
def Obligations.LogicAndCountResults : Prop :=
  (
  ∀ (rf : RF → Instr) (im : Option (IF → Instr)) (op : Bool → Bool → Bool),
    (rf, im, op) ∈ [(Instr.and, some Instr.andImm, fun p q => p && q), (.or, some .orImm, fun p q => p || q),
      (.xor, some .xorImm, fun p q => p != q), (.andn, none, fun p q => p && !q)] →
    ∃ r : Word → Word → Word,
      (∀ f, ReadsIn (rf f) [.bits, .bits]) ∧ (∀ mk, im = some mk → ∀ f, ReadsIn (mk f) [.bits]) ∧
      YieldsR rf tRAW r ∧
      (∀ mk, im = some mk → YieldsI mk tRAW (fun a imm => r a (BitVec.ofNat 32 imm.toNat))) ∧
      ∀ (a b : Word) (k : Nat), k < 32 → (r a b).getLsbD k = op (a.getLsbD k) (b.getLsbD k)) ∧
  (
  (∀ f, ReadsIn (.popc f) [.bits] ∧ ReadsIn (.clz f) [.bits] ∧ ReadsIn (.brev f) [.bits]) ∧
  (∃ r : Word → Nat, YieldsR .popc tRAW (fun a _ => BitVec.ofNat 32 (r a)) ∧
    ∀ a : Word, r a = ((Finset.range 32).filter (fun k => a.getLsbD k = true)).card) ∧
  (∃ r : Word → Nat, YieldsR .clz tRAW (fun a _ => BitVec.ofNat 32 (r a)) ∧
    ∀ a : Word, r a ≤ 32 ∧ (a = 0 ↔ r a = 32) ∧ (a ≠ 0 → a.getLsbD (31 - r a) = true) ∧
      ∀ k, 31 - r a < k → a ≠ 0 → a.getLsbD k = false) ∧
  (∃ r : Word → Word, YieldsR .brev tRAW (fun a _ => r a) ∧
    ∀ (a : Word) (k : Nat), k < 32 → (r a).getLsbD (31 - k) = a.getLsbD k))

/-- Whenever a shift is selected, in its R form with the whole unsigned value of b as its amount n or in its I form
with the zero-extended immediate, it completes and writes RAW: bit k of shl is bit k − n of a and zero below n,
bit k of the right shifts is bit k + n of a and above bit 31 zero, or a[31] for shr.i. The value is read in the
bits class and a register amount in the integer class. Whenever bfx.n, bfx.i or bfi is selected it completes and
writes RAW. With pos = control[7:0] and w = min(control[15:8], 32): bit k of bfx.n is bit pos + k of a below w
and zero above; bit k of bfx.i is bit pos + min(k, w − 1) of a, its sign bit beyond 31, and zero for w = 0; bit
k of bfi is bit k − pos of b where pos ≤ k < pos + w, and of a elsewhere. Control operands are read in the
integer class and values in the bits class. (R217, R218) -/
def Obligations.ShiftAndFieldResults : Prop :=
  (
  ∀ (rf : RF → Instr) (im : IF → Instr) (bitOf : Word → Nat → Nat → Bool),
    (rf, im, bitOf) ∈ [(Instr.shl, Instr.shlImm, fun a n k => if k < n then false else a.getLsbD (k - n)),
      (.shrN, .shrNImm, fun a n k => if k + n < 32 then a.getLsbD (k + n) else false),
      (.shrI, .shrIImm, fun a n k => if k + n < 32 then a.getLsbD (k + n) else a.getLsbD 31)] →
    ∃ r : Word → Nat → Word,
      (∀ f, ReadsIn (rf f) [.bits, .int]) ∧ (∀ f, ReadsIn (im f) [.bits]) ∧
      YieldsR rf tRAW (fun a b => r a b.toNat) ∧
      YieldsI im tRAW (fun a imm => r a imm.toNat) ∧
      ∀ (a : Word) (n k : Nat), k < 32 → (r a n).getLsbD k = bitOf a n k) ∧
  (
  let pos (ctl : Word) : Nat := (ctl.extractLsb' 0 8).toNat
  let wid (ctl : Word) : Nat := min (ctl.extractLsb' 8 8).toNat 32
  (∀ f, ReadsIn (.bfxN f) [.bits, .int] ∧ ReadsIn (.bfxI f) [.bits, .int] ∧ ReadsIn (.bfi f) [.bits, .bits, .int]) ∧
  (∃ r : Word → Word → Word, YieldsX .bfxN tRAW (fun _ a b _ => r a b) ∧
    ∀ (a b : Word) (k : Nat), k < 32 → (r a b).getLsbD k = (decide (k < wid b) && a.getLsbD (pos b + k))) ∧
  (∃ r : Word → Word → Word, YieldsX .bfxI tRAW (fun _ a b _ => r a b) ∧
    ∀ (a b : Word) (k : Nat), k < 32 →
      (r a b).getLsbD k = (decide (wid b ≠ 0) && a.getLsbD (min (pos b + min k (wid b - 1)) 31))) ∧
  (∃ r : Word → Word → Word → Word, YieldsX .bfi tRAW (fun _ a b c => r a b c) ∧
    ∀ (a b c : Word) (k : Nat), k < 32 →
      (r a b c).getLsbD k = (if pos c ≤ k ∧ k < pos c + wid c then b.getLsbD (k - pos c) else a.getLsbD k)))

/-- Whenever lea is selected it completes and writes to d and d + 1, both tagged N32, the 64-bit sum modulo 2^64 of
the pair a and of b shifted left by FUNC[2:0], b sign-extended when FUNC[3] is 1 and zero-extended otherwise.
(09_isa_arith: R220) -/
def Obligations.AddressResults : Prop :=
  ∀ f : XF, Yields (.lea f) f.d.toNat (xKD f.c) (fun u _ t =>
    let b := opB f u t
    let x : Int := if bit f.c 3 then b.toInt else (b.toNat : Int)
    let sum := (BitVec.ofInt 64 ((src64 (xKA f.c) f.a.toNat u t : Int) + x * 2 ^ bits f.c 0 3))
    [{ val := sum.extractLsb' 0 32, tag := tN32 }, { val := sum.extractLsb' 32 32, tag := tN32 }])

/-- Whenever sel, mov, mov of an immediate or mov of a literal is selected it completes: sel writes a where p[C] is
true and b elsewhere, with the tag of the value copied; mov copies a register with its tag, as does mov under
xint, a uniform source giving RAW; the I form writes the sign-extended immediate tagged RAW; the L form writes
the literal with the tag of f7[3:0], or to a uniform register when f7[6] is set, whose tag field must then be
zero; the tags 0xC to 0xF and the bits f7[5:4] are refused. (R223, R224) -/
def Obligations.SelectAndMoveResults : Prop :=
  (∀ f, WellFormed (.sel f) → ReadsIn (.sel f) [.bits, .bits]) ∧ (∀ f, ReadsIn (.mov f) [.bits]) ∧
  (∀ f, WellFormed (.mov f) ↔ f.b = 0) ∧ (∀ f, WellFormed (.movImm f) ↔ f.a = 0) ∧
  (∀ f, WellFormed (.movLit f) ↔ f.a = 0 ∧ f.f7.extractLsb' 4 2 = 0 ∧ f.f7.extractLsb' 0 4 ≤ 0xB ∧
    (bit f.f7 6 = true → f.f7.extractLsb' 0 4 = 0)) ∧
  (∀ f : XF, WellFormed (.sel f) → Yields (.sel f) f.d.toNat false (fun u _ t =>
    [if xC f.c ≥ 7 ∨ t.p.getLsbD (xC f.c) = true then srcCell (xKA f.c) f.a.toNat u t else srcCell (xKB f.c) f.b.toNat u t])) ∧
  (∀ f : RF, Yields (.mov f) f.d.toNat false (fun _ _ t => [t.reg f.a.toNat])) ∧
  (∀ f : XF, xFunc f.c = 0x32 → Yields (.xint f) f.d.toNat (xKD f.c) (fun u _ t => [srcCell (xKA f.c) f.a.toNat u t])) ∧
  (∀ f : IF, Yields (.movImm f) f.d.toNat false (fun _ _ _ => [{ val := BitVec.ofInt 32 f.imm.toInt, tag := tRAW }])) ∧
  (∀ f : LF, Yields (.movLit f) f.d.toNat (bit f.f7 6) (fun _ _ _ =>
    [{ val := f.lit, tag := (f.f7.extractLsb' 0 4).setWidth 8 }]))

/-- Whenever shfl is selected it completes: each executing lane takes register a, with its tag, of the lane that its
mode names if that lane executes too, and its own otherwise. Whenever vote is selected with a defined operation
it completes, and if any lane executes it writes once to s[a] the value of the table. Reserved modes, operations
and bits are not well formed. (R225, R226) -/
def Obligations.ShuffleAndVoteResults : Prop :=
  (∀ f, WellFormed (.shfl f) → bits f.c 2 6 = 0 ∧ xKA f.c = false ∧ xKD f.c = false ∧ ReadsIn (.shfl f) [.bits, .int]) ∧
  (∀ f, WellFormed (.vote f) ↔ f.x = 0 ∧ f.f.toNat ≤ 5) ∧
  (∀ f, ReadsIn (.vote f) (if f.f.toNat ≤ 3 then [] else [.bits])) ∧
  (∀ (f : XF) (s : State) (c : Cx) (y : Bool), s.Selected (.shfl f) c y → WellFormed (.shfl f) →
    s.Issues (.shfl f) c y ((s.base c).putGrp c.w.id (c.g.putVec c.ex f.d.toNat (fun l =>
      let n : Nat := (opB f c.uni (c.g.lane l)).toNat
      let j : Int := if bits f.c 0 2 = 0 then (n % 32 : Nat) else if bits f.c 0 2 = 1 then (l : Int) - n
        else if bits f.c 0 2 = 2 then (l : Int) + n else (l ^^^ (n % 32) : Nat)
      [if 0 ≤ j ∧ j ≤ 31 ∧ j.toNat ∈ c.ex then (c.g.lane j.toNat).reg f.a.toNat else (c.g.lane l).reg f.a.toNat])))) ∧
  (∀ f : KF, f.f.toNat ≤ 5 → ∃ r : Cx → Word,
    Does (.vote f) (fun s c => s.putGrp c.w.id (c.g.setUni f.a.toNat [r c])) ∧
    ∀ c : Cx, c.ex ≠ [] → (∀ l ∈ c.ex, l < 32) → c.ex.Pairwise (· < ·) →
      let p (l : Nat) : Prop := f.b.toNat ≥ 7 ∨ (c.g.lane l).p.getLsbD f.b.toNat = true
      let v (l : Nat) : Word := ((c.g.lane l).reg f.b.toNat).val
      (f.f = 0 → (r c = 1 ∧ ∃ l ∈ c.ex, p l) ∨ (r c = 0 ∧ ∀ l ∈ c.ex, ¬p l)) ∧
      (f.f = 1 → (r c = 1 ∧ ∀ l ∈ c.ex, p l) ∨ (r c = 0 ∧ ∃ l ∈ c.ex, ¬p l)) ∧
      (f.f = 2 → ∀ l, (r c).getLsbD l = true ↔ l ∈ c.ex ∧ p l) ∧
      (f.f = 3 → ∃ ls : List Nat, ls.Sublist c.ex ∧ (∀ l, l ∈ ls ↔ l ∈ c.ex ∧ p l) ∧ r c = BitVec.ofNat 32 ls.length) ∧
      (f.f = 4 → ∃ l ∈ c.ex, (∀ k ∈ c.ex, l ≤ k) ∧ r c = v l) ∧
      (f.f = 5 → (r c = 1 ∧ ∃ x, ∀ l ∈ c.ex, v l = x) ∨ (r c = 0 ∧ ∃ l ∈ c.ex, ∃ k ∈ c.ex, v l ≠ v k)))

/-- Whenever an FP32 arithmetic instruction is selected and signals no enabled exception it completes: each
executing lane takes, tagged F32, the exact sum, difference, product, quotient or fused product and sum rounded
once, or the operand that min, max, abs and neg give, and sp.fmode takes the flags signalled. The R forms round
to nearest even without SAT. (09_isa_arith: R227, 09_isa_arith: R228, 09_isa_arith: R229, 06_numbers: R151) -/
def Obligations.SingleFloatResults : Prop :=
  ComputesR .addF tF32 (sumIn fp32 0 false) ∧
  ComputesR .subF tF32 (diffIn fp32 0 false) ∧
  ComputesR .mulF tF32 (prodIn fp32 0 false) ∧
  ComputesR .divF tF32 (quotIn fp32 0 false) ∧
  ComputesR .minF tF32 (lesserIn fp32 false) ∧
  ComputesR .maxF tF32 (lesserIn fp32 true) ∧
  ComputesR .absF tF32 (fun a _ => absIn fp32 a) ∧
  ComputesR .negF tF32 (fun a _ => negIn fp32 a) ∧
  (∀ f : XF, Computes (.fmaF f) f.d.toNat (xKD f.c) (fun u _ t =>
    let x := fusedIn fp32 (bits f.c 29 3) (bit f.c 28) (opA f u t).toNat (opB f u t).toNat (opC f u t).toNat
    ([{ val := BitVec.ofNat 32 x.1, tag := tF32 }], x.2)))

/-- Whenever a packed FP16 or BF16 add, mul, min, max or fma is selected and signals no enabled exception it
completes: each half of the destination, tagged F16X2 or BF16X2, takes the result in the element format from the
same halves of the operands, and the exceptions of the two halves are signalled together. (09_isa_arith: R230,
09_isa_arith: R228) -/
def Obligations.PackedFloatResults : Prop :=
  ComputesR16 .addF16x2 tF16 (sumIn fp16 0 false) ∧
  ComputesR16 .mulF16x2 tF16 (prodIn fp16 0 false) ∧
  ComputesR16 .minF16x2 tF16 (lesserIn fp16 false) ∧
  ComputesR16 .maxF16x2 tF16 (lesserIn fp16 true) ∧
  ComputesR16 .addBf16x2 tBF16 (sumIn bf16 0 false) ∧
  ComputesR16 .mulBf16x2 tBF16 (prodIn bf16 0 false) ∧
  ComputesR16 .minBf16x2 tBF16 (lesserIn bf16 false) ∧
  ComputesR16 .maxBf16x2 tBF16 (lesserIn bf16 true) ∧
  (∀ (mk : XF → Instr) (m : FFmt) (tag : Byte), (mk, m, tag) ∈ [(Instr.fmaF16x2, fp16, tF16), (.fmaBf16x2, bf16, tBF16)] →
    ∀ f : XF, Computes (mk f) f.d.toNat (xKD f.c) (fun u _ t =>
      let el (j : Nat) := fusedIn m (bits f.c 29 3) (bit f.c 28) (elem 16 j (opA f u t)) (elem 16 j (opB f u t)) (elem 16 j (opC f u t))
      ([{ val := BitVec.ofNat 32 ((el 0).1 + 65536 * (el 1).1), tag := tag }], (el 0).2 ||| (el 1).2)))

/-- Whenever an FP64 instruction or crel is selected and signals no enabled exception it completes: the results of
R227 and R228 at FP64 stand in the pair d, d + 1 with the tags F64L and F64H; crel writes to one register,
tagged F32, the FP32 value nearest to the exact difference of two FP64 values. (09_isa_arith: R231,
09_isa_arith: R232, 09_isa_arith: R228) -/
def Obligations.DoubleFloatResults : Prop :=
  ComputesR64 .addF64 (sumIn fp64 0 false) ∧
  ComputesR64 .subF64 (diffIn fp64 0 false) ∧
  ComputesR64 .mulF64 (prodIn fp64 0 false) ∧
  ComputesR64 .divF64 (quotIn fp64 0 false) ∧
  ComputesR64 .minF64 (lesserIn fp64 false) ∧
  ComputesR64 .maxF64 (lesserIn fp64 true) ∧
  (∀ f : XF, Computes (.fmaF64 f) f.d.toNat (xKD f.c) (fun u _ t =>
    let x := fusedIn fp64 (bits f.c 29 3) (bit f.c 28) (src64 (xKA f.c) f.a.toNat u t) (src64 (xKB f.c) f.b.toNat u t)
      (src64 (xKC f.c) (xC f.c) u t)
    ([{ val := BitVec.ofNat 32 x.1, tag := tF64L }, { val := BitVec.ofNat 32 (x.1 / 2 ^ 32), tag := tF64H }], x.2))) ∧
  (∀ f : XF, Computes (.crel f) f.d.toNat (xKD f.c) (fun u _ t =>
    let a := src64 (xKA f.c) f.a.toNat u t
    let b := src64 (xKB f.c) f.b.toNat u t
    let x := rounded fp32 0 false (xAdd 0 (fp64.value a) (fp64.value b).flip) (fp64.snanFlag a ||| fp64.snanFlag b)
    ([{ val := BitVec.ofNat 32 x.1, tag := tF32 }], x.2)))

/-- Whenever rcp, sqrt, rsqrt, exp2, log2 or rint is selected and signals no enabled exception it completes with its
function rounded once, and rint with an integral value in the format of its operand. The functions give the
special results of the table of R233, and the exact square root lies in the same cell of the fixed-point grid as
the value that is rounded. (09_isa_arith: R233, 09_isa_arith: R234) -/
def Obligations.RoundedFunctionResults : Prop :=
  ComputesR .rcpF tF32 (fun a _ => funcIn fp32 xRcp 0 false a) ∧
  ComputesR .sqrtF tF32 (fun a _ => funcIn fp32 xSqrt 0 false a) ∧
  ComputesR .rsqrtF tF32 (fun a _ => funcIn fp32 xRsqrt 0 false a) ∧
  ComputesR .exp2F tF32 (fun a _ => funcIn fp32 xExp2 0 false a) ∧
  ComputesR .log2F tF32 (fun a _ => funcIn fp32 xLog2 0 false a) ∧
  ComputesR64 .rcpF64 (fun a _ => funcIn fp64 xRcp 0 false a) ∧
  ComputesR64 .sqrtF64 (fun a _ => funcIn fp64 xSqrt 0 false a) ∧
  (∀ f : XF, Computes (.rintF f) f.d.toNat (xKD f.c) (fun u _ t =>
    let x := fRint fp32 (bits f.c 29 3) (opA f u t).toNat
    ([{ val := BitVec.ofNat 32 x.1, tag := tF32 }], x.2))) ∧
  (∀ f : XF, Computes (.rintF64 f) f.d.toNat (xKD f.c) (fun u _ t =>
    let x := fRint fp64 (bits f.c 29 3) (src64 (xKA f.c) f.a.toNat u t)
    ([{ val := BitVec.ofNat 32 x.1, tag := tF64L }, { val := BitVec.ofNat 32 (x.1 / 2 ^ 32), tag := tF64H }], x.2))) ∧
  (∀ neg : Bool, xRcp (.inf neg) = (.fin neg 0 1, 0) ∧ xRcp (.fin neg 0 1) = (.inf neg, flDZ) ∧
    xSqrt (.fin neg 0 1) = (.fin neg 0 1, 0) ∧ xRsqrt (.fin neg 0 1) = (.inf neg, flDZ) ∧ xLog2 (.fin neg 0 1) = (.inf true, flDZ) ∧
    xExp2 (.fin neg 0 1) = (.fin false 1 1, 0)) ∧
  xSqrt (.inf true) = (.nan, flIV) ∧ xRsqrt (.inf true) = (.nan, flIV) ∧ xLog2 (.inf true) = (.nan, flIV) ∧
  xExp2 (.inf true) = (.fin false 0 1, 0) ∧ xSqrt (.inf false) = (.inf false, 0) ∧ xRsqrt (.inf false) = (.fin false 0 1, 0) ∧
  xExp2 (.inf false) = (.inf false, 0) ∧ xLog2 (.inf false) = (.inf false, 0) ∧ xLog2 (.fin false 1 1) = (.fin false 0 1, 0) ∧
  (∀ n d, 0 < n → 0 < d →
    xSqrt (.fin true n d) = (.nan, flIV) ∧ xRsqrt (.fin true n d) = (.nan, flIV) ∧ xLog2 (.fin true n d) = (.nan, flIV) ∧
    (∀ neg, xRcp (.fin neg n d) = (.fin neg d n, 0)) ∧
    ∃ q, q * q * d ≤ n * 4 ^ fracBits ∧ n * 4 ^ fracBits < (q + 1) * (q + 1) * d ∧
      xSqrt (.fin false n d) = (if q * q * d = n * 4 ^ fracBits then .fin false q (2 ^ fracBits)
        else .fin false (2 * q + 1) (2 ^ (fracBits + 1)), 0)) ∧
  (∀ (f : FFmt) (rnd a : Nat) (neg : Bool) (n d : Nat), f.value a = .fin neg n d → 0 < n → 0 < d → n % d = 0 → rnd ≤ 4 →
    fRint f rnd a = ((roundTo f (.fin neg (n / d) 1) rnd false).1, 0))

/-- Whenever dot4 or cvt is selected and signals no enabled exception it completes with the registers of its lane
function written; cvt reads and writes the registers that its two kinds give, takes its scale bytes from s[C],
and in ODR, when it rounds and a lane executes it, the dither phase of the group rises by one, unless the
instruction issued with it has just written the phase. (09_isa_arith: R235, 09_isa_arith: R236, 09_isa_arith:
R237, 09_isa_arith: R238, 09_isa_arith: R239, 09_isa_arith: R240, 06_numbers: R155) -/
def Obligations.DotAndConvertResults : Prop :=
  (∀ f : XF, Computes (.dot4 f) f.d.toNat (xKD f.c) (fun u _ t =>
    let x := dot4Val (xTag f.c) (xFunc f.c) (bits f.c 29 3) (bit f.c 28) (opA f u t) (opB f u t) (opC f u t)
    ([{ val := BitVec.ofNat 32 x.1, tag := tF32 }], x.2))) ∧
  (∀ (f : XF) (s : State) (c : Cx) (y : Bool), s.Selected (.cvt f) c y →
    let sk := bits f.c 4 4
    let dk := bits f.c 0 4
    let n := if kindWidth sk = 8 ∨ kindWidth dk = 8 then 4 else if kindWidth sk = 16 ∨ kindWidth dk = 16 then 2 else 1
    let val := fun (u : List Word) (l : Nat) (t : Lane) =>
      cvtLane sk (cvtSTag f) dk (cvtDTag f) (cvtScales f u).1 (cvtScales f u).2 (bits f.c 29 3) (bit f.c 28) c.phase l
        ((List.range (n * kindWidth sk / 32)).map (fun j => srcCell (xKA f.c) (f.a.toNat + j) u t))
    enables c.fmode &&& signalled (xKD f.c) val c = 0 →
    let e := effect f.d.toNat (xKD f.c) val (s.base c) c
    let rounds := c.ex ≠ [] ∧ bits f.c 29 3 = 5 ∧ cvtRounds sk dk = true
    (¬rounds → s.Issues (.cvt f) c y e) ∧
    (rounds → ∀ w g, e.x.wg? c.w.id = some w → w.grp? c.g.idx = some g →
      s.Issues (.cvt f) c y (e.putGrp w.id { g with phase := if c.phaseSet then g.phase else g.phase + 1 })))

/-- Whenever a setp is selected and signals no enabled exception it completes: each executing lane writes to
predicate d the comparison of its type, with unordered pairs true only under U, ne and unord, combined under PK
in the packed forms and then under COMB with predicate C; invalid is signalled by lt, le, gt and ge without U on
a NaN, and otherwise only for a signalling NaN. A write to p7 is discarded. (R221, R222) -/
def Obligations.PredicateComparisons : Prop :=
  let packed (f : XF) (m : FFmt) (a b : Word) : Bool × Flags :=
    let el (j : Nat) := relIn m (bits f.c 0 3) (bit f.c 3) (elem 16 j a) (elem 16 j b)
    ((match bits f.c 6 2 with
      | 0 => (el 0).1 && (el 1).1 | 1 => (el 0).1 || (el 1).1 | 2 => (el 0).1 | _ => (el 1).1), (el 0).2 ||| (el 1).2)
  let rel (cmp : Nat) (x y : Int) : Bool :=
    match cmp with
    | 0 => decide (x = y) | 1 => decide (x ≠ y) | 2 => decide (x < y) | 3 => decide (x ≤ y) | 4 => decide (x > y)
    | _ => decide (x ≥ y)
  (∀ f : XF, Compares (.setpI f) f.d.toNat (fun u _ t =>
    (combined f t (rel (bits f.c 0 3) (opA f u t).toInt (opB f u t).toInt), 0))) ∧
  (∀ f : XF, Compares (.setpN f) f.d.toNat (fun u _ t =>
    (combined f t (rel (bits f.c 0 3) (opA f u t).toNat (opB f u t).toNat), 0))) ∧
  (∀ f : XF, ReadsIn (.setpI f) [.int, .int] ∧ ReadsIn (.setpN f) [.int, .int] ∧ ReadsIn (.setpF f) [.f32, .f32] ∧
    ReadsIn (.setpF64 f) [.f64, .f64] ∧ ReadsIn (.setpF16x2 f) [.f16, .f16] ∧ ReadsIn (.setpBf16x2 f) [.bf16, .bf16]) ∧
  (∀ f : XF, Compares (.setpF f) f.d.toNat (fun u _ t =>
    let r := relIn fp32 (bits f.c 0 3) (bit f.c 3) (opA f u t).toNat (opB f u t).toNat
    (combined f t r.1, r.2))) ∧
  (∀ f : XF, Compares (.setpF64 f) f.d.toNat (fun u _ t =>
    let r := relIn fp64 (bits f.c 0 3) (bit f.c 3) (src64 (xKA f.c) f.a.toNat u t) (src64 (xKB f.c) f.b.toNat u t)
    (combined f t r.1, r.2))) ∧
  (∀ f : XF, Compares (.setpF16x2 f) f.d.toNat (fun u _ t =>
    let r := packed f fp16 (opA f u t) (opB f u t)
    (combined f t r.1, r.2))) ∧
  (∀ f : XF, Compares (.setpBf16x2 f) f.d.toNat (fun u _ t =>
    let r := packed f bf16 (opA f u t) (opB f u t)
    (combined f t r.1, r.2))) ∧
  (∀ (f : XF) (fl : Bool) (i : Instr), (i, fl) ∈ [(Instr.setpI f, false), (.setpN f, false), (.setpF f, true), (.setpF64 f, true),
      (.setpF16x2 f, true), (.setpBf16x2 f, true)] → WellFormed i →
    (bits f.c 4 2 = 0 → xC f.c = 0) ∧ (fl = false → bits f.c 0 3 ≤ 5 ∧ bit f.c 3 = false) ∧
    (bit f.c 3 = true → bits f.c 0 3 ≤ 5) ∧
    (bits f.c 6 2 ≠ 0 → i = .setpF16x2 f ∨ i = .setpBf16x2 f)) ∧
  (∀ (t : Lane) (i : Nat) (b : Bool) (k : Nat), k < 7 →
    t.setPred i b = { t with p := (t.setPred i b).p } ∧ (t.setPred i b).p.getLsbD k = if k = i then b else t.p.getLsbD k)

/-- Whenever xflt is selected with a FUNC of R210 and signals no enabled exception it completes with what the
R-format operation named there gives, with the rounding and SAT of the control word, on vector or uniform
operands; the rounding operations pass both to the one rounding. (09_isa_arith: R210, 09_isa_arith: R227,
09_isa_arith: R233) -/
def Obligations.XfltForms : Prop :=
  (∀ f : XF, xfltFuncs.contains (xFunc f.c) = true →
    Computes (.xflt f) f.d.toNat (xKD f.c) (fun u _ t =>
      (ropOf (xFunc f.c)).ev (bits f.c 29 3) (bit f.c 28)
        [srcCell (xKA f.c) f.a.toNat u t, srcCell (xKA f.c) (f.a.toNat + 1) u t]
        [srcCell (xKB f.c) f.b.toNat u t, srcCell (xKB f.c) (f.b.toNat + 1) u t])) ∧
  (∀ (op : Nat) (r : Nat → Bool → Nat → Nat → Nat × Flags), (op, r) ∈ [(0x38, sumIn fp32), (0x39, diffIn fp32), (0x3A, prodIn fp32),
      (0x40, quotIn fp32), (0x3C, fun _ _ => lesserIn fp32 false), (0x3D, fun _ _ => lesserIn fp32 true),
      (0x3E, fun _ _ a _ => absIn fp32 a), (0x3F, fun _ _ a _ => negIn fp32 a),
      (0x56, fun m s a _ => funcIn fp32 xRcp m s a), (0x57, fun m s a _ => funcIn fp32 xSqrt m s a),
      (0x58, fun m s a _ => funcIn fp32 xRsqrt m s a), (0x59, fun m s a _ => funcIn fp32 xExp2 m s a),
      (0x5A, fun m s a _ => funcIn fp32 xLog2 m s a)] →
    ∀ (m : Nat) (sat : Bool) (a b : List VCell), (ropOf op).ev m sat a b =
      ([{ val := BitVec.ofNat 32 (r m sat (vw a 0).toNat (vw b 0).toNat).1, tag := tF32 }], (r m sat (vw a 0).toNat (vw b 0).toNat).2)) ∧
  (∀ (op : Nat) (r : Nat → Bool → Nat → Nat → Nat × Flags), (op, r) ∈ [(0x4E, sumIn fp64), (0x4F, diffIn fp64), (0x50, prodIn fp64),
      (0x54, quotIn fp64), (0x52, fun _ _ => lesserIn fp64 false), (0x53, fun _ _ => lesserIn fp64 true),
      (0x5B, fun m s a _ => funcIn fp64 xRcp m s a), (0x5C, fun m s a _ => funcIn fp64 xSqrt m s a)] →
    ∀ (m : Nat) (sat : Bool) (a b : List VCell), (ropOf op).ev m sat a b =
      (let x := r m sat ((vw a 0).toNat + 2 ^ 32 * (vw a 1).toNat) ((vw b 0).toNat + 2 ^ 32 * (vw b 1).toNat)
       ([{ val := BitVec.ofNat 32 x.1, tag := tF64L }, { val := BitVec.ofNat 32 (x.1 / 2 ^ 32), tag := tF64H }], x.2))) ∧
  (∀ (op : Nat) (m16 : FFmt) (tag : Byte) (r : Nat → Bool → Nat → Nat → Nat × Flags),
    (op, tag, r) ∈ [(0x42, tF16, sumIn fp16), (0x43, tF16, prodIn fp16), (0x45, tF16, fun _ _ => lesserIn fp16 false),
      (0x46, tF16, fun _ _ => lesserIn fp16 true), (0x48, tBF16, sumIn bf16), (0x49, tBF16, prodIn bf16),
      (0x4B, tBF16, fun _ _ => lesserIn bf16 false), (0x4C, tBF16, fun _ _ => lesserIn bf16 true)] →
    ∀ (m : Nat) (sat : Bool) (a b : List VCell), (ropOf op).ev m sat a b =
      (let el (j : Nat) := r m sat (elem 16 j (vw a 0)) (elem 16 j (vw b 0))
       ([{ val := BitVec.ofNat 32 ((el 0).1 + 65536 * (el 1).1), tag := tag }], (el 0).2 ||| (el 1).2)))

/-- In every mode a finite value of FP16, BF16, FP32 or FP64 rounds to its own encoding and signals nothing. The
sum, product and quotient of two finite values have the exact real value, and a finite dividend over zero gives
the signed infinity with division by zero. (06_numbers: R152, 06_numbers: R153, 09_isa_arith: R228) -/
def Obligations.ExactlyOnceRounded : Prop :=
  let val (x : XR) : ℚ := match x with
    | .fin neg n d => (if neg then -1 else 1) * ((n : ℚ) / d)
    | _ => 0
  (∀ (f : FFmt) (c : Nat) (neg : Bool) (n d : Nat) (rnd : Nat) (sat : Bool) (thr : Nat), f ∈ [fp16, bf16, fp32, fp64] →
    c < 2 ^ f.width → f.value c = .fin neg n d → roundTo f (.fin neg n d) rnd sat thr = (c, 0)) ∧
  (∀ (rnd : Nat) (s t : Bool) (n d m e : Nat), 0 < d → 0 < e →
    val (xAdd rnd (.fin s n d) (.fin t m e)).1 = val (.fin s n d) + val (.fin t m e) ∧
    val (xMul (.fin s n d) (.fin t m e)).1 = val (.fin s n d) * val (.fin t m e) ∧
    (0 < m → val (xDiv (.fin s n d) (.fin t m e)).1 = val (.fin s n d) / val (.fin t m e)) ∧
    (0 < n → xDiv (.fin s n d) (.fin t 0 e) = (.inf (s != t), flDZ)) ∧
    (n * e = m * d → 0 < n → xAdd rnd (.fin s n d) (.fin (!s) m e) = (.fin (rnd == 2) 0 1, 0)))

/-- Whenever ld, ldw, st or stw is selected: with no executing lane it only issues; if the address range of an
executing lane is not canonical it traps MEM (ADDR_RANGE) with the address of the lowest such lane; otherwise it
completes and leaves one access holding the address R244 gives to each executing lane and the data group of a
store, raises LD or ST once, makes the destinations of a load unwritten, and changes no register and no memory.
(10_isa_memory_control: R244, 10_isa_memory_control: R245, 10_isa_memory_control: R247, 10_isa_memory_control:
R248, 10_isa_memory_control: R249, 02_execution: R48) -/
def Obligations.LoadsAndStoresIssue : Prop :=
  ∀ (i : Instr) (kind : AccKind) (width : Nat) (dst : List Nat) (va : Cx → Nat → DWord) (ops : Cx → Nat → List Word),
    ((∃ f, i = .ld f ∧ kind = .load ∧ width = 2 ^ bits f.c 26 3 ∧ bits f.c 26 3 ≤ 4 ∧
        dst = (List.range (groupSize (bits f.c 26 3))).map (fun j => f.d.toNat + j) ∧ va = globalAddr f ∧ ops = fun _ _ => []) ∨
      (∃ f, i = .ldw f ∧ kind = .load ∧ width = 4 ∧ dst = [f.d.toNat] ∧ va = pairAddr f ∧ ops = fun _ _ => []) ∨
      (∃ f, i = .st f ∧ kind = .store ∧ width = 2 ^ bits f.c 26 3 ∧ bits f.c 26 3 ≤ 4 ∧ dst = [] ∧ va = globalAddr f ∧
        ops = groupWords f.d (groupSize (bits f.c 26 3))) ∨
      (∃ f, i = .stw f ∧ kind = .store ∧ width = 4 ∧ dst = [] ∧ va = pairAddr f ∧ ops = groupWords f.d 1)) →
    ∀ (s : State) (c : Cx) (y : Bool), s.Selected i c y →
      (c.ex = [] → s.Issues i c y (s.base c)) ∧
      (∀ l, c.ex.find? (fun l => !canonicalRange (va c l) width) = some l → s.Traps i c (trapMem 4 (va c l))) ∧
      (c.ex ≠ [] → (∀ l ∈ c.ex, canonicalRange (va c l) width = true) → s.Placed c →
        ∃ t g, exec i s = .next t ∧ SameOutside s t ∧ t.Sent s.x.nextId i c kind width (va c) (ops c) ∧
          t.grpOf c = some g ∧ SameRegs g c.g ∧
          g.ld = c.g.ld + (if kind = .load then 1 else 0) ∧ g.stc = c.g.stc + (if kind = .store then 1 else 0) ∧
          ∀ r ∈ dst, Awaits g 0 r c s.x.nextId)

/-- Whenever atom, red, cas or vis.min is selected: a range that is not canonical traps MEM (ADDR_RANGE) first, then
a unit not aligned to its width traps MEM (ATOMIC_ALIGN), for the lowest such lane; otherwise it completes and
leaves one access holding each executing lane's address and operand registers, raises LD for atom and cas and ST
for red and vis.min, and changes no register and no memory. (10_isa_memory_control: R244, 10_isa_memory_control:
R249, 10_isa_memory_control: R251, 10_isa_memory_control: R252, 10_isa_memory_control: R254,
11_isa_matrix_graphics_system: R295) -/
def Obligations.AtomicsIssue : Prop :=
  ∀ (i : Instr) (f : XF) (kind : AccKind) (wide : Bool) (regs : Nat) (dst : List Nat),
    ((i = .atom f ∧ kind = .atomic ∧ wide = decide (5 ≤ bits f.c 18 4 ∧ bits f.c 18 4 ≤ 8) ∧ regs = (if wide then 2 else 1) ∧
        dst = (List.range regs).map (fun j => f.d.toNat + j)) ∨
      (i = .red f ∧ kind = .reduce ∧ wide = decide (5 ≤ bits f.c 18 4 ∧ bits f.c 18 4 ≤ 8) ∧ regs = (if wide then 2 else 1) ∧ dst = []) ∨
      (i = .cas f ∧ kind = .atomic ∧ wide = decide (5 ≤ bits f.c 18 4 ∧ bits f.c 18 4 ≤ 8) ∧ regs = (if wide then 4 else 2) ∧
        dst = (List.range (regs / 2)).map (fun j => f.d.toNat + j)) ∨
      (i = .visMin f ∧ kind = .reduce ∧ wide = true ∧ regs = 2 ∧ dst = [])) →
    ∀ (s : State) (c : Cx) (y : Bool), s.Selected i c y →
      let width := if wide then 8 else 4
      (∀ l, c.ex.find? (fun l => !canonicalRange (globalAddr f c l) width) = some l → s.Traps i c (trapMem 4 (globalAddr f c l))) ∧
      ((∀ l ∈ c.ex, canonicalRange (globalAddr f c l) width = true) →
        (∀ l, c.ex.find? (fun l => (globalAddr f c l).toNat % width != 0) = some l → s.Traps i c (trapMem 5 (globalAddr f c l))) ∧
        ((∀ l ∈ c.ex, (globalAddr f c l).toNat % width = 0) →
          (c.ex = [] → s.Issues i c y (s.base c)) ∧
          (c.ex ≠ [] → s.Placed c →
            ∃ t g, exec i s = .next t ∧ SameOutside s t ∧
              t.Sent s.x.nextId i c kind width (globalAddr f c) (groupWords f.d regs c) ∧
              t.grpOf c = some g ∧ SameRegs g c.g ∧
              g.ld = c.g.ld + (if kind = .atomic then 1 else 0) ∧ g.stc = c.g.stc + (if kind = .reduce then 1 else 0) ∧
              ∀ r ∈ dst, Awaits g 0 r c s.x.nextId)))

/-- Whenever lds, sts or atoms is selected: an atoms address off a word traps MEM (ATOMIC_ALIGN), then a range
beyond the partition traps MEM (SCRATCH_RANGE), for the lowest such lane. With no fence in force and nothing
held it is performed at once: sts writes each lane's bytes at its address, the highest lane winning, and no
other byte; lds leaves the scratchpad as it was and a reply with each lane's bytes placed in its registers;
atoms applies its lanes in ascending order. (10_isa_memory_control: R244, 10_isa_memory_control: R247,
10_isa_memory_control: R248, 10_isa_memory_control: R249, 10_isa_memory_control: R253, 10_isa_memory_control:
R254, 03_kernel_memory: R59, 03_kernel_memory: R60) -/
def Obligations.ScratchpadAccesses : Prop :=
  ∀ (s : State) (c : Cx) (y : Bool) (f : XF),
    let w := 2 ^ bits f.c 26 3
    let out (l n : Nat) : Prop := scratchAddr f c l + n > c.w.scrSize
    (s.Selected (.sts f) c y → bits f.c 26 3 ≤ 4 →
      (∀ l, c.ex.find? (fun l => decide (c.w.scrSize < scratchAddr f c l + w)) = some l →
        s.Traps (.sts f) c (trapMem 7 (BitVec.ofNat 64 (scratchAddr f c l)))) ∧
      ((∀ l ∈ c.ex, ¬out l w) → Unfenced s c → s.Placed c →
        ∃ t v, exec (.sts f) s = .next t ∧ SameOutside s t ∧ t.x.wg? c.w.id = some v ∧
          (∀ a, (∀ l ∈ c.ex, ¬(scratchAddr f c l ≤ a ∧ a < scratchAddr f c l + w)) → v.scratch.get a = c.w.scratch.get a) ∧
          ∀ l ∈ c.ex, ∀ j, j < w →
            (∀ k ∈ c.ex, l < k → ¬(scratchAddr f c k ≤ scratchAddr f c l + j ∧ scratchAddr f c l + j < scratchAddr f c k + w)) →
            v.scratch.get (scratchAddr f c l + j) = wordByte (groupWords f.d (groupSize (bits f.c 26 3)) c l) j)) ∧
    (s.Selected (.lds f) c y → bits f.c 26 3 ≤ 4 →
      (∀ l, c.ex.find? (fun l => decide (c.w.scrSize < scratchAddr f c l + w)) = some l →
        s.Traps (.lds f) c (trapMem 7 (BitVec.ofNat 64 (scratchAddr f c l)))) ∧
      ((∀ l ∈ c.ex, ¬out l w) → c.ex ≠ [] → Unfenced s c → s.Placed c →
        ∃ t v g, exec (.lds f) s = .next t ∧ SameOutside s t ∧ t.x.wg? c.w.id = some v ∧ v.scratch = c.w.scratch ∧
          t.grpOf c = some g ∧ g.ld = c.g.ld + 1 ∧
          ∃ a ∈ t.x.accs, a.id = s.x.nextId ∧ a.kind = .reply ∧ a.wg = c.w.id ∧ a.grp = c.g.idx ∧
            a.res = c.ex.flatMap (fun l => placeLoad (bits f.c 26 3) (f.c.extractLsb' 18 8) f.d.toNat l
              (c.w.scratch.bytes (scratchAddr f c l) w)))) ∧
    (s.Selected (.atoms f) c y →
      (∀ l, c.ex.find? (fun l => scratchAddr f c l % 4 != 0) = some l →
        s.Traps (.atoms f) c (trapMem 5 (BitVec.ofNat 64 (scratchAddr f c l)))) ∧
      ((∀ l ∈ c.ex, scratchAddr f c l % 4 = 0) →
        (∀ l, c.ex.find? (fun l => decide (c.w.scrSize < scratchAddr f c l + 4)) = some l →
          s.Traps (.atoms f) c (trapMem 7 (BitVec.ofNat 64 (scratchAddr f c l)))) ∧
        ((∀ l ∈ c.ex, ¬out l 4) → Unfenced s c → s.Placed c → ∀ l, c.ex = [l] →
          ∃ t v, exec (.atoms f) s = .next t ∧ SameOutside s t ∧ t.x.wg? c.w.id = some v ∧
            (∀ a, (a < scratchAddr f c l ∨ scratchAddr f c l + 4 ≤ a) → v.scratch.get a = c.w.scratch.get a) ∧
            (let old := c.w.scratch.num (scratchAddr f c l) 4
             let o := groupWords f.d 2 c l
             v.scratch.num (scratchAddr f c l) 4 =
               (loWord (atomNew (bits f.c 22 4) (bits f.c 18 4) (BitVec.ofNat 64 old) ((o.getD 0 0).setWidth 64) ((o.getD 1 0).setWidth 64))).toNat ∧
             ∃ a ∈ t.x.accs, a.id = s.x.nextId ∧ a.kind = .reply ∧
               a.res = placeAtom (bits f.c 18 4) f.d.toNat l (BitVec.ofNat 64 old)))))

/-- The new value of every atomic of R251 is that of the table of R253, on 32-bit and on 64-bit types; the float
forms round to nearest even and take the operand order of min.f and max.f. A load of one or two bytes is
sign-extended for I32 and zero-extended otherwise, and a wider load fills its registers from its bytes with the
tags of R246; the old value of an atomic takes the tags of R252. (10_isa_memory_control: R253,
10_isa_memory_control: R246, 10_isa_memory_control: R252, 11_isa_matrix_graphics_system: R304) -/
def Obligations.AtomicNewValues : Prop :=
  (∀ old a b : Word, let o := old.setWidth 64; let x := a.setWidth 64; let z := b.setWidth 64
    (∀ ty, ty = 1 ∨ ty = 2 → loWord (atomNew 0 ty o x z) = old + a) ∧
    loWord (atomNew 0 3 o x z) = BitVec.ofNat 32 (sumIn fp32 0 false old.toNat a.toNat).1 ∧
    loWord (atomNew 1 1 o x z) = (if old.toInt ≤ a.toInt then old else a) ∧ loWord (atomNew 2 1 o x z) = (if old.toInt ≤ a.toInt then a else old) ∧
    loWord (atomNew 1 2 o x z) = (if old.toNat ≤ a.toNat then old else a) ∧ loWord (atomNew 2 2 o x z) = (if old.toNat ≤ a.toNat then a else old) ∧
    loWord (atomNew 1 3 o x z) = BitVec.ofNat 32 (lesserIn fp32 false old.toNat a.toNat).1 ∧
    loWord (atomNew 2 3 o x z) = BitVec.ofNat 32 (lesserIn fp32 true old.toNat a.toNat).1 ∧
    loWord (atomNew 3 0 o x z) = old &&& a ∧ loWord (atomNew 4 0 o x z) = old ||| a ∧ loWord (atomNew 5 0 o x z) = old ^^^ a ∧
    loWord (atomNew 6 0 o x z) = a ∧ loWord (atomNew 7 0 o x z) = (if old = a then b else old) ∧
    (∀ (ty : Nat) (m : FFmt), (ty, m) ∈ [(4, bf16), (9, fp16)] → loWord (atomNew 0 ty o x z) =
      BitVec.ofNat 32 ((sumIn m 0 false (elem 16 0 old) (elem 16 0 a)).1 + 65536 * (sumIn m 0 false (elem 16 1 old) (elem 16 1 a)).1))) ∧
  (∀ old a b : BitVec 64,
    (∀ ty, ty = 6 ∨ ty = 7 → atomNew 0 ty old a b = old + a) ∧
    atomNew 0 8 old a b = BitVec.ofNat 64 (sumIn fp64 0 false old.toNat a.toNat).1 ∧
    atomNew 1 6 old a b = (if old.toInt ≤ a.toInt then old else a) ∧ atomNew 2 6 old a b = (if old.toInt ≤ a.toInt then a else old) ∧
    atomNew 1 7 old a b = (if old.toNat ≤ a.toNat then old else a) ∧ atomNew 2 7 old a b = (if old.toNat ≤ a.toNat then a else old) ∧
    atomNew 3 5 old a b = old &&& a ∧ atomNew 4 5 old a b = old ||| a ∧ atomNew 5 5 old a b = old ^^^ a ∧
    atomNew 6 5 old a b = a ∧ atomNew 7 5 old a b = (if old = a then b else old)) ∧
  (∀ (d l : Nat) (tag : Byte) (b0 b1 b2 b3 : Byte),
    placeLoad 0 tag d l [b0] = [{ kind := 0, lane := l, idx := d, val := if tag = tI32 then b0.signExtend 32 else b0.setWidth 32, tag := tag }] ∧
    placeLoad 1 tag d l [b0, b1] = [{ kind := 0, lane := l, idx := d, val := if tag = tI32 then (b1 ++ b0).signExtend 32 else (b1 ++ b0).setWidth 32, tag := tag }] ∧
    (tag ≠ tF64L → placeLoad 2 tag d l [b0, b1, b2, b3] = [{ kind := 0, lane := l, idx := d, val := b3 ++ b2 ++ b1 ++ b0, tag := tag }]))

/-- Whenever a stand instruction is selected and a lane executes it: a slot off 128 bytes traps MEM (SLOT_ALIGN) and
one beyond the partition MEM (SCRATCH_RANGE). On a good slot stand.sub leaves a subscription access, its status
decided at the core where the slot is busy or the table full, and a pending entry otherwise; stand.read replies
with one word of the slot for each lane; stand.seq replies with the header, zero for a slot neither active nor
being dropped; stand.wait parks the group while SEQ is equal; stand.drop raises its token; the last two trap MEM
(SLOT_INACTIVE) on a slot that is not active. (10_isa_memory_control: R256, 10_isa_memory_control: R257,
10_isa_memory_control: R258, 10_isa_memory_control: R259, 10_isa_memory_control: R260, 03_kernel_memory: R84,
03_kernel_memory: R86) -/
def Obligations.StandingLoadsIssue : Prop :=
  let slotOf (i : Instr) (c : Cx) (a : BitVec 7) : Word := uniAt c.uni a.toNat
  let goodSlot (c : Cx) (v : Word) : Prop := v.toNat % 128 = 0 ∧ v.toNat + 128 ≤ c.w.scrSize
  (∀ (i : Instr) (f : KF), i = .standSub f ∨ i = .standRead f ∨ i = .standSeq f ∨ i = .standWait f ∨ i = .standDrop f →
    ∀ (s : State) (c : Cx) (y : Bool), s.Selected i c y →
      (c.ex = [] → s.Issues i c y (s.base c)) ∧
      (c.ex ≠ [] → (slotOf i c f.a).toNat % 128 ≠ 0 → s.Traps i c (trapMem 8 ((slotOf i c f.a).setWidth 64))) ∧
      (c.ex ≠ [] → (slotOf i c f.a).toNat % 128 = 0 → c.w.scrSize < (slotOf i c f.a).toNat + 128 →
        s.Traps i c (trapMem 7 ((slotOf i c f.a).setWidth 64)))) ∧
  (∀ (f : KF) (s : State) (c : Cx) (y : Bool), s.Selected (.standSub f) c y → c.ex ≠ [] → goodSlot c (uniAt c.uni f.a.toNat) →
    let va := uniAt c.uni (f.b.toNat + 1) ++ uniAt c.uni f.b.toNat
    let k := s.x.core c.w.die c.w.core
    (canonicalVa va = false → s.Traps (.standSub f) c (trapMem 4 va)) ∧
    (canonicalVa va = true → s.Placed c →
      ∃ (t0 : State) (g : Group) (a : Access), s.Issues (.standSub f) c y (t0.accTry s.x.nextId) ∧ a ∈ t0.x.accs ∧ a.id = s.x.nextId ∧
        a.kind = .sub ∧ a.ins = .standSub f ∧ a.lanes.map (fun l => l.va) = [va] ∧
        a.aux = (if (k.standOf c.w.id (uniAt c.uni f.a.toNat).toNat).isSome then 3 else if k.standFree = none then 2 else 0) ∧
        (a.aux = 0 → ∃ j e, k.standFree = some j ∧ cfind j (t0.x.core c.w.die c.w.core).stand = some e ∧ e.st = .pending ∧
          e.wg = c.w.id ∧ e.slot = (uniAt c.uni f.a.toNat).toNat ∧ e.every = bit f.f 0 ∧ e.acc = s.x.nextId) ∧
        t0.grpOf c = some g ∧ g.ld = c.g.ld + 1 ∧ Awaits g 1 f.x.toNat c s.x.nextId)) ∧
  (∀ (f : KF) (s : State) (c : Cx) (y : Bool), s.Selected (.standRead f) c y → c.ex ≠ [] → goodSlot c (uniAt c.uni f.a.toNat) →
    Unfenced s c → s.Placed c →
    ∃ t g, exec (.standRead f) s = .next t ∧ SameOutside s t ∧ t.grpOf c = some g ∧ g.ld = c.g.ld + 1 ∧ Awaits g 0 f.b.toNat c s.x.nextId ∧
      ∃ a ∈ t.x.accs, a.id = s.x.nextId ∧ a.kind = .reply ∧ a.res = c.ex.map (fun l =>
        { kind := 0, lane := l, idx := f.b.toNat, val := BitVec.ofNat 32 (c.w.scratch.num ((uniAt c.uni f.a.toNat).toNat + 4 * l) 4), tag := tRAW })) ∧
  (∀ (f : KF) (s : State) (c : Cx) (y : Bool), s.Selected (.standSeq f) c y → c.ex ≠ [] → goodSlot c (uniAt c.uni f.a.toNat) →
    Unfenced s c → s.Placed c →
    let e := (s.x.core c.w.die c.w.core).standOf c.w.id (uniAt c.uni f.a.toNat).toNat
    let lo : Word := match e with
      | some (_, v) => if v.st = .pending then 0 else BitVec.ofNat 32 ((v.folded % 65536) * 65536 + (if v.lost then 4 else 0) + (if v.resync then 2 else 0) + (if v.overrun then 1 else 0))
      | none => 0
    let hi : Word := match e with
      | some (_, v) => if v.st = .pending then 0 else v.seq
      | none => 0
    ∃ t g, exec (.standSeq f) s = .next t ∧ SameOutside s t ∧ t.grpOf c = some g ∧ g.ld = c.g.ld + 1 ∧
      ∃ a ∈ t.x.accs, a.id = s.x.nextId ∧ a.kind = .reply ∧
        a.res = [{ kind := 1, lane := 0, idx := f.b.toNat, val := lo }, { kind := 1, lane := 0, idx := f.b.toNat + 1, val := hi }]) ∧
  (∀ (f : KF) (s : State) (c : Cx) (y : Bool), s.Selected (.standWait f) c y → c.ex ≠ [] → goodSlot c (uniAt c.uni f.a.toNat) →
    let e := (s.x.core c.w.die c.w.core).standOf c.w.id (uniAt c.uni f.a.toNat).toNat
    ((∀ v, e = some v → v.2.st ≠ .active) → s.Traps (.standWait f) c (trapMem 9 ((uniAt c.uni f.a.toNat).setWidth 64))) ∧
    (∀ v, e = some v → v.2.st = .active → c.g.fences = [] →
      (v.2.seq ≠ uniAt c.uni f.b.toNat ∨ v.2.resync = true ∨ v.2.lost = true → s.Issues (.standWait f) c y (s.base c)) ∧
      (v.2.seq = uniAt c.uni f.b.toNat ∧ v.2.resync = false ∧ v.2.lost = false →
        s.Issues (.standWait f) c y ((s.base c).putGrp c.w.id
          { c.g with park := .standWait (uniAt c.uni f.a.toNat).toNat (uniAt c.uni f.b.toNat) })))) ∧
  (∀ (f : KF) (s : State) (c : Cx) (y : Bool), s.Selected (.standDrop f) c y → c.ex ≠ [] → goodSlot c (uniAt c.uni f.a.toNat) →
    let e := (s.x.core c.w.die c.w.core).standOf c.w.id (uniAt c.uni f.a.toNat).toNat
    ((∀ v, e = some v → v.2.st ≠ .active) → s.Traps (.standDrop f) c (trapMem 9 ((uniAt c.uni f.a.toNat).setWidth 64))) ∧
    (∀ v, e = some v → v.2.st = .active →
      let w := c.w.tokUp f.x.toNat
      w.qs = c.w.qs.set f.x.toNat ((c.w.qs[f.x.toNat]?).getD 0 + 1) ∧
      s.Issues (.standDrop f) c y (((s.base c).putWg w).dropSlot w c.g.idx v.1 (.standDrop f) c.pc (some f.x.toNat)
        ((s.base c).x.afterOf c.g 5 (maskOf c.ex)))))

/-- Whenever copy is selected and a lane executes it: outside the producer group it traps RIGHTS (NOT_PRODUCER),
then an ill memory range traps MEM (ADDR_RANGE), then a scratchpad range beyond the partition MEM
(SCRATCH_RANGE), source before destination; otherwise it completes, raises its token once and leaves a request
with its five words. Whenever fence is selected it completes: it records the accesses of its predecessor sets
that are not performed, and holds no thread. (10_isa_memory_control: R261, 10_isa_memory_control: R262,
07_ordering: R166, 07_ordering: R168) -/
def Obligations.CopyAndFenceIssue : Prop :=
  (∀ (f : KF) (s : State) (c : Cx) (y : Bool), s.Selected (.copy f) c y →
    let a := uniAt c.uni (f.a.toNat + 1) ++ uniAt c.uni f.a.toNat
    let b := uniAt c.uni (f.a.toNat + 3) ++ uniAt c.uni (f.a.toNat + 2)
    let n := (uniAt c.uni f.b.toNat).toNat
    let k := bits f.f 0 2
    let memBad (va : DWord) : Prop := ¬(canonicalVa va = true ∧ (n = 0 ∨ (va.toNat + n ≤ 2 ^ 64 ∧ canonicalVa (va + BitVec.ofNat 64 (n - 1)) = true)))
    let scrBad (va : DWord) : Prop := c.w.scrSize < va.toNat + n
    let srcMem := k = 0 ∨ k = 2
    let dstMem := k = 1 ∨ k = 2
    (c.ex = [] → s.Issues (.copy f) c y (s.base c)) ∧
    (c.ex ≠ [] →
      (c.g.idx ≠ c.w.producer → s.Traps (.copy f) c (trapRights 1)) ∧
      (c.g.idx = c.w.producer →
        (srcMem ∧ memBad a → s.Traps (.copy f) c (trapMem 4 a)) ∧
        (¬(srcMem ∧ memBad a) ∧ dstMem ∧ memBad b → s.Traps (.copy f) c (trapMem 4 b)) ∧
        (¬(srcMem ∧ memBad a) ∧ ¬(dstMem ∧ memBad b) →
          (¬srcMem ∧ scrBad a → s.Traps (.copy f) c (trapMem 7 a)) ∧
          (¬(¬srcMem ∧ scrBad a) ∧ ¬dstMem ∧ scrBad b → s.Traps (.copy f) c (trapMem 7 b)) ∧
          (¬(¬srcMem ∧ scrBad a) ∧ ¬(¬dstMem ∧ scrBad b) →
            ∃ (t : State) (w : Wg) (r : Req), exec (.copy f) s = .next t ∧ SameOutside s t ∧ t.x.wg? c.w.id = some w ∧
              w.qs = c.w.qs.set f.x.toNat ((c.w.qs[f.x.toNat]?).getD 0 + 1) ∧ w.scratch = c.w.scratch ∧
              r ∈ t.x.reqs ∧ r.id = s.x.nextId ∧ r.ins = .copy f ∧ r.wg = c.w.id ∧ r.tok = some f.x.toNat ∧
              r.ops = [uniAt c.uni f.a.toNat, uniAt c.uni (f.a.toNat + 1), uniAt c.uni (f.a.toNat + 2), uniAt c.uni (f.a.toNat + 3),
                uniAt c.uni f.b.toNat]))))) ∧
  (∀ f : RF, Does (.fence f) (fun s c =>
    let p := s.x.preds c.w c.g f.d (maskOf c.ex) (bits f.b 0 3)
    if p = [] ∨ f.a = 0 then s.putGrp c.w.id c.g
    else s.putGrp c.w.id { c.g with fences := c.g.fences ++ [{ scope := bits f.b 0 3, succ := f.a, lanes := maskOf c.ex, preds := p }] }))

/-- Whenever bra, call, brx, ret or exit is selected: bra and call complete and set the PC of each executing lane to
PC + 4 × off21, leaving its clause, and call sets sp.link to PC + 4; brx and ret set it to the vector pair or to
sp.link, and trap ILLEGAL (BAD_TARGET) with no lane transferred when a target is not a multiple of 4; exit
completes, and the executing lanes are ended and in no mask of their group. (10_isa_memory_control: R263,
10_isa_memory_control: R264, 10_isa_memory_control: R266, 02_execution: R28) -/
def Obligations.TransferResults : Prop :=
  (∀ (f : BF) (s : State) (c : Cx) (y : Bool), s.Selected (.bra f) c y →
    s.Issues (.bra f) c y ((s.base c).putGrp c.w.id (c.g.onLanes c.ex (fun _ t =>
      { t with pc := c.pc + 4 * f.off.signExtend 64, cl := {} })))) ∧
  (∀ (f : BF) (s : State) (c : Cx) (y : Bool), s.Selected (.call f) c y →
    s.Issues (.call f) c y ((s.base c).putGrp c.w.id (c.g.onLanes c.ex (fun _ t =>
      { t with pc := c.pc + 4 * f.off.signExtend 64, cl := {}, link := c.pc + 4 })))) ∧
  (∀ (i : Instr) (target : Lane → DWord),
    ((∃ f, i = .brx f ∧ target = fun t => (t.reg (f.a.toNat + 1)).val ++ (t.reg f.a.toNat).val) ∨ (∃ f, i = .ret f ∧ target = fun t => t.link)) →
    ∀ (s : State) (c : Cx) (y : Bool), s.Selected i c y →
      ((∀ l ∈ c.ex, (target (c.g.lane l)).toNat % 4 = 0) →
        s.Issues i c y ((s.base c).putGrp c.w.id (c.g.onLanes c.ex (fun _ t => { t with pc := target t, cl := {} })))) ∧
      ((∃ l ∈ c.ex, (target (c.g.lane l)).toNat % 4 ≠ 0) → s.Traps i c { cls := 1, code := 9 })) ∧
  (∀ (f : RF) (s : State) (c : Cx) (y : Bool), s.Selected (.exit f) c y → s.Placed c →
    ∃ t g, exec (.exit f) s = .next t ∧ t.mem = s.mem ∧ t.grpOf c = some g ∧
      (∀ l ∈ c.ex, (g.lane l).st = .ended) ∧ (c.ex ≠ [] → ∀ n, g.mreg n &&& maskOf c.ex = 0))

/-- Whenever mjoin, mleave, mwait or mrd is selected it completes, except that mwait in a lane that is no member
traps SYNC (MASK_NOT_MEMBER) and no lane arrives. mjoin sets the bits of the executing lanes; mleave clears them
in the mask and its arrival set; mwait adds them to the arrival set and holds the lanes; after mleave and mwait,
if the mask is not zero and every member has arrived, the arrival set clears and every thread held on the mask
is released; mrd writes the mask as it stood before the clock. (10_isa_memory_control: R267, 02_execution: R38,
07_ordering: R170) -/
def Obligations.MaskResults : Prop :=
  let released (x : Exec) (w : Wg) (g : Group) (n : Nat) : Group :=
    let m := (g.m[n]?).getD 0
    let a := (g.arr[n]?).getD 0
    if m ≠ 0 ∧ a &&& m = m then
      ({ g with arr := g.arr.set n 0, lanes := g.lanes.map (fun (t : Lane) => t.lift (.mask n)) }).addFence 0 0b0000111 a
        (x.preds w g 0b0000111 a 0)
    else g
  (∀ (f : KF) (s : State) (c : Cx) (y : Bool), s.Selected (.mjoin f) c y →
    s.Issues (.mjoin f) c y ((s.base c).putGrp c.w.id
      { c.g with m := c.g.m.set f.x.toNat ((c.g.m[f.x.toNat]?).getD 0 ||| maskOf c.ex) })) ∧
  (∀ f : KF, Does (.mleave f) (fun s c =>
    let k := maskOf c.ex
    s.putGrp c.w.id (released s.x c.w { c.g with
      m := c.g.m.set f.x.toNat ((c.g.m[f.x.toNat]?).getD 0 &&& ~~~k)
      arr := c.g.arr.set f.x.toNat ((c.g.arr[f.x.toNat]?).getD 0 &&& ~~~k) } f.x.toNat))) ∧
  (∀ (f : KF) (s : State) (c : Cx) (y : Bool), s.Selected (.mwait f) c y →
    let k := maskOf c.ex
    let m := (c.g.m[f.x.toNat]?).getD 0
    (c.ex = [] → s.Issues (.mwait f) c y (s.base c)) ∧
    (c.ex ≠ [] → k &&& ~~~m ≠ 0 → s.Traps (.mwait f) c (trapSync 1)) ∧
    (c.ex ≠ [] → k &&& ~~~m = 0 → s.Issues (.mwait f) c y ((s.base c).putGrp c.w.id
      (released (s.base c).x c.w { (c.g.onLanes c.ex (fun _ t => { t with hold := .mask f.x.toNat })) with
        arr := c.g.arr.set f.x.toNat ((c.g.arr[f.x.toNat]?).getD 0 ||| k) } f.x.toNat)))) ∧
  (∀ f : KF, Does (.mrd f) (fun s c =>
    s.putGrp c.w.id (c.g.setUni f.a.toNat [((if c.sl.second then c.sl.preM else c.g.m)[f.x.toNat]?).getD 0])))

/-- Whenever bar.arrive or bar.sync is selected and a lane executes it: another operation than the phase's traps
SYNC (BARRIER_OP_MISMATCH); otherwise it completes, each executing lane arrives with its value folded into the
payload, the accesses it has issued before join those that the phase's end orders, and sync holds the lane with
its destination. If live threads are missing the barrier stands so; if all have arrived the phase bit flips, the
operation clears, and every thread held there is released with the payload in its destination. bar.wait of a
lane that has not arrived traps SYNC (BARRIER_NOT_ARRIVED); otherwise it takes a result that has come, or holds
the lane. (10_isa_memory_control: R268, 10_isa_memory_control: R269, 02_execution: R44, 02_execution: R45,
02_execution: R46) -/
def Obligations.BarrierResults : Prop :=
  let ident (op : Nat) : Word := if op = 0 then 0xFFFFFFFF else 0
  let add (op : Nat) (a v : Word) : Word := if op = 0 then a &&& v else if op = 1 then a ||| v else if op = 2 then a + v
    else if v = 0 then a else a + 1
  (∀ (i : Instr) (f : KF) (sync : Bool), (i = .barArrive f ∧ sync = false) ∨ (i = .barSync f ∧ sync = true) →
    ∀ (s : State) (c : Cx) (y : Bool), s.Selected i c y → f.f.toNat ≤ 3 →
      let b := f.x.toNat
      let op := f.f.toNat
      let r := (c.w.bs[b]?).getD {}
      (c.ex = [] → s.Issues i c y (s.base c)) ∧
      (c.ex ≠ [] → (∃ o, r.op = some o ∧ o ≠ op) → s.Traps i c (trapSync 5)) ∧
      (c.ex ≠ [] → (∀ o, r.op = some o → o = op) →
        let r1 : Barrier := { r with
          op := some op
          part := (c.ex.map (fun l => ((c.g.lane l).reg f.a.toNat).val)).foldl (add op) (if r.op = none then ident op else r.part)
          who := c.ex.foldl (fun t l => cset (32 * c.g.idx + l) .arrived t) r.who
          preds := r.preds ++ ((s.base c).x.preds c.w c.g 0b0000111 (maskOf c.ex) 1).filter (fun i => !r.preds.contains i) }
        let g := if sync then c.g.onLanes c.ex (fun _ t => { t with hold := .barrier b f.b.toNat }) else c.g
        s.Issues i c y ((s.base c).putWg ((s.base c).x.barCheck { c.w.setGrp g with bs := c.w.bs.set b r1 } b)))) ∧
  (∀ (x : Exec) (w : Wg) (b op : Nat), (w.bar b).op = some op →
    ((∃ t ∈ w.liveThreads, cfind t (w.bar b).who ≠ some .arrived) → x.barCheck w b = w) ∧
    (w.liveThreads ≠ [] → (∀ t ∈ w.liveThreads, cfind t (w.bar b).who = some .arrived) → b < w.bs.length →
      ((x.barCheck w b).bar b).phase = !(w.bar b).phase ∧ ((x.barCheck w b).bar b).op = none ∧
      ∀ (j l : Nat) (g : Group) (d : Nat), w.groups[j]? = some g → l ∈ g.live → (g.lane l).hold = .barrier b d →
        ∃ g', (x.barCheck w b).groups[j]? = some g' ∧
          g'.lane l = { ((g.lane l).setReg d { val := (w.bar b).part, tag := if op = 2 then tI32 else if op = 3 then tN32 else tRAW }) with
            hold := .free })) ∧
  (∀ (f : KF) (s : State) (c : Cx) (y : Bool), s.Selected (.barWait f) c y →
    let b := f.x.toNat
    let r := (c.w.bs[b]?).getD {}
    (c.ex = [] → s.Issues (.barWait f) c y (s.base c)) ∧
    (c.ex ≠ [] → (∃ l ∈ c.ex, cfind (32 * c.g.idx + l) r.who = none) → s.Traps (.barWait f) c (trapSync 6)) ∧
    (∀ l, c.ex = [l] → cfind (32 * c.g.idx + l) r.who = some .arrived →
      s.Issues (.barWait f) c y ((s.base c).putWg (c.w.setGrp (c.g.setLane l { c.g.lane l with hold := .barrier b f.b.toNat })))) ∧
    (∀ l v tag p, c.ex = [l] → cfind (32 * c.g.idx + l) r.who = some (.ready v tag p) →
      s.Issues (.barWait f) c y ((s.base c).putWg
        (({ c.w with bs := c.w.bs.set b { r with who := cdel (32 * c.g.idx + l) r.who } } : Wg).setGrp
          ((c.g.setLane l ((c.g.lane l).setReg f.b.toNat { val := v, tag := tag })).addFence 1 0b0000111 (1#32 <<< l) p)))) ∧
    (c.ex ≠ [] → (∀ l ∈ c.ex, cfind (32 * c.g.idx + l) r.who ≠ none) → ∃ t, exec (.barWait f) s = .next t ∧ SameOutside s t))

/-- Whenever sign.decl is selected and a lane executes it: a register being signed or issued traps SYNC; otherwise
it completes and the register holds the declaration of R270, cleared of lanes without a live thread, as
DECLARED, or IDLE when nothing is left; of two declarations of one clock, either one stands. Whenever wait is
selected it completes with no effect beyond issuing, and it is ready for a thread only when each counter is at
most its threshold, or the threshold is 63, and every named token is down. (10_isa_memory_control: R270,
10_isa_memory_control: R271, 02_execution: R39, 02_execution: R48) -/
def Obligations.DeclarationsAndWaits : Prop :=
  (∀ (f : KF) (s : State) (c : Cx) (y : Bool), s.Selected (.signDecl f) c y → f.f.toNat ≤ 1 →
    let n := f.x.toNat
    let st := ((c.w.ks[n]?).getD {}).st
    let m := uniAt c.uni f.a.toNat
    let before (i : Nat) : Nat := ((List.range i).filter (fun k => m.getLsbD k)).length
    let decl := (List.range 32).map (fun i => (if m.getLsbD i then (if f.f = 0 then 0xFFFFFFFF else uniAt c.uni ((f.b.toNat + before i) % 64)) else 0) &&&
      maskOf (((c.w.grp? i).map Group.live).getD []))
    (c.ex = [] → s.Issues (.signDecl f) c y (s.base c)) ∧
    (c.ex ≠ [] → (st = .signing ∨ st = .issuing) → s.Traps (.signDecl f) c (trapSync 2)) ∧
    let k := (c.w.ks[n]?).getD {}
    let k1 : Sign := { st := if decl.all (fun v => v == 0) then .idle else .declared, decl := decl, signed := List.replicate 32 0, declAt := s.x.clk + 1 }
    (c.ex ≠ [] → st ≠ .signing → st ≠ .issuing → k.declAt ≠ s.x.clk + 1 →
      s.Issues (.signDecl f) c y ((s.base c).putWg { c.w with ks := c.w.ks.set n k1 })) ∧
    (c.ex ≠ [] → st ≠ .signing → st ≠ .issuing → k.declAt = s.x.clk + 1 →
      s.Issues (.signDecl f) c y ((s.base c).freeNum.2.putWg { c.w with ks := c.w.ks.set n k }) ∨
      s.Issues (.signDecl f) c y ((s.base c).freeNum.2.putWg { c.w with ks := c.w.ks.set n k1 }))) ∧
  (∀ (f : XF) (s : State) (c : Cx) (y : Bool), s.Selected (.wait f) c y → s.Issues (.wait f) c y (s.base c)) ∧
  (∀ (w : Wg) (g : Group) (f : XF) (hd : Option Clause) (pc : DWord) (l : Nat), g.pendingReg 2 (guardOf (.wait f)) l = false →
    waitsMet w g none (.ok hd pc (.wait f)) l = true ↔ ((g.lane l).pred (guardOf (.wait f)) = false ∨
      ((bits f.c 24 6 = 63 ∨ g.ld ≤ bits f.c 24 6) ∧ (bits f.c 18 6 = 63 ∨ g.stc ≤ bits f.c 18 6) ∧ (bits f.c 12 6 = 63 ∨ g.tl ≤ bits f.c 12 6) ∧
        ∀ q, q < 8 → (f.c.extractLsb' 4 8).getLsbD q = true → (w.qs[q]?).getD 0 = 0)))

/-- Whenever cond.arm is selected and a lane executes it: an ARMED condition traps SYNC (COND_BUSY), a handle
without banks MATRIX (ACC_UNALLOCATED), a handle bound to an ARMED condition MATRIX (HANDLE_SPECULATIVE); with
too few free banks it completes and writes 1 to its status register; otherwise it writes 0, takes one shadow
bank for each band and arms the condition. cond.set on an IDLE condition traps SYNC (COND_IDLE); otherwise it
completes, the condition is IDLE, and a commit gives each band whose shadow was written that shadow while a
discard leaves the bands as they were. (10_isa_memory_control: R272, 10_isa_memory_control: R273,
03_kernel_memory: R75, 02_execution: R50) -/
def Obligations.ConditionResults : Prop :=
  (∀ (f : KF) (s : State) (c : Cx) (y : Bool), s.Selected (.condArm f) c y →
    let n := f.f.toNat
    let h := f.a.toNat
    let bands := (c.w.hs[h]?).getD []
    let armed := ((c.w.cs[n]?).getD {}).armed
    let bound := c.w.cs.any (fun k => k.armed && k.handle == h)
    let k := s.x.core c.w.die c.w.core
    let free := ((List.range 32).map (fun i => 32 * c.w.mctx.getD 0 + i)).filter (fun b => (cfind b k.banks).isNone)
    (c.ex = [] → s.Issues (.condArm f) c y (s.base c)) ∧
    (c.ex ≠ [] → armed = true → s.Traps (.condArm f) c (trapSync 7)) ∧
    (c.ex ≠ [] → armed = false → bands = [] → s.Traps (.condArm f) c (trapMatrix 6)) ∧
    (c.ex ≠ [] → armed = false → bands ≠ [] → bound = true → s.Traps (.condArm f) c (trapMatrix 8)) ∧
    (c.ex ≠ [] → armed = false → bands ≠ [] → bound = false →
      (free.length < bands.length → s.Issues (.condArm f) c y ((s.base c).putGrp c.w.id (c.g.setUni f.b.toNat [1]))) ∧
      (bands.length ≤ free.length → ∃ (t : State) (w : Wg), exec (.condArm f) s = .next t ∧ SameOutside s t ∧ t.x.wg? c.w.id = some w ∧
        w.cs = c.w.cs.set n { armed := true, handle := h, shadows := (free.take bands.length).map (fun b => (b, false)) } ∧ w.hs = c.w.hs ∧
        (∀ b ∈ free.take bands.length, cfind b (t.x.core c.w.die c.w.core).banks = some .held) ∧
        (s.Placed c → ∃ g, t.grpOf c = some g ∧ (f.b.toNat < c.g.s.length → uniAt g.s f.b.toNat = 0))))) ∧
  (∀ (f : KF) (s : State) (c : Cx) (y : Bool), s.Selected (.condSet f) c y →
    let n := f.f.toNat
    let k := (c.w.cs[n]?).getD {}
    let v := uniAt c.uni f.b.toNat
    (c.ex = [] → s.Issues (.condSet f) c y (s.base c)) ∧
    (c.ex ≠ [] → k.armed = false → s.Traps (.condSet f) c (trapSync 8)) ∧
    (c.ex ≠ [] → k.armed = true → ∃ (t : State) (w : Wg), exec (.condSet f) s = .next t ∧ SameOutside s t ∧ t.x.wg? c.w.id = some w ∧
      w.cs = c.w.cs.set n {} ∧
      (v = 0 → k.handle < c.w.hs.length → (w.hs[k.handle]?).getD [] = (c.w.hs[k.handle]?).getD []) ∧
      (v ≠ 0 → k.handle < c.w.hs.length → ∀ (j : Nat) (b : Band), ((c.w.hs[k.handle]?).getD [])[j]? = some b →
        ((w.hs[k.handle]?).getD [])[j]? = some (match k.shadows[j]? with
          | some (sh, true) => { b with bank := sh }
          | _ => b))))

/-- Whenever one of tile.set, acc.alloc, acc.free, acc.band and acc.read is selected and a lane executes it:
tile.set completes with the four uniform words as the descriptor; acc.alloc completes with its status in s[b],
and on OK takes free banks whose bands the group owns; acc.free of a speculative handle traps, and otherwise
completes with the handle empty; acc.band traps for a band the group does not own or a group that is not there,
and otherwise completes with the new owner; acc.read completes and replies with the row's elements tagged F32,
or zero tagged VOID outside the handle. (11_isa_matrix_graphics_system: R276, 11_isa_matrix_graphics_system:
R277, 11_isa_matrix_graphics_system: R278, 11_isa_matrix_graphics_system: R279, 03_kernel_memory: R69,
03_kernel_memory: R71, 03_kernel_memory: R72, 03_kernel_memory: R74) -/
def Obligations.AccumulatorResults : Prop :=
  (∀ f : KF, Does (.tileSet f) (fun s c => s.putWg { c.w with ts := c.w.ts.set f.x.toNat (uniAt c.uni (f.a.toNat + 3) ++ uniAt c.uni (f.a.toNat + 2) ++ uniAt c.uni (f.a.toNat + 1) ++ uniAt c.uni f.a.toNat) })) ∧
  (∀ (f : KF) (s : State) (c : Cx) (y : Bool), s.Selected (.accAlloc f) c y → c.ex ≠ [] → s.Placed c → f.b.toNat < c.g.s.length →
    let h := f.x.toNat
    let n := f.a.toNat
    let k := s.x.core c.w.die c.w.core
    let free := ((List.range 32).map (fun i => 32 * c.w.mctx.getD 0 + i)).filter (fun b => (cfind b k.banks).isNone)
    let status : Word := if (c.w.hs[h]?).getD [] ≠ [] then 2 else if c.w.accMax < (c.w.hs.map (fun b => b.length)).sum + n then 3
      else if free.length < n then 1 else 0
    ∃ t w g, exec (.accAlloc f) s = .next t ∧ SameOutside s t ∧ t.x.wg? c.w.id = some w ∧ t.grpOf c = some g ∧ uniAt g.s f.b.toNat = status ∧
      (status ≠ 0 → w.hs = c.w.hs) ∧
      (status = 0 → w.hs = c.w.hs.set h ((free.take n).map (fun b => { bank := b, owner := c.g.idx, prev := c.g.idx, since := s.x.clk })) ∧
        ∀ b ∈ free.take n, cfind b (t.x.core c.w.die c.w.core).banks = some .held)) ∧
  (∀ (f : KF) (s : State) (c : Cx) (y : Bool), s.Selected (.accFree f) c y → c.ex ≠ [] →
    let h := f.x.toNat
    (c.w.cs.any (fun k => k.armed && k.handle == h) = true → s.Traps (.accFree f) c (trapMatrix 8)) ∧
    (c.w.cs.any (fun k => k.armed && k.handle == h) = false →
      ∃ t w, exec (.accFree f) s = .next t ∧ SameOutside s t ∧ t.x.wg? c.w.id = some w ∧ w.hs = c.w.hs.set h [])) ∧
  (∀ (f : KF) (s : State) (c : Cx) (y : Bool), s.Selected (.accBand f) c y → c.ex ≠ [] →
    let h := f.x.toNat
    let j := if bit f.f 0 then (uniAt c.uni f.a.toNat).toNat else f.a.toNat
    let g := if bit f.f 0 then (uniAt c.uni f.b.toNat).toNat else f.b.toNat
    let owner (b : Band) : Nat := if b.since = s.x.clk then b.prev else b.owner
    (c.w.cs.any (fun k => k.armed && k.handle == h) = true → s.Traps (.accBand f) c (trapMatrix 8)) ∧
    (c.w.cs.any (fun k => k.armed && k.handle == h) = false →
      ((∀ b, ((c.w.hs[h]?).getD [])[j]? = some b → owner b ≠ c.g.idx ∨ c.w.groups[g]? = none) → s.Traps (.accBand f) c (trapMatrix 4)) ∧
      (∀ b, ((c.w.hs[h]?).getD [])[j]? = some b → owner b = c.g.idx → c.w.groups[g]? ≠ none →
        s.Issues (.accBand f) c y ((s.base c).putWg { c.w with
          hs := c.w.hs.set h (((c.w.hs[h]?).getD []).set j { b with owner := g, prev := owner b, since := s.x.clk }) })))) ∧
  (∀ (f : KF) (s : State) (c : Cx) (y : Bool), s.Selected (.accRead f) c y → c.ex ≠ [] → c.g.fences = [] → s.Placed c →
    let row := (uniAt c.uni f.b.toNat).toNat
    let k := s.x.core c.w.die c.w.core
    ∃ t g, exec (.accRead f) s = .next t ∧ SameOutside s t ∧ t.grpOf c = some g ∧ g.ld = c.g.ld + 1 ∧ Awaits g 0 f.a.toNat c s.x.nextId ∧
      ∃ a ∈ t.x.accs, a.id = s.x.nextId ∧ a.kind = .reply ∧ a.res = c.ex.map (fun l =>
        match ((c.w.hs[f.x.toNat]?).getD [])[row / 32]? with
        | none => { kind := 0, lane := l, idx := f.a.toNat, val := 0, tag := tVOID }
        | some b => { kind := 0, lane := l, idx := f.a.toNat, val := k.accGet b.bank row (32 * bits f.f 0 2 + l), tag := tF32 }))

/-- Whenever acc.drain is selected and a lane executes it: a reserved control word traps ILLEGAL (RESERVED_FIELD),
then a speculative handle, a band that is not allocated and a band of another owner trap MATRIX, then a
misaligned base or pitch, a range that is not canonical and one beyond the partition trap MEM; otherwise it
completes, ST rises once, the dither phase advances, and a request carries the four words and the bank of the
band. (11_isa_matrix_graphics_system: R286, 11_isa_matrix_graphics_system: R287, 11_isa_matrix_graphics_system:
R288, 03_kernel_memory: R73) -/
def Obligations.DrainIssue : Prop :=
  ∀ (f : KF) (s : State) (c : Cx) (y : Bool), s.Selected (.accDrain f) c y →
    let h := f.x.toNat
    let mode := bits f.f 0 2
    let base := uniAt c.uni (f.a.toNat + 1) ++ uniAt c.uni f.a.toNat
    let ctl := uniAt c.uni (f.a.toNat + 2)
    let pitch := (uniAt c.uni (f.a.toNat + 3)).toNat
    let n := 31 * pitch + 128 * (if bits ctl 26 2 = 0 then 4 else 2)
    let reserved := 5 < bits ctl 29 3 ∨ bits ctl 26 2 = 3 ∨ (2 ≤ mode ∧ (bits ctl 26 2 = 2 ∨ bits ctl 29 3 ≠ 0 ∨ bit ctl 28 = true))
    let spec := c.w.cs.any (fun k => k.armed && k.handle == h)
    let band := ((c.w.hs[h]?).getD [])[bits ctl 0 5]?
    let owner (b : Band) : Nat := if b.since = s.x.clk then b.prev else b.owner
    (c.ex = [] → s.Issues (.accDrain f) c y (s.base c)) ∧
    (c.ex ≠ [] → reserved → s.Traps (.accDrain f) c trapField) ∧
    (c.ex ≠ [] → ¬reserved → spec = true → s.Traps (.accDrain f) c (trapMatrix 8)) ∧
    (c.ex ≠ [] → ¬reserved → spec = false →
      (band = none → s.Traps (.accDrain f) c (trapMatrix 5)) ∧
      ∀ b, band = some b →
        (owner b ≠ c.g.idx → s.Traps (.accDrain f) c (trapMatrix 4)) ∧
        (owner b = c.g.idx →
          (base.toNat % 4 ≠ 0 ∨ pitch % 4 ≠ 0 → s.Traps (.accDrain f) c (trapMem 5 base)) ∧
          (base.toNat % 4 = 0 → pitch % 4 = 0 →
            (mode % 2 = 1 → rangeOk base n = false → s.Traps (.accDrain f) c (trapMem 4 base)) ∧
            (mode % 2 ≠ 1 → c.w.scrSize < base.toNat + n → s.Traps (.accDrain f) c (trapMem 7 base)) ∧
            ((mode % 2 = 1 → rangeOk base n = true) → (mode % 2 ≠ 1 → base.toNat + n ≤ c.w.scrSize) → s.Placed c →
              ∃ (t : State) (g : Group) (r : Req), exec (.accDrain f) s = .next t ∧ SameOutside s t ∧ t.grpOf c = some g ∧ SameRegs g c.g ∧
                g.stc = c.g.stc + 1 ∧ g.phase = c.g.phase + 1 ∧ r ∈ t.x.reqs ∧ r.id = s.x.nextId ∧ r.ins = .accDrain f ∧ r.wg = c.w.id ∧
                r.bank = b.bank ∧ r.idx = bits ctl 0 5 ∧ r.phase = c.phase ∧
                r.ops = (List.range 4).map (fun i => uniAt c.uni (f.a.toNat + i))))))

/-- Whenever mma, mma.spec or mma.idx is selected and a lane executes it: an IDLE register traps SYNC (SIGN_IDLE), a
lane outside the declared set SYNC (SIGN_NOT_MEMBER), another instruction than the round's MATRIX
(SIGN_MISMATCH), and a first signature makes the checks of R281; otherwise it completes: the executing lanes are
signed, the group's first signature of the round raises TL once, and when the last declared lane has signed and
the queue has a free entry the operation stands at its end and the register is declared again. (02_execution:
R41, 02_execution: R42, 11_isa_matrix_graphics_system: R280, 11_isa_matrix_graphics_system: R281,
11_isa_matrix_graphics_system: R283) -/
def Obligations.SigningResults : Prop :=
  ∀ (i : Instr) (f : TF), i = .mma f ∨ i = .mmaSpec f ∨ i = .mmaIdx f →
    ∀ (s : State) (c : Cx) (y : Bool), s.Selected i c y →
      let n := f.k.toNat
      let k := (c.w.ks[n]?).getD {}
      let m := maskOf c.ex
      let t (j : Nat) : BitVec 128 := (c.w.ts[j]?).getD 0
      let chk := tileCheck i f c.w (t f.tA.toNat) (t f.tB.toNat) (t (f.tA.toNat + 1))
      let old : List Word := if k.st = .declared then List.replicate 32 0 else k.signed
      let new := old.set c.g.idx ((old[c.g.idx]?).getD 0 ||| m)
      let done := ∀ j, j < 32 → (k.decl[j]?).getD 0 &&& ~~~((new[j]?).getD 0) = 0
      let member := m &&& ~~~((k.decl[c.g.idx]?).getD 0) = 0
      (c.ex = [] → s.Issues i c y (s.base c)) ∧
      (c.ex ≠ [] → k.st = .idle → s.Traps i c (trapSync 3)) ∧
      (c.ex ≠ [] → k.st ≠ .idle → ¬member → s.Traps i c (trapSync 4)) ∧
      (c.ex ≠ [] → k.st = .signing → member → k.ins ≠ some i → s.Traps i c (trapMatrix 1)) ∧
      (∀ e, c.ex ≠ [] → k.st = .declared → member → chk = some e → s.Traps i c e) ∧
      (c.ex ≠ [] → member → (k.st = .declared ∧ chk = none) ∨ (k.st = .signing ∧ k.ins = some i) → s.Placed c → n < c.w.ks.length →
        ∃ t w g, exec i s = .next t ∧ SameOutside s t ∧ t.x.wg? c.w.id = some w ∧ t.grpOf c = some g ∧ SameRegs g c.g ∧
          g.tl = (if (old[c.g.idx]?).getD 0 = 0 then c.g.tl + 1 else c.g.tl) ∧
          (¬done → ∃ k', w.ks[n]? = some k' ∧ k'.st = .signing ∧ k'.ins = some i ∧ k'.signed = new ∧ k'.decl = k.decl) ∧
          (done → let q := ((s.x.core c.w.die c.w.core).queueOf (c.w.mctx.getD 0))
            (q.length < 8 → (∃ k', w.ks[n]? = some k' ∧ (k'.st = .declared ∨ k'.st = .idle) ∧ k'.decl = k.decl) ∧
              ∃ o, (t.x.core c.w.die c.w.core).queueOf (c.w.mctx.getD 0) = q ++ [o] ∧ o.ins = i ∧ o.wg = c.w.id ∧ o.handle = f.acc.toNat) ∧
            (8 ≤ q.length → (∃ k', w.ks[n]? = some k' ∧ k'.st = .issuing) ∧
              (t.x.core c.w.die c.w.core).queueOf (c.w.mctx.getD 0) = q)))

/-- Whenever sstep is selected and a lane executes it: outside a cores or mesh launch it traps RIGHTS
(WRONG_LAUNCH); otherwise it completes, each executing lane counts one superstep and is held. Whenever nbr.send
or nbr.reduce is selected and a lane executes it: outside a mesh launch it traps RIGHTS, without a neighbour in
its direction SYNC (NO_NEIGHBOUR), with an address or length that is not a multiple of 128 or a length outside
128 to 65,536 MEM (NBR_OPERAND), beyond the partition MEM (SCRATCH_RANGE); otherwise it completes, raises ST
once and leaves a request with its three words. (11_isa_matrix_graphics_system: R302,
11_isa_matrix_graphics_system: R303, 11_isa_matrix_graphics_system: R304, 05_tensor_mesh: R132, 05_tensor_mesh:
R134, 02_execution: R52) -/
def Obligations.MeshRequestsIssue : Prop :=
  (∀ (f : RF) (s : State) (c : Cx) (y : Bool), s.Selected (.sstep f) c y →
    (c.ex = [] → s.Issues (.sstep f) c y (s.base c)) ∧
    (c.ex ≠ [] → c.w.cores = false → s.Traps (.sstep f) c (trapRights 2)) ∧
    (c.ex ≠ [] → c.w.cores = true → s.Placed c → ∃ t g, exec (.sstep f) s = .next t ∧ SameOutside s t ∧ t.grpOf c = some g ∧
      ∀ l ∈ c.ex, g.lane l = { c.g.lane l with sstN := (c.g.lane l).sstN + 1, hold := .superstep })) ∧
  (∀ (i : Instr) (f : KF), i = .nbrSend f ∨ i = .nbrReduce f → ∀ (s : State) (c : Cx) (y : Bool), s.Selected i c y →
    let src := uniAt c.uni f.a.toNat
    let dst := uniAt c.uni (f.a.toNat + 1)
    let len := uniAt c.uni (f.a.toNat + 2)
    let n := len.toNat
    let bad := src.toNat % 128 ≠ 0 ∨ dst.toNat % 128 ≠ 0 ∨ n % 128 ≠ 0 ∨ n < 128 ∨ 65536 < n
    (c.ex = [] → s.Issues i c y (s.base c)) ∧
    (c.ex ≠ [] → (s.launch? c.w.launch = none ∨ c.w.meshl = false) → s.Traps i c (trapRights 2)) ∧
    (∀ l, c.ex ≠ [] → s.launch? c.w.launch = some l → c.w.meshl = true →
      (nbrPos l.ring c.w.ring f.x.toNat = none → s.Traps i c (trapSync 9)) ∧
      (∀ p, nbrPos l.ring c.w.ring f.x.toNat = some p →
        (bad → s.Traps i c (trapMem 10 (src.setWidth 64))) ∧
        (¬bad → c.w.scrSize < src.toNat + n → s.Traps i c (trapMem 7 (src.setWidth 64))) ∧
        (¬bad → src.toNat + n ≤ c.w.scrSize → c.w.scrSize < dst.toNat + n → s.Traps i c (trapMem 7 (dst.setWidth 64))) ∧
        (¬bad → src.toNat + n ≤ c.w.scrSize → dst.toNat + n ≤ c.w.scrSize → s.Placed c →
          ∃ (t : State) (g : Group) (r : Req), exec i s = .next t ∧ SameOutside s t ∧ t.grpOf c = some g ∧ SameRegs g c.g ∧ g.stc = c.g.stc + 1 ∧
            r ∈ t.x.reqs ∧ r.id = s.x.nextId ∧ r.ins = i ∧ r.wg = c.w.id ∧ r.ops = [src, dst, len] ∧ r.sst = c.w.sstArr)))) ∧
  (∀ (old v : Word), bankOp 0 old v = old + v ∧ bankOp 1 old v = (if old.toInt ≤ v.toInt then old else v) ∧
    bankOp 2 old v = (if old.toInt ≤ v.toInt then v else old) ∧ bankOp 3 old v = (if old.toNat ≤ v.toNat then old else v) ∧
    bankOp 4 old v = (if old.toNat ≤ v.toNat then v else old) ∧ bankOp 5 old v = old &&& v ∧ bankOp 6 old v = old ||| v ∧
    bankOp 7 old v = old ^^^ v ∧ bankOp 8 old v = BitVec.ofNat 32 (sumIn fp32 0 false old.toNat v.toNat).1)

/-- Whenever bde.gather, bde.reduce or bde.cvt is selected and a lane executes it: outside the producer group it
traps RIGHTS (NOT_PRODUCER), then a reserved operand value ILLEGAL (RESERVED_FIELD), then a misaligned or
overlong operand or an ill range MEM (ADDR_RANGE), then pages of different homes MEM (BDE_HOME), its pages being
translated at issue and a first-touch page bound; otherwise it completes, raises its token once and leaves a
request with the words of its two uniform groups, and bde.cvt advances the dither phase unless a write of
sp.dphase in the same clock does. (11_isa_matrix_graphics_system: R305, 11_isa_matrix_graphics_system: R306,
11_isa_matrix_graphics_system: R307, 11_isa_matrix_graphics_system: R308, 05_tensor_mesh: R139) -/
def Obligations.EngineRequestsIssue : Prop :=
  ∀ (i : Instr) (f : KF) (fields align : List Word → Bool) (ranges : List Word → List MRange),
    ((i = .bdeGather f ∧ fields = (fun _ => true) ∧ align = gatherAlign ∧ ranges = gatherRanges f) ∨
      (i = .bdeReduce f ∧ fields = (fun o => decide (reduceTy o ≤ 3)) ∧ align = reduceAlign ∧ ranges = reduceRanges) ∨
      (i = .bdeCvt f ∧ fields = cvtFields ∧ align = cvtAlign ∧ ranges = cvtRanges)) →
    ∀ (s : State) (c : Cx) (y : Bool), s.Selected i c y →
      let ops := (List.range 4).map (fun j => uniAt c.uni (f.a.toNat + j)) ++ (List.range 4).map (fun j => uniAt c.uni (f.b.toNat + j))
      (c.ex = [] → s.Issues i c y (s.base c)) ∧
      (c.ex ≠ [] → c.g.idx ≠ c.w.producer → s.Traps i c (trapRights 1)) ∧
      (c.ex ≠ [] → c.g.idx = c.w.producer → fields ops = false → s.Traps i c trapField) ∧
      (c.ex ≠ [] → c.g.idx = c.w.producer → fields ops = true → align ops = false → s.Traps i c (trapMem 4 (opP ops 0))) ∧
      (c.ex ≠ [] → c.g.idx = c.w.producer → fields ops = true → align ops = true →
        (∀ r, (ranges ops).find? (fun r => !rangeOk r.1 r.2.1) = some r → s.Traps i c (trapMem 4 r.1)) ∧
        ((∀ r ∈ ranges ops, rangeOk r.1 r.2.1 = true) →
          let h := (s.base c).homesOf c.w.die c.w.asid (ranges ops)
          (oneHome h.2 = false → s.Traps i c (trapMem 11 (opP ops 0))) ∧
          (oneHome h.2 = true → s.Placed c →
            ∃ (t : State) (w : Wg) (g : Group) (r : Req), exec i s = .next t ∧ t.mem = h.1.mem ∧ t.host = h.1.host ∧ t.pkg = s.pkg ∧ t.x.wg? c.w.id = some w ∧
              w.qs = c.w.qs.set f.x.toNat ((c.w.qs[f.x.toNat]?).getD 0 + 1) ∧ t.grpOf c = some g ∧
              g.phase = (if i = .bdeCvt f ∧ c.phaseSet = false then c.g.phase + 1 else c.g.phase) ∧
              r ∈ t.x.reqs ∧ r.id = h.1.x.nextId ∧ r.ins = i ∧ r.wg = c.w.id ∧ r.tok = some f.x.toNat ∧ r.ops = ops ∧ r.phase = c.phase)))

/-- Whenever sreg.rd is selected and a lane executes it, it completes and writes the register of R313, to a vector
register or pair in each lane with its tag, or once to a uniform register or pair. sreg.wr of sp.fmode writes
its defined bits, of sp.dphase five bits, of sp.link each executing lane's pair; of any other register it traps
RIGHTS (PRIVILEGED). (11_isa_matrix_graphics_system: R313, 11_isa_matrix_graphics_system: R314, 06_numbers:
R150, 09_isa_arith: R207) -/
def Obligations.SpecialRegisterResults : Prop :=
  let val (s : State) (c : Cx) (l n : Nat) : Option DWord :=
    ([(0x00, BitVec.ofNat 64 (32 * c.g.idx + l)), (0x01, BitVec.ofNat 64 l), (0x02, BitVec.ofNat 64 c.g.idx), (0x03, BitVec.ofNat 64 c.w.index),
      (0x04, BitVec.ofNat 64 c.w.groups.length), (0x05, BitVec.ofNat 64 c.w.nwg), (0x06, BitVec.ofNat 64 c.w.lcore), (0x07, BitVec.ofNat 64 c.w.lx),
      (0x08, BitVec.ofNat 64 c.w.ly), (0x09, BitVec.ofNat 64 c.w.ring), (0x0A, BitVec.ofNat 64 c.w.nring), (0x0B, BitVec.ofNat 64 (c.g.lane l).sstDone),
      (0x10, c.fmode.setWidth 64), (0x12, (c.g.lane l).link), (0x13, BitVec.ofNat 64 s.time),
      (0x14, if c.g.handler then c.g.ecause.setWidth 64 else 0), (0x15, if c.g.handler then (c.g.lane l).epc else 0),
      (0x16, if c.g.handler then c.g.eaddr else 0), (0x17, if c.g.handler then c.g.eskid.setWidth 64 else 0)] : List (Nat × DWord)).lookup n
  let wide (n : Nat) : Prop := n = 0x12 ∨ n = 0x13 ∨ n = 0x15 ∨ n = 0x16
  (∀ (f : KF) (s : State) (c : Cx) (y : Bool), s.Selected (.sregRd f) c y → c.ex ≠ [] → ∀ v : Nat → DWord,
    (∀ l, val (s.base c) c l f.b.toNat = some (v l)) →
    (bit f.f 0 = true → s.Issues (.sregRd f) c y ((s.base c).putGrp c.w.id (c.g.setUni f.a.toNat
      (if wide f.b.toNat then [(v 0).extractLsb' 0 32, (v 0).extractLsb' 32 32] else [(v 0).extractLsb' 0 32])))) ∧
    (bit f.f 0 = false → s.Issues (.sregRd f) c y ((s.base c).putGrp c.w.id (c.g.putVec c.ex f.a.toNat (fun l =>
      let tag := if f.b.toNat = 0x10 then tRAW else tN32
      if wide f.b.toNat then [{ val := (v l).extractLsb' 0 32, tag := tag }, { val := (v l).extractLsb' 32 32, tag := tag }]
      else [{ val := (v l).extractLsb' 0 32, tag := tag }]))))) ∧
  (∀ (f : KF) (s : State) (c : Cx) (y : Bool), s.Selected (.sregRd f) c y → ∃ t, exec (.sregRd f) s = .next t ∧ SameOutside s t) ∧
  (∀ f : KF, f.b = 0x10 → Does (.sregWr f) (fun s c => s.putGrp c.w.id (c.g.withFmode (uniAt c.uni f.a.toNat &&& 0x1F1F)))) ∧
  (∀ f : KF, f.b = 0x11 → Does (.sregWr f) (fun s c => s.putGrp c.w.id { c.g with phase := (uniAt c.uni f.a.toNat).extractLsb' 0 5 })) ∧
  (∀ f : KF, f.b = 0x12 → Does (.sregWr f) (fun s c => s.putGrp c.w.id (c.g.onLanes c.ex (fun _ t =>
    { t with link := if bit f.f 0 then uniAt c.uni (f.a.toNat + 1) ++ uniAt c.uni f.a.toNat
        else (t.reg (f.a.toNat + 1)).val ++ (t.reg f.a.toNat).val })))) ∧
  (∀ (f : KF) (s : State) (c : Cx) (y : Bool), s.Selected (.sregWr f) c y → c.ex ≠ [] → f.b ≠ 0x10 → f.b ≠ 0x11 → f.b ≠ 0x12 →
    s.Traps (.sregWr f) c (trapRights 3))

/-- Whenever trap or brk is selected and a lane executes it, it takes SYS (0x800 + n) or DEBUG (BREAKPOINT) with its
number, after the instruction. sys completes, holds its executing lanes and queues one record with its number,
group and four words for the event ring of the launch. eret outside a handler traps RIGHTS (PRIVILEGED); in a
handler it completes and each executing lane stands at its resume point with its saved clause position,
predicates and hold. nop completes with no effect beyond issuing. (11_isa_matrix_graphics_system: R309,
11_isa_matrix_graphics_system: R310, 11_isa_matrix_graphics_system: R311, 11_isa_matrix_graphics_system: R312,
19_traps_freeze: R406) -/
def Obligations.SystemInstructionResults : Prop :=
  (∀ (f : IF) (s : State) (c : Cx) (y : Bool), s.Selected (.trap f) c y → c.ex ≠ [] →
    s.Traps (.trap f) c { cls := 10, code := 0x800 + f.imm.toNat, n := f.imm.toNat, after := true }) ∧
  (∀ (f : IF) (s : State) (c : Cx) (y : Bool), s.Selected (.brk f) c y → c.ex ≠ [] →
    s.Traps (.brk f) c { cls := 9, code := 1, n := f.imm.toNat, after := true }) ∧
  (∀ (f : IF) (s : State) (c : Cx) (y : Bool), s.Selected (.sys f) c y → c.ex ≠ [] → s.Placed c →
    ∃ (t : State) (g : Group) (r : PendRec), exec (.sys f) s = .next t ∧ SameOutside s t ∧ t.grpOf c = some g ∧ SameRegs g c.g ∧
      (∀ l ∈ c.ex, (g.lane l).hold = .sys s.x.nextId) ∧ t.sch.pend = s.sch.pend ++ [r] ∧ r.wake = some (c.w.id, c.g.idx, s.x.nextId) ∧
      r.ring = ctxRing c.w.asid (((s.launch? c.w.launch).map (fun l => l.evr)).getD 0) ∧
      (r.body.extractLsb' 64 8).toNat = 9 ∧ (r.body.extractLsb' 72 10) = f.imm ∧ (r.body.extractLsb' 82 5).toNat = c.g.idx % 32 ∧
      r.body.extractLsb' 128 32 = uniAt c.uni f.a.toNat ∧ r.body.extractLsb' 160 32 = uniAt c.uni (f.a.toNat + 1) ∧
      r.body.extractLsb' 192 32 = uniAt c.uni (f.a.toNat + 2) ∧ r.body.extractLsb' 224 32 = uniAt c.uni (f.a.toNat + 3)) ∧
  (∀ (f : RF) (s : State) (c : Cx) (y : Bool), s.Selected (.eret f) c y → c.ex ≠ [] →
    (c.g.handler = false → s.Traps (.eret f) c (trapRights 3)) ∧
    (c.g.handler = true → s.Placed c → ∃ t g, exec (.eret f) s = .next t ∧ SameOutside s t ∧ t.grpOf c = some g ∧
      ∀ l ∈ c.ex, (g.lane l).inH = false ∧ (g.lane l).pc = (c.g.lane l).resPc ∧ (g.lane l).cl = (c.g.lane l).resCl ∧
        (g.lane l).p = (c.g.lane l).resP ∧ (g.lane l).hold = (c.g.lane l).resHold ∧ (g.lane l).v = (c.g.lane l).v ∧
        (g.lane l).link = (c.g.lane l).link)) ∧
  (∀ (f : RF) (s : State) (c : Cx) (y : Bool), s.Selected (.nop f) c y → s.Issues (.nop f) c y (s.base c))

/-- Whenever a graphics emit, an occlusion marker or a pixel instruction is selected and a lane executes it: in
another stage it traps GFX (WRONG_STAGE) and past its limits the trap of its rule; otherwise it completes.
task.amp places one child with the next emit number, or parks its group; prim.emit sends one packet for each
executing lane to each owner of its regions; occ.begin opens a query, sends 0 to the home of its cell and a
marker to every owner, unless the stream has 256 open queries or the cell is open in a pass of the context, and
occ.end marks the query ended and sends its marker to every owner; px.discard ends its fragments and threads;
px.depth keeps the clamped depth of each lane. (11_isa_matrix_graphics_system: R290,
11_isa_matrix_graphics_system: R291, 11_isa_matrix_graphics_system: R292, 11_isa_matrix_graphics_system: R293,
11_isa_matrix_graphics_system: R294, 04_render_mesh: R99, 04_render_mesh: R101, 04_render_mesh: R103,
04_render_mesh: R119) -/
def Obligations.GraphicsEmits : Prop :=
  (∀ (f : KF) (s : State) (c : Cx) (y : Bool), s.Selected (.taskAmp f) c y → c.ex ≠ [] →
    let words := (List.range 16).map (fun l => if l ∈ c.ex then ((c.g.lane l).reg f.a.toNat).val else 0)
    let k := s.gdie c.w.die
    let ring := k.ring.filter (fun x => x.launch == c.w.launch)
    let mine := ring.length
    let cap := ((s.launch? c.w.launch).map (fun l => 2 ^ bits l.pkt (8 * 88 + 9) 5)).getD 0
    let ch : Child := { launch := c.w.launch, task := c.w.task, emit := c.w.emits, words := words }
    (c.w.stage ≠ 1 → s.Traps (.taskAmp f) c (trapGfx 9)) ∧
    (c.w.stage = 1 → c.w.ampMax ≤ c.w.emits → s.Traps (.taskAmp f) c (trapGfx 1)) ∧
    (c.w.stage = 1 → c.w.emits < c.w.ampMax →
      (k.amp.length < 8192 ∧ mine = 0 → ∃ t w, exec (.taskAmp f) s = .next t ∧ t.mem = s.mem ∧ t.x.wg? c.w.id = some w ∧ w.emits = c.w.emits + 1 ∧
        (t.gdie c.w.die) = { k with amp := k.amp ++ [ch] }) ∧
      (¬(k.amp.length < 8192 ∧ mine = 0) → ∀ l, s.launch? c.w.launch = some l → mine < cap →
        let n := match ring.getLast? with
          | some r => (match r.slot with
            | some j => (j + 1) % cap
            | none => 0)
          | none => 0
        let u := (s.base c).ringPut c.w.die l.asid (l.ampVa c.w.die n) (recBytes words)
        ∃ t w, exec (.taskAmp f) s = .next t ∧ t.mem = u.mem ∧ t.host = u.host ∧ t.x.wg? c.w.id = some w ∧
        w.emits = c.w.emits + 1 ∧ (t.gdie c.w.die) = { k with ring := k.ring ++ [{ ch with slot := some n }] }) ∧
      (¬(k.amp.length < 8192 ∧ mine = 0) → cap ≤ mine → s.Placed c → ∃ t g, exec (.taskAmp f) s = .next t ∧ SameOutside s t ∧
        t.grpOf c = some g ∧ g.park = .amp words c.w.emits ∧ g.stc = c.g.stc + 1))) ∧
  (∀ (f : KF) (s : State) (c : Cx) (y : Bool), s.Selected (.primEmit f) c y → c.ex ≠ [] →
    let v (l : Nat) : Word := ((c.g.lane l).reg f.a.toNat).val
    let idx (l : Nat) : List Nat := [bits (v l) 0 8, bits (v l) 8 8, bits (v l) 16 8]
    let base := (uniAt c.uni (4 * f.x.toNat + 2)).toNat
    let attr := uniAt c.uni (4 * f.x.toNat + 1) ++ uniAt c.uni (4 * f.x.toNat)
    let verts (l : Nat) : List Word := (idx l).flatMap (fun i => (List.range 3).map (fun j => BitVec.ofNat 32 (((s.base c).scratchAhead c.w c.g.idx).num (base + 16 * i + 4 * j) 4)))
    let tooMany := (∃ l ∈ c.ex, ∃ i ∈ idx l, c.w.vmax ≤ i) ∨ c.w.pmax < c.w.prims + c.ex.length
    let send (p : Pass) : List (Nat × Nat × GMsgK) := (c.ex.mapIdx (fun k l =>
      let n := c.w.prims + k
      let tok := tokenOf c.w.draw c.w.task c.w.mesh n
      (p.route (verts l) (bit (v l) 24) (bit (v l) 25)).map (fun d => (c.w.die, d, GMsgK.pkt { pass := p.id, stream := c.w.stream, token := tok, k := .prim (packetOf tok (verts l) ((c.g.lane l).reg f.b.toNat).val (bits (v l) 24 2) (attr + BitVec.ofNat 64 (64 * n)) c.w.stream) })))).flatten
    let full (p : Pass) : Prop := ∃ d ∈ p.active, (s.base c).storeRoom p d < ((send p).filter (fun m => m.2.1 == d)).length
    (c.w.stage ≠ 1 → c.w.stage ≠ 2 → s.Traps (.primEmit f) c (trapGfx 9)) ∧
    (c.w.stage = 1 ∨ c.w.stage = 2 → tooMany → s.Traps (.primEmit f) c (trapGfx 2)) ∧
    (c.w.stage = 1 ∨ c.w.stage = 2 → ¬tooMany → (∀ l ∈ c.ex, ∀ i ∈ idx l, base + 16 * i + 12 ≤ c.w.scrSize) →
      ∀ p, c.w.passId.bind s.pass? = some p →
        (full p → s.Traps (.primEmit f) c (trapGfx 3)) ∧
        (¬full p → ∃ t w, exec (.primEmit f) s = .next t ∧ t.mem = s.mem ∧ t.x.wg? c.w.id = some w ∧ w.prims = c.w.prims + c.ex.length ∧
          t.gfx.net.map (fun m => (m.src, m.dst, m.k)) = s.gfx.net.map (fun m => (m.src, m.dst, m.k)) ++ send p))) ∧
  (∀ (i : Instr) (f : KF) (isEnd : Bool), (i = .occBegin f ∧ isEnd = false) ∨ (i = .occEnd f ∧ isEnd = true) →
    ∀ (s : State) (c : Cx) (y : Bool), s.Selected i c y → c.ex ≠ [] →
      let va := uniAt c.uni (f.a.toNat + 1) ++ uniAt c.uni f.a.toNat
      let mark (p : Pass) : List (Nat × Nat × GMsgK) := p.active.map (fun d => (c.w.die, d, .pkt { pass := p.id, stream := c.w.stream, token := tokenOf c.w.draw c.w.task c.w.mesh c.w.prims, k := if isEnd then .occEnd va.toNat else .occBegin va.toNat }))
      let isOpen (p : Pass) : Prop := ∃ r ∈ s.gfx.passes, r.asid = p.asid ∧ r.ended = false ∧ ∃ q ∈ r.opened, q.2.1 = va.toNat
      (c.w.stage ≠ 1 → c.w.stage ≠ 2 → s.Traps i c (trapGfx 9)) ∧
      (c.w.stage = 1 ∨ c.w.stage = 2 → va.toNat % 4 ≠ 0 → s.Traps i c (trapMem 5 va)) ∧
      (c.w.stage = 1 ∨ c.w.stage = 2 → va.toNat % 4 = 0 → ∀ p, c.w.passId.bind s.pass? = some p →
        (isEnd = false → 256 ≤ (p.opened.filter (fun q => q.1 == c.w.stream)).length → s.Traps i c (trapGfx 6)) ∧
        (isEnd = false → (p.opened.filter (fun q => q.1 == c.w.stream)).length < 256 → isOpen p → s.Traps i c (trapGfx 7)) ∧
        (isEnd = false → (p.opened.filter (fun q => q.1 == c.w.stream)).length < 256 → ¬isOpen p →
          ∃ t p' h, exec i s = .next t ∧ t.x.reqs = s.x.reqs ∧ t.pass? p.id = some p' ∧ p'.opened = p.opened ++ [(c.w.stream, va.toNat, 0)] ∧
            t.gfx.net.map (fun m => (m.src, m.dst, m.k)) = s.gfx.net.map (fun m => (m.src, m.dst, m.k)) ++ [(c.w.die, h, .contrib p.id va.toNat 0 0 c.w.asid (pageOf va))] ++ mark p ∧
            ∀ e, s.walk c.w.die c.w.asid (BitVec.ofNat 64 va.toNat) = .ok e → t.mem = s.mem ∧ t.host = s.host ∧
              h = (if pteLoc e.pte = false ∧ paDev (pteFrame e.pte) = s.pkg.dev ∧ pteHome e.pte < 48 then pteHome e.pte else c.w.die)) ∧
        (isEnd = true →
          ∃ t p', exec i s = .next t ∧ t.mem = s.mem ∧ t.x.reqs = s.x.reqs ∧ t.pass? p.id = some p' ∧
            p'.opened = updFirst (fun (q : Nat × Nat × Nat) => q.1 == c.w.stream && q.2.1 == va.toNat) (fun q => (q.1, q.2.1, 1)) p.opened ∧
            t.gfx.net.map (fun m => (m.src, m.dst, m.k)) = s.gfx.net.map (fun m => (m.src, m.dst, m.k)) ++ mark p))) ∧
  (∀ (f : RF) (s : State) (c : Cx) (y : Bool), s.Selected (.pxDiscard f) c y → c.ex ≠ [] →
    (c.w.stage ≠ 3 → s.Traps (.pxDiscard f) c (trapGfx 9)) ∧
    (c.w.stage = 3 → c.w.nd = true → s.Traps (.pxDiscard f) c (trapGfx 4)) ∧
    (c.w.stage = 3 → c.w.nd = false → s.Placed c → ∃ t g, exec (.pxDiscard f) s = .next t ∧ t.mem = s.mem ∧ t.grpOf c = some g ∧
      (∀ l ∈ c.ex, (g.lane l).st = .ended))) ∧
  (∀ (f : RF) (s : State) (c : Cx) (y : Bool), s.Selected (.pxDepth f) c y → c.ex ≠ [] →
    (c.w.stage ≠ 3 → s.Traps (.pxDepth f) c (trapGfx 9)) ∧
    (c.w.stage = 3 → c.w.dw = false → s.Traps (.pxDepth f) c (trapGfx 5)) ∧
    (c.w.stage = 3 → c.w.dw = true → s.Issues (.pxDepth f) c y ((s.base c).putGrp c.w.id (c.g.onLanes c.ex (fun _ t =>
      let v := (t.reg f.a.toNat).val
      { t with px := some (if bits v 23 8 = 255 ∧ bits v 0 23 ≠ 0 then 0x3F800000 else if bit v 31 then 0 else if v.toNat > 0x3F800000 then 0x3F800000 else v) })))))

/-- Whenever tst.box or tst.tri is selected, a node address that is not canonical traps MEM (ADDR_RANGE), and
otherwise it completes as one load of 128 or 64 bytes at each lane's node address with the ray as operands.
stk.push on stacks that are not full completes and writes each executing lane's pair at its slot and nothing
else, or leaves it to an access behind older ones of the scratchpad that are held; stk.pop of stacks that are
not empty completes and replies with the newest pair. rec.push outside a graph traps GFX, and otherwise
completes with its record at the head of the deque while the chip part has room; rec.pop completes with a reply
of the record it takes. (11_isa_matrix_graphics_system: R296, 11_isa_matrix_graphics_system: R299,
11_isa_matrix_graphics_system: R300, 11_isa_matrix_graphics_system: R301, 04_render_mesh: R120, 04_render_mesh:
R121) -/
def Obligations.TraversalAndGraphs : Prop :=
  (∀ (i : Instr) (f : XF) (n : Nat), (i = .tstBox f ∧ n = 128) ∨ (i = .tstTri f ∧ n = 64) → ∀ (s : State) (c : Cx) (y : Bool), s.Selected i c y →
    let r := bits f.c 25 7
    let va (l : Nat) : DWord := if bit f.c 24 then uniAt c.uni (r + 1) ++ uniAt c.uni r else ((c.g.lane l).reg (r + 1)).val ++ ((c.g.lane l).reg r).val
    (c.ex = [] → s.Issues i c y (s.base c)) ∧
    (∀ l, c.ex.find? (fun l => !canonicalRange (va l) n) = some l → s.Traps i c (trapMem 4 (va l))) ∧
    (c.ex ≠ [] → (∀ l ∈ c.ex, canonicalRange (va l) n = true) → s.Placed c →
      ∃ t g, exec i s = .next t ∧ SameOutside s t ∧ t.Sent s.x.nextId i c .load n va (fun l => groupWords f.a 4 c l ++ groupWords f.b 4 c l) ∧
        t.grpOf c = some g ∧ SameRegs g c.g ∧ g.ld = c.g.ld + 1 ∧ ∀ j, j < 4 → Awaits g 0 (f.d.toNat + j) c s.x.nextId)) ∧
  (∀ (f : KF) (s : State) (c : Cx) (y : Bool), s.Selected (.stkPush f) c y → c.ex ≠ [] →
    let slot (l : Nat) : Nat := c.w.stkBase + 256 * ((c.g.lane l).top % 64) + 8 * l
    (c.w.scrSize < c.w.stkBase + 16384 → s.Traps (.stkPush f) c (trapMem 7 (BitVec.ofNat 64 c.w.stkBase))) ∧
    (c.w.stkBase + 16384 ≤ c.w.scrSize → (∃ l ∈ c.ex, (c.g.lane l).stk = 64 ∧ c.w.spillN < (c.g.lane l).spilled + 32) → s.Traps (.stkPush f) c (trapGfx 8)) ∧
    (c.w.stkBase + 16384 ≤ c.w.scrSize → (∀ l ∈ c.ex, (c.g.lane l).stk < 64) → (∀ l ∈ c.ex, l < 32) → c.ex.Nodup → s.Placed c → (s.base c).x.scratchHeld c.w.id c.g.idx = false →
      ∃ t v g, exec (.stkPush f) s = .next t ∧ SameOutside s t ∧ t.x.wg? c.w.id = some v ∧ t.grpOf c = some g ∧
        (∀ l ∈ c.ex, g.lane l = { c.g.lane l with stk := (c.g.lane l).stk + 1, top := ((c.g.lane l).top + 1) % 64 }) ∧
        (∀ l ∈ c.ex, v.scratch.num (slot l) 4 = ((c.g.lane l).reg f.a.toNat).val.toNat ∧ v.scratch.num (slot l + 4) 4 = ((c.g.lane l).reg (f.a.toNat + 1)).val.toNat) ∧
        ∀ a, (∀ l ∈ c.ex, ¬(slot l ≤ a ∧ a < slot l + 8)) → v.scratch.get a = c.w.scratch.get a) ∧
    (c.w.stkBase + 16384 ≤ c.w.scrSize → (∀ l ∈ c.ex, (c.g.lane l).stk < 64) → s.Placed c → (s.base c).x.scratchHeld c.w.id c.g.idx = true →
      ∃ t v, exec (.stkPush f) s = .next t ∧ SameOutside s t ∧ t.x.wg? c.w.id = some v ∧ v.scratch = c.w.scratch ∧
        ∃ a ∈ t.x.accs, a.id = s.x.nextId ∧ a.ins = .stkPush f)) ∧
  (∀ (f : KF) (s : State) (c : Cx) (y : Bool), s.Selected (.stkPop f) c y → c.ex ≠ [] →
    let slot (l : Nat) : Nat := c.w.stkBase + 256 * (((c.g.lane l).top + 63) % 64) + 8 * l
    (c.w.scrSize < c.w.stkBase + 16384 → s.Traps (.stkPop f) c (trapMem 7 (BitVec.ofNat 64 c.w.stkBase))) ∧
    (c.w.stkBase + 16384 ≤ c.w.scrSize → (∀ l ∈ c.ex, (c.g.lane l).stk ≠ 0) → s.Placed c → (s.base c).x.scratchHeld c.w.id c.g.idx = false →
      ∃ t g, exec (.stkPop f) s = .next t ∧ SameOutside s t ∧ t.grpOf c = some g ∧ g.ld = c.g.ld + 1 ∧
        (∀ l ∈ c.ex, g.lane l = { c.g.lane l with stk := (c.g.lane l).stk - 1, top := ((c.g.lane l).top + 63) % 64 }) ∧
        ∃ a ∈ t.x.accs, a.id = s.x.nextId ∧ a.kind = .reply ∧ a.res = c.ex.map (fun l => { kind := 2, lane := l, idx := f.x.toNat, val := 1 }) ++ c.ex.flatMap (fun l =>
          [{ kind := 0, lane := l, idx := f.a.toNat, val := BitVec.ofNat 32 (c.w.scratch.num (slot l) 4), tag := tRAW },
            { kind := 0, lane := l, idx := f.a.toNat + 1, val := BitVec.ofNat 32 (c.w.scratch.num (slot l + 4) 4), tag := tRAW }]))) ∧
  (∀ (f : KF) (s : State) (c : Cx) (y : Bool), s.Selected (.recPush f) c y → c.ex ≠ [] →
    let words := (List.range 16).map (fun l => if l ∈ c.ex then ((c.g.lane l).reg f.a.toNat).val else 0)
    let k := s.x.core c.w.die c.w.core
    ((s.base c).graphOf c.w = none → s.Traps (.recPush f) c (trapGfx 10)) ∧
    (∀ gr, (s.base c).graphOf c.w = some gr → k.deque.length < 512 →
      ∃ t, exec (.recPush f) s = .next t ∧ SameOutside s t ∧ (t.x.core c.w.die c.w.core).deque =
        { graph := gr, pass := c.w.passId, words := words, id := s.x.nextId } :: k.deque)) ∧
  (∀ (f : KF) (s : State) (c : Cx) (y : Bool), s.Selected (.recPop f) c y → c.ex ≠ [] →
    let calm := ∀ w ∈ s.x.wgs, ∀ g ∈ w.groups, ∀ ws n, g.park ≠ .recPush ws n
    ((s.base c).graphOf c.w = none → s.Traps (.recPop f) c (trapGfx 10)) ∧
    (∀ gr r, (s.base c).graphOf c.w = some gr → ((s.base c).recs c.w.die c.w.core gr).head? = some r → bit ((r.words[1]?).getD 0) 0 = false →
      ∃ t, exec (.recPop f) s = .next t ∧ (calm → t.mem = s.mem) ∧ ∃ a ∈ t.x.accs, a.id = s.x.nextId ∧ a.kind = .reply ∧ a.res = c.ex.flatMap (fun l =>
        [{ kind := 2, lane := l, idx := f.x.toNat, val := 1 },
         { kind := 0, lane := l, idx := f.a.toNat, val := if l < 16 then (r.words[l]?).getD 0 else 0, tag := tRAW }])) ∧
    (∀ gr, (s.base c).graphOf c.w = some gr → (s.base c).recs c.w.die c.w.core gr = [] → bit f.f 0 = false →
      ∃ t, exec (.recPop f) s = .next t ∧ (calm → t.mem = s.mem) ∧ ∃ a ∈ t.x.accs, a.id = s.x.nextId ∧ a.kind = .reply ∧
        a.res = c.ex.map (fun l => { kind := 2, lane := l, idx := f.x.toNat, val := 0 })))

/-- ISSUE_CLOCK answers a next state whose selected instructions are at most two, of one group, behind those already
selected, and changes no memory. Where the core's island grants the clock and a group is ready, the clock
selects a spot of the chosen group, the one with the most ready threads unless a thread is forced. A complete
superstep barrier counts on in every workgroup of its launch and frees the threads that sstep holds. A round in
ISSUING enters its context's queue behind what stands there, when that holds fewer than 8, and its register is
declared again. A tile step of a started operation computes its outer product, advances it by one position, and
lets the other context have the next turn; with its last step its results enter the accumulator, which no
earlier step changes, and it leaves its queue. A bank whose clock has come leaves the held banks and reads 0
everywhere. COMPLETION: exec answers a next state, that of its own effect, under hypotheses on the state and
operands alone, for each of issueClock, superstepBarrierComplete, signedOperationEnqueue, tileStep, bankZeroed.
(02_execution: R32, 02_execution: R33, 02_execution: R34, 02_execution: R41, 02_execution: R52,
03_kernel_memory: R70, 11_isa_matrix_graphics_system: R283, 11_isa_matrix_graphics_system: R285, 01_machine:
R21) -/
def Obligations.CoreClockEvents : Prop :=
  (∀ (d k q : Nat) (s : State), ∃ t l, exec (.issueClock d k q) s = .next t ∧ t.mem = s.mem ∧ t.host = s.host ∧
    t.slots = s.slots ++ l ∧ l.length ≤ 2 ∧ ∀ a ∈ l, ∀ b ∈ l, a.wg = b.wg ∧ a.grp = b.grp) ∧
  (∀ (d k q : Nat) (s : State) (g : Nat × Nat),
    let clk := (s.x.core d k).nextClk s.x.clk q
    let s0 := ({ s with x := { s.x with clk := clk } }).clockWork
    let ks := s0.x.schedGroups d k q
    let s1 := s0.fetchHolds ks
    s.granted d k clk = true → s1.x.chooseGroup (ks.filter (fun g => s1.readySpots g.1 g.2 ≠ [])) = some g →
    ∃ t sl l, exec (.issueClock d k q) s = .next t ∧ t.x.clk = clk ∧ t.slots = s.slots ++ sl :: l ∧ l.length ≤ 1 ∧ sl.wg = g.1 ∧
      ∃ c ∈ s1.readySpots g.1 g.2, sl.pc = c.pc ∧ sl.lanes = maskOf c.lanes ∧
        ((∀ e ∈ s1.readySpots g.1 g.2, ∀ w gr, s1.x.wg? g.1 = some w → w.grp? g.2 = some gr → ∀ i ∈ e.lanes, (gr.lane i).pass < 32) →
          ∀ e ∈ s1.readySpots g.1 g.2, e.lanes.length ≤ c.lanes.length)) ∧
  (∀ (l : Nat) (s : State) (w0 : Wg) (r : List Wg), s.x.wgs.filter (fun w => w.launch == l) = w0 :: r → s.sstReady l w0.sstDone = true →
    ∃ t, exec (.superstepBarrierComplete l) s = .next t ∧ t.mem = s.mem ∧ t.x.reqs = s.x.reqs ∧ t.x.accs = s.x.accs ∧
      ∀ (j : Nat) (w : Wg), s.x.wgs[j]? = some w → ∃ w', t.x.wgs[j]? = some w' ∧ (w.launch ≠ l → w' = w) ∧
        (w.launch = l → w'.sstDone = w0.sstDone + 1 ∧ ∀ (n : Nat) (g : Group), w.groups[n]? = some g → ∃ g', w'.groups[n]? = some g' ∧
          g'.s = g.s ∧ ∀ i ∈ g.live, (g'.lane i).v = (g.lane i).v ∧ (g'.lane i).pc = (g.lane i).pc ∧
            (g'.lane i).hold = (if (g.lane i).hold = .superstep then .free else (g.lane i).hold))) ∧
  (∀ (w k : Nat) (s : State) (g : Wg), s.x.wg? w = some g → (g.sign k).st = .issuing →
    ((s.x.core g.die g.core).queueOf (g.mctx.getD 0)).length < 8 →
    ∃ t g', exec (.signedOperationEnqueue w k) s = .next t ∧ t.mem = s.mem ∧ t.x.wg? w = some g' ∧ g' = { g with ks := g.ks.set k (g.sign k).next } ∧
      (t.x.core g.die g.core).queueOf (g.mctx.getD 0) = (s.x.core g.die g.core).queueOf (g.mctx.getD 0) ++ [(g.sign k).op g]) ∧
  (∀ (d k : Nat) (s : State) (o : MOp) (w : Wg) (st : Nat × Nat × Nat × Nat), s.mopReady d k (s.x.core d k).turn = some (o, w) → o.started = true →
    o.steps[o.pos]? = some st →
    let a := s.x.core d k
    let o' : MOp := { o.step a w.scratch (w.shadowWritten o) st with pos := o.pos + 1 }
    ∃ t, exec (.tileStep d k) s = .next t ∧ t.mem = s.mem ∧ (t.x.core d k).turn = 1 - a.turn ∧
      (o.steps.length ≤ o.pos + 1 → (t.x.core d k).acc = (a.mmaCommit o').acc ∧ (t.x.core d k).queueOf a.turn = (a.queueOf a.turn).drop 1) ∧
      (o.pos + 1 < o.steps.length → (t.x.core d k).acc = a.acc ∧ (t.x.core d k).queueOf a.turn = o' :: (a.queueOf a.turn).drop 1)) ∧
  (∀ (d k b n : Nat) (s : State), cfind b (s.x.core d k).banks = some (.zeroing n) → n ≤ s.x.clk →
    ∃ t, exec (.bankZeroed d k b) s = .next t ∧ t.mem = s.mem ∧ (t.x.core d k).banks = cdel b (s.x.core d k).banks ∧
      ∀ row col, row < 32 → col < 128 → (t.x.core d k).accGet b row col = 0)

/-- LOAD_REPLY of an access that is performed writes its results to the registers of live lanes, makes its
destinations written, lowers LD and removes the access. LOAD_REPLY of a one-lane ld whose line its die holds,
with no store of the core ahead, writes the registers of R246 from the line's bytes. STORE_REACHES_L1 of a group
with an entry in its queue answers a next state in which the queued lanes of its oldest entry have reached the
L1 or are performed. Memory is unchanged by each. COMPLETION: exec answers a next state, that of its own effect,
under hypotheses on the state and operands alone, for each of loadReply, storeReachesL1. (10_isa_memory_control:
R246, 10_isa_memory_control: R247, 10_isa_memory_control: R252, 02_execution: R29, 02_execution: R48,
07_ordering: R163) -/
def Obligations.AccessEvents : Prop :=
  (∀ (id : Nat) (s : State) (a : Access) (w : Wg) (g : Group), s.x.acc? id = some a → a.kind = .reply → a.lanes = [] →
    s.x.wg? a.wg = some w → w.grp? a.grp = some g → g.idx = a.grp → (∀ l, (g.lane l).hold ≠ .watch id ∧ (g.lane l).resHold ≠ .watch id) →
    let r := a.res.foldl Group.putRes g
    ∃ t w' g', exec (.loadReply id) s = .next t ∧ t.mem = s.mem ∧ t.fab = s.fab ∧ t.x.accs = delFirst (fun b => b.id == id) s.x.accs ∧
      t.x.wg? a.wg = some w' ∧ w'.grp? a.grp = some g' ∧ g'.s = r.s ∧ g'.ld = g.ld - 1 ∧ g'.stc = g.stc ∧ (∀ b ∈ g'.busy, b.due ≠ .acc id) ∧
      ∀ l, (g'.lane l).v = (r.lane l).v ∧ (g'.lane l).p = (r.lane l).p ∧ (g'.lane l).pc = (g.lane l).pc) ∧
  (∀ (id n : Nat) (s : State) (a : Access) (l : LaneAcc) (f : XF) (w : Wg) (g : Group) (data : BitVec 1024), s.x.acc? id = some a → a.kind = .load →
    a.ins = .ld f → a.lanes = [l] → a.res = [] → l.part = [] → l.pa ≠ [] → (∀ p ∈ l.pa, p / 128 = n) → s.x.notQueued a.wg a.grp = [] →
    s.x.wg? a.wg = some w → s.mayBind w a l n = true → s.lineFor w.die n = some data → s.x.ahead (s.x.core w.die w.core) a.wg a.grp n = [] →
    w.grp? a.grp = some g → g.idx = a.grp → (∀ i, (g.lane i).hold ≠ .watch id ∧ (g.lane i).resHold ≠ .watch id) →
    let bs := l.pa.map (fun p => data.extractLsb' (8 * (p % 128)) 8)
    let r := (placeLoad (bits f.c 26 3) (BitVec.ofNat 8 (bits f.c 18 8)) f.d.toNat l.lane bs).foldl Group.putRes g
    ∃ t w' g', exec (.loadReply id) s = .next t ∧ t.mem = s.mem ∧ t.host = s.host ∧ t.x.wg? a.wg = some w' ∧ w'.grp? a.grp = some g' ∧
      g'.ld = g.ld - 1 ∧ g'.s = g.s ∧ ∀ i, (g'.lane i).v = (r.lane i).v ∧ (g'.lane i).pc = (g.lane i).pc) ∧
  (∀ (wi gi : Nat) (s : State) (w : Wg) (a : Access), s.x.wg? wi = some w → (s.x.enqueue wi gi).storeNext wi gi = some a →
    (∀ l ∈ a.lanes, l.inq = true → l.l1 = false → l.pa.any s.pchBad = false) →
    ∃ t, exec (.storeReachesL1 wi gi) s = .next t ∧ t.mem = s.mem ∧
      ∀ b, t.x.acc? a.id = some b → b.lanes.length = a.lanes.length ∧ ∀ (j : Nat) (l : LaneAcc), a.lanes[j]? = some l → l.inq = true →
        ∃ l', b.lanes[j]? = some l' ∧ l'.va = l.va ∧ (l'.l1 = true ∨ l'.st = .done))

/-- A request with no fault, whose predecessors are performed, is carried out. A copy from global memory puts the
bytes read through its pages into the scratchpad, and its token falls; a copy to global memory sends its bytes
to the homes of their lines and waits for their answers. A drain to the scratchpad leaves the encodings of its
band there, lowers ST, and with Z clears its band. A base-die request, behind the started ones of its workgroup,
sends its result to the home of its pages and waits for the answers. A send or reduction writes its words into
the scratchpad of the running peer and lowers ST; one whose peer has gone is discarded. Each request leaves when
it is complete. COMPLETION: exec answers a next state, that of its own effect, under hypotheses on the state and
operands alone, for each of drainPerform, copyComplete, bdeRequestComplete, nbrWritePerformed.
(03_kernel_memory: R79, 03_kernel_memory: R80, 03_kernel_memory: R81, 11_isa_matrix_graphics_system: R286,
11_isa_matrix_graphics_system: R287, 11_isa_matrix_graphics_system: R288, 11_isa_matrix_graphics_system: R306,
05_tensor_mesh: R132, 05_tensor_mesh: R133, 05_tensor_mesh: R134, 02_execution: R48) -/
def Obligations.RequestsPerformed : Prop :=
  (∀ (n : Nat) (f : KF) (s s1 : State) (q : Req) (w : Wg) (k : Nat), s.x.req? q.id = some q → s.x.wg? q.wg = some w → q.fault = none → s.x.waits q.after = [] →
    q.ins = .copy f → q.tok = some k → q.done = 0 → q.parts = [] → q.out = [] → q.dead = false → s.sel = 0 → 0 < (opW q.ops 4).toNat → (n = 0 ∨ (opW q.ops 4).toNat ≤ n) →
    let len := (opW q.ops 4).toNat
    let src := opP q.ops 0
    let dst := opP q.ops 2
    let rd := (List.range len).flatMap (fun i => s1.mapRange w (src + BitVec.ofNat 64 i, 1, false))
    let hint := if bit f.f 2 then 1 else 0
    (bits f.f 0 2 = 0 → s.reqRanges q w [(src, len, false)] = .ok s1 → s1.reqBad q rd = none → ∀ bs, s1.copySrc w hint rd = .ok bs →
      ∃ t w', exec (.copyComplete q.id n) s = .next t ∧ t.mem = s1.mem ∧ t.x.reqs = delFirst (fun r => r.id == q.id) s.x.reqs ∧
        t.x.wg? q.wg = some w' ∧ w'.qs = w.qs.set k ((w.qs[k]?).getD 0 - 1) ∧
        w'.scratch = ((List.range len).zip bs).foldl (fun (m : Mem) b => m.set (dst.toNat + b.1) b.2) w.scratch) ∧
    (bits f.f 0 2 = 1 → s.reqRanges q w [(dst, len, true)] = .ok s1 →
      let ls := s1.lineWrs w dst ((List.range len).map (fun i => (i, w.scratch.get (src.toNat + i))))
      let s2 := s1.reqWrite q w.die ls 2 hint
      ls ≠ [] →
      ∃ t r, exec (.copyComplete q.id n) s = .next t ∧ t.mem = s1.mem ∧ t.host = s1.host ∧ t.fab = s2.fab ∧
        t.x.req? q.id = some r ∧ r.done = 2 ∧ r.parts = [(0, len)] ∧ r.out = ls.map (fun g => (g.line, g.va)))) ∧
  (∀ (f : KF) (s : State) (q : Req) (w : Wg) (g : Group), s.x.req? q.id = some q → s.x.wg? q.wg = some w → w.grp? q.grp = some g → g.idx = q.grp →
    q.fault = none → s.x.waits q.after = [] → q.ins = .accDrain f → q.tok = none → q.done = 0 → q.parts = [] → q.out = [] → q.dead = false → s.sel = 0 → bits f.f 0 2 % 2 = 0 →
    let ctl := opW q.ops 2
    let k := s.x.core w.die w.core
    ∃ t w' g', exec (.drainPerform q.id) s = .next t ∧ t.mem = s.mem ∧ t.fab = s.fab ∧ t.x.reqs = delFirst (fun r => r.id == q.id) s.x.reqs ∧
      t.x.wg? q.wg = some w' ∧ w'.grp? q.grp = some g' ∧ g'.stc = g.stc - 1 ∧ g'.s = g.s ∧ g'.lanes = g.lanes ∧
      w'.scratch = (drBytes (decide (bits f.f 0 2 = 2)) ctl q.phase (opW q.ops 3).toNat (fun o => if bits f.f 0 2 = 2 then w.scratch.get ((opP q.ops 0).toNat + o) else 0)
        ((List.range 4096).map (fun i => (i, opW (k.drElems q.bank) i)))).foldl (fun (m : Mem) b => m.set ((opP q.ops 0).toNat + b.1) b.2) w.scratch ∧
      (bit f.f 2 = false → (t.x.core w.die w.core).acc = k.acc) ∧
      (bit f.f 2 = true → ∀ row col, row < 32 → col < 128 → (t.x.core w.die w.core).accGet q.bank row col = 0)) ∧
  (∀ (f : KF) (i : Instr) (s s1 : State) (q : Req) (w : Wg) (k : Nat) (rs : List MRange) (out : State → List (Nat × Byte) × List MRange),
    (i = .bdeGather f ∧ rs = gatherRanges f q.ops ∧ out = (fun u => u.gatherOut q w f) ∨
      i = .bdeReduce f ∧ rs = reduceRanges q.ops ∧ out = (fun u => u.reduceOut q w f) ∨
      i = .bdeCvt f ∧ rs = cvtRanges q.ops ∧ out = (fun u => u.cvtOut q w)) →
    s.x.req? q.id = some q → s.x.wg? q.wg = some w → q.fault = none → s.x.waits q.after = [] → q.ins = i → q.tok = some k →
    q.done = 0 → q.parts = [] → q.out = [] → q.dead = false → s.sel = 0 → (∀ r ∈ s.x.reqs, r.wg = q.wg → r.id < q.id → r.isBde = true → r.done ≠ 0) →
    let q1 : Req := { q with done := 1 }
    ({ s with x := s.x.setReq q1 }).reqRanges q1 w rs = .ok s1 → oneHome (s1.homesOf w.die w.asid rs).2 = true →
    s1.reqBlocked q1 ((out s1).2.flatMap (s1.mapRange w)) = none →
    let n := ((out s1).1.length + 3) / 4
    let ls := s1.lineWrs w (opP q.ops 2) ((List.range n).flatMap (fun j => ((out s1).1.drop (4 * j)).take 4))
    let s2 := s1.splitWrite q1 (s1.bdeHome w rs) ls
    ls ≠ [] → 0 < n →
    ∃ t r w', exec (.bdeRequestComplete q.id) s = .next t ∧ t.mem = s1.mem ∧ t.host = s1.host ∧ t.fab = s2.fab ∧
      t.x.req? q.id = some r ∧ r.done = 2 ∧ r.parts = [(0, n)] ∧ r.out ≠ [] ∧ t.x.wg? q.wg = some w' ∧ w'.scratch = w.scratch ∧ w'.qs = w.qs) ∧
  (∀ (f : KF) (i : Instr) (s : State) (q : Req) (w p : Wg) (g : Group) (pi : Nat), (i = .nbrSend f ∨ i = .nbrReduce f) → q.ins = i →
    s.x.req? q.id = some q → s.x.wg? q.wg = some w → w.grp? q.grp = some g → g.idx = q.grp → q.fault = none → s.x.waits q.after = [] → q.tok = none →
    q.done = 0 → q.parts = [] → q.out = [] → q.dead = false → s.sel = 0 →
    q.peer = some pi → pi ≠ q.wg → (∀ r ∈ s.x.reqs, r.wg = q.wg → r.peer = q.peer → q.id ≤ r.id ∨ ∀ h, r.ins ≠ .nbrSend h ∧ r.ins ≠ .nbrReduce h) →
    let n := (opW q.ops 2).toNat
    let a := (opW q.ops 1).toNat
    let put (m : Mem) (j : Nat) : Mem :=
      m.putBytes (a + 4 * j) (nbrBytes i (m.bytes (a + 4 * j) 4) (w.scratch.bytes ((opW q.ops 0).toNat + 4 * j) 4))
    (s.x.wg? pi = some p → p.st ≠ .dropping → s.netBefore q.id w.die p.die = false → s.gfxBefore q.id w.die p.die = false → (∀ b, s.x.nbrMixed q b = false) →
      ∃ t p' w' g', exec (.nbrWritePerformed q.id) s = .next t ∧ t.mem = s.mem ∧ t.x.reqs = delFirst (fun r => r.id == q.id) s.x.reqs ∧
        t.x.wg? pi = some p' ∧ p' = { p with scratch := (List.range (n / 4)).foldl put p.scratch } ∧
        t.x.wg? q.wg = some w' ∧ w'.scratch = w.scratch ∧ w'.grp? q.grp = some g' ∧ g' = { g with stc := g.stc - 1 }) ∧
    (s.x.wg? pi = none →
      ∃ t w', exec (.nbrWritePerformed q.id) s = .next t ∧ t.mem = s.mem ∧ t.x.reqs = delFirst (fun r => r.id == q.id) s.x.reqs ∧
        t.x.wg? q.wg = some w' ∧ w' = w.setGrp { g with stc := g.stc - 1 }))

/-- When a request is the next message of its agents and its home die is mapped to it: a LOST line is answered
NackLost. GetS is answered with E for a line without entry, with S (S-WT under subscriptions) for a shared one,
and goes to the owner as Fwd-GetS otherwise, the entry becoming O. GetM and Upg are answered NackWT from another
die than the home while the line has subscribers; otherwise every other sharer receives Inv and the requester
the data, or the owner Fwd-GetM, with the number of acknowledgements, and the entry is X of the requester. A Put
of the owner writes its data to memory and leaves S or no entry, a Put of another changes nothing; both are
answered PutAck. Mod sets D. Memory changes by a Put alone. COMPLETION: exec answers a next state, that of its
own effect, under hypotheses on the state and operands alone, for each of gets, getm, upg, putm, puto, pute,
mod, inv, data. (17_coherence_fabric_host: R374, 17_coherence_fabric_host: R375, 17_coherence_fabric_host: R379,
17_coherence_fabric_host: R386) -/
def Obligations.HomeGrants : Prop :=
  ∀ (s u : State) (m : Msg) (h : Nat), s.Arrives m u → m.dst = .die h → h < 64 →
    let me := ownerCode h m.src
    let sub := u.subbed h m.line
    let turns (i : Instr) (e : Dir) (dst : Agent) (k : MsgK) : Prop := ∃ t, exec i s = .next t ∧ t.mem = s.mem ∧
      t.dir? h m.line = some { e with since := u.x.nextId } ∧ u.Replies t (.die h) dst m.line k
    let answers (i : Instr) (k : MsgK) : Prop := ∃ t, exec i s = .next t ∧ t.mem = s.mem ∧ (t.die h).dir = (u.die h).dir ∧ u.Replies t (.die h) m.src m.line k
    (m.k = .getS →
      (u.isLost h m.line = true → answers .gets (.nackLost 0)) ∧
      (u.Served h m.line →
        (u.dir? h m.line = none → u.DirFree h m.line →
          (sub = true → turns .gets (({ st := .S, sub := true } : Dir).share m.src) m.src (.data 1 (u.mem.line m.line) 0)) ∧
          (sub = false → turns .gets { st := .X, owner := me } m.src (.data 2 (u.mem.line m.line) 0))) ∧
        (∀ e, u.dir? h m.line = some e →
          (e.st = .S → turns .gets (e.share m.src) m.src (.data (if sub then 1 else 0) (u.mem.line m.line) 0)) ∧
          (e.st ≠ .S → turns .gets { e.share m.src with st := .O } (ownerAgent h m.line e.owner) (.fwdGetS m.src))))) ∧
    (∀ (i : Instr) (up : Bool), m.k = .getM ∧ i = .getm ∧ up = false ∨ m.k = .upg ∧ i = .upg ∧ up = true →
      (u.isLost h m.line = true → answers i (.nackLost 0)) ∧
      (u.Served h m.line →
        (sub = true → m.src ≠ .die h → answers i .nackWT) ∧
        (sub = false ∨ m.src = .die h →
          (u.dir? h m.line = none → u.DirFree h m.line →
            turns i { st := .X, owner := me, sub := sub } m.src (.data 3 (u.mem.line m.line) 0)) ∧
          (∀ e, u.dir? h m.line = some e →
            let inv := (e.holders h m.line).filter (fun a => a != m.src && !((e.st == .X || e.st == .O) && ownerCode h a == e.owner))
            let msg (j : Nat) (dst : Agent) (k : MsgK) : Msg := { id := u.x.nextId + j, src := .die h, dst := dst, line := m.line, k := k }
            let full : MsgK := .data 3 (u.mem.line m.line) inv.length
            ∃ t, exec i s = .next t ∧ t.mem = s.mem ∧
              t.dir? h m.line = some { st := .X, owner := me, sub := sub, since := u.x.nextId } ∧
              t.fab.net = u.fab.net ++ inv.mapIdx (fun j a => msg j a (.inv m.src)) ++
                [if e.st = .S ∧ ¬(up = true ∧ m.src ∈ e.holders h m.line) then msg inv.length m.src full
                 else if e.st = .S then msg inv.length m.src (.data 4 0 inv.length)
                 else if e.owner = me then msg inv.length m.src (if up then .data 4 0 inv.length else full)
                 else msg inv.length (ownerAgent h m.line e.owner) (.fwdGetM m.src inv.length)])))) ∧
    (∀ (i : Instr) (dat : Option (BitVec 1024)), (∃ d, m.k = .putM d ∧ i = .putm ∧ dat = some d) ∨ (∃ d, m.k = .putO d ∧ i = .puto ∧ dat = some d) ∨
        (m.k = .putE ∧ i = .pute ∧ dat = none) →
      (∀ e, u.dir? h m.line = some e → e.st = .X ∨ e.st = .O → e.owner = me →
        ∃ t, exec i s = .next t ∧ t.mem = (match dat with | some d => s.mem.putLine m.line d | none => s.mem) ∧ u.Replies t (.die h) m.src m.line .putAck ∧
          (e.st = .X → (t.die h).dir = cdel m.line (u.die h).dir) ∧
          (e.st = .O → (∃ a ∈ e.holders h m.line, a ≠ m.src) → ∃ e', t.dir? h m.line = some e' ∧ e'.st = .S)) ∧
      ((∀ e, u.dir? h m.line = some e → ¬((e.st = .X ∨ e.st = .O) ∧ e.owner = me)) → answers i .putAck)) ∧
    (m.k = .mod → ∀ e, u.dir? h m.line = some e → e.st = .X → e.owner = me →
      ∃ t, exec .mod s = .next t ∧ t.mem = s.mem ∧ t.fab.net = u.fab.net ∧ t.dir? h m.line = some { e with d := true, since := u.x.nextId })

/-- When WrThru, Atom or Sub is the next message of its agents at a home that holds the line in M and for which
nothing waits: WrThru merges its bytes into the line and is answered WtAck; Atom applies its lanes' operations
one after another and is answered with the old values; Sub with room is answered SubRsp OK and pushed the line
at once, and one without room SubRsp FULL. Unsub is answered UnsubAck. PushAck frees the subscriber, or sends
the pushes counted since as one. The last BackInvAck of a recall writes the data it carried to memory and frees
the buffer entry. COMPLETION: exec answers a next state, that of its own effect, under hypotheses on the state
and operands alone, for each of wrthru, atomMsg, sub, unsub, backinvack, pushack. (17_coherence_fabric_host:
R373, 17_coherence_fabric_host: R375, 17_coherence_fabric_host: R381, 17_coherence_fabric_host: R382,
17_coherence_fabric_host: R383, 17_coherence_fabric_host: R384, 10_isa_memory_control: R254, 03_kernel_memory:
R86) -/
def Obligations.HomeOperations : Prop :=
  ∀ (s u : State) (m : Msg) (h : Nat), s.Arrives m u → m.dst = .die h → h < 64 →
    (u.Served h m.line → u.retried m = false → u.NoneWait h m.line → ∀ v, u.llc? h m.line = some v → v.st = .M →
      (∀ mask data acc org, m.k = .wrThru mask data acc org →
        ∃ t v' l n, exec .wrthru s = .next t ∧ t.mem = s.mem ∧ t.llc? h m.line = some v' ∧ v'.st = .M ∧ v'.data = lineMerge v.data data mask ∧
          t.fab.net = u.fab.net ++ l ++ [{ id := n, src := .die h, dst := m.src, line := m.line, k := .wtAck acc }] ∧
          ∀ p ∈ l, ∃ idx seq f, p.k = .push idx (lineMerge v.data data mask) seq f) ∧
      (∀ acc ops org, m.k = .atom acc ops org →
        let r := ops.foldl (fun (p : BitVec 1024 × List (Nat × BitVec 64)) o => ((atomOn p.1 o).1, p.2 ++ [(o.lane, (atomOn p.1 o).2.1)])) (v.data, [])
        ∃ t v' l n, exec .atomMsg s = .next t ∧ t.mem = s.mem ∧ t.llc? h m.line = some v' ∧ v'.st = .M ∧ v'.data = r.1 ∧
          t.fab.net = u.fab.net ++ l ++ [{ id := n, src := .die h, dst := m.src, line := m.line, k := .atomRsp acc r.2 }]) ∧
      (∀ core idx acc ev rt, m.k = .sub core idx acc ev rt → (u.die h).subRoom m.line = true →
        let old := (cfind m.line (u.die h).subs).getD {}
        ∃ t w, exec .sub s = .next t ∧ t.mem = s.mem ∧ cfind m.line (t.die h).subs = some w ∧ w.seq = old.seq ∧
          (∃ r, some r ∈ w.subs ∧ r.core = core ∧ r.idx = idx ∧ r.die = agKey m.src % 64 ∧ r.p = true ∧ r.n = 0) ∧
          ∃ a, t.fab.net = u.fab.net ++ [{ id := u.x.nextId, src := .die h, dst := m.src, line := m.line, k := .subRsp idx acc 0 },
            { id := u.x.nextId + 1, src := .die h, dst := a, line := m.line, k := .push idx v.data old.seq 0 }])) ∧
    (∀ core idx acc ev rt, m.k = .sub core idx acc ev rt → u.Served h m.line → u.retried m = false → (u.die h).subRoom m.line = false →
      ∃ t, exec .sub s = .next t ∧ t.mem = s.mem ∧ (t.die h).subs = (u.die h).subs ∧ u.Replies t (.die h) m.src m.line (.subRsp idx acc 1)) ∧
    (∀ core idx req, m.k = .unsub core idx req →
      ∃ t, exec .unsub s = .next t ∧ t.mem = s.mem ∧ u.Replies t (.die h) m.src m.line (.unsubAck idx req) ∧
        (cfind m.line (u.die h).subs = none → (t.die h).subs = (u.die h).subs)) ∧
    (∀ core idx v r, m.k = .pushAck core idx → cfind m.line (u.die h).subs = some v →
      v.subs.findSome? (fun o => o.bind (fun (q : Subscr) => if q.is ((u.devOf m.src).getD 0) (agKey m.src % 64) core idx then some q else none)) = some r →
      (r.n = 0 → ∃ t w, exec .pushack s = .next t ∧ t.mem = s.mem ∧ t.fab.net = u.fab.net ∧ cfind m.line (t.die h).subs = some w ∧
        w.seq = v.seq ∧ some { r with p := false } ∈ w.subs) ∧
      (r.n ≠ 0 → ∃ t, exec .pushack s = .next t ∧ t.mem = s.mem ∧
        u.Replies t (.die h) (u.subAgent r) m.line (.push r.idx (u.freshLine m.line) v.seq (min (r.n - 1) 65535)))) ∧
    (∀ d v, m.k = .backInvAck d → (u.die h).evb.find? (fun e => e.line == m.line) = some v →
      (v.acks ≤ 1 → ∃ t, exec .backinvack s = .next t ∧ (t.die h).evb = delFirst (fun e => e.line == m.line) (u.die h).evb ∧
        t.mem = (match d.or v.data with | some x => s.mem.putLine m.line x | none => s.mem)) ∧
      (1 < v.acks → ∃ t, exec .backinvack s = .next t ∧ t.mem = s.mem ∧
        (t.die h).evb.find? (fun e => e.line == m.line) = some { v with acks := v.acks - 1, data := d.or v.data }))

/-- When the next message of its agents reaches the LLC of a die: Fwd-GetS at an owner sends the line and leaves O;
Fwd-GetM sends it in M and the copy goes, from the LLC and every L1 of the die; Inv and BackInv take a copy away
and are acknowledged, an owner's data travelling with a recall's acknowledgement; Data make a requested readable
line S, S-WT or E with the data, and reach the loads that wait; the last InvAck makes a line M; PutAck, NackWT
and NackLost end the copy; Retry lets the request that the LLC keeps, or the one that its line stands for, be
sent again 64 clocks later, and the reissue sends it. A write or atomic answered NackLost traps MEM (LOST) in
the lane that made it. COMPLETION: exec answers a next state, that of its own effect, under hypotheses on the
state and operands alone, for each of retryReissue, fwdGets, fwdGetm, inv, backinv, data, invack, putack, retry,
nackwt, nacklost. (17_coherence_fabric_host: R371, 17_coherence_fabric_host: R372, 17_coherence_fabric_host:
R375, 17_coherence_fabric_host: R380, 17_coherence_fabric_host: R381, 17_coherence_fabric_host: R386) -/
def Obligations.HolderAnswers : Prop :=
  ∀ (s u : State) (m : Msg) (k : Nat), s.Arrives m u → m.dst = .die k → k < 64 →
    let gone (t : State) : Prop := (t.die k).llc = cdel m.line (u.die k).llc ∧ ∀ e ∈ t.x.cores, e.1 / 16 = k → ∀ x ∈ e.2.l1, x.line ≠ m.line
    let kept (t : State) (v : Line) : Prop := t.llc? k m.line = some v
    let owner (v : Line) : Prop := v.st = .M ∨ v.st = .E ∨ v.st = .O
    let shared (v : Line) : Prop := v.st = .S ∨ v.st = .SWT
    (∀ r v, m.k = .fwdGetS r → u.llc? k m.line = some v → owner v →
      ∃ t, exec .fwdGets s = .next t ∧ t.mem = s.mem ∧ kept t { v with st := .O, l1 := 0 } ∧ (∀ e ∈ t.x.cores, e.1 / 16 = k → ∀ x ∈ e.2.l1, x.line ≠ m.line) ∧
        u.Replies t (.die k) r m.line (.data (if u.subbed k m.line then 1 else 0) v.data 0)) ∧
    (∀ r acks v, m.k = .fwdGetM r acks → u.llc? k m.line = some v → owner v →
      ∃ t, exec .fwdGetm s = .next t ∧ t.mem = s.mem ∧ gone t ∧ u.Replies t (.die k) r m.line (.data 3 v.data acks)) ∧
    (∀ r, m.k = .inv r →
      (u.llc? k m.line = none → ∃ t, exec .inv s = .next t ∧ t.mem = s.mem ∧ u.Replies t (.die k) r m.line .invAck) ∧
      (∀ v, u.llc? k m.line = some v → shared v → ∃ t, exec .inv s = .next t ∧ t.mem = s.mem ∧ gone t ∧ u.Replies t (.die k) r m.line .invAck)) ∧
    (m.k = .backInv → ∀ v, u.llc? k m.line = some v → owner v ∨ shared v →
      ∃ t d, exec .backinv s = .next t ∧ t.mem = s.mem ∧ gone t ∧ u.Replies t (.die k) (u.backDst k m.src) m.line (.backInvAck d) ∧ (owner v → d = some v.data) ∧ (shared v → d = none)) ∧
    (∀ st d acks v, m.k = .data st d acks → u.llc? k m.line = some v → v.st = .ISD → v.way ≠ 99 → v.fwds = [] → u.NoneWait k m.line →
      ∃ t v', exec .data s = .next t ∧ t.mem = s.mem ∧ t.fab.net = u.fab.net ∧ kept t v' ∧
        v'.st = (if st = 0 then .S else if st = 1 then .SWT else if st = 2 then .E else .M) ∧ v'.data = d ∧ v'.way = v.way ∧ v'.retryAt = none ∧
        ∀ b ∈ u.binders k m.line, ∀ a l, u.x.acc? b.1 = some a → a.lanes[b.2]? = some l → u.x.wg? a.wg ≠ none →
          ∃ a' l', t.x.acc? b.1 = some a' ∧ a'.lanes[b.2]? = some l' ∧ ∀ i, i < l.pa.length → (l.pa[i]?).getD 0 / 128 = m.line →
            (cfind i l'.part).isSome = true ∧
            ((∀ e ∈ u.x.accs, e.kind.isStore = false) → (∀ d c, (u.x.core d c).wt = []) → cfind i l.part = none →
              cfind i l'.part = some (lineByte d ((l.pa[i]?).getD 0 % 128)))) ∧
    (∀ v, m.k = .invAck → u.llc? k m.line = some v → v.st = .IMA ∨ v.st = .SMA → v.fwds = [] → u.NoneWait k m.line →
      (v.got + 1 = v.acks → ∃ t v', exec .invack s = .next t ∧ t.mem = s.mem ∧ kept t v' ∧ v'.st = .M ∧ v'.data = v.data ∧ v'.own = false ∧ v'.acks = 0 ∧ v'.got = 0) ∧
      (v.got + 1 ≠ v.acks → ∃ t, exec .invack s = .next t ∧ t.mem = s.mem ∧ kept t { v with got := v.got + 1 })) ∧
    (∀ v, m.k = .putAck → u.llc? k m.line = some v → v.st = .MIA ∨ v.st = .EIA ∨ v.st = .OIA ∨ v.st = .IIA → v.fwds = [] → u.NoneWait k m.line →
      ∃ t, exec .putack s = .next t ∧ t.mem = s.mem ∧ t.fab.net = u.fab.net ∧ (t.die k).llc = cdel m.line (u.die k).llc) ∧
    (∀ acc, m.k = .retry acc →
      (∀ v, u.llc? k m.line = some v → (∀ p ∈ (u.die k).again, p.2.line ≠ m.line) →
        ∃ t, exec .retry s = .next t ∧ t.mem = s.mem ∧ t.fab.net = u.fab.net ∧ kept t { v with retryAt := some (s.x.clk + 64) }) ∧
      (∀ q, (none, q) ∈ (u.die k).again → q.line = m.line → msgAcc q.k = some acc →
        ∃ t r, exec .retry s = .next t ∧ t.mem = s.mem ∧ t.fab.net = u.fab.net ∧ (some (s.x.clk + 64), r) ∈ (t.die k).again ∧ r.line = m.line ∧ msgAcc r.k = some acc)) ∧
    (∀ v n, u.llc? k m.line = some v → (∀ p ∈ (u.die k).again, p.2.line ≠ m.line) → v.retryAt = some n → n ≤ s.x.clk → v.st = .ISD → m.line / 2 ^ 39 = s.pkg.dev → u.working (m.line / 2 ^ 33 % 64) = true →
      ∃ t, exec (.retryReissue k m.line) u = .next t ∧ t.mem = s.mem ∧ kept t { v with retryAt := none } ∧
        u.Replies t (.die k) (.die (m.line / 2 ^ 33 % 64)) m.line .getS) ∧
    (∀ v, m.k = .nackWT → u.llc? k m.line = some v → v.fwds = [] → u.NoneWait k m.line →
      ∃ t, exec .nackwt s = .next t ∧ t.mem = s.mem ∧ t.fab.net = u.fab.net ∧ gone t) ∧
    (∀ acc a l w g, m.k = .nackLost acc → acc ≠ 0 → u.x.acc? acc = some a → a.kind = .reduce ∨ a.kind = .store → a.lanes = [l] → l.over = false →
      l.pa.any (fun p => lineOf p == m.line) = true → u.x.wg? a.wg = some w → w.grp? a.grp = some g → g.idx = a.grp → w.handler ≠ 0 → g.handler = false →
      l.lane ∈ g.live → g.Unwatched acc →
      ∃ t w' g', exec .nacklost s = .next t ∧ t.mem = s.mem ∧ t.x.wg? a.wg = some w' ∧ w'.grp? a.grp = some g' ∧ g'.handler = true ∧
        g'.ecause = 0x4006 ∧ g'.eaddr = l.va ∧ g'.stc = g.stc - 1 ∧ (g'.lane l.lane).pc = w.handler ∧ (g'.lane l.lane).epc = a.pc)

/-- When the next message of its agents reaches a core: WtAck performs the store it answers; AtomRsp marks the lanes
it answers as done and holds their old values for the registers; a push puts the line image and header into its
slot together and is acknowledged; UnsubAck frees the table entry and completes the drop's token; SubRsp writes
its status to the register, and OK makes the slot active with the number of its initial push; PushLost marks the
slot LOST. Memory is unchanged. COMPLETION: exec answers a next state, that of its own effect, under hypotheses
on the state and operands alone, for each of wtack, atomrsp, push, unsuback, subrsp, pushlost.
(03_kernel_memory: R84, 03_kernel_memory: R86, 03_kernel_memory: R87, 03_kernel_memory: R91, 03_kernel_memory:
R92, 10_isa_memory_control: R252, 10_isa_memory_control: R254, 17_coherence_fabric_host: R381,
17_coherence_fabric_host: R383, 17_coherence_fabric_host: R384) -/
def Obligations.CoreMessages : Prop :=
  ∀ (s u : State) (m : Msg), s.Arrives m u →
    (∀ d acc e w g a l, m.k = .wtAck acc → m.dst = .die d → (u.x.wtOf d).filter (fun e => e.2.line == m.line) = [e] → e.2.id = acc → e.2.sent = true → u.x.req? acc = none →
      (∀ c ∈ u.x.cores, ∀ b ∈ c.2.wt, b.id = acc → c.1 = e.1 ∧ b = e.2) → (∀ c ∈ u.x.cores, c.1 = e.1 → c.2.wt.filter (fun b => b.id == acc) = [e.2]) →
      cfind e.1 u.x.cores ≠ none → u.x.acc? acc = some a → a.kind = .store → a.lanes = [l] → l.st = .ok → l.l1 = true →
      u.x.wg? a.wg = some w → w.grp? a.grp = some g → g.idx = a.grp → g.Unwatched acc →
      ∃ t w' g', exec .wtack s = .next t ∧ t.mem = s.mem ∧ t.x.wg? a.wg = some w' ∧ w'.grp? a.grp = some g' ∧ g'.stc = g.stc - 1 ∧
        g'.s = g.s ∧ t.x.accs.length + 1 = u.x.accs.length) ∧
    (∀ acc olds a, m.k = .atomRsp acc olds → u.x.acc? acc = some a → a.kind = .atomic →
      ∃ t b, exec .atomrsp s = .next t ∧ t.mem = s.mem ∧ t.x.wgs = s.x.wgs ∧ t.x.acc? acc = some b ∧ b.lanes.length = a.lanes.length ∧
        ∀ (j : Nat) (l : LaneAcc) (o : Nat × BitVec 64), a.lanes[j]? = some l → l.st = .ok → l.pa.any (fun p => lineOf p == m.line) = true →
          olds.find? (fun o => o.1 == l.lane) = some o →
          b.lanes[j]? = some { l with st := .done } ∧
            ∀ f : XF, a.ins = .atom f ∨ a.ins = .cas f → ∀ r ∈ placeAtom (atomKind a.ins).2 f.d.toNat l.lane o.2, r ∈ b.res) ∧
    (∀ d c idx img seq folded e w, m.k = .push idx img seq folded → m.dst = .core d c → cfind idx (u.x.core d c).stand = some e → e.lost = false → e.line = m.line → e.st ≠ .pending →
      u.x.wg? e.wg = some w →
      ∃ t w' e', exec .push s = .next t ∧ t.mem = s.mem ∧ t.x.wg? e.wg = some w' ∧ w'.scratch = w.scratch.putNum e.slot 128 img.toNat ∧
        cfind idx (t.x.core d c).stand = some e' ∧ e'.seq = seq ∧ e'.folded = folded ∧ e'.overrun = (e.overrun || (e.every && folded != 0)) ∧
        u.Replies t m.dst m.src m.line (.pushAck c idx)) ∧
    (∀ d c idx req r w q, m.k = .unsubAck idx req → m.dst = .core d c → u.x.req? req = some r → u.x.wg? r.wg = some w → r.tok = some q →
      ∃ t w', exec .unsuback s = .next t ∧ t.mem = s.mem ∧ t.x.reqs = delFirst (fun x => x.id == req) s.x.reqs ∧
        (t.x.core d c).stand = cdel idx (u.x.core d c).stand ∧ t.x.wg? r.wg = some w' ∧ w'.qs = w.qs.set q ((w.qs[q]?).getD 0 - 1)) ∧
    (∀ d c idx acc st a w g f, m.k = .subRsp idx acc st → m.dst = .core d c → u.x.acc? acc = some a → a.kind = .sub → a.ins = .standSub f →
      u.x.wg? a.wg = some w → w.grp? a.grp = some g → g.idx = a.grp → g.Unwatched acc →
      ∃ t w' g', exec .subrsp s = .next t ∧ t.mem = s.mem ∧ t.x.wg? a.wg = some w' ∧ w'.grp? a.grp = some g' ∧
        g'.s = g.s.set f.x.toNat (BitVec.ofNat 32 st) ∧ g'.ld = g.ld - 1 ∧
        ∀ e ∈ (u.x.core w.die w.core).stand, e.2.acc = acc → e.2.st = .pending →
          (st = 0 → (e.1, { e.2 with st := .active, seq := u.firstSeq d c idx m.line }) ∈ (t.x.core w.die w.core).stand)) ∧
    (∀ d c idx, m.k = .pushLost idx → m.dst = .core d c →
      ∃ t, exec .pushlost s = .next t ∧ t.mem = s.mem ∧ ∀ e ∈ (t.x.core d c).stand, e.1 = idx → e.2.lost = true)

/-- The child at the head of a die's amplification queue leaves it and its mesh workgroup starts on that die with
the record in s0 to s15; the overflow ring refills the queue from its head. A frontier that has risen goes to
every owner of its pass and is remembered, a held one after 64 clocks. Packets and frontiers that are the next
of their pair of dies enter the store and the table of the owner; a packet that finds no place on die takes a
place of its own in the area of its pass, and its bytes go there. A released primitive becomes its covered
samples in order, but for those of blocks that hierarchical depth rejects; a marker opens its query. A fragment
that fails its early test is gone, one that passes is ready, as is every one under DW; one whose thread has
trapped ends without a count. A query whose fragments are all done sends its count to the cell's home; a
contribution that arrives is counted there, after the zero of its cell, by a write at the home alone; the last
one closes the query. COMPLETION: exec answers a next state, that of its own effect, under hypotheses on the
state and operands alone, for each of ampQueueDequeue, overflowRingRefill, frontierSend, frontierHoldExpiry,
rasterisePrimitive, packetArrival, frontierArrival, depthTest, occContribution, occCellUpdate. (04_render_mesh:
R99, 04_render_mesh: R100, 04_render_mesh: R104, 04_render_mesh: R105, 04_render_mesh: R107, 04_render_mesh:
R108, 04_render_mesh: R113, 04_render_mesh: R117, 04_render_mesh: R118, 15_launch_scheduling: R454) -/
def Obligations.GraphicsUnits : Prop :=
  (∀ (d : Nat) (s : State) (ch : Child) (rest : List Child) (l : Launch) (pre : List Word), (s.gdie d).amp = ch :: rest → s.launch? ch.launch = some l →
    l.open = true → s.dealStopped l = false → s.roomFor l 1 = true → s.preload l.asid l.tmpl = some pre → (∀ n, (s.pickCore (l.childJob ch n) d).isSome = true) →
    (∀ w ∈ s.x.wgs, w.die = d → w.stage ≠ 1) →
    ∃ t w, exec (.ampQueueDequeue d) s = .next t ∧ t.mem = s.mem ∧ t.gdie d = { s.gdie d with amp := rest } ∧ t.x.wgs = s.x.wgs ++ [w] ∧
      w.launch = l.id ∧ w.stage = 2 ∧ w.die = d ∧ w.task = ch.task ∧ w.mesh = ch.emit ∧
      ∀ g ∈ w.groups, g.s = (ch.words ++ pre ++ List.replicate 64 0).take 64) ∧
  (∀ (d : Nat) (s : State) (ch : Child) (rest : List Child), (s.gdie d).ring = ch :: rest → (s.gdie d).amp.length < 8192 →
    (∀ w ∈ s.x.wgs, w.die = d → w.stage ≠ 1) →
    ∃ t, exec (.overflowRingRefill d) s = .next t ∧ t.mem = s.mem ∧ t.x = s.x ∧ t.gdie d = { s.gdie d with amp := (s.gdie d).amp ++ [s.ampGet d ch], ring := rest }) ∧
  (∀ (i : Instr) (d p k v : Nat) (s : State) (ps : Pass), s.pass? p = some ps → ps.ended = false → s.working d = true → s.frontier d p k = some v →
    (i = .frontierSend d p k ∧ (s.gdie d).sent.find? (fun e => e.pass == p && e.stream == k) = none ∨
      ∃ e, (s.gdie d).sent.find? (fun e => e.pass == p && e.stream == k) = some e ∧ e.value < v ∧ e.at_ + 64 ≤ s.x.clk ∧
        (i = .frontierSend d p k ∨ i = .frontierHoldExpiry d p k)) →
    ∃ t, exec i s = .next t ∧ t.mem = s.mem ∧ t.x = { s.x with nextId := s.x.nextId + ps.active.length } ∧
      t.gfx.net = s.gfx.net ++ ps.active.mapIdx (fun j o => { id := s.x.nextId + j, src := d, dst := o, k := .frontier p k v }) ∧
      (t.gdie d).sent.find? (fun e => e.pass == p && e.stream == k) = some { pass := p, stream := k, value := v, at_ := s.x.clk }) ∧
  (∀ (s : State) (n c d : Nat) (q : Pkt) (ps : Pass), s.gmsg = some { id := n, src := c, dst := d, k := .pkt q } → s.working d = true → s.pass? q.pass = some ps → ps.ended = false →
    let g := s.gdie d
    let u := s.gtake
    ((g.onDie + u.pktsTo d ps.id false < 4096 ∨ 2 ^ ps.l ≤ (g.area ps.id).length) →
      ∃ t, exec .packetArrival s = .next t ∧ t.mem = s.mem ∧ t.gfx.net = s.gfx.net.eraseIdx s.sel ∧ t.gdie d = { g with store := g.store ++ [{ q with slot := none }] }) ∧
    (4096 ≤ g.onDie + u.pktsTo d ps.id false → (g.area ps.id).length < 2 ^ ps.l →
      ∃ t m, exec .packetArrival s = .next t ∧ t.gdie d = { g with store := g.store ++ [{ q with slot := some m }] } ∧ m ≤ (g.area ps.id).length ∧
        (∀ r ∈ g.area ps.id, r.slot ≠ some m) ∧ (∀ b, q.k = .prim b → t.mem = (u.ringPut d ps.asid (ps.roaVa d m) (natLe 64 b.toNat)).mem) ∧
        ((∀ b, q.k ≠ .prim b) → t.mem = s.mem))) ∧
  (∀ (s : State) (n c d p k v : Nat), s.gmsg = some { id := n, src := c, dst := d, k := .frontier p k v } →
    ∃ t, exec .frontierArrival s = .next t ∧ t.mem = s.mem ∧ t.gfx.net = s.gfx.net.eraseIdx s.sel ∧ (t.gdie d).front p k c = v ∧
      ∀ q j e, (q, j, e) ≠ (p, k, c) → (t.gdie d).front q j e = (s.gdie d).front q j e) ∧
  (∀ (d p : Nat) (s : State) (ps : Pass) (q : Pkt), s.pass? p = some ps → s.releasable d p = some q → s.passRuns p = true →
    (∃ l ∈ s.passLaunches p, l.st ≠ .recorded) →
    (∀ b tri, s.storeGet d ps q = .prim b → triSetup b = some tri →
      let u := s.setGdie d { s.gdie d with store := delFirst (fun r => r == q) (s.gdie d).store }
      let all := ps.samples d tri
      let hidden : Nat × Nat × Nat × Word → Bool := fun o => (s.pixelOf ps.id).isSome && !(s.pixFlags ps.id).dw &&
        u.hzRejects ps d (8 * (o.1 / 8)) (8 * (o.2.1 / 8)) ((all.filter (fun e => e.1 / 8 == o.1 / 8 && e.2.1 / 8 == o.2.1 / 8)).map (fun e => e.2.2.2))
      ∃ t fs, exec (.rasterisePrimitive d p) s = .next t ∧ t.mem = s.mem ∧ (t.gdie d).store = delFirst (fun r => r == q) (s.gdie d).store ∧
        (t.gdie d).frags = (s.gdie d).frags ++ fs ∧ (∀ f ∈ fs, f.st = .wait ∧ f.pass = ps.id ∧ f.token = q.token) ∧
        fs.map (fun f => (f.x, f.y, f.smp, f.depth)) = all.filter (fun o => !hidden o)) ∧
    (∀ cell, s.storeGet d ps q = .occBegin cell →
      ∃ t, exec (.rasterisePrimitive d p) s = .next t ∧ t.mem = s.mem ∧
        (t.gdie d).queries = (s.gdie d).queries ++ [{ pass := p, stream := q.stream, cell := cell, first := q.token }])) ∧
  (∀ (d p f : Nat) (s : State) (ps : Pass) (fr : Frag), s.pass? p = some ps → s.passRuns p = true → fr.fault = none →
    (s.gdie d).frags.find? (fun e => e.id == f && e.pass == p) = some fr →
    (fr.st = .wait → s.sealed p = true → (s.pixFlags p).dw = true →
      ∃ t, exec (.depthTest d p f) s = .next t ∧ t.mem = s.mem ∧
        (t.gdie d).frags = updFirst (fun e => e.id == fr.id) (fun _ => { fr with st := .ready }) (s.gdie d).frags) ∧
    (fr.st = .left → fr.trapped = true → ((s.pixFlags p).dw && earlierHolds (s.pixFlags p) fr (s.gdie d).frags) = false → (∃ l ∈ s.passLaunches p, l.st ≠ .recorded) →
      ∃ t, exec (.depthTest d p f) s = .next t ∧ t.mem = s.mem ∧ (t.gdie d).queries = (s.gdie d).queries ∧ ∀ e ∈ (t.gdie d).frags, e.id ≠ fr.id) ∧
    (∀ s0 pa, fr.st = .wait → s.sealed p = true → (s.pixFlags p).dw = false → earlierHolds (s.pixFlags p) fr (s.gdie d).frags = false →
      s.fragPage ps d fr false = .ok (s0, pa) → (∃ l ∈ s0.passLaunches p, l.st ≠ .recorded) →
      (ps.test fr.depth (s0.depthGet pa) = false →
        ∃ t, exec (.depthTest d p f) s = .next t ∧ t.mem = s0.mem ∧ (t.gdie d).queries = (s0.gdie d).queries ∧ ∀ e ∈ (t.gdie d).frags, e.id ≠ fr.id) ∧
      (ps.test fr.depth (s0.depthGet pa) = true → (s.pixFlags p).nd = false →
        ∃ t, exec (.depthTest d p f) s = .next t ∧ t.mem = s0.mem ∧
          (t.gdie d).frags = updFirst (fun e => e.id == fr.id) (fun _ => { fr with st := .ready }) (s0.gdie d).frags))) ∧
  (∀ (d p i last : Nat) (s : State) (ps : Pass) (q : Query), s.pass? p = some ps → (s.gdie d).queries[i]? = some q → q.pass = p → q.last = some last →
    (∀ e ∈ (s.gdie d).frags, e.pass = p → e.stream = q.stream → q.first ≤ e.token → e.token < last → e.st = .done) →
    let h := (s.setGdie d { s.gdie d with queries := (s.gdie d).queries.eraseIdx i }).cellHome d ps.asid q.cell
    let m : GMsg := { id := h.1.x.nextId, src := d, dst := h.2, k := .contrib p q.cell q.count 1 ps.asid (pageOf (BitVec.ofNat 64 q.cell)) }
    ∃ t, exec (.occContribution d p i) s = .next t ∧ t.mem = h.1.mem ∧ t.gfx.net = h.1.gfx.net ++ [m] ∧
      ((∀ size e, s.walk d ps.asid (BitVec.ofNat 64 q.cell) ≠ .bind size e) →
        t.mem = s.mem ∧ (t.gdie d).queries = (s.gdie d).queries.eraseIdx i ∧ t.gfx.net = s.gfx.net ++ [m])) ∧
  (∀ (s : State) (m c d p cell count n asid vpage : Nat), s.sel < 2 ^ 32 → s.gmsg = some { id := m, src := c, dst := d, k := .contrib p cell count n asid vpage } →
    s.working d = true →
    let o : CellOp := { id := s.x.nextId, pass := p, cell := cell, count := count, zero := n == 0, asid := asid }
    let r : State := { s.gtake with x := { s.x with nextId := s.x.nextId + 1 } }
    let u := r.setGdie d { r.gdie d with cells := (r.gdie d).cells ++ [o] }
    (n ≠ 0 → u.zeroAhead asid cell = true → exec .occCellUpdate s = .next u) ∧
    (∀ s1 pa, (n ≠ 0 → u.zeroAhead asid cell = false) → u.unitX d asid (BitVec.ofNat 64 cell) true o.id = (s1, .ok pa) →
      s1.pchBad pa = false → s1.lostAmong [pa] = none → s1.readable [pa] = true →
      let ps := (s1.pass? p).getD default
      let k := if n = 0 then 0 else ((ps.contribs.find? (fun c => c.1 == cell)).map (fun c => c.2)).getD 0 + 1
      let new := if n = 0 then 0 else cellAdd (s1.depthGet pa) count (k == ps.active.length)
      let w := (regsFrom pa 4).zip (natLe 4 new.toNat)
      s1.quietAll w = true →
      exec .occCellUpdate s = .next ((s1.engineWrite w { asid := some asid, vpages := [pageOf (BitVec.ofNat 64 cell)], cls := 1 }).cellDone d o k))) ∧
  (∀ (s : State) (i d : Nat) (o : CellOp), 2 ^ 32 ≤ s.sel → i = s.sel - 2 ^ 32 → s.cellOp? i = some (d, o) → exec .occCellUpdate s = .next (s.cellGo d o)) ∧
  (∀ (s : State) (d k : Nat) (o : CellOp) (ps : Pass), o.zero = false → s.pass? o.pass = some ps → (∃ l ∈ s.passLaunches o.pass, l.st ≠ .recorded) →
    (s.cellDone d o k).mem = s.mem ∧ ∃ q, (s.cellDone d o k).pass? o.pass = some q ∧ q.contribs.find? (fun c => c.1 == o.cell) = some (o.cell, k) ∧
      (k = ps.active.length → ∀ e ∈ q.opened, e.2.1 ≠ o.cell))

/-- A record at the head of a core's deque whose node exists, without a condition, starts a workgroup of its node on
that core with its words in s0 to s15, and leaves the deque; a record without a node is retired and counted. A
waiting record whose cell is final re-enters its core's deque above its threshold and is retired otherwise. A
group parked on rec.push completes its push once there is room. An idle core takes the tail-most record of the
first core of its die that has one, else asks its successors in turn; after the last it waits 1,024 clocks and
starts the next attempt. A graph launch with every feeder complete and nothing left ends with its OK record.
COMPLETION: exec answers a next state, that of its own effect, under hypotheses on the state and operands alone,
for each of graphRecordRun, waitListResolve, recPushParkRelease, stealAttempt, stealRequest, stealRetryExpiry,
graphLaunchComplete. (04_render_mesh: R120, 04_render_mesh: R121, 04_render_mesh: R122, 04_render_mesh: R123,
15_launch_scheduling: R336, 15_launch_scheduling: R342) -/
def Obligations.GraphAgents : Prop :=
  (∀ (d c l : Nat) (s : State) (g : Launch) (r : GRec) (rest : List GRec), s.launch? l = some g → g.open = true → s.dealStopped g = false →
    s.recs d c l = r :: rest → r.cond = false →
    (g.nodes[r.node]? = none → r.pass = none → r.graph = l → (∀ w ∈ s.x.wgs, w.die = d → w.core = c → ∀ h ∈ w.groups, h.park = .none) →
      ∃ t g', exec (.graphRecordRun d c l) s = .next t ∧ t.mem = s.mem ∧ t.x.core d c = (s.recDel d c r).x.core d c ∧ t.launch? l = some g' ∧
        g'.skipped = g.skipped + 1) ∧
    (∀ n pre, g.nodes[r.node]? = some n → (∀ k, (s.jobFits (g.nodeJob r n k) d c).isSome = true) → s.preload g.asid n = some pre → s.roomFor g 1 = true →
      (∀ w ∈ s.x.wgs, ∀ h ∈ w.groups, h.park = .none) →
      ∃ t w, exec (.graphRecordRun d c l) s = .next t ∧ t.mem = s.mem ∧ t.x.core d c = (s.recDel d c r).x.core d c ∧ t.x.wgs = s.x.wgs ++ [w] ∧
        w.die = d ∧ w.core = c ∧ w.launch = g.id ∧ w.stage = 4 ∧ w.node = r.node ∧ ∀ h ∈ w.groups, h.s = (r.words ++ pre ++ List.replicate 64 0).take 64)) ∧
  (∀ (d i j c : Nat) (s : State) (r : GRec) (g : Launch) (v : Word), (s.gdie d).waits.find? (fun w => w.1 == i) = some (j, c, r) → s.launch? r.graph = some g →
    s.cellVal d g.asid r.cell = some v → bit v 31 = true →
    (bits v 0 31 ≤ r.thresh → r.pass = none →
      ∃ t g', exec (.waitListResolve d i) s = .next t ∧ t.mem = s.mem ∧ (t.gdie d).waits = (s.gdie d).waits.filter (fun w => w.1 != i) ∧
        t.launch? r.graph = some g' ∧ g'.skipped = g.skipped + 1 ∧ t.x = s.x) ∧
    (r.thresh < bits v 0 31 → (s.x.core d c).deque.length < 512 →
      ∃ t, exec (.waitListResolve d i) s = .next t ∧ t.mem = s.mem ∧ (t.gdie d).waits = (s.gdie d).waits.filter (fun w => w.1 != i) ∧
        (t.x.core d c).deque = { r.plain with id := s.x.nextId, slot := none } :: (s.x.core d c).deque)) ∧
  (∀ (w g : Nat) (s : State) (wg : Wg) (gr : Group) (r : List Word) (graph : Nat), s.x.wg? w = some wg → wg.grp? g = some gr → gr.idx = g →
    gr.park = .recPush r graph → (s.x.core wg.die wg.core).deque.length < 512 →
    ∃ t w' g', exec (.recPushParkRelease w g) s = .next t ∧ t.mem = s.mem ∧ t.x.wg? w = some w' ∧ w'.grp? g = some g' ∧
      g' = { gr with park := .none, stc := gr.stc - 1 } ∧
      (t.x.core wg.die wg.core).deque = { id := s.x.nextId, graph := graph, pass := wg.passId, words := r } :: (s.x.core wg.die wg.core).deque) ∧
  (∀ (d c l : Nat) (s : State) (g : Launch), s.launch? l = some g → g.open = true → pkStage g.pkt = 4 → s.dealStopped g = false → s.idleFor d c l = true →
    let k := s.x.core d c
    (((k.steal l).pos = 0 ∧ (k.steal l).waitTo = none) →
      ((∀ j < 16, (s.x.core d j).recs l = []) →
        ∃ t, exec (.stealAttempt d c l) s = .next t ∧ t.mem = s.mem ∧ t.x.wgs = s.x.wgs ∧ ((t.x.core d c).steal l).pos = 1 ∧
          ((t.x.core d c).steal l).attempt = (k.steal l).attempt) ∧
      (∀ j r, ((stealOrder c (k.steal l).attempt).filter (fun j => s.coreWorks d j)).head? = some j → j ≠ c → s.recs d j l = [r] → r.cond = false → k.deque.length < 512 →
        (∀ w ∈ s.x.wgs, ∀ h ∈ w.groups, h.park = .none) →
        ∃ t, exec (.stealAttempt d c l) s = .next t ∧ t.mem = s.mem ∧ (t.x.core d c).deque = { r with id := s.x.nextId, slot := none } :: k.deque ∧
          t.x.core d j = (s.recDel d j r).x.core d j)) ∧
    ((k.steal l).pos ≠ 0 → (s.successors d)[(k.steal l).pos - 1]? = none →
      ∃ t, exec (.stealRequest d c l) s = .next t ∧ t.mem = s.mem ∧ ((t.x.core d c).steal l).waitTo = some (s.x.clk + 1024) ∧ ((t.x.core d c).steal l).pos = 0) ∧
    (∀ n, (k.steal l).waitTo = some n → n ≤ s.x.clk → (k.steal l).pos = 0 → (∀ j < 16, (s.x.core d j).recs l = []) →
      ∃ t, exec (.stealRetryExpiry d c l) s = .next t ∧ t.mem = s.mem ∧ ((t.x.core d c).steal l).attempt = (k.steal l).attempt + 1 ∧
        ((t.x.core d c).steal l).waitTo = none)) ∧
  (∀ (l : Nat) (s : State) (g : Launch), s.launch? l = some g → g.id = l → g.open = true → pkStage g.pkt = 4 → bits g.pkt (8 * 88) 32 ≤ g.fed →
    s.graphEmpty l = true → g.skipped = 0 → (∀ p ∈ s.gfx.passes, p.asid = g.asid → p.skipped = 0) →
    ∃ t g', exec (.graphLaunchComplete l) s = .next t ∧ t.mem = s.mem ∧ t.launch? l = some g' ∧ g'.st = .ended ∧
      t.sch.pend = s.sch.pend ++ [{ ring := ctxRing g.asid g.evr, body := recBody 0 0 g.queue 0 0 g.pidx 0, launch := some l }])

/-- A host write to existing memory goes to the home of its line as one WrThru, and a host read of a page that is
not flipping returns 64 bytes of the current value and changes nothing else. A BIRsp writes the line's dirty
data and answers the snoop. A completed host read or atomic puts its line in host memory. A flip is refused for
the bias the page has or while one is under way, else it starts, asking the host for 32 lines on the way to
device bias; it ends when they are answered. A LOST line reclaimed becomes zero and usable. LOST_CNT reads and
clears. A new number of render-target ways is refused above 24 or while one is under way, else it starts, and
ends with its record when no line is left in a changing way. An uncorrectable error of a load delivers MEM
(UNCORRECTABLE) with VOID in the registers; a failed pseudo-channel makes later accesses to its addresses fail.
COMPLETION: exec answers a next state, that of its own effect, under hypotheses on the state and operands alone,
for each of rtWaysChange, rtCarve, lineReclaim, lostCntRead, biasFlip, biasFlipComplete, birsp, hostMemrd,
hostMemwr, hostCacheCompletion, pseudoChannelFailure, uncorrectableError. (17_coherence_fabric_host: R376,
17_coherence_fabric_host: R387, 17_coherence_fabric_host: R395, 17_coherence_fabric_host: R396,
17_coherence_fabric_host: R397, 17_coherence_fabric_host: R398, 04_render_mesh: R110, 04_render_mesh: R111,
19_traps_freeze: R412, 19_traps_freeze: R414, 21_bringup_power: R438) -/
def Obligations.HostAndHomeEvents : Prop :=
  (∀ (pa n v : Nat) (s : State), s.paExists pa = true → pa % 128 + n ≤ 128 → s.homeUp pa = true →
    let b := maskData ((regsFrom pa n).zip (natLe n v))
    ∃ t, exec (.hostMemwr pa n v) s = .next t ∧ t.mem = s.mem ∧ s.Replies t .host (s.homeDie (pa / 128)) (pa / 128) (.wrThru b.1 b.2 0 {})) ∧
  (∀ (pa : Nat) (s : State), s.paExists pa = true → s.bias (s.homeKey (pa / 128)) (pa / 128) ≠ 2 →
    (∀ m ∈ s.fab.net, m.line = pa / 128 → m.src ≠ .host) → (∀ m ∈ (s.die (s.homeKey (pa / 128))).waitq, m.line = pa / 128 → m.src ≠ .host) →
    exec (.hostMemrd pa) s = .next { s with fab := { s.fab with reads := s.fab.reads ++ [(pa / 64 * 64, BitVec.ofNat 512 (s.freshNum (pa / 64 * 64) 64))] } }) ∧
  (∀ (d line dirty : Nat) (s : State), 2 * line ∈ (s.die d).snoops → s.bias d line ≠ 2 → (∀ m ∈ (s.die d).held, m.line ≠ line) →
    ∃ t, exec (.birsp d line dirty) s = .next t ∧ t.mem = (if dirty = 0 then s.mem else s.mem.putLine line (BitVec.ofNat 1024 (dirty - 1))) ∧
      (t.die d).snoops = (s.die d).snoops.filter (fun n => n != 2 * line) ++ [2 * line + 1]) ∧
  (∀ (i v : Nat) (s : State) (m : Msg), s.fab.hostReqs.find? (fun m => m.id == i) = some m →
    (∀ n ∈ s.fab.hostReqs.takeWhile (fun n => n.id != i), ¬(n.line = m.line ∧ n.src = m.src)) →
    let l := m.line - 2 ^ 45
    let u : State := { s with fab := { s.fab with hostReqs := s.fab.hostReqs.filter (fun n => n.id != i) }, host := s.host.putLine l (BitVec.ofNat 1024 v) }
    (m.k = .getS → ∃ t, exec (.hostCacheCompletion i v) s = .next t ∧ t.mem = s.mem ∧ t.host = u.host ∧ t.fab.hostReqs = u.fab.hostReqs ∧
      ∀ b ∈ u.binders (agKey m.src) m.line, ∀ a l, u.x.acc? b.1 = some a → a.lanes[b.2]? = some l → u.x.wg? a.wg ≠ none →
        ∃ a' l', t.x.acc? b.1 = some a' ∧ a'.lanes[b.2]? = some l' ∧ ∀ i, i < l.pa.length → (l.pa[i]?).getD 0 / 128 = m.line →
          (cfind i l'.part).isSome = true ∧
            ((∀ e ∈ u.x.accs, e.kind.isStore = false) → (∀ d c, (u.x.core d c).wt = []) → cfind i l.part = none →
              cfind i l'.part = some (lineByte (BitVec.ofNat 1024 v) ((l.pa[i]?).getD 0 % 128)))) ∧
    (∀ acc ops org, m.k = .atom acc ops org → ∃ t, exec (.hostCacheCompletion i v) s = .next t ∧ t.host = s.host.putLine l (atomRun (BitVec.ofNat 1024 v) ops).1) ∧
    (∀ mask d acc org, m.k = .wrThru mask d acc org → ∃ t, exec (.hostCacheCompletion i v) s = .next t ∧ t.host = s.host.putLine l (lineMerge (s.host.line l) d mask))) ∧
  (∀ (d v : Nat) (s : State), s.pkg.ready = true → s.working d = true →
    let x := BitVec.ofNat 64 v
    let p := bits x 12 34 % 2 ^ 24
    let ls := s.pageLines d p
    ((s.die d).biasBusy = true → ∃ t, exec (.biasFlip d v) s = .next t ∧ t.mem = s.mem ∧
      (t.die d).biasReject = ((s.die d).biasReject && !bit x 62 || bit x 0) ∧ (t.die d).biasBusy = true ∧ (t.die d).biasPage = bits x 12 34 ∧
      (t.die d).biasTarget = bit x 1 ∧ (t.die d).flipPage = (s.die d).flipPage ∧ (t.die d).flipHost = (s.die d).flipHost) ∧
    ((s.die d).biasBusy = false → bit x 0 = true → s.bias d (ls.headD 0) = (if bit x 1 then 1 else 0) →
      ∃ t, exec (.biasFlip d v) s = .next t ∧ t.mem = s.mem ∧ (t.die d).biasReject = true ∧ (t.die d).biasBusy = false) ∧
    ((s.die d).biasBusy = false → bit x 0 = true → s.bias d (ls.headD 0) ≠ (if bit x 1 then 1 else 0) →
      ∃ t, exec (.biasFlip d v) s = .next t ∧ (t.die d).biasBusy = true ∧ (t.die d).biasPage = bits x 12 34 ∧ (t.die d).biasTarget = bit x 1 ∧
        (t.die d).flipPage = bits x 12 34 ∧ (t.die d).flipHost = bit x 1 ∧ (bit x 1 = false → ∀ l ∈ ls, 2 * l ∈ (t.die d).snoops))) ∧
  (∀ (d : Nat) (s : State), (s.die d).biasBusy = true →
    let ls := s.pageLines d ((s.die d).flipPage % 2 ^ 24)
    (∀ l ∈ ls, 2 * l ∉ (s.die d).snoops ∧ ((s.die d).flipHost = true → s.lineMoves l = false)) → (∀ m ∈ (s.die d).held, m.line ∉ ls) →
    ∃ t, exec (.biasFlipComplete d) s = .next t ∧ (t.die d).biasBusy = false ∧ (t.die d).biasTarget = (s.die d).biasTarget) ∧
  (∀ (d v : Nat) (s : State), s.pkg.ready = true → s.working d = true → bit (BitVec.ofNat 64 v) 0 = true →
    let line := bits (BitVec.ofNat 64 v) 7 39
    let l := s.pkg.dev * 2 ^ 39 + line
    (s.isLost d l = true → line / 2 ^ 33 = d → ∃ t, exec (.lineReclaim d v) s = .next t ∧ t.mem = s.mem.putLine l 0 ∧ (t.die d).recDone = true ∧
      (t.die d).dir = cdel l (s.die d).dir ∧ l ∉ (t.die d).lostArea) ∧
    (s.isLost d l = false → ∃ t, exec (.lineReclaim d v) s = .next t ∧ t.mem = s.mem ∧ (t.die d).recNot = true ∧ (t.die d).dir = (s.die d).dir)) ∧
  (∀ (d : Nat) (s : State), s.working d = true → ∃ t, exec (.lostCntRead d) s = .next t ∧ t.mem = s.mem ∧ (t.die d).lostCnt = 0 ∧
    t.fab.reads = s.fab.reads ++ [(2 ^ 60 + (0x200000 + 65536 * d + 0x30), (BitVec.ofNat 64 (s.die d).lostCnt).setWidth 512)]) ∧
  (∀ (d v : Nat) (s : State), s.pkg.ready = true → s.working d = true →
    ((s.die d).rtBusy = true ∨ 24 < v % 32 → ∃ t, exec (.rtWaysChange d v) s = .next t ∧ t.mem = s.mem ∧ (t.die d).rtReject = true ∧
      (t.die d).rtWays = (s.die d).rtWays ∧ (t.die d).rtBusy = (s.die d).rtBusy) ∧
    ((s.die d).rtBusy = false → v % 32 ≤ 24 → ∃ t, exec (.rtWaysChange d v) s = .next t ∧ t.mem = s.mem ∧ (t.die d).rtBusy = true ∧
      (t.die d).rtNew = v % 32 ∧ (t.die d).rtWays = (s.die d).rtWays)) ∧
  (∀ (d : Nat) (s : State), (s.die d).rtBusy = true → (∀ e ∈ (s.die d).llc, e.2.way ∉ waysBetween (s.die d).rtWays (s.die d).rtNew) →
    ∃ t, exec (.rtCarve d) s = .next t ∧ t.mem = s.mem ∧ (t.die d).rtBusy = false ∧ (t.die d).rtWays = (s.die d).rtNew ∧
      t.sch.pend = s.sch.pend ++ [{ ring := dieRing d, body := recBody stRT_CARVE 0 0 1 d 0 (BitVec.ofNat 64 (s.die d).rtNew) }]) ∧
  (∀ (id : Nat) (s : State) (a : Access) (l : LaneAcc) (w : Wg) (g : Group), s.x.acc? id = some a → a.kind = .load → a.lanes = [l] → l.over = false →
    s.x.wg? a.wg = some w → w.grp? a.grp = some g → g.idx = a.grp → w.handler ≠ 0 → g.handler = false → l.lane ∈ g.live → g.Unwatched id →
    ∃ t w' g', exec (.uncorrectableError id l.lane) s = .next t ∧ t.mem = s.mem ∧ t.x.wg? a.wg = some w' ∧ w'.grp? a.grp = some g' ∧ g'.handler = true ∧
      g'.ecause = 0x400D ∧ g'.eaddr = l.va ∧ g'.ld = g.ld - 1 ∧ (g'.lane l.lane).pc = w.handler ∧
      ∀ b ∈ g.busy, b.due = .acc id → b.kind = 0 → b.lanes.getLsbD l.lane = true → b.idx < (g.lane l.lane).v.length →
        (g'.lane l.lane).reg b.idx = { val := 0, tag := tVOID }) ∧
  (∀ (d p : Nat) (s : State), ∃ t, exec (.pseudoChannelFailure d p) s = .next t ∧ t.mem = s.mem ∧
    ∀ pa, isHost pa = false → paDie pa = d → s.pchOf pa = some p → p < 64 → t.pchBad pa = true)

/-- A doorbell raises a queue's write pointer and stops the queue on an overrun, with its record; a lower value
changes nothing. A packet is fetched behind the host's writes and advances the read pointer by 2, and one that
fails its checks ends at once with BAD_PACKET. A scheduling round serves a ready launch of the highest priority
and, among those, of the queue next in turn. Placement deals the next workgroup to the die that the cursor finds
and the core chosen there, with its entry PC and preload words, and the round is over. A workgroup whose threads
and counters are done drops out, and its banks are zeroed and its place is free. A launch that is dealt and idle
ends with OK. A record is written at its ring's write pointer, which advances, and raises the interrupt at its
count; so does a record of age T. COMPLETION: exec answers a next state, that of its own effect, under
hypotheses on the state and operands alone, for each of queueDoorbell, packetFetch, schedulingRound,
workgroupPlacement, workgroupComplete, resourceRelease, launchComplete, eventRecordWrite, interruptTimeExpiry.
(15_launch_scheduling: R329, 15_launch_scheduling: R330, 15_launch_scheduling: R331, 15_launch_scheduling: R337,
15_launch_scheduling: R340, 15_launch_scheduling: R341, 15_launch_scheduling: R342, 15_launch_scheduling: R343,
15_launch_scheduling: R347, 15_launch_scheduling: R348, 02_execution: R27, 03_kernel_memory: R82) -/
def Obligations.LaunchLife : Prop :=
  (∀ (q v : Nat) (s : State), s.pkg.ready = true →
    let k := s.queue q
    let w := v % 2 ^ 64
    (w ≤ k.wr → exec (.queueDoorbell q v) s = .next s) ∧
    (k.wr < w → (k.run = false ∨ w - k.rd ≤ 2 ^ k.log2n) → ∃ t, exec (.queueDoorbell q v) s = .next t ∧ t.mem = s.mem ∧ t.x = s.x ∧ t.queue q = { k with wr := w } ∧
      t.sch.pend = s.sch.pend) ∧
    (k.wr < w → k.run = true → 2 ^ k.log2n < w - k.rd → ∃ t p, exec (.queueDoorbell q v) s = .next t ∧ t.mem = s.mem ∧
      t.queue q = { k with wr := w, run := false, stopped := true } ∧
      t.sch.pend = s.sch.pend ++ [{ ring := ctxRing k.asid k.evr, body := recBody stOVERRUN 0 q 0 0 p 0 }])) ∧
  (∀ (q : Nat) (s s1 s2 : State) (pk : BitVec 1024), (s.queue q).run = true → (s.queue q).rd + 2 ≤ (s.queue q).wr → s.hostWrites = false → s.packetAt (s.queue q) = some pk →
    s.accept q (s.queue q) pk = some s1 → s1.ctlPut (s.queue q).asid (s.queue q).rptra (natLe 8 ((s.queue q).rd + 2)) = (s2, true) →
    ∃ t, exec (.packetFetch q) s = .next t ∧ t.mem = s2.mem ∧ t.host = s2.host ∧ t.queue q = { s.queue q with rd := (s.queue q).rd + 2 } ∧ t.sch.launches = s2.sch.launches ∧
      (packetOk pk .queued = false → ∃ l, s1.sch.launches = s.sch.launches ++ [l] ∧ l.st = .ended ∧ l.queue = q ∧ l.pidx = (s.queue q).rd ∧
        s1.sch.pend = s.sch.pend ++ [{ ring := ctxRing (s.queue q).asid (s.queue q).evr, body := recBody stBAD_PACKET 0 q 0 0 (s.queue q).rd 0, launch := some l.id }])) ∧
  (∀ (s : State), (∃ k ∈ s.sch.launches, s.ready k = true) →
    ∃ t l, exec .schedulingRound s = .next t ∧ t.mem = s.mem ∧ t.x = s.x ∧ l ∈ s.sch.launches ∧ s.ready l = true ∧
      (∀ k ∈ s.sch.launches, s.ready k = true → k.prio < l.prio ∨ k.prio = l.prio ∧ s.turn l ≤ s.turn k) ∧
      t.sch.launches = s.sch.launches.map (fun k => { k with chosen := k.id == l.id }) ∧ t.sch.lastq = s.sch.lastq.set l.prio l.queue) ∧
  (∀ (l d c cur : Nat) (s : State) (k : Launch) (pre : List Word), s.launch? l = some k → k.id = l → s.preload k.asid k.pkt = some pre → pkStage k.pkt = 0 →
    k.chosen = true → s.ready k = true → (∀ j ∈ s.sch.launches, k.prio < j.prio → s.ready j = false) → pkCores k.pkt = false → pkMeshl k.pkt = false →
    s.cursorDie (k.job k.next) (fun e => (k.job k.next).stage != 1 || s.taskRoom e) s.pkgRing s.pkgRing.length s.sch.cursor = some (d, cur) →
    s.pickCore (k.job k.next) d = some c →
    ∃ t w, exec (.workgroupPlacement l) s = .next t ∧ t.mem = s.mem ∧ t.x.wgs = s.x.wgs ++ [w] ∧ t.sch.cursor = cur ∧ w.die = d ∧ w.core = c ∧
      w.launch = l ∧ w.index = k.next ∧ w.nwg = pkNwg k.pkt ∧ w.regs = pkRegs k.pkt ∧ w.groups.length = pkGroups k.pkt ∧
      (∀ g ∈ w.groups, g.s = (pre ++ List.replicate 64 0).take 64 ∧ ∀ i ∈ g.live, (g.lane i).pc = pkEntry k.pkt) ∧
      t.launch? l = some { k with next := k.next + 1, st := (if k.next + 1 = pkNwg k.pkt then .dealt else k.st), chosen := false }) ∧
  (∀ (wi : Nat) (s : State) (w : Wg), s.x.wg? wi = some w → w.st = .running → w.finished = true →
    (∀ e ∈ (s.x.core w.die w.core).stand, e.2.wg = wi → e.2.st ≠ .active) →
    ∃ t, exec (.workgroupComplete wi) s = .next t ∧ t.mem = s.mem ∧ t.x.wg? wi = some { w with st := .dropping } ∧ t.x.cores = s.x.cores) ∧
  (∀ (wi : Nat) (s : State) (w : Wg), s.x.wg? wi = some w → w.st = .dropping → (∀ e ∈ (s.x.core w.die w.core).stand, e.2.wg ≠ wi) →
    ∃ t, exec (.resourceRelease wi) s = .next t ∧ t.mem = s.mem ∧ t.x.wgs = s.x.wgs.filter (fun u => u.id != wi) ∧
      (∀ b ∈ w.allBanks, cfind b (t.x.core w.die w.core).banks = some (.zeroing (s.x.clk + 32))) ∧
      ∀ k, s.launch? w.launch = some k → t.launch? w.launch = some { k with ended := k.ended + 1 }) ∧
  (∀ (l : Nat) (s : State) (k : Launch), s.launch? l = some k → k.id = l → k.st = .dealt → pkStage k.pkt ≤ 2 → s.launchIdle l = true → k.pass.bind s.pass? = none →
    ∃ t, exec (.launchComplete l) s = .next t ∧ t.mem = s.mem ∧ t.x = s.x ∧ t.launch? l = some { k with st := .ended } ∧
      t.sch.pend = s.sch.pend ++ [{ ring := ctxRing k.asid k.evr, body := recBody stOK 0 k.queue 0 0 k.pidx 0, launch := some l }]) ∧
  (∀ (s s1 : State) (r : PendRec) (v : RingV), s.sch.pend.find? (fun r => r.ring == s.sel) = some r → s.ringV s.sel = some v → v.asid = none → v.room = true →
    (∀ p ∈ r.after, s.x.performed p.1 p.2 = true) → r.wake = none → r.launch = none →
    let a := (v.base + BitVec.ofNat 64 (32 * (v.wp % 2 ^ v.log2n))).toNat
    s.paExists a = true → s.paPut a (natLe 32 (r.body.toNat / 2 ^ 64 * 2 ^ 64 + s.time)) = (s1, true) →
    ∃ t u, exec .eventRecordWrite s = .next t ∧ t.mem = s1.mem ∧ t.sch.pend = delFirst (fun u => u == r) s1.sch.pend ∧ t.ringV s.sel = some u ∧ u.wp = v.wp + 1 ∧
      t.sch.ints = s1.sch.ints ++ (if (v.c = 0 ∧ v.t = 0) ∨ (v.c ≠ 0 ∧ v.c ≤ v.since + 1) then [v.vec] else [])) ∧
  (∀ (s : State) (v : RingV) (n : Nat), s.ringV s.sel = some v → v.oldest = some n → v.t ≠ 0 → n + 1000 * v.t ≤ s.time →
    ∃ t u, exec .interruptTimeExpiry s = .next t ∧ t.mem = s.mem ∧ t.sch.ints = s.sch.ints ++ [v.vec] ∧ t.ringV s.sel = some u ∧ u.since = 0 ∧ u.oldest = none)

/-- A write to a read-write register before READY, or off its alignment, is discarded; otherwise the register reads
the value under its field mask. Enabling a queue takes its descriptor, with read and write at READ0, or sets
REJECT; disabling leaves the pointers. Registering a context takes its roots and rings, or sets REJECT when it
is live; unregistering it refuses while a queue or a workgroup uses it, and else drops it with its translations.
An event read pointer takes the low bits written. Writes to the Rime controls act as R369 says. An entry of age
1,024 clocks leaves the open entries for the log, which advances by one, or sets OVF when the ring is full.
COMPLETION: exec answers a next state, that of its own effect, under hypotheses on the state and operands alone,
for each of registerWrite, queueEnable, queueDisable, contextRegister, contextUnregister, eventReadPointer,
rimeEnable, rimeRearm, rimeEntryExpiry. (15_launch_scheduling: R328, 15_launch_scheduling: R349,
15_launch_scheduling: R350, 15_launch_scheduling: R351, 15_launch_scheduling: R352, 15_launch_scheduling: R353,
15_launch_scheduling: R354, 15_launch_scheduling: R355, 16_translation_placement: R368,
16_translation_placement: R369) -/
def Obligations.DeviceRegisters : Prop :=
  (∀ (off v : Nat) (s : State), s.pkg.ready = false ∨ off % 8 ≠ 0 → off ≠ 0x010 → exec (.registerWrite off v) s = .next s) ∧
  (∀ (off v : Nat) (s : State), s.pkg.ready = true →
    let w := v % 2 ^ 64
    let reads (x : DWord) : Prop := ∃ t, exec (.registerWrite off v) s = .next t ∧ t.mem = s.mem ∧ t.x = s.x ∧ t.readReg off = x
    (off = 0x028 ∨ off = 0x040 ∨ off = 0x060 → reads (maskTo w 12 40)) ∧
    (off = 0x030 → reads (BitVec.ofNat 64 (w % 2 ^ 32))) ∧
    (off = 0x068 → reads (maskTo w 21 43 ||| maskTo w 0 5)) ∧
    (off = 0x078 → reads (BitVec.ofNat 64 w)) ∧
    (∀ q < 4096, off = 0x10000 + 64 * q → reads (maskTo w 6 46)) ∧
    (∀ a < 256, off = 0x100008 + 4096 * a → (s.ctx a).live = false → reads (maskTo w 6 46)) ∧
    (∀ a < 256, off = 0x100010 + 4096 * a → (s.ctx a).live = false → reads (maskTo w 12 40 ||| maskTo w 0 11)) ∧
    (∀ a < 256, off = 0x100020 + 4096 * a → (s.ctx a).rimeEn = false → reads (maskTo w 12 40)) ∧
    (∀ d < 48, off = 0x200008 + 65536 * d ∨ off = 0x200018 + 65536 * d → s.working d = true → reads (maskTo w 12 52 ||| maskTo w 0 5)) ∧
    (∀ d < 48, off = 0x200038 + 65536 * d ∨ off = 0x200048 + 65536 * d → s.working d = true → reads (maskTo w 12 40))) ∧
  (∀ (q : Nat) (s : State), s.pkg.ready = true → q < 4096 → (s.queue q).run = false → s.paExists (bits (s.queue q).desc 6 46 * 64) = true →
    let r := readQDesc (BitVec.ofNat 512 (s.freshNum (bits (s.queue q).desc 6 46 * 64) 64))
    let ok := r.rsv = false ∧ (s.ctx r.asid).live = true ∧ s.enabledOf r.asid < 64
    ∃ t, exec (.queueEnable q) s = .next t ∧ t.mem = s.mem ∧ t.x = s.x ∧
      (¬ok → t.queue q = { s.queue q with reject := true }) ∧
      (ok → t.queue q = { s.queue q with run := true, stopped := false, base := r.base, log2n := r.log2n, asid := r.asid, evr := r.evr, rptra := r.rptra, rd := r.read0, wr := r.read0 })) ∧
  (∀ (q : Nat) (s : State), s.pkg.ready = true → q < 4096 → ∃ t, exec (.queueDisable q) s = .next t ∧ t.mem = s.mem ∧ t.queue q = { s.queue q with run := false }) ∧
  (∀ (a : Nat) (s : State) (rs : List Ring), s.pkg.ready = true → a < 256 →
    let c := s.ctx a
    let tab := (List.range 48).map (fun d => BitVec.ofNat 64 (s.freshNum (bits c.roots 6 46 * 64 + 8 * d) 8))
    (c.live = true → ∃ t, exec (.contextRegister a) s = .next t ∧ t.mem = s.mem ∧ t.ctx a = { c with reject := true }) ∧
    (c.live = false → 1 ≤ bits c.evt 0 11 → bits c.evt 0 11 ≤ 1024 → s.paExists (bits c.roots 6 46 * 64) = true → s.paExists (bits c.evt 12 40 * 4096) = true →
      (∀ d ∈ s.dieOrder, (tab[d]?).getD 0 ≠ 0) → s.ringTable (bits c.evt 12 40 * 4096) (bits c.evt 0 11) = some rs →
      ∃ t, exec (.contextRegister a) s = .next t ∧ t.mem = s.mem ∧ t.ctx a = { c with live := true, rootTab := tab, rings := rs })) ∧
  (∀ (a : Nat) (s : State), s.pkg.ready = true → a < 256 →
    let used := (∃ e ∈ s.sch.queues, e.2.run = true ∧ e.2.asid = a) ∨ ∃ w ∈ s.x.wgs, w.asid = a
    (used → ∃ t, exec (.contextUnregister a) s = .next t ∧ t.mem = s.mem ∧ t.ctx a = { s.ctx a with reject := true }) ∧
    (¬used → ∃ t, exec (.contextUnregister a) s = .next t ∧ t.mem = s.mem ∧ (t.ctx a).live = false ∧ (t.ctx a).rootTab = [] ∧
      (∀ e ∈ t.x.cores, ∀ b ∈ e.2.tlb, b.asid ≠ a) ∧ ∀ e ∈ t.fab.dies, ∀ b ∈ e.2.tlb, b.asid ≠ a)) ∧
  (∀ (a v : Nat) (s : State) (k : Ring), s.pkg.ready = true → a < 256 → (s.ctx a).rings[v / 2 ^ 54 % 1024]? = some k →
    ∃ t, exec (.eventReadPointer a v) s = .next t ∧ t.mem = s.mem ∧
      (t.ctx a).rings = (s.ctx a).rings.set (v / 2 ^ 54 % 1024) { k with rp := k.wp / 2 ^ 54 * 2 ^ 54 + v % 2 ^ 54 }) ∧
  (∀ (a v : Nat) (s : State), s.pkg.ready = true → a < 256 →
    let c := s.ctx a
    (c.rimeEn = true → v % 32 ≠ c.rimeLog2 → ∃ t, exec (.rimeEnable a v) s = .next t ∧ t.mem = s.mem ∧ t.ctx a = c) ∧
    (c.rimeEn = false ∨ v % 32 = c.rimeLog2 → ∃ t, exec (.rimeEnable a v) s = .next t ∧ t.mem = s.mem ∧ (t.ctx a).rimeLog2 = v % 32 ∧
      (t.ctx a).rimeEn = (v / 2 ^ 63 % 2 == 1) ∧ (t.ctx a).rimeOvf = c.rimeOvf) ∧
    (∃ t, exec (.rimeRearm a) s = .next t ∧ t.mem = s.mem ∧ t.ctx a = { c with rimeOvf := false })) ∧
  (∀ (a page n : Nat) (s : State) (cls : BitVec 4) (lines : BitVec 32), (s.ctx a).rimeOpen.find? (fun e => e.1 == page) = some (page, cls, lines, n) →
    n + 1024 ≤ s.x.clk → (s.ctx a).rimeOvf = false →
    let c := s.ctx a
    let used := (c.rimeCur - c.rimeRd).toNat
    (2 ^ c.rimeLog2 ≤ used → ∃ t, exec (.rimeEntryExpiry a page) s = .next t ∧ t.mem = s.mem ∧
      t.ctx a = { c with rimeOvf := true, rimeOpen := c.rimeOpen.filter (fun e => e.1 != page) }) ∧
    (used < 2 ^ c.rimeLog2 → s.paExists (bits c.rimeBase 12 40 * 4096 + 16 * (c.rimeCur.toNat % 2 ^ c.rimeLog2)) = true →
      ∃ t, exec (.rimeEntryExpiry a page) s = .next t ∧ t.ctx a = { c with rimeCur := c.rimeCur + 1, rimeOpen := c.rimeOpen.filter (fun e => e.1 != page) }))

/-- A walk that finds a leaf caches it and translates the lane that waited; one that finds no mapping holds the lane
with code NOT_MAPPED and tells the driver once. A first touch takes the frame at the head of the target die's
pool, zero-fills it and writes the leaf of every replica; with an empty pool the access is held with POOL_EMPTY.
A write to a replicated page starts one collapse of it; a collapse whose replicas are free ends with its record.
REPLAY lets the held lanes wait for a walk again, DELIVER traps them with the fault's code and address, KILL
ends the fault domain; an answer to nothing sets REJECT. A doorbell publishes commands and an overrun stops the
engine; WRITE, SHOOT, MIGRATE and FLUSH execute once each, drop what they must, and are done when every stale
access is performed, writing DONE; FLUSH of one line writes its current value to memory and leaves no copy of
it, while a line of the page is in transit they hold the page's accesses, and MIGRATE puts the masked lines of
the page into the new frame and the new leaf into every replica; a reserved command writes DONE with bit 63 and
does nothing else. COMPLETION: exec answers a next state, that of its own effect, under hypotheses on the state
and operands alone, for each of pageWalk, firstTouchBind, replCollapse, replCollapseComplete, write, shoot,
migrate, flush, tueDoorbell, tueCtlWrite, tueReservedCommand, tueDone, replay, deliver, faultKill.
(05_tensor_mesh: R137, 16_translation_placement: R359, 16_translation_placement: R361, 16_translation_placement:
R365, 16_translation_placement: R366, 16_translation_placement: R370, 10_isa_memory_control: R249,
19_traps_freeze: R411, 19_traps_freeze: R412, 19_traps_freeze: R413, 19_traps_freeze: R414) -/
def Obligations.TranslationEvents : Prop :=
  (∀ (s : State) (a : Access) (l : LaneAcc) (w : Wg) (e : Tlb) (va : DWord), s.x.acc? s.sel = some a → a.kind = .load ∨ a.kind = .store → a.lanes = [l] →
    s.x.wg? a.wg = some w → s.walkLane a w = some (0, .walk va) →
    (s.walk w.die w.asid va = .ok e → (∃ e' pa, xlateLeaf e va a.kind.writes false = .ok e' pa) →
      ∃ t, exec .pageWalk s = .next t ∧ t.mem = s.mem ∧ t.cached w.die w.core w.asid va = some e) ∧
    (s.walk w.die w.asid va = .notMapped →
      ∃ t b l' i, exec .pageWalk s = .next t ∧ t.mem = s.mem ∧ t.x.acc? s.sel = some b ∧ b.lanes = [l'] ∧ l'.st = .fault 1 i va ∧
        ∃ n c, t.sch.pend = s.sch.pend ++ [{ ring := faultRing, body := faultBody 0x4001 w.asid w.die i va n w.lcore c }]) ∧
    (∀ (size : Nat) (x : DWord), s.walk w.die w.asid va = .bind size x → s.bindPage w.die w.asid va size x = none →
      ∃ t b l' i, exec .firstTouchBind s = .next t ∧ t.mem = s.mem ∧ t.x.acc? s.sel = some b ∧ b.lanes = [l'] ∧ l'.st = .fault 12 i va) ∧
    (∀ (size : Nat) (x : DWord), s.walk w.die w.asid va = .bind size x →
      let d := s.bindDie w.die va x
      let p := (s.die d).pool size
      let dev := s.pkg.dev * 2 ^ 46
      let frame := dev + s.freshNum (dev + p.1 % 2 ^ 46 + 8 * (p.2.2.1 % 2 ^ p.2.1)) 8 % 2 ^ 46 / 4096 * 4096
      let u := s.setDie d ((s.die d).poolHead size ((p.2.2.1 + 1) % 2 ^ 32))
      let r := (u.zeroRange frame (2 ^ size)).setLeaf w.asid va (fun _ old => ptePlace old d frame (ptePlc x))
      s.working d = true → p.2.1 ≠ 0 → p.2.2.1 ≠ p.2.2.2 →
      ((u.die d).pool size).2.2.1 = (p.2.2.1 + 1) % 2 ^ 32 ∧ (∀ k, frame ≤ k → k < frame + 2 ^ size → (u.zeroRange frame (2 ^ size)).mem.get k = 0) ∧
      ∃ t, exec .firstTouchBind s = .next t ∧ t.mem = r.mem ∧ t.fab = r.fab ∧ t.tue = r.tue)) ∧
  (∀ (s : State) (a : Access) (w : Wg) (k : Nat) (va : DWord), s.x.acc? s.sel = some a → s.x.wg? a.wg = some w → s.walkLane a w = some (k, .collapse va) →
    (∀ c ∈ s.tue.collapse, ¬(c.asid = w.asid ∧ c.va = pageOf va)) →
    ∃ t home, exec .replCollapse s = .next t ∧ t.mem = s.mem ∧ t.x = s.x ∧
      t.tue.collapse = s.tue.collapse ++ [{ asid := w.asid, va := pageOf va, home := home, acc := a.id }]) ∧
  (∀ (s s1 : State) (c : Collapse) (rest : List Collapse), s.tue.collapse = c :: rest →
    s.collapsePage c.asid (sext64 57 (c.va * 4096)) (match s.walk c.home c.asid (sext64 57 (c.va * 4096)) with | .ok e => e.size | _ => 12) = some s1 →
    ∃ t, exec .replCollapseComplete s = .next t ∧ t.mem = s1.mem ∧ t.tue.collapse = rest) ∧
  (∀ (i : Nat) (s : State), s.pkg.ready = true → s.faultAcc i = none → s.faultReq i = none → s.faultFrag i = none → s.faultCell i = none → ∀ j, j = .replay i ∨ j = .deliver i ∨ j = .faultKill i →
    exec j s = .next { s with sch := { s.sch with fltReject := true } }) ∧
  (∀ (i code : Nat) (va : DWord) (s : State) (a : Access) (l : LaneAcc) (w : Wg) (g : Group) (k0 : Launch), s.pkg.ready = true → s.faultAcc i = some (a, [l.lane], code, va) →
    s.x.acc? a.id = some a → a.kind = .load → a.lanes = [l] → l.st = .fault code i va → s.x.wg? a.wg = some w → w.grp? a.grp = some g → g.idx = a.grp →
    (w.handler ≠ 0 → g.handler = false → l.lane ∈ g.live → g.Unwatched a.id →
      ∃ t w' g', exec (.deliver i) s = .next t ∧ t.mem = s.mem ∧ t.x.wg? a.wg = some w' ∧ w'.grp? a.grp = some g' ∧ g'.handler = true ∧
        g'.ecause = BitVec.ofNat 32 (0x4000 + code) ∧ g'.eaddr = va ∧ g'.ld = g.ld - 1) ∧
    (s.rangeX w false false l.va a.width = .walk va →
      ∃ t b, exec (.replay i) s = .next t ∧ t.mem = s.mem ∧ t.x.acc? a.id = some b ∧ b.at_ = s.x.nextId ∧ b.lanes = [{ l with st := .wait, inq := false }]) ∧
    (s.launch? w.launch = some k0 → k0.open = true → k0.id = w.launch → k0.rcbs ≠ [] → (∀ l ∈ s.sch.launches, l.id = k0.id → l = k0) →
      ∃ t, exec (.faultKill i) s = .next t ∧ t.mem = s.mem ∧ (∀ u ∈ t.x.wgs, u.launch ≠ w.launch) ∧
        ∃ p ∈ t.sch.pend, p.launch = some k0.id ∧ p.body = recBody stFAULT (0x4000 + code) k0.queue 0 0 k0.pidx va)) ∧
  (∀ (v : Nat) (s : State), s.pkg.ready = true →
    let w := v % 2 ^ 64
    (s.tue.wr < w → ∃ t, exec (.tueDoorbell v) s = .next t ∧ t.mem = s.mem ∧ t.x = s.x ∧
      t.tue = { s.tue with wr := w, stopped := s.tue.stopped || decide (2 ^ s.tue.log2n < w - s.tue.rd) }) ∧
    (w ≤ s.tue.wr → exec (.tueDoorbell v) s = .next s) ∧
    ∃ t, exec (.tueCtlWrite v) s = .next t ∧ t.mem = s.mem ∧ t.tue = { s.tue with log2n := v % 32, wr := s.tue.rd, stopped := false }) ∧
  (∀ (s : State) (pa : Nat) (op : Instr) (k : Nat), s.tuePa = some pa → s.paExists pa = true →
    let c := BitVec.ofNat 256 (s.freshNum pa 32)
    (op = .write ∧ k = 1 ∨ op = .shoot ∧ k = 2 ∨ op = .migrate ∧ k = 3 ∨ op = .flush ∧ k = 4) →
    (tcReserved c = false → bits c 0 4 ≠ k → exec op s = .next s) ∧
    (tcReserved c = false → bits c 0 4 = k → k ≤ 2 ∨ s.tueFrame (bits c 4 8) (c.extractLsb' 64 64) = none →
      ∃ t, exec op s = .next t ∧ t.tue.rd = s.tue.rd + 1 ∧ t.tue.doing = some (s.tue.rd, c) ∧
        (k = 2 → t.mem = s.mem ∧ (bits c 32 32 = 0 → ∀ e ∈ t.x.cores, ∀ b ∈ e.2.tlb, b.asid = bits c 4 8 → 2 ^ 57 ≤ b.vpn * 2 ^ b.size)) ∧
        (k = 4 → t.mem = s.mem)) ∧
    (tcReserved c = false → ∀ f, s.tueFrame (bits c 4 8) (c.extractLsb' 64 64) = some f →
      let ls := ((maskLines (bits c 32 32)).map (fun k => f / 128 + k)).filter (fun l => !s.isLost (s.homeKey l) l)
      let new := pteFrame (c.extractLsb' 128 64)
      let idle : Prop := (∀ e ∈ s.fab.dies, (∀ m ∈ e.2.waitq, m.line / 32 ≠ f / 4096) ∧ (∀ m ∈ e.2.held, m.line / 32 ≠ f / 4096) ∧
        (∀ p ∈ e.2.again, p.2.line / 32 ≠ f / 4096) ∧ ∀ v ∈ e.2.llc, v.1 / 32 = f / 4096 → v.2.st.stable = true) ∧ ∀ e ∈ s.fab.slices, e.1 / 32 ≠ f / 4096
      ((∃ l ∈ ls, s.lineMoves l = true) → bits c 0 4 = 4 → exec .flush s = .next (s.holdPage f)) ∧
      (bits c 0 4 = 4 → idle → (∀ l ∈ ls, s.lineMoves l = false) →
        ∃ t, exec .flush s = .next t ∧ t.tue.rd = s.tue.rd + 1 ∧ t.tue.doing = some (s.tue.rd, c) ∧ t.tue.wait = [] ∧
          ∀ l, ls = [l] → t.mem = s.mem.putLine l (s.freshLine l) ∧ (s.subbed (s.homeKey l) l = false → ∀ d, t.llc? d l = none)) ∧
      ((∃ l ∈ pageOn f, s.lineMoves l = true) → bits c 0 4 = 3 → s.paExists new = true → exec .migrate s = .next (s.holdPage f)) ∧
      (bits c 0 4 = 3 → s.paExists new = true → idle → (∀ l ∈ pageOn f, s.lineMoves l = false) → (∀ l ∈ pageOn new, s.lineMoves l = false ∧ s.lineBusy l = false) →
        ∃ t u : State, exec .migrate s = .next t ∧ t.tue.rd = s.tue.rd + 1 ∧ t.tue.doing = some (s.tue.rd, c) ∧ t.tue.hold = none ∧
          t.mem = (u.setLeaf (bits c 4 8) (c.extractLsb' 64 64) (fun _ _ => c.extractLsb' 128 64)).mem ∧
          (f ≠ new → f % 4096 = 0 → (s.fab.dies.map (fun e => e.1)).Pairwise (· < ·) →
            (∀ k < 32, s.isLost (s.homeKey (f / 128 + k)) (f / 128 + k) = false ∧ ∀ h, s.homeDie (f / 128 + k) = .die h → s.working h = true) →
            ∀ k ∈ maskLines (bits c 32 32), u.mem.line (new / 128 + k) = s.freshLine (f / 128 + k)))) ∧
    (tcReserved c = true → s.paExists (bits c 192 52) = true → ∀ s1, s.paPut (bits c 192 52) (natLe 8 (2 ^ 63 + s.tue.rd % 2 ^ 63)) = (s1, true) →
      ∃ t, exec .tueReservedCommand s = .next t ∧ t.mem = s1.mem ∧ t.x = s1.x ∧ t.tue = { s1.tue with rd := s1.tue.rd + 1 })) ∧
  (∀ (s s1 : State) (i : Nat) (c : BitVec 256), s.tue.doing = some (i, c) → (∀ n ∈ s.tue.wait, s.accFree n = true) → s.paExists (bits c 192 52) = true →
    s.paPut (bits c 192 52) (natLe 8 i) = (s1, true) →
    ∃ t, exec .tueDone s = .next t ∧ t.mem = s1.mem ∧ t.tue = { s1.tue with doing := none, wait := [] })

/-- Words of the manual, of every family and format, decode to their instruction with each field as its bits say:
integer and floating-point words, literals, conversions, loads, stores, a scratchpad atomic, a standing load, a
copy, a fence, branches, mask joins and waits, a barrier, a wait, exit, a special register, a mesh send, nop.
(08_encoding: R188, 09_isa_arith: R210, 09_isa_arith: R214, 09_isa_arith: R242, 10_isa_memory_control: R250,
10_isa_memory_control: R255, 10_isa_memory_control: R261, 10_isa_memory_control: R267, 10_isa_memory_control:
R268, 10_isa_memory_control: R271, 07_ordering: R168, 11_isa_matrix_graphics_system: R312) -/
def Obligations.SpecWordsDecode : Prop :=
  decode 0x01080017 0x00000000 = .ok (.addI { d := 4, a := 0, b := 2, g := 7 }) ∧
  decode 0x040C0017 0x00000000 = .ok (.addcN { d := 6, a := 0, b := 2, g := 7 }) ∧
  decode 0x02040801 0x00000000 = .ok (.addIImm { d := 2, a := 2, imm := 1 }) ∧
  decode 0x37060417 0x0E000001 = .ok (.xint { d := 3, a := 1, b := 2, g := 7, c := 0x0E000001 }) ∧
  decode 0x6F04000F 0x30000038 = .ok (.xflt { d := 2, a := 0, b := 1, g := 7, c := 0x30000038 }) ∧
  decode 0x3406001F 0x3FC00000 = .ok (.movLit { d := 3, a := 0, f7 := 3, g := 7, lit := 0x3FC00000 }) ∧
  decode 0x61182007 0xA001802A = .ok (.cvt { d := 12, a := 8, b := 0, g := 7, c := 0xA001802A }) ∧
  decode 0x70060827 0x080C0040 = .ok (.ld { d := 3, a := 2, b := 4, g := 7, c := 0x080C0040 }) ∧
  decode 0x720C0827 0x08000040 = .ok (.st { d := 6, a := 2, b := 4, g := 7, c := 0x08000040 }) ∧
  decode 0x710A231F 0x00000000 = .ok (.ldw { d := 5, a := 8, hint := 3, off := 3, g := 7 }) ∧
  decode 0x7904183F 0x28040000 = .ok (.atoms { d := 2, a := 6, b := 7, g := 7, c := 0x28040000 }) ∧
  decode 0x7A10C30F 0x00000000 = .ok (.standSub { x := 1, a := 6, b := 12, f := 1, g := 7 }) ∧
  decode 0x7F008207 0x00000000 = .ok (.copy { x := 0, a := 4, b := 8, f := 0, g := 7 }) ∧
  decode 0x8F040427 0x00000000 = .ok (.fence { d := 2, a := 1, b := 4, g := 7 }) ∧
  decode 0x90200003 0x00000000 = .ok (.bra { g := 1, off := 3 }) ∧
  decode 0x95100007 0x00000000 = .ok (.mjoin { x := 1, a := 0, b := 0, f := 0, g := 7 }) ∧
  decode 0x97100007 0x00000000 = .ok (.mwait { x := 1, a := 0, b := 0, f := 0, g := 7 }) ∧
  decode 0x9A206157 0x00000000 = .ok (.barSync { x := 2, a := 3, b := 5, f := 2, g := 7 }) ∧
  decode 0x9D000007 0x00FFF020 = .ok (.wait { d := 0, a := 0, b := 0, g := 7, c := 0x00FFF020 }) ∧
  decode 0x94000007 0x00000000 = .ok (.exit { d := 0, a := 0, b := 0, g := 7 }) ∧
  decode 0xF40200CF 0x00000000 = .ok (.sregRd { x := 0, a := 16, b := 3, f := 1, g := 7 }) ∧
  decode 0xE9110007 0x00000000 = .ok (.nbrSend { x := 1, a := 8, b := 0, f := 0, g := 7 }) ∧
  decode 0xFA000007 0x00000000 = .ok (.nop { d := 0, a := 0, b := 0, g := 7 }) ∧
  opcode 0x01080017 = 0x01

/-- For every instruction whose reserved bits are zero and whose fields hold values that the manual defines, its
words exist, carry its opcode in bits [31:24] of the first, and decode to it, with every operand at every value
that the encoding admits; and what is decoded is the word's instruction and no other, so no two instructions
share their words. (08_encoding: R188, 08_encoding: R195, 08_encoding: R196) -/
def Obligations.DecodeEncode : Prop :=
  (∀ i : Instr, WellFormed i → ∃ w w2, encode i = some (w, w2) ∧ decode w w2 = .ok i ∧
    ∃ op f, i.enc = some (op, f) ∧ opcode w = op.toNat ∧ (twoWords op.toNat = false → w2 = 0)) ∧
  ∀ (i j : Instr) (w w2 : Word), encode i = some (w, w2) → encode j = some (w, w2) → i = j

/-- Whatever decodes is well-formed and encodes to the word it came from, and to the second word where it has one. A
word is refused as unassigned exactly if its opcode is 0x00, 0xFF or one that the map leaves out; otherwise, if
a bit that no form of its opcode uses is set, or a field that its own form does not use is not zero, as a
reserved bit, and else, if a used field holds an undefined value, as a reserved field; and it decodes in every
other case. (08_encoding: R188, 08_encoding: R195, 08_encoding: R196, 08_encoding: R197) -/
def Obligations.EncodeDecode : Prop :=
  (∀ (w w2 : Word) (i : Instr), decode w w2 = .ok i →
    WellFormed i ∧ ∃ v2, encode i = some (w, v2) ∧ (twoWords (opcode w) = true → v2 = w2) ∧ (twoWords (opcode w) = false → v2 = 0)) ∧
  ∀ w w2 : Word,
    let op := opcode w
    let assigned := (1 ≤ op ∧ op ≤ 0x61) ∨ (0x6F ≤ op ∧ op ≤ 0x7F) ∨ (0x8F ≤ op ∧ op ≤ 0x9F) ∨ (0xA8 ≤ op ∧ op ≤ 0xB0) ∨ (0xC8 ≤ op ∧ op ≤ 0xD4) ∨
      (0xE8 ≤ op ∧ op ≤ 0xED) ∨ (0xF4 ≤ op ∧ op ≤ 0xFA)
    let reserved := w &&& rsvMask1 op ≠ 0 ∨ w2 &&& rsvMask2 op ≠ 0
    (¬assigned → decode w w2 = .error .unassigned) ∧
    (assigned → reserved → decode w w2 = .error .reservedBits) ∧
    (assigned → ¬reserved → ∃ i, i.enc.isSome = true ∧ decode w w2 =
      (if i.unusedOk = false then .error .reservedBits else if i.fieldsOk then .ok i else .error .reservedField))

/-- When the words at a selected slot's PC, after the header of a clause where its threads are between clauses,
decode to an instruction that fits its clause and the clause's class, step is exec of that instruction in the
state whose current slot this is. Words that fail a check of R195 trap with its code. With no slot left, step is
exec of the agenda's next event, and with no agenda, of the machine's own next event. (02_execution: R27,
02_execution: R33, 08_encoding: R184, 08_encoding: R186, 08_encoding: R195) -/
def Obligations.StepRunsDecodedInstruction : Prop :=
  (∀ (s : State) (sl : Slot) (rest : List Slot) (w : Wg) (g : Group) (l0 : Nat) (r : List Nat),
    s.slots = sl :: rest → s.x.wg? sl.wg = some w → w.grp? sl.grp = some g → (lanesOf sl.lanes).filter (fun l => (g.lane l).st == .live) = l0 :: r →
    let cl := (g.lane l0).cl
    let runs (hdr : Option Clause) (i : Instr) : Prop := step s = exec i { s with slots := rest, x := { s.x with cur := some { sl with hdr := hdr } } }
    let fits (cl : Clause) (pc : DWord) (i : Instr) : Prop := ∃ w1 w2, s.codeWord w pc = some w1 ∧ decode w1 w2 = .ok i ∧
      (if twoWords (opcode w1) then s.codeWord w (pc + 4) = some w2 ∧ 2 ≤ cl.left else w2 = 0) ∧ (cl.ec = 7 ∨ eclassOf (opcode w1) = cl.ec)
    (∀ i, cl.left ≠ 0 → fits cl sl.pc i → runs none i) ∧
    (∀ i h, cl.left = 0 → s.codeWord w sl.pc = some h → headerOk h = true → fits (clauseOf h) (sl.pc + 4) i → runs (some (clauseOf h)) i) ∧
    (∀ hdr pc guard code, (s.parse w sl.pc cl).2 = .bad hdr pc guard code →
      let gh := g.onLanes (l0 :: r) (fun _ t => t.open_ hdr)
      let ex := (l0 :: r).filter (fun l => (gh.lane l).pred guard)
      step s = .next (({ s with slots := rest } : State).trapAt sl w.id g gh l0 (if ex = [] then l0 :: r else ex) pc { cls := 1, code := code })) ∧
    (∀ h, cl.left = 0 → s.codeWord w sl.pc = some h → headerOk h = false → (s.parse w sl.pc cl).2 = .bad none sl.pc 7 2)) ∧
  (∀ (s : State) (n : Nat) (i : Instr) (rest : List (Nat × Instr)), s.slots = [] → s.agenda = (n, i) :: rest → step s = exec i { s with agenda := rest, sel := n }) ∧
  (∀ s : State, s.slots = [] → s.agenda = [] → step s = exec s.nextEvent.2 { s with sel := s.nextEvent.1, x := { s.x with free := s.x.free + 1 } })

/-- At reset the package has no power, and READY, FAIL, STEP, FCODE and GEN are zero; no die is mapped in; no
workgroup, queue, launch, context, pass or message exists; memory lists nothing; and the memory invariant holds.
Slots, SVN and rail minima at reset are the model's choices (assumptions 7 and 8): both firmware slots empty,
MIN_SVN 0, MV 0xFFFF. (21_bringup_power: R432, 21_bringup_power: R433, 21_bringup_power: R435, 21_bringup_power:
R444, 22_fleet: R450) -/
def Obligations.ResetState : Prop :=
  let s := State.reset
  s.pkg.power = false ∧ s.pkg.ready = false ∧ s.pkg.fail = false ∧ s.pkg.step = 0 ∧ s.pkg.fcode = 0 ∧ s.pkg.gen = 0 ∧
  (∀ d, s.dmap d = 0 ∧ s.working d = false) ∧ s.x.wgs = [] ∧ s.x.accs = [] ∧ s.x.reqs = [] ∧ s.slots = [] ∧ s.agenda = [] ∧
  s.sch.launches = [] ∧ (∀ q, (s.queue q).run = false) ∧ (∀ a, (s.ctx a).live = false) ∧ s.gfx.passes = [] ∧ s.fab.net = [] ∧ s.tue.stopped = false ∧
  (∀ a, s.mem.get a = 0 ∧ s.host.get a = 0) ∧ (∀ i, (s.island i).mv = 0xFFFF ∧ (s.island i).on = false) ∧ s.pkg.minSvn = 0 ∧ s.pkg.fwSlots = [[], []] ∧
  s.Inv

/-- From every state in which the pod's memory and the host's memory are in canonical form, with rising addresses
and no byte listed that an unlisted address reads as, a step that answers a next state leaves both in that form,
whichever instruction, trap or hardware event the step runs. (00_scope: R2, 16_translation_placement: R357,
17_coherence_fabric_host: R372, 19_traps_freeze: R404) -/
def Obligations.InvariantKept : Prop :=
  ∀ s t : State, s.Inv → step s = .next t → t.Inv

/-- When an encoded instruction answers a next state, every byte of the pod's and of the host's memory is unchanged,
since stores take effect at L1 later; the seven instructions that may put a record into a ring in memory
(task.amp, rec.push, rec.pop) or bind a first-touch page (occ.begin and the bde requests) leave it unchanged
wherever they do neither: with room in the queue and no ring in use, with room in the deque, with no group
parked on rec.push, with no page to bind. When an instruction of the integer or floating-point class that
enables no trap completes, the memories, caches, fabric, queues, accesses and requests are unchanged, and so is
every other workgroup; in its own workgroup the scratchpad, barriers, signatures, accumulator handles and every
other group are, and in its group the masks, the trap registers, every lane that does not execute it, and every
vector, uniform and predicate register that is no destination. (02_execution: R29, 06_numbers: R150,
07_ordering: R160, 08_encoding: R189, 09_isa_arith: R206, 10_isa_memory_control: R250) -/
def Obligations.Frames : Prop :=
  (∀ (i : Instr) (s t : State), i.enc ≠ none → exec i s = .next t →
    (∀ f c y, i = .taskAmp f → s.pick i = some (c, y) → (s.gdie c.w.die).ring = [] ∧ (s.gdie c.w.die).amp.length < 8192) →
    (∀ f c y, i = .recPush f → s.pick i = some (c, y) → (s.x.core c.w.die c.w.core).deque.length < 512) →
    (∀ f, i = .recPop f → ∀ w ∈ s.x.wgs, ∀ g ∈ w.groups, ∀ r n, g.park ≠ .recPush r n) →
    (∀ f, i = .occBegin f ∨ i = .bdeGather f ∨ i = .bdeReduce f ∨ i = .bdeCvt f → ∀ d a va size e, s.walk d a va ≠ .bind size e) →
    t.mem = s.mem ∧ (∀ a, t.mem.get a = s.mem.get a) ∧ t.host = s.host) ∧
  (∀ (i : Instr) (op : BitVec 8) (f : Fmt) (s t : State) (c : Cx) (y : Bool), i.enc = some (op, f) → eclassOf op.toNat ≤ 1 → s.Selected i c y → s.Placed c →
    enables c.fmode = 0 → exec i s = .next t →
    SameOutside s t ∧ t.sch = s.sch ∧ t.tue = s.tue ∧ t.x.accs = s.x.accs ∧ t.x.reqs = s.x.reqs ∧ (∀ k, k ≠ c.w.id → t.x.wg? k = s.x.wg? k) ∧
    ∃ w g, t.x.wg? c.w.id = some w ∧ w.grp? c.g.idx = some g ∧ (∀ k, k ≠ c.g.idx → w.grp? k = c.w.grp? k) ∧
      w.scratch = c.w.scratch ∧ w.bs = c.w.bs ∧ w.ks = c.w.ks ∧ w.hs = c.w.hs ∧ w.cs = c.w.cs ∧ w.qs = c.w.qs ∧ w.ts = c.w.ts ∧
      g.m = c.g.m ∧ g.handler = c.g.handler ∧ g.ecause = c.g.ecause ∧ g.eaddr = c.g.eaddr ∧ g.eskid = c.g.eskid ∧
      (∀ r, (1, r) ∉ dests i → g.s[r]? = c.g.s[r]?) ∧
      (∀ l, l ∉ c.ex → g.lane l = c.g.lane l) ∧
      (∀ l r, (0, r) ∉ dests i → (g.lane l).reg r = (c.g.lane l).reg r) ∧
      (∀ l p, (2, p) ∉ dests i → (g.lane l).p.getLsbD p = (c.g.lane l).p.getLsbD p) ∧
      ∀ l, (g.lane l).pc = (c.g.lane l).pc ∧ (g.lane l).st = (c.g.lane l).st)

/-- A register field out of range, an odd register of a pair, a void operand or one of the wrong tag makes any
instruction take the trap of the first failing check, with none of its own effect. Where the workgroup has a
handler and the group is not in it, the trapping threads save the address of the instruction, their resume point
and their predicates, and stand at the handler; sp.ecause and sp.eaddr hold the trap; memory, caches and queues
are unchanged, and so are all registers. (06_numbers: R147, 08_encoding: R189, 08_encoding: R195, 08_encoding:
R198, 19_traps_freeze: R404, 19_traps_freeze: R406) -/
def Obligations.ChecksTrap : Prop :=
  (∀ (i : Instr) (s : State) (c : Cx) (y : Bool) (t : Trap), i.enc ≠ none → s.pick i = some (c, y) → s.checks i = some t → s.Traps i c t) ∧
  (∀ (regs : Nat) (r : RegF) (rs : List RegF), (kindLimit regs r.kind ≤ r.idx → regCheck regs (r :: rs) = some { cls := 1, code := 7 }) ∧
    (r.idx < kindLimit regs r.kind → r.idx % r.n ≠ 0 → regCheck regs (r :: rs) = some { cls := 1, code := 8 }) ∧
    (r.idx < kindLimit regs r.kind → r.idx % r.n = 0 → regCheck regs (r :: rs) = regCheck regs rs)) ∧
  (∀ (i : Instr) (s : State) (c : Cx) (y : Bool) (t : Trap), s.pick i = some (c, y) → s.Placed c → c.w.handler ≠ 0 → c.g.handler = false →
    let ht := if c.ex = [] then c.iss else c.ex
    (c.w.stage ≠ 3 ∨ t.cls ≠ 8 → SameOutside s (s.trapped c t)) ∧ (s.trapped c t).mem = s.mem ∧ (s.trapped c t).fab = s.fab ∧ (s.trapped c t).sch = s.sch ∧ ∃ g, (s.trapped c t).grpOf c = some g ∧ g.handler = true ∧
      g.ecause = BitVec.ofNat 32 (4096 * t.cls + t.code + 65536 * t.n) ∧ g.eaddr = t.addr ∧ g.eskid = 0 ∧ g.s = c.g.s ∧ g.m = c.g.m ∧ g.fmode = c.g.fmode ∧
      (∀ l, (g.lane l).v = (c.g.lane l).v) ∧
      ∀ l ∈ ht, (g.lane l).inH = true ∧ (g.lane l).epc = c.pc ∧ (g.lane l).pc = c.w.handler ∧ (g.lane l).cl = {} ∧ (g.lane l).resP = (c.g.lane l).p ∧
        (g.lane l).resPc = (c.g.lane l).pc - (if t.after then 0 else BitVec.ofNat 64 (4 * wordsOf i)))

/-- A command written while one runs sets REJECT and does nothing else; before READY it is discarded. DRAIN stops
the context's queues. FREEZE also freezes its running workgroups. KILL leaves no workgroup of the context, stops
its queues and is done at once. RESUME of bytes that are no image ends with BAD_PACKET; of an image with no
workgroup it brings the launches and the cursor of the write log back and is done; a resumed workgroup that fits
runs again with its registers, masks, PCs and partition. A drain whose deadline comes goes on as a freeze with a
new one. A freeze whose deadline comes resets the context and ends with DEADLINE. A drain with nothing left
resident, and a freeze with everything quiet, writes the image to CTX_IMG and ends with SAVED. A resume with no
logical core left to place is done. COMPLETION: exec answers a next state, that of its own effect, under
hypotheses on the state and operands alone, for each of drain, freeze, kill, resume, drainComplete,
drainDeadlineExpiry, freezeImageWrite, freezeDeadlineExpiry, resumePlacement. (19_traps_freeze: R415,
19_traps_freeze: R416, 19_traps_freeze: R417, 19_traps_freeze: R420, 19_traps_freeze: R423,
15_launch_scheduling: R351) -/
def Obligations.ContextCommands : Prop :=
  (∀ (v : Nat) (s : State) (j : Instr), j = .drain v ∨ j = .freeze v ∨ j = .kill v ∨ j = .resume v →
    (s.pkg.ready = false → exec j s = .next s) ∧
    (s.pkg.ready = true → s.sch.cmd ≠ none → ∃ t, exec j s = .next t ∧ t.mem = s.mem ∧ t.x = s.x ∧ t.sch.cmd = s.sch.cmd ∧ t.sch.cmdReject = true)) ∧
  (∀ (v : Nat) (s : State), s.pkg.ready = true → s.sch.cmd = none →
    let a := v / 2 ^ 48 % 256
    let n := if v / 2 ^ 32 % 65536 = 0 then 65536 else v / 2 ^ 32 % 65536
    let stops (t : State) : Prop := ∀ q e, cfind q s.sch.queues = some e → e.asid = a → e.run = true →
      cfind q t.sch.queues = some { e with run := false, stopped := true }
    (∃ t c, exec (.drain v) s = .next t ∧ t.mem = s.mem ∧ t.x = s.x ∧ stops t ∧ t.sch.cmd = some c ∧ c.cmd = 1 ∧ c.asid = a ∧ c.due = s.time + 1000 * n) ∧
    (∃ t c, exec (.freeze v) s = .next t ∧ t.mem = s.mem ∧ stops t ∧ t.sch.cmd = some c ∧ c.cmd = 2 ∧ c.asid = a ∧ c.due = s.time + 1000 * n ∧
      ∀ w ∈ t.x.wgs, w.asid = a → w.st = .running → w.takesPart = true →
        ∃ l p, t.launch? w.launch = some l ∧ l.pass.bind t.pass? = some p ∧ t.passGoing p = true) ∧
    (∃ t, exec (.kill v) s = .next t ∧ t.mem = s.mem ∧ t.host = s.host ∧ t.sch.cmd = none ∧ t.sch.cmdDone = true ∧ (∀ w ∈ t.x.wgs, w.asid ≠ a)) ∧
    (s.paExists s.imgPa = true → s.imageRead = none → ∃ t, exec (.resume v) s = .next t ∧ t.mem = s.mem ∧ t.x = s.x ∧ t.sch.cmd = none ∧ t.sch.cmdDone = true ∧
      t.sch.pend = s.sch.pend ++ [{ ring := ctxRing a 0, body := recBody stBAD_PACKET 0 0 2 0 0 0 }]) ∧
    (∀ bs, s.paExists s.imgPa = true → s.imageRead = some bs →
      let m := s.imageFor bs
      (∃ t, exec (.resume v) s = .next t) ∧
      (m.wgs = [] → m.deque = [] → (∀ l ∈ m.launches, pkMeshl l.pkt = false ∧ (l.pass = none ∨ l.open = false)) → (∀ q ∈ s.x.reqs, q.isResub = false) →
        ∃ t, exec (.resume v) s = .next t ∧ t.mem = s.mem ∧ t.x = { s.x with nextId := s.x.nextId + m.next } ∧ t.sch.cmd = none ∧ t.sch.cmdDone = true ∧
          (t.ctx a).rimeCur = imageRime bs ∧ (t.ctx a).rimeRd = imageRime bs ∧ t.sch.pend = s.sch.pend ∧ t.sch.launches = s.sch.launches ++ m.launches.map (fun l =>
            { l with asid := a, id := l.id + s.sch.nextLaunch, pass := none, cpass := none, chosen := false, st := if l.open then l.st else .recorded })))) ∧
  (∀ (s : State) (c : CtxCmd), s.sch.cmd = some c →
    (c.cmd = 1 → c.due ≤ s.time → ∃ t e, exec .drainDeadlineExpiry s = .next t ∧ t.mem = s.mem ∧ t.sch.cmd = some e ∧ e.cmd = 2 ∧ e.asid = c.asid ∧
      e.due = s.time + 1000 * (if s.sch.cmdDeadline = 0 then 65536 else s.sch.cmdDeadline)) ∧
    (c.cmd = 2 → c.due ≤ s.time → ∃ t l, exec .freezeDeadlineExpiry s = .next t ∧ t.mem = s.mem ∧ t.sch.cmd = none ∧ t.sch.cmdDone = true ∧ (∀ w ∈ t.x.wgs, w.asid ≠ c.asid) ∧
      t.sch.pend = l ++ [{ ring := ctxRing c.asid 0, body := recBody stDEADLINE 0xB001 0 2 0 0 0 }]) ∧
    (c.cmd = 4 → s.sch.resuming = [] → (∀ q ∈ s.x.reqs, q.isResub = false) → ∃ t, exec .resumePlacement s = .next t ∧ t.mem = s.mem ∧ t.x = s.x ∧ t.sch.cmd = none ∧ t.sch.cmdDone = true) ∧
    (∀ (n : Nat) (m : Image) (w : Wg), c.cmd = 4 → s.sch.resuming = [(n, m)] → m.wgs = [w] → m.accs = [] → m.reqs = [] → m.stands = [] → m.deque = [] →
      (∀ q ∈ s.x.reqs, q.isResub = false) → (∀ u ∈ s.x.wgs, u.id ≠ w.id) → (∀ a ∈ s.x.accs, a.wg ≠ w.id) → s.resumeCores m ≠ [] →
      ∃ t w', exec .resumePlacement s = .next t ∧ t.mem = s.mem ∧ t.sch.cmd = none ∧ t.sch.resuming = [] ∧ t.x.wgs.length = s.x.wgs.length + 1 ∧
        t.x.wg? w.id = some w' ∧ s.coreWorks w'.die w'.core = true ∧ w'.st = .running ∧ w'.scratch = w.scratch ∧ w'.index = w.index ∧ w'.lcore = w.lcore ∧
        ∀ (j : Nat) (g : Group), w.grp? j = some g → ∃ g', w'.grp? j = some g' ∧ g'.s = g.s ∧ g'.m = g.m ∧
          ∀ l, (g'.lane l).v = (g.lane l).v ∧ (g'.lane l).p = (g.lane l).p ∧ (g'.lane l).pc = (g.lane l).pc)) ∧
  (∀ (s : State) (c : CtxCmd) (m : Image) (op : Instr), s.sch.cmd = some c → (∀ p ∈ s.gfx.passes, p.asid ≠ c.asid) →
    let ws := s.x.wgs.filter (fun w => w.asid == c.asid && w.st == .frozen)
    (op = .drainComplete ∧ c.cmd = 1 ∧ (∀ w ∈ s.x.wgs, w.asid ≠ c.asid) ∧ (∀ l ∈ s.sch.launches, l.asid = c.asid → l.st = .dealt → pkStage l.pkt = 4) ∧
        m = s.imageNow c.asid c.was [] [] ∨
      op = .freezeImageWrite ∧ c.cmd = 2 ∧ (∀ w ∈ ws, ∀ e ∈ (s.x.core w.die w.core).stand, e.2.wg = w.id → e.2.st ≠ .active) ∧
        s.frozenQuiet c.asid ws (s.heldOf ws) = true ∧ s.copiesDone ws (s.heldOf ws) c.due = true ∧ m = s.imageNow c.asid c.was ws (s.heldOf ws)) →
    m.size ≤ 4096 * s.sch.imgPages → (∀ p ∈ regsFrom s.imgPa (m.bytes s.time s.x.free).length, s.paExists p = true) →
    let w := (regsFrom s.imgPa (m.bytes s.time s.x.free).length).zip (m.bytes s.time s.x.free)
    s.quietAll w = true →
    ∃ t l, exec op s = .next t ∧ t.mem = (s.engineWrite w {}).mem ∧ t.sch.cmd = none ∧ t.sch.cmdDone = true ∧ (m.bytes s.time s.x.free, m) ∈ t.sch.images ∧
      t.sch.pend = l ++ [{ ring := ctxRing c.asid 0, body := recBody stSAVED 0 0 2 0 0 0 }])

/-- POWER_ON stops with its FCODE where the supply, the PLL or every management link fails. POWER_REMOVED leaves the
device unpowered, keeping firmware and SVN. A change of the map raises GEN. BORA_GRANT, ISLAND_POWER_ON,
PHASE_FAILURE, ISLAND_GATE, RAIL_VOLTAGE_MINIMUM and the read of ISL_VMIN write the island's state. A report is
written at its address; firmware gets the status of its check and a good image the other slot. A sound flit
advances the expected number, a damaged one asks for NAK, a NAK makes the sender resend from it; NAKs repeat
after 64 flits, the eighth is followed by training, and a training's end resumes or, the third failure, maps the
link out. COMPLETION: exec answers a next state, that of its own effect, under hypotheses on the state and
operands alone, for each of attestationReport, firmwareUpdate, islVminRead, flitReceive, nakReceive,
nakRepeatExpiry, linkTrainingEnd, dieMapChange, powerOn, powerRemoved, boraGrant, islandPowerOn, phaseFailure,
islandGate, railVoltageMinimum. (21_bringup_power: R432, 21_bringup_power: R433, 21_bringup_power: R437,
21_bringup_power: R442, 21_bringup_power: R443, 21_bringup_power: R444, 22_fleet: R447, 22_fleet: R449,
22_fleet: R451, 17_coherence_fabric_host: R392, 17_coherence_fabric_host: R393, 17_coherence_fabric_host: R394) -/
def Obligations.PackageEvents : Prop :=
  (∀ (dies links fw : Nat) (s : State),
    (s.pkg.power = true → exec (.powerOn dies links fw) s = .next s) ∧
    (s.pkg.power = false → ∀ step code, (fw % 2 = 1 ∧ step = 1 ∧ code = 2) ∨ (fw % 4 = 2 ∧ step = 2 ∧ code = 2) ∨ (fw % 4 = 0 ∧ links / 2 ^ 96 % 256 = 255 ∧ step = 3 ∧ code = 4) →
      ∃ t, exec (.powerOn dies links fw) s = .next t ∧ t.mem = s.mem ∧ t.pkg.fail = true ∧ t.pkg.ready = s.pkg.ready ∧ t.pkg.step = step ∧ t.pkg.fcode = code) ∧
    (s.pkg.power = false → fw % 8 = 0 → links = 0 → dies % 2 ^ 768 = 2 ^ 768 - 1 → s.pkg.fwSlots = [[], []] → s.pkg.fwBoot = 0 →
      ∃ t, exec (.powerOn dies links fw) s = .next t ∧ t.pkg.ready = true ∧ t.pkg.step = 9 ∧ t.pkg.fcode = 0 ∧ t.pkg.gen = 1 ∧
        t.mem = s.mem.filter (fun e => e.1 / 2 ^ 46 != s.pkg.dev) ∧ (∀ d < 48, bits (t.dmap d) 48 16 = 65535 ∧ t.working d = true) ∧ t.pkg.minSvn = max s.pkg.minSvn (fw / 8))) ∧
  (∀ s : State, ∃ t, exec .powerRemoved s = .next t ∧ t.pkg = { ({} : Pkg) with fwSlots := s.pkg.fwSlots, fwBoot := s.pkg.fwBoot, minSvn := s.pkg.minSvn, dev := s.pkg.dev } ∧
    (∀ e ∈ t.mem, e.1 / 2 ^ 46 ≠ s.pkg.dev) ∧ t.x.wgs = [] ∧ t.sch.launches = [] ∧ t.gfx = State.reset.gfx ∧ t.links = State.reset.links ∧ t.host = s.host) ∧
  (∀ (i : Nat) (s : State), s.pkg.ready = true →
    (i < 48 → s.coreMask i ≠ 0 → ∃ t, exec (.dieMapChange 0 i) s = .next t ∧ t.working i = false ∧ t.pkg.gen = (s.pkg.gen + 1) % 2 ^ 32) ∧
    (i < 96 → s.linkUp i = true → (meshLink (i / 2) (if i % 2 = 0 then 1 else 0)).isSome = true → s.working (linkEnds i).1 = true → s.working (linkEnds i).2 = true →
      ∃ t, exec (.dieMapChange 1 i) s = .next t ∧ t.linkUp i = false ∧ t.pkg.gen = (s.pkg.gen + 1) % 2 ^ 32)) ∧
  (∀ (r n i : Nat) (s : State), s.pkg.ready = true →
    (r < 12 → 1 ≤ n → n ≤ 8 → i ∈ s.coreIslands r → (s.island i).asked = none → ∃ t, exec (.boraGrant r n) s = .next t ∧ t.mem = s.mem ∧ t.x = s.x ∧
      t.island i = { s.island i with slots := if 2 ≤ (s.island i).fails then 0 else n - 1 }) ∧
    (islandRegion i = some r → (s.island i).on = false → (s.island i).gated = false →
      ((s.island i).asked = none → ∃ t, exec (.islandPowerOn i) s = .next t ∧ t.mem = s.mem ∧ t.x = s.x ∧ t.island i = { s.island i with asked := some s.x.clk, waits := 0 }) ∧
      (s.nextAsk r = some i → (s.island i).waits < 64 → ∃ t, exec (.islandPowerOn i) s = .next t ∧ t.mem = s.mem ∧ t.x = s.x ∧ t.island i = { s.island i with on := true, asked := none })) ∧
    (i < 1024 → (s.island i).on = true →
      ((s.island i).fails = 0 → ∃ t, exec (.phaseFailure i) s = .next t ∧ t.mem = s.mem ∧ t.x = s.x ∧ t.island i = { s.island i with fails := 1, degraded := true }) ∧
      ((s.island i).fails = 1 → ∃ t, exec (.phaseFailure i) s = .next t ∧ t.mem = s.mem ∧ t.island i = { s.island i with fails := 2, degraded := true, slots := 0, failedAt := s.x.clk } ∧
        (i < 1008 → i % 21 < 16 → ∀ w ∈ t.x.wgs, w.die = i / 21 → w.core = i % 21 → w.takesPart = true → w.st ≠ .running))) ∧
    (1008 ≤ i → (s.island i).fails = 2 → (s.island i).gated = false → ∃ t, exec (.islandGate i) s = .next t ∧ t.mem = s.mem ∧ t.x = s.x ∧ t.island i = { s.island i with gated := true, on := false })) ∧
  (∀ (i v : Nat) (s : State), i < 1024 →
    (s.pkg.power = true → v < (s.island i).mv → ∃ t, exec (.railVoltageMinimum i v) s = .next t ∧ t.mem = s.mem ∧ t.x = s.x ∧ t.island i = { s.island i with mv := v, time := s.time % 2 ^ 48 }) ∧
    (s.pkg.power = true → (s.island i).mv ≤ v → exec (.railVoltageMinimum i v) s = .next s) ∧
    ∃ t, exec (.islVminRead i) s = .next t ∧ t.mem = s.mem ∧ t.x = s.x ∧ t.island i = { s.island i with mv := 0xFFFF, time := 0 } ∧
      t.fab.reads = s.fab.reads ++ [(2 ^ 60 + (0x500000 + 16 * i + 8), ((s.island i).vmin).setWidth 512)]) ∧
  (∀ (v : Nat) (s s1 : State), 2 ^ 64 ≤ v →
    (s.pkg.attBusy = true → (∀ p ∈ regsFrom (128 * s.pkg.attAt) 384, s.paExists p = true) →
      s.paPut (128 * s.pkg.attAt) (s.report (s.freshBytes (128 * s.pkg.attAt + 16) 32)) = (s1, true) →
      ∃ t, exec (.attestationReport v) s = .next t ∧ t.mem = s1.mem ∧ t.pkg.attBusy = false ∧ t.pkg.attDone = true) ∧
    (s.pkg.fwBusy = true →
      let pa := 4096 * s.pkg.fwAt
      let n := s.freshNum (pa + 8) 4
      128 ≤ n → n ≤ 2 ^ 24 → s.paExists pa = true → s.paExists (pa + n - 1) = true → s.pkg.fwSlot ≤ 1 → s.pkg.fwSlots.length = 2 →
      let bs := s.freshBytes pa n
      ∃ t, exec (.firmwareUpdate v) s = .next t ∧ t.mem = s.mem ∧ t.x = s.x ∧ t.pkg.fwBusy = false ∧ t.pkg.fwDone = true ∧ t.pkg.fwStatus = fwCheck s.pkg.minSvn bs ∧
        (t.pkg.fwStatus = 0 → t.pkg.fwBoot = 1 - s.pkg.fwSlot ∧ t.pkg.fwSlots[t.pkg.fwBoot]? = some bs) ∧ (t.pkg.fwStatus ≠ 0 → t.pkg.fwSlots = s.pkg.fwSlots) ∧ t.pkg.fwRun = s.pkg.fwRun)) ∧
  (∀ (k : Nat) (s : State) (l1 : Link) (f : Nat × BitVec 2048), s.linkRuns k = true → (s.link k).transmit (s.sel / 4) = some (f, l1) →
    let o := s.link (otherWay k)
    let g := sealFlit f.2 f.1 o.nakOut.isSome ((o.nakOut).getD o.exp)
    (s.sel % 4 = 2 → ∃ t, exec (.flitReceive k) s = .next t ∧ t.mem = s.mem ∧ t.x = s.x ∧ t.link k = l1) ∧
    (s.sel % 4 = 0 → f.1 = l1.exp → f.1 < 2 ^ 16 → flitKind f.2 < 2 → ∃ t u, exec (.flitReceive k) s = .next t ∧ t.mem = s.mem ∧ t.x = s.x ∧ t.link k = u ∧ u.exp = (l1.exp + 1) % 2 ^ 16 ∧ u.bad = false ∧
      u.got = l1.got ++ (if flitKind f.2 = 1 then [flitPayload f.2] else [])) ∧
    (s.sel % 4 = 0 → flitOk g l1.exp = false → l1.bad = false → ∃ t, exec (.flitReceive k) s = .next t ∧ t.mem = s.mem ∧ t.x = s.x ∧
      t.link k = { l1 with bad := true, nakOut := some l1.exp, naks := 1, sinceNak := 0 })) ∧
  (∀ (k e ok : Nat) (s : State),
    (s.linkRuns k = true → (s.link k).nakIn = some e → e ≠ (s.link k).tx → ∃ t, exec (.nakReceive k) s = .next t ∧ t.mem = s.mem ∧ t.x = s.x ∧
      (t.link k).wire = freeBelow e (s.link k).replay ∧ (t.link k).replay = freeBelow e (s.link k).replay ∧ (t.link k).nakIn = none) ∧
    (s.linkRuns k = true → (s.link k).bad = true → 64 ≤ (s.link k).sinceNak → (s.link k).naks < 8 → ∃ t, exec (.nakRepeatExpiry k) s = .next t ∧ t.mem = s.mem ∧ t.x = s.x ∧
      t.link k = { s.link k with nakOut := some (s.link k).exp, naks := (s.link k).naks + 1, sinceNak := 0 }) ∧
    (s.linkRuns k = true → (s.link k).bad = true → 64 ≤ (s.link k).sinceNak → 8 ≤ (s.link k).naks → ∃ t, exec (.nakRepeatExpiry k) s = .next t ∧ t.mem = s.mem ∧
      (t.link k).training = true ∧ (t.link (otherWay k)).training = true) ∧
    ((s.link k).training = true → (s.link k).out = false →
      (ok ≠ 0 → ∃ t, exec (.linkTrainingEnd k ok) s = .next t ∧ t.mem = s.mem ∧ t.x = s.x ∧ (t.link k).training = false ∧ (t.link k).fails = 0 ∧ (t.link k).exp = (s.link k).exp) ∧
      ((s.link k).fails < 2 → ∃ t, exec (.linkTrainingEnd k 0) s = .next t ∧ t.mem = s.mem ∧ t.x = s.x ∧ (t.link k).fails = (s.link k).fails + 1 ∧ (t.link k).training = true) ∧
      (2 ≤ (s.link k).fails → ∃ t, exec (.linkTrainingEnd k 0) s = .next t ∧ (t.link k).out = true ∧ (k / 2 < 96 → (meshLink (k / 4) (if k / 2 % 2 = 0 then 1 else 0)).isSome = true → t.linkUp (k / 2) = false))))
end

