-- ==== Sys2Proof/Laws/Cells.lean ====
section
/-!
SUPPORT. Sparse tables and memories: a read after a write, and the canonical form, which every memory operation keeps.
-/

set_option linter.unusedVariables false

namespace Sys2Proof.Machine

/-! ### Reads after writes -/

@[simp] theorem cfind_cset_self {α : Type} (a : Nat) (v : α) (l : Cells α) : cfind a (cset a v l) = some v := by
  induction l with
  | nil => simp [cset, cfind]
  | cons e r ih =>
    obtain ⟨k, u⟩ := e
    unfold cset
    split
    · simp [cfind]
    · split
      · simp [cfind]
      · simp only [cfind]
        rw [if_neg ‹_›]; exact ih

theorem cfind_cset_ne {α : Type} {a b : Nat} (h : b ≠ a) (v : α) (l : Cells α) : cfind b (cset a v l) = cfind b l := by
  induction l with
  | nil => simp [cset, cfind, Ne.symm h]
  | cons e r ih =>
    obtain ⟨k, u⟩ := e
    unfold cset
    split
    · rename_i hk
      subst hk
      simp only [cfind]
      rw [if_neg (Ne.symm h), if_neg (Ne.symm h)]
    · split
      · simp only [cfind]
        rw [if_neg (Ne.symm h)]
      · simp only [cfind, ih]

@[simp] theorem cget_cset_self {α : Type} (d : α) (a : Nat) (v : α) (l : Cells α) : cget d a (cset a v l) = v := by
  simp [cget]

theorem cget_cset_ne {α : Type} (d : α) {a b : Nat} (h : b ≠ a) (v : α) (l : Cells α) : cget d b (cset a v l) = cget d b l := by
  unfold cget
  rw [cfind_cset_ne h]

/-! ### The canonical form -/

/-- A bound below every index. -/
def Below (b : Option Nat) (a : Nat) : Prop := ∀ j, b = some j → j < a

theorem cwfFrom_cons {α : Type} [DecidableEq α] {d v : α} {k : Nat} {b : Option Nat} {r : Cells α} :
    cwfFrom d b ((k, v) :: r) = true ↔ Below b k ∧ v ≠ d ∧ cwfFrom d (some k) r = true := by
  unfold Below
  cases b <;> simp [cwfFrom, and_assoc]

theorem cwfFrom_lower {α : Type} [DecidableEq α] {d : α} {k : Nat} {b : Option Nat} {l : Cells α}
    (h : cwfFrom d (some k) l = true) (hb : Below b k) : cwfFrom d b l = true := by
  cases l with
  | nil => rfl
  | cons e r =>
    obtain ⟨k', v⟩ := e
    rw [cwfFrom_cons] at h ⊢
    exact ⟨fun j hj => lt_trans (hb j hj) (h.1 k rfl), h.2⟩

theorem cwfFrom_cset {α : Type} [DecidableEq α] {d v : α} (hv : v ≠ d) {a : Nat} {b : Option Nat} {l : Cells α}
    (h : cwfFrom d b l = true) (hb : Below b a) : cwfFrom d b (cset a v l) = true := by
  induction l generalizing b with
  | nil => exact cwfFrom_cons.2 ⟨hb, hv, rfl⟩
  | cons e r ih =>
    obtain ⟨k, u⟩ := e
    have h0 := cwfFrom_cons.1 h
    unfold cset
    split
    · rename_i hk
      subst hk
      exact cwfFrom_cons.2 ⟨hb, hv, h0.2.2⟩
    · split
      · rename_i hk hlt
        exact cwfFrom_cons.2 ⟨hb, hv, cwfFrom_cons.2 ⟨fun j hj => by cases hj; exact hlt, h0.2⟩⟩
      · rename_i hk hlt
        exact cwfFrom_cons.2 ⟨h0.1, h0.2.1, ih h0.2.2 (fun j hj => by cases hj; omega)⟩

theorem cwfFrom_cdel {α : Type} [DecidableEq α] {d : α} {a : Nat} {b : Option Nat} {l : Cells α}
    (h : cwfFrom d b l = true) : cwfFrom d b (cdel a l) = true := by
  induction l generalizing b with
  | nil => rfl
  | cons e r ih =>
    obtain ⟨k, u⟩ := e
    have h0 := cwfFrom_cons.1 h
    unfold cdel
    split
    · exact ih (cwfFrom_lower h0.2.2 h0.1)
    · exact cwfFrom_cons.2 ⟨h0.1, h0.2.1, ih h0.2.2⟩

theorem cwf_cput {α : Type} [DecidableEq α] {d : α} {a : Nat} {v : α} {l : Cells α} (h : cwf d l = true) :
    cwf d (cput d a v l) = true := by
  unfold cput cwf
  split
  · exact cwfFrom_cdel h
  · rename_i hv
    exact cwfFrom_cset hv h (by intro j hj; cases hj)

/-- Entries taken out of a canonical table leave it canonical. -/
theorem cwfFrom_filter {α : Type} [DecidableEq α] {d : α} (p : Nat × α → Bool) {b : Option Nat} {l : Cells α}
    (h : cwfFrom d b l = true) : cwfFrom d b (l.filter p) = true := by
  induction l generalizing b with
  | nil => rfl
  | cons e r ih =>
    obtain ⟨k, u⟩ := e
    have h0 := cwfFrom_cons.1 h
    rw [List.filter_cons]
    split
    · exact cwfFrom_cons.2 ⟨h0.1, h0.2.1, ih h0.2.2⟩
    · exact ih (cwfFrom_lower h0.2.2 h0.1)

/-! ### Memories -/

theorem cfind_cdel_ne {α : Type} {a b : Nat} (h : b ≠ a) (l : Cells α) : cfind b (cdel a l) = cfind b l := by
  induction l with
  | nil => rfl
  | cons e r ih =>
    obtain ⟨k, u⟩ := e
    unfold cdel
    split
    · rename_i hk
      subst hk
      simp only [cfind]
      rw [if_neg (Ne.symm h)]; exact ih
    · simp only [cfind, ih]

@[simp] theorem cfind_cdel_self {α : Type} (a : Nat) (l : Cells α) : cfind a (cdel a l) = none := by
  induction l with
  | nil => rfl
  | cons e r ih =>
    obtain ⟨k, u⟩ := e
    unfold cdel
    split
    · exact ih
    · simp only [cfind]
      rw [if_neg ‹_›]; exact ih

/-- A byte read where it was written. -/
theorem Mem.get_set_self (m : Mem) (a : Nat) (v : Byte) : (m.set a v).get a = v := by
  unfold Mem.set Mem.get cput cget
  split
  · rename_i hv
    rw [cfind_cdel_self]; exact hv.symm
  · simp

/-- A byte read elsewhere. -/
theorem Mem.get_set_ne (m : Mem) {a b : Nat} (hb : b ≠ a) (v : Byte) : (m.set a v).get b = m.get b := by
  unfold Mem.set Mem.get cput cget
  split
  · rw [cfind_cdel_ne hb]
  · rw [cfind_cset_ne hb]

/-- One byte written keeps the canonical form. -/
theorem Mem.wf_set {m : Mem} (h : m.wf = true) (a : Nat) (v : Byte) : (m.set a v).wf = true := cwf_cput h

theorem Mem.wf_putBytes {m : Mem} (h : m.wf = true) (a : Nat) (bs : List Byte) : (m.putBytes a bs).wf = true := by
  induction bs generalizing m a with
  | nil => exact h
  | cons b r ih => exact ih (Mem.wf_set h a b) (a + 1)

theorem Mem.wf_putNum {m : Mem} (h : m.wf = true) (a n v : Nat) : (m.putNum a n v).wf = true := Mem.wf_putBytes h a _

theorem Mem.wf_filter {m : Mem} (h : m.wf = true) (p : Nat × Byte → Bool) : Mem.wf (m.filter p) = true := cwfFrom_filter p h

/-- Bytes outside a range written keep their values. -/
theorem Mem.get_putBytes_out (m : Mem) (a : Nat) (bs : List Byte) {b : Nat} (hb : b < a ∨ a + bs.length ≤ b) :
    (m.putBytes a bs).get b = m.get b := by
  induction bs generalizing m a with
  | nil => rfl
  | cons v r ih =>
    have hn : b ≠ a := by
      simp only [List.length_cons] at hb
      omega
    have h2 := ih (m.set a v) (a + 1) (by simp only [List.length_cons] at hb; omega)
    have h1 : (m.putBytes a (v :: r)) = (m.set a v).putBytes (a + 1) r := rfl
    rw [h1, h2, Mem.get_set_ne m hn v]

/-- Bytes of a range written hold what was written. -/
theorem Mem.get_putBytes_in (m : Mem) (a : Nat) (bs : List Byte) {j : Nat} (hj : j < bs.length) :
    (m.putBytes a bs).get (a + j) = bs[j] := by
  induction bs generalizing m a j with
  | nil => cases hj
  | cons v r ih =>
    have h1 : (m.putBytes a (v :: r)) = (m.set a v).putBytes (a + 1) r := rfl
    rw [h1]
    cases j with
    | zero =>
      rw [Mem.get_putBytes_out (m.set a v) (a + 1) r (by omega)]
      exact Mem.get_set_self m a v
    | succ k =>
      have h2 := ih (m.set a v) (a + 1) (j := k) (by simpa using hj)
      have h3 : a + (k + 1) = a + 1 + k := by omega
      rw [h3, h2]; rfl

/-- The bytes read back from where they were written. -/
theorem Mem.bytes_putBytes (m : Mem) (a : Nat) (bs : List Byte) : (m.putBytes a bs).bytes a bs.length = bs := by
  induction bs generalizing m a with
  | nil => rfl
  | cons v r ih =>
    show Mem.get _ a :: Mem.bytes ((m.set a v).putBytes (a + 1) r) (a + 1) r.length = _
    rw [ih]
    have h1 : (m.putBytes a (v :: r)) = (m.set a v).putBytes (a + 1) r := rfl
    rw [h1, Mem.get_putBytes_out (m.set a v) (a + 1) r (by omega), Mem.get_set_self]

theorem Mem.bytes_putBytes_out (m : Mem) (a : Nat) (bs : List Byte) (b n : Nat) (h : b + n ≤ a ∨ a + bs.length ≤ b) :
    (m.putBytes a bs).bytes b n = m.bytes b n := by
  induction n generalizing b with
  | zero => rfl
  | succ n ih =>
    show Mem.get _ b :: _ = Mem.get _ b :: _
    rw [Mem.get_putBytes_out m a bs (by omega), ih (b + 1) (by omega)]

theorem natLe_length (n v : Nat) : (natLe n v).length = n := by
  induction n generalizing v with
  | zero => rfl
  | succ n ih =>
    show (natLe n (v / 256)).length + 1 = _
    rw [ih]

theorem leNat_natLe (n v : Nat) : leNat (natLe n v) = v % 256 ^ n := by
  induction n generalizing v with
  | zero => show 0 = v % 1; omega
  | succ n ih =>
    show (BitVec.ofNat 8 v).toNat + 256 * leNat (natLe n (v / 256)) = _
    have hp : 256 ^ (n + 1) = 256 * 256 ^ n := by ring
    rw [ih, BitVec.toNat_ofNat, hp, Nat.mod_mul]

/-- A number read back from where it was written. -/
theorem Mem.num_putNum (m : Mem) (a n v : Nat) : (m.putNum a n v).num a n = v % 256 ^ n := by
  unfold Mem.num Mem.putNum
  rw [← leNat_natLe]
  have h := Mem.bytes_putBytes m a (natLe n v)
  rw [natLe_length] at h
  rw [h]

theorem Mem.num_putNum_out (m : Mem) (a n v b k : Nat) (h : b + k ≤ a ∨ a + n ≤ b) : (m.putNum a n v).num b k = m.num b k := by
  unfold Mem.num Mem.putNum
  rw [Mem.bytes_putBytes_out]
  rw [natLe_length]; exact h

end Sys2Proof.Machine
end

