-- ==== Sys2Proof/Laws/Issue.lean ====
section
/-!
SUPPORT. What issuing an instruction does: with no trap of its own, the effect of its body; with one, the delivery of
that trap. Every completion statement is proved through these.
-/

set_option linter.unusedVariables false

namespace Sys2Proof.Machine

/-- A selected instruction whose body takes effect answers the state that the body gives, as issued. -/
theorem State.issue_ok {s : State} {i : Instr} {c : Cx} {y : Bool} {body : State → Cx → Except Trap State} {t : State}
    (h : s.Selected i c y) (hb : body (s.base c) c = .ok t) : s.issue i body = .next (t.issued i c y false) := by
  obtain ⟨hp, hc, hs⟩ := h
  unfold State.pick at hp
  unfold State.checks at hc
  split at hp
  · cases hp
  rename_i sl hcur
  simp only [hcur] at hc
  split at hp
  · cases hp
  rename_i w hw
  have hw' : s.clearCur.x.wg? sl.wg = some w := hw
  simp only [hw] at hc
  split at hp
  · cases hp
  rename_i g0 hg
  simp only [hg] at hc
  split at hp
  · cases hp
  rename_i l0 r hl
  simp only [hl] at hc
  simp only [Option.some.injEq, Prod.mk.injEq] at hp
  obtain ⟨rfl, rfl⟩ := hp
  split at hc
  · cases hc
  rename_i hr
  have hs' : (s.clearCur.ctx w.asid).step = false := hs
  have hk : s.clearCur.x.clk = s.x.clk := rfl
  unfold State.issue
  simp only [hcur, hw', hg, hk]
  rw [hl]
  simp only [hr, hc]
  unfold State.base at hb
  simp only [hb, hs', Bool.false_and]

/-- A selected instruction whose body raises a trap answers the state of that trap. -/
theorem State.issue_err {s : State} {i : Instr} {c : Cx} {y : Bool} {body : State → Cx → Except Trap State} {t : Trap}
    (hp : s.pick i = some (c, y)) (hc : s.checks i = none) (hb : body (s.base c) c = .error t) :
    s.issue i body = .next (s.trapped c t) := by
  unfold State.pick at hp
  unfold State.checks at hc
  split at hp
  · cases hp
  rename_i sl hcur
  simp only [hcur] at hc
  split at hp
  · cases hp
  rename_i w hw
  have hw' : s.clearCur.x.wg? sl.wg = some w := hw
  simp only [hw] at hc
  split at hp
  · cases hp
  rename_i g0 hg
  simp only [hg] at hc
  split at hp
  · cases hp
  rename_i l0 r hl
  simp only [hl] at hc
  simp only [Option.some.injEq, Prod.mk.injEq] at hp
  obtain ⟨rfl, rfl⟩ := hp
  split at hc
  · cases hc
  rename_i hr
  have hk : s.clearCur.x.clk = s.x.clk := rfl
  unfold State.issue
  simp only [hcur, hw', hg, hk]
  rw [hl]
  simp only [hr, hc]
  unfold State.base at hb
  simp only [hb]
  unfold State.trapped
  simp only [hw, hg, List.headD_cons]

/-- Registers or tags that fail their checks raise the trap of the first failure, whatever the instruction does. -/
theorem State.issue_checks {s : State} {i : Instr} {c : Cx} {y : Bool} {body : State → Cx → Except Trap State} {t : Trap}
    (hp : s.pick i = some (c, y)) (hc : s.checks i = some t) : s.issue i body = .next (s.trapped c t) := by
  unfold State.pick at hp
  unfold State.checks at hc
  split at hp
  · cases hp
  rename_i sl hcur
  simp only [hcur] at hc
  split at hp
  · cases hp
  rename_i w hw
  have hw' : s.clearCur.x.wg? sl.wg = some w := hw
  simp only [hw] at hc
  split at hp
  · cases hp
  rename_i g0 hg
  simp only [hg] at hc
  split at hp
  · cases hp
  rename_i l0 r hl
  simp only [hl] at hc
  simp only [Option.some.injEq, Prod.mk.injEq] at hp
  obtain ⟨rfl, rfl⟩ := hp
  have hk : s.clearCur.x.clk = s.x.clk := rfl
  unfold State.issue State.trapped
  simp only [hcur, hw', hg, hw, hk]
  rw [hl]
  split at hc
  · rename_i u hu
    cases hc
    simp only [hu, List.headD_cons]
  · rename_i hu
    simp only [hu, hc, List.headD_cons]

end Sys2Proof.Machine
end

