-- ==== Sys2Proof/Laws/Compute.lean ====
section
/-!
SUPPORT. What the bodies of computing instructions do, once for all of them: an instruction whose body is `computeBody`
or `predBody` writes its values and flags, if no exception that it signals is enabled, and raises the trap of the first
enabled one otherwise.
-/

set_option linter.unusedVariables false

namespace Sys2Proof.Machine

theorem arithCode_none {fm : Word} {e : Flags} (h : enables fm &&& e = 0) : arithCode fm e = none := by
  unfold arithCode
  simp [h]

theorem setFlags_zero (fm : Word) : setFlags fm 0 = fm := by
  unfold setFlags
  simp

theorem foldl_or_zero {α : Type} (l : List α) : l.foldl (fun (e : Flags) (_ : α) => e ||| 0) 0 = 0 := by
  induction l with
  | nil => rfl
  | cons a r ih => exact ih

theorem computeBody_ok {d : Nat} {uniD : Bool} {f : List Word → Nat → Lane → List VCell × Flags} {s : State} {c : Cx}
    (h : enables c.fmode &&& signalled uniD f c = 0) : computeBody d uniD f s c = .ok (effect d uniD f s c) := by
  unfold computeBody effect
  unfold signalled at h
  cases uniD with
  | true =>
    rw [if_pos rfl] at h ⊢
    by_cases he : c.ex = []
    · rw [if_pos he, if_pos rfl]; unfold uniEffect; rw [if_pos he]
    · rw [if_neg he] at h
      rw [if_neg he, if_pos rfl]
      dsimp only
      rw [arithCode_none h]; unfold uniEffect; rw [if_neg he]
  | false =>
    rw [if_neg Bool.false_ne_true] at h ⊢
    rw [if_neg Bool.false_ne_true]
    dsimp only
    rw [arithCode_none h]; rfl

theorem predBody_ok {d : Nat} {f : List Word → Nat → Lane → Bool × Flags} {s : State} {c : Cx}
    (h : enables c.fmode &&& c.ex.foldl (fun e l => e ||| (f c.uni l (c.g.lane l)).2) 0 = 0) :
    predBody d f s c = .ok (predEffect d f s c) := by
  unfold predBody predEffect
  dsimp only
  rw [arithCode_none h]

theorem Group.withFmode_self (g : Group) : g.withFmode g.fmode = g := rfl

theorem Group.setUni_fmode (g : Group) (d : Nat) (vs : List Word) : (g.setUni d vs).fmode = g.fmode := by
  induction vs generalizing g d with
  | nil => rfl
  | cons v r ih => unfold Group.setUni; rw [ih]

/-- A value function that signals nothing writes registers and nothing else. -/
theorem computeBody_wrote (d : Nat) (uniD : Bool) (f : List Word → Nat → Lane → List VCell) (s : State) (c : Cx) :
    computeBody d uniD (fun u l t => (f u l t, 0)) s c = .ok (wrote d uniD f s c) := by
  have hz : signalled uniD (fun u l t => (f u l t, 0)) c = 0 := by
    unfold signalled
    cases uniD with
    | true => rw [if_pos rfl]; split <;> rfl
    | false => rw [if_neg Bool.false_ne_true]; exact foldl_or_zero c.ex
  rw [computeBody_ok (by rw [hz]; simp)]
  unfold effect wrote
  cases uniD with
  | true =>
    rw [if_pos rfl, if_pos rfl]
    unfold uniEffect
    split
    · rfl
    · dsimp only
      rw [setFlags_zero]
      have hm := Group.setUni_fmode c.g d ((f c.uni 0 Lane.nil).map (fun v => v.val))
      unfold Group.withFmode
      rw [← hm]
  | false =>
    rw [if_neg Bool.false_ne_true, if_neg Bool.false_ne_true]
    unfold vecEffect
    dsimp only
    rw [foldl_or_zero, setFlags_zero]; rfl

/-- An instruction whose body is a computation without exceptions. -/
theorem yields_of {i : Instr} {d : Nat} {uniD : Bool} {f : List Word → Nat → Lane → List VCell}
    (h : ∀ s, exec i s = s.issue i (computeBody d uniD (fun u l t => (f u l t, 0)))) : Yields i d uniD f := by
  intro s c y hs
  unfold State.Issues
  rw [h]
  exact State.issue_ok hs (computeBody_wrote d uniD f _ c)

/-- An instruction whose body is a computation with exceptions. -/
theorem computes_of {i : Instr} {d : Nat} {uniD : Bool} {f : List Word → Nat → Lane → List VCell × Flags}
    (h : ∀ s, exec i s = s.issue i (computeBody d uniD f)) : Computes i d uniD f := by
  intro s c y hs he
  unfold State.Issues
  rw [h]
  exact State.issue_ok hs (computeBody_ok he)

/-- A comparison. -/
theorem compares_of {i : Instr} {d : Nat} {f : List Word → Nat → Lane → Bool × Flags}
    (h : ∀ s, exec i s = s.issue i (predBody d f)) : Compares i d f := by
  intro s c y hs he
  unfold State.Issues
  rw [h]
  exact State.issue_ok hs (predBody_ok he)

/-- An instruction with an effect once per issue. -/
theorem does_of {i : Instr} {e : State → Cx → State}
    (h : ∀ s, exec i s = s.issue i (onceBody (fun s c => .ok (e s c)))) : Does i e := by
  intro s c y hs
  unfold State.Issues
  rw [h]
  refine State.issue_ok hs ?_
  unfold onceBody
  split <;> rfl

end Sys2Proof.Machine
end

