-- ==== Sys2Proof/Laws/Quiet.lean ====
section
/-!
SUPPORT. The operations of the machine that leave both memories as they are, one lemma for each, in the order of their
definitions: only the operations of Laws/Inv.lean write memory.
-/

set_option linter.unusedVariables false
set_option linter.unreachableTactic false
set_option linter.unusedTactic false
set_option linter.unusedSimpArgs false

namespace Sys2Proof.Machine

/-- The two memories of a state. -/
def State.mh (s : State) : Mem × Mem := (s.mem, s.host)
@[simp] theorem State.mh_eta (s : State) : (s.mem, s.host) = s.mh := rfl
@[simp] theorem State.mh_mk (a b c d e f g h i j k l) : State.mh ⟨a, b, c, d, e, f, g, h, i, j, k, l⟩ = (e, f) := rfl
theorem foldl_mh {α : Type} {f : State → α → State} (h : ∀ s a, (f s a).mh = s.mh) (l : List α) (s : State) : (l.foldl f s).mh = s.mh := by
  induction l generalizing s with
  | nil => rfl
  | cons a r ih => rw [List.foldl_cons, ih, h]

theorem foldl_fst_mh {α β : Type} {f : State × β → α → State × β} (h : ∀ p a, (f p a).1.mh = p.1.mh) (l : List α) (p : State × β) :
    (l.foldl f p).1.mh = p.1.mh := by
  induction l generalizing p with
  | nil => rfl
  | cons a r ih => rw [List.foldl_cons, ih, h]

theorem maxBy_mem {α : Type} {key : α → Nat} {l : List α} {a : α} (h : maxBy key l = some a) : a ∈ l := by
  induction l generalizing a with
  | nil => cases h
  | cons b r ih =>
    unfold maxBy at h
    split at h
    · cases h; exact List.mem_cons_self
    · rename_i c hc
      split at h <;> cases h
      · exact List.mem_cons_self
      · exact List.mem_cons_of_mem _ (ih hc)

@[simp] theorem State.freeNum_mh (s : State) : s.freeNum.2.mh = s.mh := rfl

theorem State.freeNum_mh' {s t : State} {f : BitVec 64} (h : s.freeNum = (f, t)) : t.mh = s.mh := by
  rw [← State.freeNum_mh s, h]

@[simp] theorem State.setDie_mh (s : State) (d : Nat) (k : Die) : (State.setDie s d k).mh = s.mh := by
  unfold State.setDie
  repeat' (first | rfl | split | (refine (foldl_mh (fun _ _ => ?_) _ _).trans ?_) | (refine (foldl_fst_mh (fun _ _ => ?_) _ _).trans ?_) | simp)

@[simp] theorem State.setCtx_mh (s : State) (a : Nat) (c : Ctx) : (State.setCtx s a c).mh = s.mh := by
  unfold State.setCtx
  repeat' (first | rfl | split | (refine (foldl_mh (fun _ _ => ?_) _ _).trans ?_) | (refine (foldl_fst_mh (fun _ _ => ?_) _ _).trans ?_) | simp)

@[simp] theorem State.setQueue_mh (s : State) (q : Nat) (k : Queue) : (State.setQueue s q k).mh = s.mh := by
  unfold State.setQueue
  repeat' (first | rfl | split | (refine (foldl_mh (fun _ _ => ?_) _ _).trans ?_) | (refine (foldl_fst_mh (fun _ _ => ?_) _ _).trans ?_) | simp)

@[simp] theorem State.setLaunch_mh (s : State) (l : Launch) : (State.setLaunch s l).mh = s.mh := by
  unfold State.setLaunch
  repeat' (first | rfl | split | (refine (foldl_mh (fun _ _ => ?_) _ _).trans ?_) | (refine (foldl_fst_mh (fun _ _ => ?_) _ _).trans ?_) | simp)

@[simp] theorem State.setGdie_mh (s : State) (d : Nat) (k : GDie) : (State.setGdie s d k).mh = s.mh := by
  unfold State.setGdie
  repeat' (first | rfl | split | (refine (foldl_mh (fun _ _ => ?_) _ _).trans ?_) | (refine (foldl_fst_mh (fun _ _ => ?_) _ _).trans ?_) | simp)

@[simp] theorem State.setPass_mh (s : State) (p : Pass) : (State.setPass s p).mh = s.mh := by
  unfold State.setPass
  repeat' (first | rfl | split | (refine (foldl_mh (fun _ _ => ?_) _ _).trans ?_) | (refine (foldl_fst_mh (fun _ _ => ?_) _ _).trans ?_) | simp)

@[simp] theorem State.setIsland_mh (s : State) (i : Nat) (k : Island) : (State.setIsland s i k).mh = s.mh := by
  unfold State.setIsland
  repeat' (first | rfl | split | (refine (foldl_mh (fun _ _ => ?_) _ _).trans ?_) | (refine (foldl_fst_mh (fun _ _ => ?_) _ _).trans ?_) | simp)

@[simp] theorem State.setLink_mh (s : State) (i : Nat) (k : Link) : (State.setLink s i k).mh = s.mh := by
  unfold State.setLink
  repeat' (first | rfl | split | (refine (foldl_mh (fun _ _ => ?_) _ _).trans ?_) | (refine (foldl_fst_mh (fun _ _ => ?_) _ _).trans ?_) | simp)

@[simp] theorem State.post_mh (s : State) (r : PendRec) : (State.post s r).mh = s.mh := by
  unfold State.post
  repeat' (first | rfl | split | (refine (foldl_mh (fun _ _ => ?_) _ _).trans ?_) | (refine (foldl_fst_mh (fun _ _ => ?_) _ _).trans ?_) | simp)

@[simp] theorem State.postLaunch_mh (s : State) (l : Launch) (status fault : Nat) (detail : DWord) : (State.postLaunch s l status fault detail).mh = s.mh := by
  unfold State.postLaunch
  repeat' (first | rfl | split | (refine (foldl_mh (fun _ _ => ?_) _ _).trans ?_) | (refine (foldl_fst_mh (fun _ _ => ?_) _ _).trans ?_) | simp)

@[simp] theorem State.postCmd_mh (s : State) (asid status fault : Nat) (detail : DWord) : (State.postCmd s asid status fault detail).mh = s.mh := by
  unfold State.postCmd
  repeat' (first | rfl | split | (refine (foldl_mh (fun _ _ => ?_) _ _).trans ?_) | (refine (foldl_fst_mh (fun _ _ => ?_) _ _).trans ?_) | simp)

@[simp] theorem State.postFault_mh (s : State) (fault asid die id : Nat) (va : DWord) (kind lcore orig : Nat) : (State.postFault s fault asid die id va kind lcore orig).mh = s.mh := by
  unfold State.postFault
  repeat' (first | rfl | split | (refine (foldl_mh (fun _ _ => ?_) _ _).trans ?_) | (refine (foldl_fst_mh (fun _ _ => ?_) _ _).trans ?_) | simp)

@[simp] theorem State.send_mh (s : State) (src dst : Agent) (line : Nat) (k : MsgK) : (State.send s src dst line k).mh = s.mh := by
  unfold State.send
  repeat' (first | rfl | split | (refine (foldl_mh (fun _ _ => ?_) _ _).trans ?_) | (refine (foldl_fst_mh (fun _ _ => ?_) _ _).trans ?_) | simp)

@[simp] theorem State.take_mh (s : State) (i : Nat) : (State.take s i).mh = s.mh := by
  unfold State.take
  repeat' (first | rfl | split | (refine (foldl_mh (fun _ _ => ?_) _ _).trans ?_) | (refine (foldl_fst_mh (fun _ _ => ?_) _ _).trans ?_) | simp)

@[simp] theorem State.dropWg_mh (s : State) (w : Wg) : (State.dropWg s w).mh = s.mh := by
  unfold State.dropWg
  repeat' (first | rfl | split | (refine (foldl_mh (fun _ _ => ?_) _ _).trans ?_) | (refine (foldl_fst_mh (fun _ _ => ?_) _ _).trans ?_) | simp)

@[simp] theorem State.dropLaunch_mh (s : State) (l : Launch) : (State.dropLaunch s l).mh = s.mh := by
  unfold State.dropLaunch
  repeat' (first | rfl | split | (refine (foldl_mh (fun _ _ => ?_) _ _).trans ?_) | (refine (foldl_fst_mh (fun _ _ => ?_) _ _).trans ?_) | simp)

@[simp] theorem State.endLaunch_mh (s : State) (l : Launch) (status fault : Nat) (detail : DWord) : (State.endLaunch s l status fault detail).mh = s.mh := by
  unfold State.endLaunch
  repeat' (first | rfl | split | (refine (foldl_mh (fun _ _ => ?_) _ _).trans ?_) | (refine (foldl_fst_mh (fun _ _ => ?_) _ _).trans ?_) | simp)

@[simp] theorem State.endDomain_mh (s : State) (launch cause : Nat) (detail : DWord) : (State.endDomain s launch cause detail).mh = s.mh := by
  unfold State.endDomain
  repeat' (first | rfl | split | (refine (foldl_mh (fun _ _ => ?_) _ _).trans ?_) | (refine (foldl_fst_mh (fun _ _ => ?_) _ _).trans ?_) | simp)

@[simp] theorem State.postSys_mh (s : State) (w : Wg) (code orig : Nat) : (State.postSys s w code orig).mh = s.mh := by
  unfold State.postSys
  repeat' (first | rfl | split | (refine (foldl_mh (fun _ _ => ?_) _ _).trans ?_) | (refine (foldl_fst_mh (fun _ _ => ?_) _ _).trans ?_) | simp)

@[simp] theorem State.endThreads_mh (s : State) (wi gi : Nat) (ls : List Nat) : (State.endThreads s wi gi ls).mh = s.mh := by
  unfold State.endThreads
  repeat' (first | rfl | split | (refine (foldl_mh (fun _ _ => ?_) _ _).trans ?_) | (refine (foldl_fst_mh (fun _ _ => ?_) _ _).trans ?_) | simp)

@[simp] theorem State.deliverTrap_mh (s : State) (wi gi : Nat) (ls : List Nat) (t : Trap) (epc : Nat → DWord) (skid : Nat) : (State.deliverTrap s wi gi ls t epc skid).mh = s.mh := by
  unfold State.deliverTrap
  repeat' (first | rfl | split | (refine (foldl_mh (fun _ _ => ?_) _ _).trans ?_) | (refine (foldl_fst_mh (fun _ _ => ?_) _ _).trans ?_) | simp)

@[simp] theorem State.putGrp_mh (s : State) (wi : Nat) (g : Group) : (State.putGrp s wi g).mh = s.mh := by
  unfold State.putGrp
  repeat' (first | rfl | split | (refine (foldl_mh (fun _ _ => ?_) _ _).trans ?_) | (refine (foldl_fst_mh (fun _ _ => ?_) _ _).trans ?_) | simp)

@[simp] theorem State.putWg_mh (s : State) (w : Wg) : (State.putWg s w).mh = s.mh := by
  unfold State.putWg
  repeat' (first | rfl | split | (refine (foldl_mh (fun _ _ => ?_) _ _).trans ?_) | (refine (foldl_fst_mh (fun _ _ => ?_) _ _).trans ?_) | simp)

@[simp] theorem State.clearCur_mh (s : State) : (State.clearCur s).mh = s.mh := by
  unfold State.clearCur
  repeat' (first | rfl | split | (refine (foldl_mh (fun _ _ => ?_) _ _).trans ?_) | (refine (foldl_fst_mh (fun _ _ => ?_) _ _).trans ?_) | simp)

@[simp] theorem State.issued_mh (s : State) (i : Instr) (c : Cx) (yld step : Bool) : (State.issued s i c yld step).mh = s.mh := by
  unfold State.issued
  repeat' (first | rfl | split | (refine (foldl_mh (fun _ _ => ?_) _ _).trans ?_) | (refine (foldl_fst_mh (fun _ _ => ?_) _ _).trans ?_) | simp)

@[simp] theorem State.markFrags_mh (s : State) (wi gi : Nat) (ls : List Nat) (t : Trap) : (State.markFrags s wi gi ls t).mh = s.mh := by
  unfold State.markFrags
  repeat' (first | rfl | split | (refine (foldl_mh (fun _ _ => ?_) _ _).trans ?_) | (refine (foldl_fst_mh (fun _ _ => ?_) _ _).trans ?_) | simp)

@[simp] theorem State.trapAt_mh (s : State) (sl : Slot) (wi : Nat) (g0 gs : Group) (l0 : Nat) (ht : List Nat) (pc : DWord) (t : Trap) : (State.trapAt s sl wi g0 gs l0 ht pc t).mh = s.mh := by
  unfold State.trapAt
  repeat' (first | rfl | split | (refine (foldl_mh (fun _ _ => ?_) _ _).trans ?_) | (refine (foldl_fst_mh (fun _ _ => ?_) _ _).trans ?_) | simp)

theorem computeBody_mh {d : Nat} {uniD : Bool} {f : List Word → Nat → Lane → List VCell × Flags} {s : State} {c : Cx} {t' : State} (h : computeBody d uniD f s c = .ok t') : t'.mh = s.mh := by
  unfold computeBody at h
  repeat' (first | contradiction | split at h | (obtain rfl := Except.ok.inj h; clear h) | dsimp only at h)
  all_goals (repeat' (first | rfl | split | (refine (foldl_mh (fun _ _ => ?_) _ _).trans ?_) | (refine (foldl_fst_mh (fun _ _ => ?_) _ _).trans ?_) | simp))

theorem predBody_mh {d : Nat} {f : List Word → Nat → Lane → Bool × Flags} {s : State} {c : Cx} {t' : State} (h : predBody d f s c = .ok t') : t'.mh = s.mh := by
  unfold predBody at h
  repeat' (first | contradiction | split at h | (obtain rfl := Except.ok.inj h; clear h) | dsimp only at h)
  all_goals (repeat' (first | rfl | split | (refine (foldl_mh (fun _ _ => ?_) _ _).trans ?_) | (refine (foldl_fst_mh (fun _ _ => ?_) _ _).trans ?_) | simp))

theorem idleBody_mh {s : State} {c : Cx} {t' : State} (h : idleBody s c = .ok t') : t'.mh = s.mh := by
  unfold idleBody at h
  repeat' (first | contradiction | split at h | (obtain rfl := Except.ok.inj h; clear h) | dsimp only at h)
  all_goals (repeat' (first | rfl | split | (refine (foldl_mh (fun _ _ => ?_) _ _).trans ?_) | (refine (foldl_fst_mh (fun _ _ => ?_) _ _).trans ?_) | simp))

@[simp] theorem State.cache_mh (s : State) (d c : Nat) (e : Tlb) : (State.cache s d c e).mh = s.mh := by
  unfold State.cache
  repeat' (first | rfl | split | (refine (foldl_mh (fun _ _ => ?_) _ _).trans ?_) | (refine (foldl_fst_mh (fun _ _ => ?_) _ _).trans ?_) | simp)

@[simp] theorem State.xlate_mh (s : State) (d c asid : Nat) (va : DWord) (write fetch : Bool) : (State.xlate s d c asid va write fetch).2.mh = s.mh := by
  unfold State.xlate
  repeat' (first | rfl | split | (refine (foldl_mh (fun _ _ => ?_) _ _).trans ?_) | (refine (foldl_fst_mh (fun _ _ => ?_) _ _).trans ?_) | simp)

@[simp] theorem State.accFault_mh (s : State) (w : Wg) (a : Access) (k code : Nat) (va : DWord) : (State.accFault s w a k code va).mh = s.mh := by
  unfold State.accFault
  repeat' (first | rfl | split | (refine (foldl_mh (fun _ _ => ?_) _ _).trans ?_) | (refine (foldl_fst_mh (fun _ _ => ?_) _ _).trans ?_) | simp)

@[simp] theorem State.accLane_mh (s : State) (id k : Nat) : (State.accLane s id k).mh = s.mh := by
  unfold State.accLane
  repeat' (first | rfl | split | (refine (foldl_mh (fun _ _ => ?_) _ _).trans ?_) | (refine (foldl_fst_mh (fun _ _ => ?_) _ _).trans ?_) | simp)

@[simp] theorem State.accEnd_mh (s : State) (id : Nat) : (State.accEnd s id).mh = s.mh := by
  unfold State.accEnd
  repeat' (first | rfl | split | (refine (foldl_mh (fun _ _ => ?_) _ _).trans ?_) | (refine (foldl_fst_mh (fun _ _ => ?_) _ _).trans ?_) | simp)

@[simp] theorem State.watchEnd_mh (s : State) (wi gi id : Nat) (pc : DWord) : (State.watchEnd s wi gi id pc).mh = s.mh := by
  unfold State.watchEnd
  repeat' (first | rfl | split | (refine (foldl_mh (fun _ _ => ?_) _ _).trans ?_) | (refine (foldl_fst_mh (fun _ _ => ?_) _ _).trans ?_) | simp)

@[simp] theorem State.accSettle_mh (s : State) (id : Nat) : (State.accSettle s id).mh = s.mh := by
  unfold State.accSettle
  repeat' (first | rfl | split | (refine (foldl_mh (fun _ _ => ?_) _ _).trans ?_) | (refine (foldl_fst_mh (fun _ _ => ?_) _ _).trans ?_) | simp)

@[simp] theorem State.subStatus_mh (s : State) (id status : Nat) (seq : Word) : (State.subStatus s id status seq).mh = s.mh := by
  unfold State.subStatus
  repeat' (first | rfl | split | (refine (foldl_mh (fun _ _ => ?_) _ _).trans ?_) | (refine (foldl_fst_mh (fun _ _ => ?_) _ _).trans ?_) | simp)

@[simp] theorem State.subSend_mh (s : State) (d c line : Nat) (q : MsgK) : (State.subSend s d c line q).mh = s.mh := by
  unfold State.subSend
  repeat' (first | rfl | split | (refine (foldl_mh (fun _ _ => ?_) _ _).trans ?_) | (refine (foldl_fst_mh (fun _ _ => ?_) _ _).trans ?_) | simp)

@[simp] theorem State.subGo_mh (s : State) (id : Nat) : (State.subGo s id).mh = s.mh := by
  unfold State.subGo
  repeat' (first | rfl | split | (refine (foldl_mh (fun _ _ => ?_) _ _).trans ?_) | (refine (foldl_fst_mh (fun _ _ => ?_) _ _).trans ?_) | simp)

@[simp] theorem State.accPark_mh (s : State) (id : Nat) : (State.accPark s id).mh = s.mh := by
  unfold State.accPark
  repeat' (first | rfl | split | (refine (foldl_mh (fun _ _ => ?_) _ _).trans ?_) | (refine (foldl_fst_mh (fun _ _ => ?_) _ _).trans ?_) | simp)

@[simp] theorem State.accMove_mh (s : State) (id : Nat) : (State.accMove s id).mh = s.mh := by
  unfold State.accMove
  repeat' (first | rfl | split | (refine (foldl_mh (fun _ _ => ?_) _ _).trans ?_) | (refine (foldl_fst_mh (fun _ _ => ?_) _ _).trans ?_) | simp)

@[simp] theorem State.accTry_mh (s : State) (id : Nat) : (State.accTry s id).mh = s.mh := by
  unfold State.accTry
  repeat' (first | rfl | split | (refine (foldl_mh (fun _ _ => ?_) _ _).trans ?_) | (refine (foldl_fst_mh (fun _ _ => ?_) _ _).trans ?_) | simp)

@[simp] theorem State.sendPush_mh (s : State) (h line : Nat) (u : Subscr) (img : BitVec 1024) : (State.sendPush s h line u img).mh = s.mh := by
  unfold State.sendPush
  repeat' (first | rfl | split | (refine (foldl_mh (fun _ _ => ?_) _ _).trans ?_) | (refine (foldl_fst_mh (fun _ _ => ?_) _ _).trans ?_) | simp)

@[simp] theorem State.pushStore_mh (s : State) (h line : Nat) (img : BitVec 1024) : (State.pushStore s h line img).mh = s.mh := by
  unfold State.pushStore
  repeat' (first | rfl | split | (refine (foldl_mh (fun _ _ => ?_) _ _).trans ?_) | (refine (foldl_fst_mh (fun _ _ => ?_) _ _).trans ?_) | simp)

theorem globalIssue_mh {i : Instr} {kind : AccKind} {width hint : Nat} {dst : List Nat} {va : Nat → DWord} {ops : Nat → List Word} {s : State} {c : Cx} {t' : State} (h : globalIssue i kind width hint dst va ops s c = .ok t') : t'.mh = s.mh := by
  unfold globalIssue at h
  repeat' (first | contradiction | split at h | (obtain rfl := Except.ok.inj h; clear h) | dsimp only at h)
  all_goals (repeat' (first | rfl | split | (refine (foldl_mh (fun _ _ => ?_) _ _).trans ?_) | (refine (foldl_fst_mh (fun _ _ => ?_) _ _).trans ?_) | simp))

theorem atomIssue_mh {i : Instr} {f : XF} {kind : AccKind} {n : Nat} {dst : List Nat} {s : State} {c : Cx} {t' : State} (h : atomIssue i f kind n dst s c = .ok t') : t'.mh = s.mh := by
  unfold atomIssue at h
  repeat' (first | contradiction | split at h | (obtain rfl := Except.ok.inj h; clear h) | (rw [globalIssue_mh h]) | dsimp only at h)
  all_goals (repeat' (first | rfl | split | (refine (foldl_mh (fun _ _ => ?_) _ _).trans ?_) | (refine (foldl_fst_mh (fun _ _ => ?_) _ _).trans ?_) | simp | (rw [globalIssue_mh ‹_›])))

@[simp] theorem State.addAcc_mh (s : State) (wi : Nat) (g : Group) (a : Access) : (State.addAcc s wi g a).mh = s.mh := by
  unfold State.addAcc
  repeat' (first | rfl | split | (refine (foldl_mh (fun _ _ => ?_) _ _).trans ?_) | (refine (foldl_fst_mh (fun _ _ => ?_) _ _).trans ?_) | simp)

@[simp] theorem replyIssue_mh (i : Instr) (dst : List Nat) (res : List RegWr) (s : State) (c : Cx) : (replyIssue i dst res s c).mh = s.mh := by
  unfold replyIssue
  repeat' (first | rfl | split | (refine (foldl_mh (fun _ _ => ?_) _ _).trans ?_) | (refine (foldl_fst_mh (fun _ _ => ?_) _ _).trans ?_) | simp)

theorem scratchIssue_mh {i : Instr} {kind : AccKind} {width : Nat} {dst : List Nat} {ea : Nat → Nat} {ops : Nat → List Word} {s : State} {c : Cx} {t' : State} (h : scratchIssue i kind width dst ea ops s c = .ok t') : t'.mh = s.mh := by
  unfold scratchIssue at h
  repeat' (first | contradiction | split at h | (obtain rfl := Except.ok.inj h; clear h) | dsimp only at h)
  all_goals (repeat' (first | rfl | split | (refine (foldl_mh (fun _ _ => ?_) _ _).trans ?_) | (refine (foldl_fst_mh (fun _ _ => ?_) _ _).trans ?_) | simp))

@[simp] theorem State.standPerform_mh (s : State) (w : Wg) (i : Instr) (slot : Nat) (ls : List Nat) : (State.standPerform s w i slot ls).1.mh = s.mh := by
  unfold State.standPerform
  repeat' (first | rfl | split | (refine (foldl_mh (fun _ _ => ?_) _ _).trans ?_) | (refine (foldl_fst_mh (fun _ _ => ?_) _ _).trans ?_) | simp)

theorem standIssue_mh {i : Instr} {slot : Word} {dst : List (Nat × Nat)} {s : State} {c : Cx} {t' : State} (h : standIssue i slot dst s c = .ok t') : t'.mh = s.mh := by
  unfold standIssue at h
  repeat' (first | contradiction | split at h | (obtain rfl := Except.ok.inj h; clear h) | dsimp only at h)
  all_goals (repeat' (first | rfl | split | (refine (foldl_mh (fun _ _ => ?_) _ _).trans ?_) | (refine (foldl_fst_mh (fun _ _ => ?_) _ _).trans ?_) | simp))

@[simp] theorem State.addReq_mh (s : State) (r : Req) : (State.addReq s r).mh = s.mh := by
  unfold State.addReq
  repeat' (first | rfl | split | (refine (foldl_mh (fun _ _ => ?_) _ _).trans ?_) | (refine (foldl_fst_mh (fun _ _ => ?_) _ _).trans ?_) | simp)

@[simp] theorem State.dropGo_mh (s : State) (id : Nat) : (State.dropGo s id).mh = s.mh := by
  unfold State.dropGo
  repeat' (first | rfl | split | (refine (foldl_mh (fun _ _ => ?_) _ _).trans ?_) | (refine (foldl_fst_mh (fun _ _ => ?_) _ _).trans ?_) | simp)

@[simp] theorem State.dropSlot_mh (s : State) (w : Wg) (grp idx : Nat) (i : Instr) (pc : DWord) (tok : Option Nat) (after : List (Nat × Nat)) : (State.dropSlot s w grp idx i pc tok after).mh = s.mh := by
  unfold State.dropSlot
  repeat' (first | rfl | split | (refine (foldl_mh (fun _ _ => ?_) _ _).trans ?_) | (refine (foldl_fst_mh (fun _ _ => ?_) _ _).trans ?_) | simp)

@[simp] theorem reqIssue_mh (i : Instr) (tok : Nat) (ops : List Word) (after : List (Nat × Nat)) (s : State) (c : Cx) : (reqIssue i tok ops after s c).mh = s.mh := by
  unfold reqIssue
  repeat' (first | rfl | split | (refine (foldl_mh (fun _ _ => ?_) _ _).trans ?_) | (refine (foldl_fst_mh (fun _ _ => ?_) _ _).trans ?_) | simp)

theorem jumpBody_mh {target : Lane → DWord} {s : State} {c : Cx} {t' : State} (h : jumpBody target s c = .ok t') : t'.mh = s.mh := by
  unfold jumpBody at h
  repeat' (first | contradiction | split at h | (obtain rfl := Except.ok.inj h; clear h) | dsimp only at h)
  all_goals (repeat' (first | rfl | split | (refine (foldl_mh (fun _ _ => ?_) _ _).trans ?_) | (refine (foldl_fst_mh (fun _ _ => ?_) _ _).trans ?_) | simp))

theorem arriveBody_mh {f : KF} {hold : Option Nat} {s : State} {c : Cx} {t' : State} (h : arriveBody f hold s c = .ok t') : t'.mh = s.mh := by
  unfold arriveBody at h
  repeat' (first | contradiction | split at h | (obtain rfl := Except.ok.inj h; clear h) | dsimp only at h)
  all_goals (repeat' (first | rfl | split | (refine (foldl_mh (fun _ _ => ?_) _ _).trans ?_) | (refine (foldl_fst_mh (fun _ _ => ?_) _ _).trans ?_) | simp))

@[simp] theorem State.condResolve_mh (s : State) (w : Wg) (n : Nat) (commit : Bool) : (State.condResolve s w n commit).mh = s.mh := by
  unfold State.condResolve
  repeat' (first | rfl | split | (refine (foldl_mh (fun _ _ => ?_) _ _).trans ?_) | (refine (foldl_fst_mh (fun _ _ => ?_) _ _).trans ?_) | simp)

theorem signBody_mh {i : Instr} {f : TF} {s : State} {c : Cx} {t' : State} (h : signBody i f s c = .ok t') : t'.mh = s.mh := by
  unfold signBody at h
  repeat' (first | contradiction | split at h | (obtain rfl := Except.ok.inj h; clear h) | dsimp only at h)
  all_goals (repeat' (first | rfl | split | (refine (foldl_mh (fun _ _ => ?_) _ _).trans ?_) | (refine (foldl_fst_mh (fun _ _ => ?_) _ _).trans ?_) | simp))

@[simp] theorem State.gsend_mh (s : State) (src dst : Nat) (k : GMsgK) : (State.gsend s src dst k).mh = s.mh := by
  unfold State.gsend
  repeat' (first | rfl | split | (refine (foldl_mh (fun _ _ => ?_) _ _).trans ?_) | (refine (foldl_fst_mh (fun _ _ => ?_) _ _).trans ?_) | simp)

@[simp] theorem State.marker_mh (s : State) (w : Wg) (p : Pass) (k : PktK) : (State.marker s w p k).mh = s.mh := by
  unfold State.marker
  repeat' (first | rfl | split | (refine (foldl_mh (fun _ _ => ?_) _ _).trans ?_) | (refine (foldl_fst_mh (fun _ _ => ?_) _ _).trans ?_) | simp)

@[simp] theorem State.stkPerform_mh (s : State) (id : Nat) : (State.stkPerform s id).mh = s.mh := by
  unfold State.stkPerform
  repeat' (first | rfl | split | (refine (foldl_mh (fun _ _ => ?_) _ _).trans ?_) | (refine (foldl_fst_mh (fun _ _ => ?_) _ _).trans ?_) | simp)

@[simp] theorem stkIssue_mh (i : Instr) (kind : AccKind) (lanes : List LaneAcc) (res : List RegWr) (g : Group) (s : State) (c : Cx) : (stkIssue i kind lanes res g s c).mh = s.mh := by
  unfold stkIssue
  repeat' (first | rfl | split | (refine (foldl_mh (fun _ _ => ?_) _ _).trans ?_) | (refine (foldl_fst_mh (fun _ _ => ?_) _ _).trans ?_) | simp)

@[simp] theorem State.skipRec_mh (s : State) (r : GRec) : (State.skipRec s r).mh = s.mh := by
  unfold State.skipRec
  repeat' (first | rfl | split | (refine (foldl_mh (fun _ _ => ?_) _ _).trans ?_) | (refine (foldl_fst_mh (fun _ _ => ?_) _ _).trans ?_) | simp)

@[simp] theorem State.recDel_mh (s : State) (d c : Nat) (r : GRec) : (State.recDel s d c r).mh = s.mh := by
  unfold State.recDel
  repeat' (first | rfl | split | (refine (foldl_mh (fun _ _ => ?_) _ _).trans ?_) | (refine (foldl_fst_mh (fun _ _ => ?_) _ _).trans ?_) | simp)

@[simp] theorem State.recDecide_mh (s : State) (d c asid : Nat) (r : GRec) : (State.recDecide s d c asid r).2.mh = s.mh := by
  unfold State.recDecide
  repeat' (first | rfl | split | (refine (foldl_mh (fun _ _ => ?_) _ _).trans ?_) | (refine (foldl_fst_mh (fun _ _ => ?_) _ _).trans ?_) | simp)

@[simp] theorem State.recTake_mh (s : State) (d c asid : Nat) (l : List GRec) : (s.recTake d c asid l).2.mh = s.mh := by
  induction l generalizing s with
  | nil => rfl
  | cons r rest ih =>
    have h0 : ((s.recDel d c r).recDecide d c asid r).2.mh = s.mh := by simp
    unfold State.recTake
    split
    · exact ih s
    · split
      · rename_i t s1 h
        rw [h] at h0; exact h0
      · rename_i s1 h
        rw [h] at h0; exact (ih s1).trans h0

theorem nbrBody_mh {i : Instr} {dir a : Nat} {s : State} {c : Cx} {t' : State} (h : nbrBody i dir a s c = .ok t') : t'.mh = s.mh := by
  unfold nbrBody at h
  repeat' (first | contradiction | split at h | (obtain rfl := Except.ok.inj h; clear h) | dsimp only at h)
  all_goals (repeat' (first | rfl | split | (refine (foldl_mh (fun _ _ => ?_) _ _).trans ?_) | (refine (foldl_fst_mh (fun _ _ => ?_) _ _).trans ?_) | simp))

@[simp] theorem State.fetchHold_mh (s : State) (wi gi : Nat) (ls : List Nat) (va : DWord) : (State.fetchHold s wi gi ls va).mh = s.mh := by
  unfold State.fetchHold
  repeat' (first | rfl | split | (refine (foldl_mh (fun _ _ => ?_) _ _).trans ?_) | (refine (foldl_fst_mh (fun _ _ => ?_) _ _).trans ?_) | simp)

@[simp] theorem State.fetchSettle_mh (s : State) (id : Nat) : (State.fetchSettle s id).mh = s.mh := by
  unfold State.fetchSettle
  repeat' (first | rfl | split | (refine (foldl_mh (fun _ _ => ?_) _ _).trans ?_) | (refine (foldl_fst_mh (fun _ _ => ?_) _ _).trans ?_) | simp)

@[simp] theorem State.fetchHolds_mh (s : State) (ks : List (Nat × Nat)) : (State.fetchHolds s ks).mh = s.mh := by
  unfold State.fetchHolds
  repeat' (first | rfl | split | (refine (foldl_mh (fun _ _ => ?_) _ _).trans ?_) | (refine (foldl_fst_mh (fun _ _ => ?_) _ _).trans ?_) | simp)

@[simp] theorem State.clockWork_mh (s : State) : (State.clockWork s).mh = s.mh := by
  unfold State.clockWork
  repeat' (first | rfl | split | (refine (foldl_mh (fun _ _ => ?_) _ _).trans ?_) | (refine (foldl_fst_mh (fun _ _ => ?_) _ _).trans ?_) | simp)

@[simp] theorem State.issueClock_mh (s : State) (d c q : Nat) : (s.issueClock d c q).mh = s.mh := by
  unfold State.issueClock
  dsimp only
  generalize hs0 : State.clockWork _ = s0
  have h0 : s0.mh = s.mh := by rw [← hs0, State.clockWork_mh]; rfl
  generalize hs1 : s0.fetchHolds _ = s1
  have h1 : s1.mh = s.mh := by rw [← hs1, State.fetchHolds_mh]; exact h0
  split
  · exact h0
  · split
    · exact h1
    · split
      · exact h1
      · split
        · exact h1
        · exact h1

@[simp] theorem State.putResults_mh (s : State) (wi gi id : Nat) (rs : List RegWr) (m : Word) : (State.putResults s wi gi id rs m).mh = s.mh := by
  unfold State.putResults
  repeat' (first | rfl | split | (refine (foldl_mh (fun _ _ => ?_) _ _).trans ?_) | (refine (foldl_fst_mh (fun _ _ => ?_) _ _).trans ?_) | simp)

@[simp] theorem State.deliverLanes_mh (s : State) (id : Nat) (ls : List Nat) (code : Nat) (va : DWord) : (State.deliverLanes s id ls code va).mh = s.mh := by
  unfold State.deliverLanes
  repeat' (first | rfl | split | (refine (foldl_mh (fun _ _ => ?_) _ _).trans ?_) | (refine (foldl_fst_mh (fun _ _ => ?_) _ _).trans ?_) | simp)

@[simp] theorem State.failLanes_mh (s : State) (id : Nat) (ls : List Nat) (code : Nat) : (State.failLanes s id ls code).mh = s.mh := by
  unfold State.failLanes
  repeat' (first | rfl | split | (refine (foldl_mh (fun _ _ => ?_) _ _).trans ?_) | (refine (foldl_fst_mh (fun _ _ => ?_) _ _).trans ?_) | simp)

@[simp] theorem State.reqEnd_mh (s : State) (r : Req) : (State.reqEnd s r).mh = s.mh := by
  unfold State.reqEnd
  repeat' (first | rfl | split | (refine (foldl_mh (fun _ _ => ?_) _ _).trans ?_) | (refine (foldl_fst_mh (fun _ _ => ?_) _ _).trans ?_) | simp)

@[simp] theorem State.reqSettle_mh (s : State) (id : Nat) : (State.reqSettle s id).mh = s.mh := by
  unfold State.reqSettle
  repeat' (first | rfl | split | (refine (foldl_mh (fun _ _ => ?_) _ _).trans ?_) | (refine (foldl_fst_mh (fun _ _ => ?_) _ _).trans ?_) | simp)

@[simp] theorem State.resubLost_mh (s : State) (r : Req) : (State.resubLost s r).mh = s.mh := by
  unfold State.resubLost
  repeat' (first | rfl | split | (refine (foldl_mh (fun _ _ => ?_) _ _).trans ?_) | (refine (foldl_fst_mh (fun _ _ => ?_) _ _).trans ?_) | simp)

@[simp] theorem State.slotLost_mh (s : State) (d c line : Nat) : (State.slotLost s d c line).mh = s.mh := by
  unfold State.slotLost
  repeat' (first | rfl | split | (refine (foldl_mh (fun _ _ => ?_) _ _).trans ?_) | (refine (foldl_fst_mh (fun _ _ => ?_) _ _).trans ?_) | simp)

@[simp] theorem State.deliverReq_mh (s : State) (r : Req) (code : Nat) (va : DWord) : (State.deliverReq s r code va).mh = s.mh := by
  unfold State.deliverReq
  repeat' (first | rfl | split | (refine (foldl_mh (fun _ _ => ?_) _ _).trans ?_) | (refine (foldl_fst_mh (fun _ _ => ?_) _ _).trans ?_) | simp)

@[simp] theorem State.reqFault_mh (s : State) (r : Req) (code : Nat) (va : DWord) (write : Bool) : (State.reqFault s r code va write).mh = s.mh := by
  unfold State.reqFault
  repeat' (first | rfl | split | (refine (foldl_mh (fun _ _ => ?_) _ _).trans ?_) | (refine (foldl_fst_mh (fun _ _ => ?_) _ _).trans ?_) | simp)

@[simp] theorem State.putLlc_mh (s : State) (k line : Nat) (v : Line) : (State.putLlc s k line v).mh = s.mh := by
  unfold State.putLlc
  repeat' (first | rfl | split | (refine (foldl_mh (fun _ _ => ?_) _ _).trans ?_) | (refine (foldl_fst_mh (fun _ _ => ?_) _ _).trans ?_) | simp)

@[simp] theorem State.delLlc_mh (s : State) (k line : Nat) : (State.delLlc s k line).mh = s.mh := by
  unfold State.delLlc
  repeat' (first | rfl | split | (refine (foldl_mh (fun _ _ => ?_) _ _).trans ?_) | (refine (foldl_fst_mh (fun _ _ => ?_) _ _).trans ?_) | simp)

@[simp] theorem State.l1Drop_mh (s : State) (d line : Nat) (keep : Option Nat) : (State.l1Drop s d line keep).mh = s.mh := by
  unfold State.l1Drop
  repeat' (first | rfl | split | (refine (foldl_mh (fun _ _ => ?_) _ _).trans ?_) | (refine (foldl_fst_mh (fun _ _ => ?_) _ _).trans ?_) | simp)

@[simp] theorem State.l1Mark_mh (s : State) (d c line : Nat) : (State.l1Mark s d c line).mh = s.mh := by
  unfold State.l1Mark
  repeat' (first | rfl | split | (refine (foldl_mh (fun _ _ => ?_) _ _).trans ?_) | (refine (foldl_fst_mh (fun _ _ => ?_) _ _).trans ?_) | simp)

@[simp] theorem State.request_mh (s : State) (k line : Nat) (q : MsgK) : (State.request s k line q).mh = s.mh := by
  unfold State.request
  repeat' (first | rfl | split | (refine (foldl_mh (fun _ _ => ?_) _ _).trans ?_) | (refine (foldl_fst_mh (fun _ _ => ?_) _ _).trans ?_) | simp)

@[simp] theorem State.evict_mh (s : State) (k line : Nat) : (State.evict s k line).mh = s.mh := by
  unfold State.evict
  repeat' (first | rfl | split | (refine (foldl_mh (fun _ _ => ?_) _ _).trans ?_) | (refine (foldl_fst_mh (fun _ _ => ?_) _ _).trans ?_) | simp)

theorem State.room_mh {s : State} {k line : Nat} {rt : Bool} {t : State} {w : Nat} (h : s.room k line rt = some (t, w)) : t.mh = s.mh := by
  unfold State.room at h
  repeat' (first | contradiction | split at h | (cases h; done) | dsimp only at h)
  all_goals (first | (cases h; rfl) | (cases h; simp))

@[simp] theorem State.want_mh (s : State) (k line : Nat) (m : Bool) (hint : Nat) (rt : Bool) : (State.want s k line m hint rt).mh = s.mh := by
  unfold State.want
  repeat' (first | rfl | split | (refine (foldl_mh (fun _ _ => ?_) _ _).trans ?_) | (refine (foldl_fst_mh (fun _ _ => ?_) _ _).trans ?_) | simp | (rw [State.room_mh ‹_›]))

@[simp] theorem State.llcTouch_mh (s : State) (k line hint : Nat) : (State.llcTouch s k line hint).mh = s.mh := by
  unfold State.llcTouch
  repeat' (first | rfl | split | (refine (foldl_mh (fun _ _ => ?_) _ _).trans ?_) | (refine (foldl_fst_mh (fun _ _ => ?_) _ _).trans ?_) | simp)

@[simp] theorem State.rime_mh (s : State) (org : Origin) (line : Nat) : (State.rime s org line).mh = s.mh := by
  unfold State.rime
  repeat' (first | rfl | split | (refine (foldl_mh (fun _ _ => ?_) _ _).trans ?_) | (refine (foldl_fst_mh (fun _ _ => ?_) _ _).trans ?_) | simp)

@[simp] theorem State.putDir_mh (s : State) (h line : Nat) (e : Dir) : (State.putDir s h line e).mh = s.mh := by
  unfold State.putDir
  repeat' (first | rfl | split | (refine (foldl_mh (fun _ _ => ?_) _ _).trans ?_) | (refine (foldl_fst_mh (fun _ _ => ?_) _ _).trans ?_) | simp)

@[simp] theorem State.delDir_mh (s : State) (h line : Nat) : (State.delDir s h line).mh = s.mh := by
  unfold State.delDir
  repeat' (first | rfl | split | (refine (foldl_mh (fun _ _ => ?_) _ _).trans ?_) | (refine (foldl_fst_mh (fun _ _ => ?_) _ _).trans ?_) | simp)

@[simp] theorem State.newDir_mh (s : State) (h line : Nat) (e : Dir) : (State.newDir s h line e).mh = s.mh := by
  unfold State.newDir
  repeat' (first | rfl | split | (refine (foldl_mh (fun _ _ => ?_) _ _).trans ?_) | (refine (foldl_fst_mh (fun _ _ => ?_) _ _).trans ?_) | simp)

theorem State.dirRoom_mh {s : State} {h line : Nat} {t : State} (hr : s.dirRoom h line = some t) : t.mh = s.mh := by
  unfold State.dirRoom at hr
  dsimp only at hr
  split at hr
  · cases hr; rfl
  · split at hr
    · cases hr; rfl
    · split at hr
      · cases hr
      · split at hr
        · cases hr
        · cases hr
          refine (foldl_mh (fun _ _ => by simp) _ _).trans ?_
          simp

@[simp] theorem State.nackAll_mh (s : State) (h line : Nat) (ms : List Msg) : (State.nackAll s h line ms).mh = s.mh := by
  unfold State.nackAll
  repeat' (first | rfl | split | (refine (foldl_mh (fun _ _ => ?_) _ _).trans ?_) | (refine (foldl_fst_mh (fun _ _ => ?_) _ _).trans ?_) | simp)

@[simp] theorem State.loseLine_mh (s : State) (h line : Nat) : (State.loseLine s h line).mh = s.mh := by
  unfold State.loseLine
  repeat' (first | rfl | split | (refine (foldl_mh (fun _ _ => ?_) _ _).trans ?_) | (refine (foldl_fst_mh (fun _ _ => ?_) _ _).trans ?_) | simp)

@[simp] theorem State.homePut_mh (s : State) (h line : Nat) (new : BitVec 1024) (org : Origin) : (State.homePut s h line new org).mh = s.mh := by
  unfold State.homePut
  repeat' (first | rfl | split | (refine (foldl_mh (fun _ _ => ?_) _ _).trans ?_) | (refine (foldl_fst_mh (fun _ _ => ?_) _ _).trans ?_) | simp)

@[simp] theorem State.nearBank_mh (s : State) (h : Nat) (m : Msg) : (State.nearBank s h m).mh = s.mh := by
  unfold State.nearBank
  repeat' (first | rfl | split | (refine (foldl_mh (fun _ _ => ?_) _ _).trans ?_) | (refine (foldl_fst_mh (fun _ _ => ?_) _ _).trans ?_) | simp)

@[simp] theorem State.homeServe_mh (s : State) (h line : Nat) : (State.homeServe s h line).mh = s.mh := by
  unfold State.homeServe
  repeat' (first | rfl | split | (refine (foldl_mh (fun _ _ => ?_) _ _).trans ?_) | (refine (foldl_fst_mh (fun _ _ => ?_) _ _).trans ?_) | simp)

theorem State.biasHold_mh {s : State} {h line : Nat} {t' : State} (h : State.biasHold s h line = some t') : t'.mh = s.mh := by
  unfold State.biasHold at h
  repeat' (first | contradiction | split at h | (obtain rfl := Option.some.inj h; clear h) | dsimp only at h)
  all_goals (repeat' (first | rfl | split | (refine (foldl_mh (fun _ _ => ?_) _ _).trans ?_) | (refine (foldl_fst_mh (fun _ _ => ?_) _ _).trans ?_) | simp))

@[simp] theorem State.snoopUsed_mh (s : State) (h line : Nat) : (State.snoopUsed s h line).mh = s.mh := by
  unfold State.snoopUsed
  repeat' (first | rfl | split | (refine (foldl_mh (fun _ _ => ?_) _ _).trans ?_) | (refine (foldl_fst_mh (fun _ _ => ?_) _ _).trans ?_) | simp)

@[simp] theorem State.grant_mh (s : State) (h line : Nat) (r : Agent) (st acks : Nat) : (State.grant s h line r st acks).mh = s.mh := by
  unfold State.grant
  repeat' (first | rfl | split | (refine (foldl_mh (fun _ _ => ?_) _ _).trans ?_) | (refine (foldl_fst_mh (fun _ _ => ?_) _ _).trans ?_) | simp)

@[simp] theorem State.homeGetS_mh (s : State) (h : Nat) (m : Msg) : (State.homeGetS s h m).mh = s.mh := by
  unfold State.homeGetS
  repeat' (first | rfl | split | (refine (foldl_mh (fun _ _ => ?_) _ _).trans ?_) | (refine (foldl_fst_mh (fun _ _ => ?_) _ _).trans ?_) | simp | (rw [State.dirRoom_mh ‹_›]))

@[simp] theorem State.homeGetM_mh (s : State) (h : Nat) (m : Msg) (up : Bool) : (State.homeGetM s h m up).mh = s.mh := by
  unfold State.homeGetM
  repeat' (first | rfl | split | (refine (foldl_mh (fun _ _ => ?_) _ _).trans ?_) | (refine (foldl_fst_mh (fun _ _ => ?_) _ _).trans ?_) | simp | (rw [State.dirRoom_mh ‹_›]))

@[simp] theorem State.homeUnsub_mh (s : State) (h : Nat) (m : Msg) (core idx req : Nat) : (State.homeUnsub s h m core idx req).mh = s.mh := by
  unfold State.homeUnsub
  repeat' (first | rfl | split | (refine (foldl_mh (fun _ _ => ?_) _ _).trans ?_) | (refine (foldl_fst_mh (fun _ _ => ?_) _ _).trans ?_) | simp)

@[simp] theorem State.homePushAck_mh (s : State) (h : Nat) (m : Msg) (core idx : Nat) : (State.homePushAck s h m core idx).mh = s.mh := by
  unfold State.homePushAck
  repeat' (first | rfl | split | (refine (foldl_mh (fun _ _ => ?_) _ _).trans ?_) | (refine (foldl_fst_mh (fun _ _ => ?_) _ _).trans ?_) | simp)

@[simp] theorem State.homeRetry_mh (s : State) (h : Nat) (m : Msg) : (State.homeRetry s h m).mh = s.mh := by
  unfold State.homeRetry
  repeat' (first | rfl | split | (refine (foldl_mh (fun _ _ => ?_) _ _).trans ?_) | (refine (foldl_fst_mh (fun _ _ => ?_) _ _).trans ?_) | simp)

@[simp] theorem State.snoopAsk_mh (s : State) (lines : List Nat) : (s.snoopAsk lines).mh = s.mh := by
  unfold State.snoopAsk
  refine foldl_mh (fun s l => ?_) _ _
  split
  · split
    · rename_i h _ t ht
      exact State.biasHold_mh ht
    · rfl
  · rfl

@[simp] theorem State.copyGone_mh (s : State) (k line : Nat) : (State.copyGone s k line).mh = s.mh := by
  unfold State.copyGone
  repeat' (first | rfl | split | (refine (foldl_mh (fun _ _ => ?_) _ _).trans ?_) | (refine (foldl_fst_mh (fun _ _ => ?_) _ _).trans ?_) | simp)

@[simp] theorem State.storeSettle_mh (s : State) (id : Nat) : (State.storeSettle s id).mh = s.mh := by
  unfold State.storeSettle
  repeat' (first | rfl | split | (refine (foldl_mh (fun _ _ => ?_) _ _).trans ?_) | (refine (foldl_fst_mh (fun _ _ => ?_) _ _).trans ?_) | simp)

@[simp] theorem State.wtDrop_mh (s : State) (c : Nat) (t : WtEnt) : (State.wtDrop s c t).mh = s.mh := by
  unfold State.wtDrop
  repeat' (first | rfl | split | (refine (foldl_mh (fun _ _ => ?_) _ _).trans ?_) | (refine (foldl_fst_mh (fun _ _ => ?_) _ _).trans ?_) | simp)

@[simp] theorem State.swtDrop_mh (s : State) (d line : Nat) : (State.swtDrop s d line).mh = s.mh := by
  unfold State.swtDrop
  repeat' (first | rfl | split | (refine (foldl_mh (fun _ _ => ?_) _ _).trans ?_) | (refine (foldl_fst_mh (fun _ _ => ?_) _ _).trans ?_) | simp)

@[simp] theorem State.writeOut_mh (s : State) (d line : Nat) (q : MsgK) : (State.writeOut s d line q).mh = s.mh := by
  unfold State.writeOut
  repeat' (first | rfl | split | (refine (foldl_mh (fun _ _ => ?_) _ _).trans ?_) | (refine (foldl_fst_mh (fun _ _ => ?_) _ _).trans ?_) | simp)

@[simp] theorem State.wtSend_mh (s : State) (d c : Nat) (t : WtEnt) (a : Access) : (State.wtSend s d c t a).mh = s.mh := by
  unfold State.wtSend
  repeat' (first | rfl | split | (refine (foldl_mh (fun _ _ => ?_) _ _).trans ?_) | (refine (foldl_fst_mh (fun _ _ => ?_) _ _).trans ?_) | simp)

@[simp] theorem State.wtWrite_mh (s : State) (d : Nat) (e : Nat × WtEnt) (a : Access) (v : Line) : (State.wtWrite s d e a v).mh = s.mh := by
  unfold State.wtWrite
  repeat' (first | rfl | split | (refine (foldl_mh (fun _ _ => ?_) _ _).trans ?_) | (refine (foldl_fst_mh (fun _ _ => ?_) _ _).trans ?_) | simp)

@[simp] theorem State.wtOne_mh (s : State) (d : Nat) (e : Nat × WtEnt) : (State.wtOne s d e).1.mh = s.mh := by
  unfold State.wtOne
  repeat' (first | rfl | split | (refine (foldl_mh (fun _ _ => ?_) _ _).trans ?_) | (refine (foldl_fst_mh (fun _ _ => ?_) _ _).trans ?_) | simp)

@[simp] theorem State.wtServe_mh (s : State) (d line : Nat) : (State.wtServe s d line).mh = s.mh := by
  unfold State.wtServe
  repeat' (first | rfl | split | (refine (foldl_mh (fun _ _ => ?_) _ _).trans ?_) | (refine (foldl_fst_mh (fun _ _ => ?_) _ _).trans ?_) | simp)

@[simp] theorem State.loadRes_mh (s : State) (i : Instr) (l : LaneAcc) (bs : List Byte) : (s.loadRes i l bs).1.mh = s.mh := by
  unfold State.loadRes
  split
  all_goals (try rfl)
  refine (foldl_fst_mh (fun p j => ?_) _ _).trans rfl
  dsimp only
  split <;> rfl

@[simp] theorem State.refilled_mh (s : State) (wi : Nat) (l : LaneAcc) (bs : List Byte) : (State.refilled s wi l bs).mh = s.mh := by
  unfold State.refilled
  repeat' (first | rfl | split | (refine (foldl_mh (fun _ _ => ?_) _ _).trans ?_) | (refine (foldl_fst_mh (fun _ _ => ?_) _ _).trans ?_) | simp)

@[simp] theorem State.laneBound_mh (s : State) (id k : Nat) : (State.laneBound s id k).mh = s.mh := by
  unfold State.laneBound
  repeat' (first | rfl | split | (refine (foldl_mh (fun _ _ => ?_) _ _).trans ?_) | (refine (foldl_fst_mh (fun _ _ => ?_) _ _).trans ?_) | simp)

@[simp] theorem State.bindPiece_mh (s : State) (id k line : Nat) (data : BitVec 1024) (fwd : Bool) : (State.bindPiece s id k line data fwd).mh = s.mh := by
  unfold State.bindPiece
  repeat' (first | rfl | split | (refine (foldl_mh (fun _ _ => ?_) _ _).trans ?_) | (refine (foldl_fst_mh (fun _ _ => ?_) _ _).trans ?_) | simp)

@[simp] theorem State.loadTouch_mh (s : State) (id line : Nat) : (State.loadTouch s id line).mh = s.mh := by
  unfold State.loadTouch
  repeat' (first | rfl | split | (refine (foldl_mh (fun _ _ => ?_) _ _).trans ?_) | (refine (foldl_fst_mh (fun _ _ => ?_) _ _).trans ?_) | simp)

@[simp] theorem State.servePieces_mh (s : State) (ps : List (Nat × Nat)) (line : Nat) (data : BitVec 1024) (fwd : Bool) : (State.servePieces s ps line data fwd).mh = s.mh := by
  unfold State.servePieces
  repeat' (first | rfl | split | (refine (foldl_mh (fun _ _ => ?_) _ _).trans ?_) | (refine (foldl_fst_mh (fun _ _ => ?_) _ _).trans ?_) | simp)

@[simp] theorem State.serveLoads_mh (s : State) (d line : Nat) (data : BitVec 1024) : (State.serveLoads s d line data).mh = s.mh := by
  unfold State.serveLoads
  repeat' (first | rfl | split | (refine (foldl_mh (fun _ _ => ?_) _ _).trans ?_) | (refine (foldl_fst_mh (fun _ _ => ?_) _ _).trans ?_) | simp)

@[simp] theorem State.llcGone_mh (s : State) (k line : Nat) : (State.llcGone s k line).mh = s.mh := by
  unfold State.llcGone
  repeat' (first | rfl | split | (refine (foldl_mh (fun _ _ => ?_) _ _).trans ?_) | (refine (foldl_fst_mh (fun _ _ => ?_) _ _).trans ?_) | simp)

@[simp] theorem State.fwdQueue_mh (s : State) (k : Nat) (v : Line) (m : Msg) : (State.fwdQueue s k v m).mh = s.mh := by
  unfold State.fwdQueue
  repeat' (first | rfl | split | (refine (foldl_mh (fun _ _ => ?_) _ _).trans ?_) | (refine (foldl_fst_mh (fun _ _ => ?_) _ _).trans ?_) | simp)

@[simp] theorem State.llcFwdGetS_mh (s : State) (k : Nat) (m : Msg) (r : Agent) : (State.llcFwdGetS s k m r).mh = s.mh := by
  unfold State.llcFwdGetS
  repeat' (first | rfl | split | (refine (foldl_mh (fun _ _ => ?_) _ _).trans ?_) | (refine (foldl_fst_mh (fun _ _ => ?_) _ _).trans ?_) | simp)

@[simp] theorem State.llcFwdGetM_mh (s : State) (k : Nat) (m : Msg) (r : Agent) (acks : Nat) : (State.llcFwdGetM s k m r acks).mh = s.mh := by
  unfold State.llcFwdGetM
  repeat' (first | rfl | split | (refine (foldl_mh (fun _ _ => ?_) _ _).trans ?_) | (refine (foldl_fst_mh (fun _ _ => ?_) _ _).trans ?_) | simp)

@[simp] theorem State.llcInv_mh (s : State) (k : Nat) (m : Msg) (r : Agent) : (State.llcInv s k m r).mh = s.mh := by
  unfold State.llcInv
  repeat' (first | rfl | split | (refine (foldl_mh (fun _ _ => ?_) _ _).trans ?_) | (refine (foldl_fst_mh (fun _ _ => ?_) _ _).trans ?_) | simp)

@[simp] theorem State.llcBackInv_mh (s : State) (k : Nat) (m : Msg) : (State.llcBackInv s k m).mh = s.mh := by
  unfold State.llcBackInv
  repeat' (first | rfl | split | (refine (foldl_mh (fun _ _ => ?_) _ _).trans ?_) | (refine (foldl_fst_mh (fun _ _ => ?_) _ _).trans ?_) | simp)

@[simp] theorem State.llcForward_mh (s : State) (k : Nat) (m : Msg) : (State.llcForward s k m).mh = s.mh := by
  unfold State.llcForward
  repeat' (first | rfl | split | (refine (foldl_mh (fun _ _ => ?_) _ _).trans ?_) | (refine (foldl_fst_mh (fun _ _ => ?_) _ _).trans ?_) | simp)

@[simp] theorem State.lineReady_mh (s : State) (k line : Nat) (fwds : List Msg) : (State.lineReady s k line fwds).mh = s.mh := by
  unfold State.lineReady
  repeat' (first | rfl | split | (refine (foldl_mh (fun _ _ => ?_) _ _).trans ?_) | (refine (foldl_fst_mh (fun _ _ => ?_) _ _).trans ?_) | simp)

@[simp] theorem State.tryM_mh (s : State) (k line : Nat) : (State.tryM s k line).mh = s.mh := by
  unfold State.tryM
  repeat' (first | rfl | split | (refine (foldl_mh (fun _ _ => ?_) _ _).trans ?_) | (refine (foldl_fst_mh (fun _ _ => ?_) _ _).trans ?_) | simp)

@[simp] theorem State.llcPass_mh (s : State) (k line : Nat) (v : Line) (st : LineSt) : (State.llcPass s k line v st).mh = s.mh := by
  unfold State.llcPass
  repeat' (first | rfl | split | (refine (foldl_mh (fun _ _ => ?_) _ _).trans ?_) | (refine (foldl_fst_mh (fun _ _ => ?_) _ _).trans ?_) | simp)

@[simp] theorem State.llcData_mh (s : State) (k : Nat) (m : Msg) (st : Nat) (d : BitVec 1024) (acks : Nat) : (State.llcData s k m st d acks).mh = s.mh := by
  unfold State.llcData
  repeat' (first | rfl | split | (refine (foldl_mh (fun _ _ => ?_) _ _).trans ?_) | (refine (foldl_fst_mh (fun _ _ => ?_) _ _).trans ?_) | simp)

@[simp] theorem State.llcInvAck_mh (s : State) (k line : Nat) : (State.llcInvAck s k line).mh = s.mh := by
  unfold State.llcInvAck
  repeat' (first | rfl | split | (refine (foldl_mh (fun _ _ => ?_) _ _).trans ?_) | (refine (foldl_fst_mh (fun _ _ => ?_) _ _).trans ?_) | simp)

@[simp] theorem State.llcPutAck_mh (s : State) (k line : Nat) : (State.llcPutAck s k line).mh = s.mh := by
  unfold State.llcPutAck
  repeat' (first | rfl | split | (refine (foldl_mh (fun _ _ => ?_) _ _).trans ?_) | (refine (foldl_fst_mh (fun _ _ => ?_) _ _).trans ?_) | simp)

@[simp] theorem State.llcRetry_mh (s : State) (k line acc : Nat) : (State.llcRetry s k line acc).mh = s.mh := by
  unfold State.llcRetry
  repeat' (first | rfl | split | (refine (foldl_mh (fun _ _ => ?_) _ _).trans ?_) | (refine (foldl_fst_mh (fun _ _ => ?_) _ _).trans ?_) | simp)

@[simp] theorem State.againGo_mh (s : State) (k line : Nat) : (State.againGo s k line).mh = s.mh := by
  unfold State.againGo
  repeat' (first | rfl | split | (refine (foldl_mh (fun _ _ => ?_) _ _).trans ?_) | (refine (foldl_fst_mh (fun _ _ => ?_) _ _).trans ?_) | simp)

@[simp] theorem State.llcReissue_mh (s0 : State) (k line : Nat) : (State.llcReissue s0 k line).mh = s0.mh := by
  unfold State.llcReissue
  dsimp only
  split
  · exact (State.wtServe_mh _ _ _).trans ((State.homeServe_mh _ _ _).trans (State.againGo_mh _ _ _))
  · split
    · split
      · exact (State.wtServe_mh _ _ _).trans ((State.homeServe_mh _ _ _).trans (State.againGo_mh _ _ _))
      · exact State.againGo_mh _ _ _
    · split
      · exact State.againGo_mh _ _ _
      · split
        all_goals (try simp only [State.request_mh, State.putLlc_mh, State.againGo_mh])

@[simp] theorem State.llcNackWT_mh (s : State) (k line : Nat) : (State.llcNackWT s k line).mh = s.mh := by
  unfold State.llcNackWT
  repeat' (first | rfl | split | (refine (foldl_mh (fun _ _ => ?_) _ _).trans ?_) | (refine (foldl_fst_mh (fun _ _ => ?_) _ _).trans ?_) | simp)

@[simp] theorem State.llcNackLost_mh (s : State) (k line acc : Nat) : (State.llcNackLost s k line acc).mh = s.mh := by
  unfold State.llcNackLost
  repeat' (first | rfl | split | (refine (foldl_mh (fun _ _ => ?_) _ _).trans ?_) | (refine (foldl_fst_mh (fun _ _ => ?_) _ _).trans ?_) | simp)

@[simp] theorem State.putSlice_mh (s : State) (line : Nat) (e : SliceEnt) : (State.putSlice s line e).mh = s.mh := by
  unfold State.putSlice
  repeat' (first | rfl | split | (refine (foldl_mh (fun _ _ => ?_) _ _).trans ?_) | (refine (foldl_fst_mh (fun _ _ => ?_) _ _).trans ?_) | simp)

@[simp] theorem State.sliceFan_mh (s : State) (line : Nat) (devs : List Nat) (back : Bool) (dst : Agent) : (State.sliceFan s line devs back dst).mh = s.mh := by
  unfold State.sliceFan
  repeat' (first | rfl | split | (refine (foldl_mh (fun _ _ => ?_) _ _).trans ?_) | (refine (foldl_fst_mh (fun _ _ => ?_) _ _).trans ?_) | simp)

@[simp] theorem State.portAck_mh (s : State) (m : Msg) (dev : Nat) (back : Bool) (d : Option (BitVec 1024)) : (State.portAck s m dev back d).mh = s.mh := by
  unfold State.portAck
  repeat' (first | rfl | split | (refine (foldl_mh (fun _ _ => ?_) _ _).trans ?_) | (refine (foldl_fst_mh (fun _ _ => ?_) _ _).trans ?_) | simp)

@[simp] theorem State.sliceRecall_mh (s : State) (line : Nat) (e : SliceEnt) (ans : Option Msg) : (State.sliceRecall s line e ans).mh = s.mh := by
  unfold State.sliceRecall
  repeat' (first | rfl | split | (refine (foldl_mh (fun _ _ => ?_) _ _).trans ?_) | (refine (foldl_fst_mh (fun _ _ => ?_) _ _).trans ?_) | simp)

@[simp] theorem State.slicePut_mh (s : State) (line : Nat) : (State.slicePut s line).mh = s.mh := by
  unfold State.slicePut
  repeat' (first | rfl | split | (refine (foldl_mh (fun _ _ => ?_) _ _).trans ?_) | (refine (foldl_fst_mh (fun _ _ => ?_) _ _).trans ?_) | simp)

theorem State.sliceRoom_mh {s : State} {line : Nat} {t' : State} (h : State.sliceRoom s line = some t') : t'.mh = s.mh := by
  unfold State.sliceRoom at h
  dsimp only at h
  split at h
  · cases h; rfl
  · split at h
    · cases h
    · split at h
      · cases h
      · split at h
        · cases h; exact (State.slicePut_mh _ _).trans rfl
        · cases h; exact (State.sliceRecall_mh _ _ _ _).trans rfl

@[simp] theorem State.sliceRetry_mh (s : State) (m : Msg) : (State.sliceRetry s m).mh = s.mh := by
  unfold State.sliceRetry
  repeat' (first | rfl | split | (refine (foldl_mh (fun _ _ => ?_) _ _).trans ?_) | (refine (foldl_fst_mh (fun _ _ => ?_) _ _).trans ?_) | simp)

@[simp] theorem State.sliceAsk_mh (s : State) (line : Nat) (e : SliceEnt) (m : Msg) (n : Nat) : (State.sliceAsk s line e m n).mh = s.mh := by
  unfold State.sliceAsk
  repeat' (first | rfl | split | (refine (foldl_mh (fun _ _ => ?_) _ _).trans ?_) | (refine (foldl_fst_mh (fun _ _ => ?_) _ _).trans ?_) | simp | (rw [State.sliceRoom_mh ‹_›]))

@[simp] theorem State.sliceDirty_mh (s : State) (line : Nat) (e : SliceEnt) : (State.sliceDirty s line e).mh = s.mh := by
  unfold State.sliceDirty
  repeat' (first | rfl | split | (refine (foldl_mh (fun _ _ => ?_) _ _).trans ?_) | (refine (foldl_fst_mh (fun _ _ => ?_) _ _).trans ?_) | simp)

@[simp] theorem State.sliceGrant_mh (s : State) (m : Msg) (e : SliceEnt) (up : Bool) : (State.sliceGrant s m e up).mh = s.mh := by
  unfold State.sliceGrant
  repeat' (first | rfl | split | (refine (foldl_mh (fun _ _ => ?_) _ _).trans ?_) | (refine (foldl_fst_mh (fun _ _ => ?_) _ _).trans ?_) | simp)

@[simp] theorem State.sliceWrite_mh (s : State) (m : Msg) (e : SliceEnt) (f : BitVec 1024 → BitVec 1024 × Bool × MsgK) (org : Origin) : (State.sliceWrite s m e f org).mh = s.mh := by
  unfold State.sliceWrite
  repeat' (first | rfl | split | (refine (foldl_mh (fun _ _ => ?_) _ _).trans ?_) | (refine (foldl_fst_mh (fun _ _ => ?_) _ _).trans ?_) | simp)

@[simp] theorem State.sliceReq_mh (s : State) (m : Msg) : (s.sliceReq m).mh = s.mh := by
  obtain ⟨id, src, dst, line, k⟩ := m
  cases k
  all_goals unfold State.sliceReq
  all_goals dsimp only
  all_goals (repeat' split)
  all_goals (try simp only [State.send_mh, State.putSlice_mh, State.sliceRecall_mh, State.sliceDirty_mh, State.sliceAsk_mh, State.sliceRetry_mh, State.sliceGrant_mh, State.sliceWrite_mh])
  all_goals (try rfl)

@[simp] theorem State.sliceAnswer_mh (s : State) (line : Nat) (ans : Msg) : (s.sliceAnswer line ans).mh = s.mh := by
  unfold State.sliceAnswer
  dsimp only
  split
  · exact (State.send_mh _ _ _ _ _).trans (State.putSlice_mh _ _ _)
  · exact (State.send_mh _ _ _ _ _).trans (State.putSlice_mh _ _ _)
  · exact (State.send_mh _ _ _ _ _).trans (State.putSlice_mh _ _ _)
  · exact (State.send_mh _ _ _ _ _).trans (State.putSlice_mh _ _ _)
  · rfl

@[simp] theorem State.sliceForward_mh (s : State) (m : Msg) : (State.sliceForward s m).mh = s.mh := by
  unfold State.sliceForward
  repeat' (first | rfl | split | (refine (foldl_mh (fun _ _ => ?_) _ _).trans ?_) | (refine (foldl_fst_mh (fun _ _ => ?_) _ _).trans ?_) | simp)

@[simp] theorem State.sliceServe_mh (s : State) (line : Nat) : (State.sliceServe s line).mh = s.mh := by
  unfold State.sliceServe
  repeat' (first | rfl | split | (refine (foldl_mh (fun _ _ => ?_) _ _).trans ?_) | (refine (foldl_fst_mh (fun _ _ => ?_) _ _).trans ?_) | simp)

@[simp] theorem State.sliceBackInvAck_mh (s : State) (m : Msg) (d : Option (BitVec 1024)) : (State.sliceBackInvAck s m d).mh = s.mh := by
  unfold State.sliceBackInvAck
  repeat' (first | rfl | split | (refine (foldl_mh (fun _ _ => ?_) _ _).trans ?_) | (refine (foldl_fst_mh (fun _ _ => ?_) _ _).trans ?_) | simp)

@[simp] theorem State.sliceTry_mh (s : State) (line : Nat) : (State.sliceTry s line).mh = s.mh := by
  unfold State.sliceTry
  repeat' (first | rfl | split | (refine (foldl_mh (fun _ _ => ?_) _ _).trans ?_) | (refine (foldl_fst_mh (fun _ _ => ?_) _ _).trans ?_) | simp)

@[simp] theorem State.sliceData_mh (s : State) (m : Msg) (st : Nat) (d : BitVec 1024) (acks : Nat) : (State.sliceData s m st d acks).mh = s.mh := by
  unfold State.sliceData
  repeat' (first | rfl | split | (refine (foldl_mh (fun _ _ => ?_) _ _).trans ?_) | (refine (foldl_fst_mh (fun _ _ => ?_) _ _).trans ?_) | simp)

@[simp] theorem State.slicePutAck_mh (s : State) (line : Nat) : (State.slicePutAck s line).mh = s.mh := by
  unfold State.slicePutAck
  repeat' (first | rfl | split | (refine (foldl_mh (fun _ _ => ?_) _ _).trans ?_) | (refine (foldl_fst_mh (fun _ _ => ?_) _ _).trans ?_) | simp)

@[simp] theorem State.sliceNackWT_mh (s : State) (line : Nat) : (State.sliceNackWT s line).mh = s.mh := by
  unfold State.sliceNackWT
  repeat' (first | rfl | split | (refine (foldl_mh (fun _ _ => ?_) _ _).trans ?_) | (refine (foldl_fst_mh (fun _ _ => ?_) _ _).trans ?_) | simp)

@[simp] theorem State.sliceNackLost_mh (s : State) (line : Nat) : (State.sliceNackLost s line).mh = s.mh := by
  unfold State.sliceNackLost
  repeat' (first | rfl | split | (refine (foldl_mh (fun _ _ => ?_) _ _).trans ?_) | (refine (foldl_fst_mh (fun _ _ => ?_) _ _).trans ?_) | simp)

@[simp] theorem State.sliceReissue_mh (s : State) (line : Nat) : (State.sliceReissue s line).mh = s.mh := by
  unfold State.sliceReissue
  repeat' (first | rfl | split | (refine (foldl_mh (fun _ _ => ?_) _ _).trans ?_) | (refine (foldl_fst_mh (fun _ _ => ?_) _ _).trans ?_) | simp)

@[simp] theorem State.atHolder_mh (s : State) (m : Msg) : (State.atHolder s m).mh = s.mh := by
  unfold State.atHolder
  repeat' (first | rfl | split | (refine (foldl_mh (fun _ _ => ?_) _ _).trans ?_) | (refine (foldl_fst_mh (fun _ _ => ?_) _ _).trans ?_) | simp)

@[simp] theorem State.reqAck_mh (s : State) (line : Nat) (r : Req) : (State.reqAck s line r).mh = s.mh := by
  unfold State.reqAck
  repeat' (first | rfl | split | (refine (foldl_mh (fun _ _ => ?_) _ _).trans ?_) | (refine (foldl_fst_mh (fun _ _ => ?_) _ _).trans ?_) | simp)

@[simp] theorem State.wtAck_mh (s : State) (d line acc : Nat) : (State.wtAck s d line acc).mh = s.mh := by
  unfold State.wtAck
  repeat' (first | rfl | split | (refine (foldl_mh (fun _ _ => ?_) _ _).trans ?_) | (refine (foldl_fst_mh (fun _ _ => ?_) _ _).trans ?_) | simp)

@[simp] theorem State.atomRsp_mh (s : State) (line acc : Nat) (olds : List (Nat × BitVec 64)) : (State.atomRsp s line acc olds).mh = s.mh := by
  unfold State.atomRsp
  repeat' (first | rfl | split | (refine (foldl_mh (fun _ _ => ?_) _ _).trans ?_) | (refine (foldl_fst_mh (fun _ _ => ?_) _ _).trans ?_) | simp)

@[simp] theorem State.pushLand_mh (s : State) (d c : Nat) (m : Msg) (idx : Nat) (img : BitVec 1024) (seq : Word) (folded : Nat) : (State.pushLand s d c m idx img seq folded).mh = s.mh := by
  unfold State.pushLand
  repeat' (first | rfl | split | (refine (foldl_mh (fun _ _ => ?_) _ _).trans ?_) | (refine (foldl_fst_mh (fun _ _ => ?_) _ _).trans ?_) | simp)

@[simp] theorem State.unsubbed_mh (s : State) (d c idx req : Nat) : (State.unsubbed s d c idx req).mh = s.mh := by
  unfold State.unsubbed
  repeat' (first | rfl | split | (refine (foldl_mh (fun _ _ => ?_) _ _).trans ?_) | (refine (foldl_fst_mh (fun _ _ => ?_) _ _).trans ?_) | simp)

@[simp] theorem State.regReadLog_mh (s : State) (off : Nat) (v : DWord) : (State.regReadLog s off v).mh = s.mh := by
  unfold State.regReadLog
  repeat' (first | rfl | split | (refine (foldl_mh (fun _ _ => ?_) _ _).trans ?_) | (refine (foldl_fst_mh (fun _ _ => ?_) _ _).trans ?_) | simp)

@[simp] theorem State.storeGo_mh (s : State) (w : Wg) (a : Access) : (State.storeGo s w a).mh = s.mh := by
  unfold State.storeGo
  repeat' (first | rfl | split | (refine (foldl_mh (fun _ _ => ?_) _ _).trans ?_) | (refine (foldl_fst_mh (fun _ _ => ?_) _ _).trans ?_) | simp)

@[simp] theorem State.wantLine_mh (s : State) (d line hint : Nat) (rt : Bool) : (State.wantLine s d line hint rt).mh = s.mh := by
  unfold State.wantLine
  repeat' (first | rfl | split | (refine (foldl_mh (fun _ _ => ?_) _ _).trans ?_) | (refine (foldl_fst_mh (fun _ _ => ?_) _ _).trans ?_) | simp)

@[simp] theorem State.bindLane_mh (s : State) (id k : Nat) : (s.bindLane id k).mh = s.mh := by
  unfold State.bindLane
  split
  · rfl
  · split
    · split
      · rfl
      · split
        · exact State.failLanes_mh _ _ _ _
        · refine foldl_mh (fun u n => ?_) _ _
          repeat' (first | rfl | split | simp)
    · rfl

@[simp] theorem State.bindLanes_mh (s : State) (id : Nat) : (State.bindLanes s id).mh = s.mh := by
  unfold State.bindLanes
  repeat' (first | rfl | split | (refine (foldl_mh (fun _ _ => ?_) _ _).trans ?_) | (refine (foldl_fst_mh (fun _ _ => ?_) _ _).trans ?_) | simp)

@[simp] theorem State.atomSend_mh (s : State) (id : Nat) : (State.atomSend s id).mh = s.mh := by
  unfold State.atomSend
  repeat' (first | rfl | split | (refine (foldl_mh (fun _ _ => ?_) _ _).trans ?_) | (refine (foldl_fst_mh (fun _ _ => ?_) _ _).trans ?_) | simp)

@[simp] theorem State.heldGo_mh (s : State) (id : Nat) : (State.heldGo s id).mh = s.mh := by
  unfold State.heldGo
  repeat' (first | rfl | split | (refine (foldl_mh (fun _ _ => ?_) _ _).trans ?_) | (refine (foldl_fst_mh (fun _ _ => ?_) _ _).trans ?_) | simp)

@[simp] theorem State.replyGo_mh (s : State) (id : Nat) : (State.replyGo s id).mh = s.mh := by
  unfold State.replyGo
  repeat' (first | rfl | split | (refine (foldl_mh (fun _ _ => ?_) _ _).trans ?_) | (refine (foldl_fst_mh (fun _ _ => ?_) _ _).trans ?_) | simp)

@[simp] theorem State.retry_mh (s : State) (id : Nat) : (State.retry s id).mh = s.mh := by
  unfold State.retry
  repeat' (first | rfl | split | (refine (foldl_mh (fun _ _ => ?_) _ _).trans ?_) | (refine (foldl_fst_mh (fun _ _ => ?_) _ _).trans ?_) | simp)

@[simp] theorem State.pageFault_mh (s : State) (w : Wg) (id code : Nat) (va : DWord) : (State.pageFault s w id code va).mh = s.mh := by
  unfold State.pageFault
  repeat' (first | rfl | split | (refine (foldl_mh (fun _ _ => ?_) _ _).trans ?_) | (refine (foldl_fst_mh (fun _ _ => ?_) _ _).trans ?_) | simp)

@[simp] theorem State.shoot_mh (s : State) (p : Tlb → Bool) : (State.shoot s p).mh = s.mh := by
  unfold State.shoot
  repeat' (first | rfl | split | (refine (foldl_mh (fun _ _ => ?_) _ _).trans ?_) | (refine (foldl_fst_mh (fun _ _ => ?_) _ _).trans ?_) | simp)

@[simp] theorem State.collapseFor_mh (s : State) (asid : Nat) (va : DWord) (id : Nat) : (State.collapseFor s asid va id).mh = s.mh := by
  unfold State.collapseFor
  repeat' (first | rfl | split | (refine (foldl_mh (fun _ _ => ?_) _ _).trans ?_) | (refine (foldl_fst_mh (fun _ _ => ?_) _ _).trans ?_) | simp)

@[simp] theorem State.setFrag_mh (s : State) (d : Nat) (f : Frag) : (State.setFrag s d f).mh = s.mh := by
  unfold State.setFrag
  repeat' (first | rfl | split | (refine (foldl_mh (fun _ _ => ?_) _ _).trans ?_) | (refine (foldl_fst_mh (fun _ _ => ?_) _ _).trans ?_) | simp)

@[simp] theorem State.setCell_mh (s : State) (d : Nat) (o : CellOp) : (State.setCell s d o).mh = s.mh := by
  unfold State.setCell
  repeat' (first | rfl | split | (refine (foldl_mh (fun _ _ => ?_) _ _).trans ?_) | (refine (foldl_fst_mh (fun _ _ => ?_) _ _).trans ?_) | simp)

@[simp] theorem State.delCell_mh (s : State) (d i : Nat) : (State.delCell s d i).mh = s.mh := by
  unfold State.delCell
  repeat' (first | rfl | split | (refine (foldl_mh (fun _ _ => ?_) _ _).trans ?_) | (refine (foldl_fst_mh (fun _ _ => ?_) _ _).trans ?_) | simp)

@[simp] theorem State.faultUnknown_mh (s : State) : (State.faultUnknown s).mh = s.mh := by
  unfold State.faultUnknown
  repeat' (first | rfl | split | (refine (foldl_mh (fun _ _ => ?_) _ _).trans ?_) | (refine (foldl_fst_mh (fun _ _ => ?_) _ _).trans ?_) | simp)

@[simp] theorem State.endPass_mh (s : State) (p : Nat) (f : Option (Nat × DWord × Nat)) : (State.endPass s p f).mh = s.mh := by
  unfold State.endPass
  repeat' (first | rfl | split | (refine (foldl_mh (fun _ _ => ?_) _ _).trans ?_) | (refine (foldl_fst_mh (fun _ _ => ?_) _ _).trans ?_) | simp)

theorem State.placeOn_mh {s : State} {j : Job} {d c : Nat} {pre : List Word} {t' : State} (h : State.placeOn s j d c pre = some t') : t'.mh = s.mh := by
  unfold State.placeOn at h
  repeat' (first | contradiction | split at h | (obtain rfl := Option.some.inj h; clear h) | dsimp only at h)
  all_goals (repeat' (first | rfl | split | (refine (foldl_mh (fun _ _ => ?_) _ _).trans ?_) | (refine (foldl_fst_mh (fun _ _ => ?_) _ _).trans ?_) | simp))

theorem State.placeIn_mh {s : State} {j : Job} {d : Nat} {pre : List Word} {t' : State} (h : State.placeIn s j d pre = some t') : t'.mh = s.mh := by
  unfold State.placeIn at h
  repeat' (first | contradiction | split at h | (obtain rfl := Option.some.inj h; clear h) | (rw [State.placeOn_mh h]) | dsimp only at h)
  all_goals (repeat' (first | rfl | split | (refine (foldl_mh (fun _ _ => ?_) _ _).trans ?_) | (refine (foldl_fst_mh (fun _ _ => ?_) _ _).trans ?_) | simp | (rw [State.placeOn_mh ‹_›])))

@[simp] theorem State.assignIndex_mh (s : State) (launch : Nat) : (s.assignIndex launch).2.mh = s.mh := by
  unfold State.assignIndex
  repeat' (first | rfl | split | simp)

theorem State.assignIndex_mh' {s t : State} {l n : Nat} (h : s.assignIndex l = (n, t)) : t.mh = s.mh := by
  rw [← State.assignIndex_mh s l, h]

theorem State.dealOne_mh {s : State} {l : Launch} {pre : List Word} {t : State} (h : s.dealOne l pre = some t) : t.mh = s.mh := by
  unfold State.dealOne at h
  dsimp only at h
  split at h
  · split at h
    · cases h
    · obtain ⟨u, hu, rfl⟩ := Option.map_eq_some_iff.1 h
      exact (State.setLaunch_mh u _).trans (State.placeIn_mh hu)
  · split at h
    · cases h
    · obtain ⟨u, hu, rfl⟩ := Option.map_eq_some_iff.1 h
      exact Eq.trans (State.setLaunch_mh _ _) (Eq.trans (b := u.mh) rfl (State.placeIn_mh hu))

theorem State.dealAll_mh {pre : List Word} {id n : Nat} {s t : State} (h : State.dealAll pre id n s = some t) : t.mh = s.mh := by
  induction n generalizing s with
  | zero => cases h; rfl
  | succ n ih =>
    unfold State.dealAll at h
    split at h
    · cases h
    · split at h
      · cases h
      · rename_i s1 h1
        exact (ih h).trans (State.dealOne_mh h1)

@[simp] theorem State.frontierGo_mh (s : State) (d p k : Nat) : (State.frontierGo s d p k).mh = s.mh := by
  unfold State.frontierGo
  repeat' (first | rfl | split | (refine (foldl_mh (fun _ _ => ?_) _ _).trans ?_) | (refine (foldl_fst_mh (fun _ _ => ?_) _ _).trans ?_) | simp)

@[simp] theorem State.gtake_mh (s : State) : (State.gtake s).mh = s.mh := by
  unfold State.gtake
  repeat' (first | rfl | split | (refine (foldl_mh (fun _ _ => ?_) _ _).trans ?_) | (refine (foldl_fst_mh (fun _ _ => ?_) _ _).trans ?_) | simp)

@[simp] theorem State.hzUpdate_mh (s : State) (p : Pass) (d x y : Nat) : (State.hzUpdate s p d x y).mh = s.mh := by
  unfold State.hzUpdate
  repeat' (first | rfl | split | (refine (foldl_mh (fun _ _ => ?_) _ _).trans ?_) | (refine (foldl_fst_mh (fun _ _ => ?_) _ _).trans ?_) | simp)

@[simp] theorem State.addFrags_mh (s : State) (d : Nat) (p : Pass) (q : Pkt) (b : BitVec 512) : (State.addFrags s d p q b).mh = s.mh := by
  unfold State.addFrags
  repeat' (first | rfl | split | (refine (foldl_mh (fun _ _ => ?_) _ _).trans ?_) | (refine (foldl_fst_mh (fun _ _ => ?_) _ _).trans ?_) | simp)

@[simp] theorem State.passDrop_mh (s : State) (p : Nat) : (State.passDrop s p).mh = s.mh := by
  unfold State.passDrop
  repeat' (first | rfl | split | (refine (foldl_mh (fun _ _ => ?_) _ _).trans ?_) | (refine (foldl_fst_mh (fun _ _ => ?_) _ _).trans ?_) | simp)

@[simp] theorem State.feed_mh (s : State) (asid : Nat) (fld : DWord) : (State.feed s asid fld).mh = s.mh := by
  unfold State.feed
  repeat' (first | rfl | split | (refine (foldl_mh (fun _ _ => ?_) _ _).trans ?_) | (refine (foldl_fst_mh (fun _ _ => ?_) _ _).trans ?_) | simp)

@[simp] theorem State.fragDone_mh (s : State) (d : Nat) (f : Frag) (counts : Bool) : (State.fragDone s d f counts).mh = s.mh := by
  unfold State.fragDone
  repeat' (first | rfl | split | (refine (foldl_mh (fun _ _ => ?_) _ _).trans ?_) | (refine (foldl_fst_mh (fun _ _ => ?_) _ _).trans ?_) | simp)

theorem State.pixelPlace_mh {s : State} {l : Launch} {p : Pass} {d : Nat} {pre : List Word} {t : State} (h : s.pixelPlace l p d pre = some t) : t.mh = s.mh := by
  unfold State.pixelPlace at h
  dsimp only at h
  split at h
  · cases h
  · split at h
    · cases h
    · rename_i u hu
      cases h
      exact (State.setGdie_mh _ _ _).trans ((State.placeIn_mh hu).trans (State.assignIndex_mh _ _))

theorem State.pixelDeal_mh {s : State} {l : Launch} {pre : List Word} {t : State} (h : s.pixelDeal l pre = some t) : t.mh = s.mh := by
  unfold State.pixelDeal at h
  split at h
  · cases h
  · obtain ⟨d, _, hd⟩ := List.exists_of_findSome?_eq_some h
    exact State.pixelPlace_mh hd

theorem State.passFor_mh {s : State} {asid : Nat} {t : BitVec 1024} {p : Nat} {u : State} (h : s.passFor asid t = some (some (p, u))) : u.mh = s.mh := by
  unfold State.passFor at h
  dsimp only at h
  split at h
  · cases h; rfl
  · split at h
    · cases h
    · split at h
      · cases h
      · cases h; rfl

@[simp] theorem State.addLaunch_mh (s : State) (l : Launch) : (State.addLaunch s l).mh = s.mh := by
  unfold State.addLaunch
  repeat' (first | rfl | split | (refine (foldl_mh (fun _ _ => ?_) _ _).trans ?_) | (refine (foldl_fst_mh (fun _ _ => ?_) _ _).trans ?_) | simp)

@[simp] theorem State.rejectLaunch_mh (s : State) (l : Launch) (status : Nat) : (State.rejectLaunch s l status).mh = s.mh := by
  unfold State.rejectLaunch
  repeat' (first | rfl | split | (refine (foldl_mh (fun _ _ => ?_) _ _).trans ?_) | (refine (foldl_fst_mh (fun _ _ => ?_) _ _).trans ?_) | simp)

theorem State.acceptFit_mh {s0 s : State} (l : Launch) (h : s.mh = s0.mh) : (State.acceptFit s0 s l).mh = s0.mh := by
  unfold State.acceptFit
  dsimp only
  split
  · simp
  · simpa using h

theorem State.acceptPass_mh {s : State} {l : Launch} {t' : State} (h : State.acceptPass s l = some t') : t'.mh = s.mh := by
  unfold State.acceptPass at h
  repeat' (first | contradiction | split at h | (obtain rfl := Option.some.inj h; clear h) | dsimp only at h)
  all_goals first
    | (simp; done)
    | (simp; exact State.passFor_mh (by assumption))
    | exact State.acceptFit_mh _ (State.passFor_mh (by assumption))
    | exact State.acceptFit_mh _ ((State.passFor_mh (by assumption)).trans (State.passFor_mh (by assumption)))

@[simp] theorem State.acceptCompute_mh (s : State) (l : Launch) : (State.acceptCompute s l).mh = s.mh := by
  unfold State.acceptCompute
  dsimp only
  repeat' split
  all_goals first
    | exact State.acceptFit_mh _ rfl
    | simp

@[simp] theorem State.roundOver_mh (s : State) : (State.roundOver s).mh = s.mh := by
  unfold State.roundOver
  repeat' (first | rfl | split | (refine (foldl_mh (fun _ _ => ?_) _ _).trans ?_) | (refine (foldl_fst_mh (fun _ _ => ?_) _ _).trans ?_) | simp)

theorem State.deal_mh {s : State} {k : Launch} {pre : List Word} {t' : State} (h : State.deal s k pre = some t') : t'.mh = s.mh := by
  unfold State.deal at h
  split at h
  · exact State.pixelDeal_mh h
  · split at h
    · exact State.dealAll_mh h
    · exact State.dealOne_mh h

@[simp] theorem State.setRingV_mh (s : State) (n : Nat) (v : RingV) : (State.setRingV s n v).mh = s.mh := by
  unfold State.setRingV
  repeat' (first | rfl | split | (refine (foldl_mh (fun _ _ => ?_) _ _).trans ?_) | (refine (foldl_fst_mh (fun _ _ => ?_) _ _).trans ?_) | simp)

@[simp] theorem State.interrupt_mh (s : State) (n : Nat) (v : RingV) : (State.interrupt s n v).mh = s.mh := by
  unfold State.interrupt
  repeat' (first | rfl | split | (refine (foldl_mh (fun _ _ => ?_) _ _).trans ?_) | (refine (foldl_fst_mh (fun _ _ => ?_) _ _).trans ?_) | simp)

@[simp] theorem State.invalidate_mh (s : State) (asid lo hi : Nat) : (State.invalidate s asid lo hi).mh = s.mh := by
  unfold State.invalidate
  repeat' (first | rfl | split | (refine (foldl_mh (fun _ _ => ?_) _ _).trans ?_) | (refine (foldl_fst_mh (fun _ _ => ?_) _ _).trans ?_) | simp)

@[simp] theorem State.holdPage_mh (s : State) (f : Nat) : (State.holdPage s f).mh = s.mh := by
  unfold State.holdPage
  repeat' (first | rfl | split | (refine (foldl_mh (fun _ _ => ?_) _ _).trans ?_) | (refine (foldl_fst_mh (fun _ _ => ?_) _ _).trans ?_) | simp)

@[simp] theorem State.moveWant_mh (s : State) (f new k line : Nat) : (State.moveWant s f new k line).mh = s.mh := by
  unfold State.moveWant
  repeat' (first | rfl | split | (refine (foldl_mh (fun _ _ => ?_) _ _).trans ?_) | (refine (foldl_fst_mh (fun _ _ => ?_) _ _).trans ?_) | simp | (rw [State.room_mh ‹_›]))

@[simp] theorem State.mopStep_mh (s : State) (d c ctx : Nat) (o : MOp) (w : Wg) : (State.mopStep s d c ctx o w).mh = s.mh := by
  unfold State.mopStep
  repeat' (first | rfl | split | (refine (foldl_mh (fun _ _ => ?_) _ _).trans ?_) | (refine (foldl_fst_mh (fun _ _ => ?_) _ _).trans ?_) | simp)

theorem State.reqBad_mh {s : State} {r : Req} {ps : List (DWord × Nat)} {t' : State} (h : State.reqBad s r ps = some t') : t'.mh = s.mh := by
  unfold State.reqBad at h
  repeat' (first | contradiction | split at h | (obtain rfl := Option.some.inj h; clear h) | dsimp only at h)
  all_goals (repeat' (first | rfl | split | (refine (foldl_mh (fun _ _ => ?_) _ _).trans ?_) | (refine (foldl_fst_mh (fun _ _ => ?_) _ _).trans ?_) | simp))

theorem State.reqBlocked_mh {s : State} {r : Req} {ps : List (DWord × Nat)} {t : State} (h : s.reqBlocked r ps = some t) : t.mh = s.mh := by
  unfold State.reqBlocked at h
  dsimp only at h
  split at h
  · rename_i h1
    cases h; exact State.reqBad_mh h1
  · split at h
    · cases h
    · cases h; exact State.snoopAsk_mh _ _

@[simp] theorem State.reqSend_mh (s : State) (rid d line : Nat) (va : DWord) (q : MsgK) : (State.reqSend s rid d line va q).mh = s.mh := by
  unfold State.reqSend
  repeat' (first | rfl | split | (refine (foldl_mh (fun _ _ => ?_) _ _).trans ?_) | (refine (foldl_fst_mh (fun _ _ => ?_) _ _).trans ?_) | simp)

@[simp] theorem State.reqWrite_mh (s : State) (r : Req) (d : Nat) (ls : List LineWr) (cls hint : Nat) : (State.reqWrite s r d ls cls hint).mh = s.mh := by
  unfold State.reqWrite
  repeat' (first | rfl | split | (refine (foldl_mh (fun _ _ => ?_) _ _).trans ?_) | (refine (foldl_fst_mh (fun _ _ => ?_) _ _).trans ?_) | simp)

@[simp] theorem State.unkeep_mh (s : State) (r : Nat) : (State.unkeep s r).mh = s.mh := by
  unfold State.unkeep
  repeat' (first | rfl | split | (refine (foldl_mh (fun _ _ => ?_) _ _).trans ?_) | (refine (foldl_fst_mh (fun _ _ => ?_) _ _).trans ?_) | simp)

@[simp] theorem State.reqMoved_mh (s : State) (rid : Nat) (p : Nat × Nat) (n : Nat) : (State.reqMoved s rid p n).mh = s.mh := by
  unfold State.reqMoved
  repeat' (first | rfl | split | (refine (foldl_mh (fun _ _ => ?_) _ _).trans ?_) | (refine (foldl_fst_mh (fun _ _ => ?_) _ _).trans ?_) | simp)

@[simp] theorem State.drainStore_mh (s : State) (r : Req) (w : Wg) (mem : Bool) (base : DWord) (ctl : Word) (pitch : Nat) : (State.drainStore s r w mem base ctl pitch).mh = s.mh := by
  unfold State.drainStore
  repeat' (first | rfl | split | (refine (foldl_mh (fun _ _ => ?_) _ _).trans ?_) | (refine (foldl_fst_mh (fun _ _ => ?_) _ _).trans ?_) | simp)

@[simp] theorem State.drainAdd_mh (s : State) (r : Req) (w : Wg) (base : DWord) (ctl : Word) (pitch : Nat) : (State.drainAdd s r w base ctl pitch).mh = s.mh := by
  unfold State.drainAdd
  repeat' (first | rfl | split | (refine (foldl_mh (fun _ _ => ?_) _ _).trans ?_) | (refine (foldl_fst_mh (fun _ _ => ?_) _ _).trans ?_) | simp)

@[simp] theorem State.splitWrite_mh (s : State) (r : Req) (d : Nat) (ls : List LineWr) : (State.splitWrite s r d ls).mh = s.mh := by
  unfold State.splitWrite
  repeat' (first | rfl | split | (refine (foldl_mh (fun _ _ => ?_) _ _).trans ?_) | (refine (foldl_fst_mh (fun _ _ => ?_) _ _).trans ?_) | simp)

@[simp] theorem State.nbrWord_mh (s : State) (r : Req) (dst i : Nat) (old new : List Byte) : (s.nbrWord r dst i old new).1.mh = s.mh := by
  unfold State.nbrWord
  split
  · dsimp only
    split <;> rfl
  · rfl

@[simp] theorem State.nbrPut_mh (s : State) (r : Req) (w : Wg) (i : Nat) : (State.nbrPut s r w i).mh = s.mh := by
  unfold State.nbrPut
  split
  · rfl
  · split
    · rfl
    · exact (State.putWg_mh _ _).trans (State.nbrWord_mh _ _ _ _ _ _)

@[simp] theorem State.nbrStep_mh (s : State) (r : Req) (w : Wg) : (State.nbrStep s r w).mh = s.mh := by
  unfold State.nbrStep
  repeat' (first | rfl | split | (refine (foldl_mh (fun _ _ => ?_) _ _).trans ?_) | (refine (foldl_fst_mh (fun _ _ => ?_) _ _).trans ?_) | simp)

@[simp] theorem State.ctxFields_mh (s : State) (x : DWord) : (State.ctxFields s x).mh = s.mh := by
  unfold State.ctxFields
  repeat' (first | rfl | split | (refine (foldl_mh (fun _ _ => ?_) _ _).trans ?_) | (refine (foldl_fst_mh (fun _ _ => ?_) _ _).trans ?_) | simp)

@[simp] theorem State.cmdEnd_mh (s : State) : (State.cmdEnd s).mh = s.mh := by
  unfold State.cmdEnd
  repeat' (first | rfl | split | (refine (foldl_mh (fun _ _ => ?_) _ _).trans ?_) | (refine (foldl_fst_mh (fun _ _ => ?_) _ _).trans ?_) | simp)

@[simp] theorem State.stopQueues_mh (s : State) (a : Nat) : (State.stopQueues s a).mh = s.mh := by
  unfold State.stopQueues
  repeat' (first | rfl | split | (refine (foldl_mh (fun _ _ => ?_) _ _).trans ?_) | (refine (foldl_fst_mh (fun _ _ => ?_) _ _).trans ?_) | simp)

@[simp] theorem State.killCtx_mh (s : State) (a : Nat) : (State.killCtx s a).mh = s.mh := by
  unfold State.killCtx
  repeat' (first | rfl | split | (refine (foldl_mh (fun _ _ => ?_) _ _).trans ?_) | (refine (foldl_fst_mh (fun _ _ => ?_) _ _).trans ?_) | simp)

@[simp] theorem State.dropSlots_mh (s : State) (w : Wg) : (State.dropSlots s w).mh = s.mh := by
  unfold State.dropSlots
  repeat' (first | rfl | split | (refine (foldl_mh (fun _ _ => ?_) _ _).trans ?_) | (refine (foldl_fst_mh (fun _ _ => ?_) _ _).trans ?_) | simp)

@[simp] theorem State.freezeNow_mh (s : State) (a : Nat) : (State.freezeNow s a).mh = s.mh := by
  unfold State.freezeNow
  repeat' (first | rfl | split | (refine (foldl_mh (fun _ _ => ?_) _ _).trans ?_) | (refine (foldl_fst_mh (fun _ _ => ?_) _ _).trans ?_) | simp)

@[simp] theorem State.freezeFail_mh (s : State) (a detail : Nat) : (s.freezeFail a detail).mh = s.mh := by
  unfold State.freezeFail
  exact (State.cmdEnd_mh _).trans ((State.postCmd_mh _ _ _ _ _).trans (State.killCtx_mh _ _))

@[simp] theorem State.keep_mh (s : State) (w : Wg) (reqs : List Req) : (State.keep s w reqs).mh = s.mh := by
  unfold State.keep
  repeat' (first | rfl | split | (refine (foldl_mh (fun _ _ => ?_) _ _).trans ?_) | (refine (foldl_fst_mh (fun _ _ => ?_) _ _).trans ?_) | simp)

@[simp] theorem State.unload_mh (s : State) (m : Image) : (State.unload s m).mh = s.mh := by
  unfold State.unload
  repeat' (first | rfl | split | (refine (foldl_mh (fun _ _ => ?_) _ _).trans ?_) | (refine (foldl_fst_mh (fun _ _ => ?_) _ _).trans ?_) | simp)

theorem State.resumeWg_mh {s : State} {m : Image} {d c : Nat} {w : Wg} {t' : State} (h : State.resumeWg s m d c w = some t') : t'.mh = s.mh := by
  unfold State.resumeWg at h
  repeat' (first | contradiction | split at h | (obtain rfl := Option.some.inj h; clear h) | dsimp only at h)
  all_goals (repeat' (first | rfl | split | (refine (foldl_mh (fun _ _ => ?_) _ _).trans ?_) | (refine (foldl_fst_mh (fun _ _ => ?_) _ _).trans ?_) | simp))

theorem State.resumeAll_mh {m : Image} {d c : Nat} {l : List Wg} {s t : State} (h : State.resumeAll m d c l s = some t) : t.mh = s.mh := by
  induction l generalizing s with
  | nil => cases h; rfl
  | cons w r ih =>
    unfold State.resumeAll at h
    split at h
    · cases h
    · rename_i s1 h1
      exact (ih h).trans (State.resumeWg_mh h1)

theorem State.resumeCores_mh {s : State} {m : Image} {p : Nat × Nat × State} (h : p ∈ s.resumeCores m) : p.2.2.mh = s.mh := by
  unfold State.resumeCores at h
  obtain ⟨d, _, hd⟩ := List.mem_flatMap.1 h
  obtain ⟨c, _, hc⟩ := List.mem_filterMap.1 hd
  split at hc
  · obtain ⟨t, ht, hp⟩ := Option.map_eq_some_iff.1 hc
    cases hp
    exact State.resumeAll_mh ht
  · cases hc

@[simp] theorem State.resumeSlot_mh (s : State) (d c : Nat) (e : Stand) : (s.resumeSlot d c e).mh = s.mh := by
  unfold State.resumeSlot
  dsimp only
  split
  · split <;> rfl
  · rfl
  · split
    · exact (State.addReq_mh _ _).trans (State.freeNum_mh s)
    · exact State.freeNum_mh s

@[simp] theorem State.restamp_mh (s : State) (ids : List Nat) : (State.restamp s ids).mh = s.mh := by
  unfold State.restamp
  repeat' (first | rfl | split | (refine (foldl_mh (fun _ _ => ?_) _ _).trans ?_) | (refine (foldl_fst_mh (fun _ _ => ?_) _ _).trans ?_) | simp)

@[simp] theorem State.resumeFail_mh (s : State) (a status : Nat) : (State.resumeFail s a status).mh = s.mh := by
  unfold State.resumeFail
  repeat' (first | rfl | split | (refine (foldl_mh (fun _ _ => ?_) _ _).trans ?_) | (refine (foldl_fst_mh (fun _ _ => ?_) _ _).trans ?_) | simp)

@[simp] theorem State.buildMap_mh (s : State) : (State.buildMap s).mh = s.mh := by
  unfold State.buildMap
  repeat' (first | rfl | split | (refine (foldl_mh (fun _ _ => ?_) _ _).trans ?_) | (refine (foldl_fst_mh (fun _ _ => ?_) _ _).trans ?_) | simp)

@[simp] theorem State.homeGone_mh (s : State) (m : Msg) : (State.homeGone s m).mh = s.mh := by
  unfold State.homeGone
  repeat' (first | rfl | split | (refine (foldl_mh (fun _ _ => ?_) _ _).trans ?_) | (refine (foldl_fst_mh (fun _ _ => ?_) _ _).trans ?_) | simp)

@[simp] theorem State.subsLoss_mh (s : State) (ds : List Nat) : (State.subsLoss s ds).mh = s.mh := by
  unfold State.subsLoss
  repeat' (first | rfl | split | (refine (foldl_mh (fun _ _ => ?_) _ _).trans ?_) | (refine (foldl_fst_mh (fun _ _ => ?_) _ _).trans ?_) | simp)

@[simp] theorem State.workLoss_mh (s : State) (ds : List Nat) : (State.workLoss s ds).mh = s.mh := by
  unfold State.workLoss
  repeat' (first | rfl | split | (refine (foldl_mh (fun _ _ => ?_) _ _).trans ?_) | (refine (foldl_fst_mh (fun _ _ => ?_) _ _).trans ?_) | simp)

@[simp] theorem State.standLoss_mh (s : State) (ds : List Nat) : (State.standLoss s ds).mh = s.mh := by
  unfold State.standLoss
  repeat' (first | rfl | split | (refine (foldl_mh (fun _ _ => ?_) _ _).trans ?_) | (refine (foldl_fst_mh (fun _ _ => ?_) _ _).trans ?_) | simp)

@[simp] theorem State.rePort_mh (s : State) : (State.rePort s).mh = s.mh := by
  unfold State.rePort
  repeat' (first | rfl | split | (refine (foldl_mh (fun _ _ => ?_) _ _).trans ?_) | (refine (foldl_fst_mh (fun _ _ => ?_) _ _).trans ?_) | simp)

@[simp] theorem State.bootFail_mh (s : State) (step code : Nat) : (State.bootFail s step code).mh = s.mh := by
  unfold State.bootFail
  repeat' (first | rfl | split | (refine (foldl_mh (fun _ _ => ?_) _ _).trans ?_) | (refine (foldl_fst_mh (fun _ _ => ?_) _ _).trans ?_) | simp)

@[simp] theorem State.bootMap_mh (s : State) (b : BootIn) : (State.bootMap s b).mh = s.mh := by
  unfold State.bootMap
  repeat' (first | rfl | split | (refine (foldl_mh (fun _ _ => ?_) _ _).trans ?_) | (refine (foldl_fst_mh (fun _ _ => ?_) _ _).trans ?_) | simp)

@[simp] theorem State.bootReady_mh (s : State) (b : BootIn) : (State.bootReady s b).mh = s.mh := by
  unfold State.bootReady
  repeat' (first | rfl | split | (refine (foldl_mh (fun _ _ => ?_) _ _).trans ?_) | (refine (foldl_fst_mh (fun _ _ => ?_) _ _).trans ?_) | simp)

@[simp] theorem State.attWrite_mh (s : State) (x : DWord) : (State.attWrite s x).mh = s.mh := by
  unfold State.attWrite
  repeat' (first | rfl | split | (refine (foldl_mh (fun _ _ => ?_) _ _).trans ?_) | (refine (foldl_fst_mh (fun _ _ => ?_) _ _).trans ?_) | simp)

@[simp] theorem State.fwWrite_mh (s : State) (x : DWord) : (State.fwWrite s x).mh = s.mh := by
  unfold State.fwWrite
  repeat' (first | rfl | split | (refine (foldl_mh (fun _ _ => ?_) _ _).trans ?_) | (refine (foldl_fst_mh (fun _ _ => ?_) _ _).trans ?_) | simp)

@[simp] theorem State.onIslands_mh (s : State) (is : List Nat) (f : Island → Island) : (State.onIslands s is f).mh = s.mh := by
  unfold State.onIslands
  repeat' (first | rfl | split | (refine (foldl_mh (fun _ _ => ?_) _ _).trans ?_) | (refine (foldl_fst_mh (fun _ _ => ?_) _ _).trans ?_) | simp)

@[simp] theorem State.freezeCore_mh (s : State) (d c : Nat) : (State.freezeCore s d c).mh = s.mh := by
  unfold State.freezeCore
  repeat' (first | rfl | split | (refine (foldl_mh (fun _ _ => ?_) _ _).trans ?_) | (refine (foldl_fst_mh (fun _ _ => ?_) _ _).trans ?_) | simp)

@[simp] theorem State.train_mh (s : State) (k : Nat) : (State.train s k).mh = s.mh := by
  unfold State.train
  repeat' (first | rfl | split | (refine (foldl_mh (fun _ _ => ?_) _ _).trans ?_) | (refine (foldl_fst_mh (fun _ _ => ?_) _ _).trans ?_) | simp)

@[simp] theorem State.queueOff_mh (s : State) (q : Nat) : (State.queueOff s q).mh = s.mh := by
  unfold State.queueOff
  repeat' (first | rfl | split | (refine (foldl_mh (fun _ _ => ?_) _ _).trans ?_) | (refine (foldl_fst_mh (fun _ _ => ?_) _ _).trans ?_) | simp)

@[simp] theorem State.cxReject_mh (s : State) (a : Nat) : (State.cxReject s a).mh = s.mh := by
  unfold State.cxReject
  repeat' (first | rfl | split | (refine (foldl_mh (fun _ _ => ?_) _ _).trans ?_) | (refine (foldl_fst_mh (fun _ _ => ?_) _ _).trans ?_) | simp)

@[simp] theorem State.ctxOff_mh (s : State) (a : Nat) : (State.ctxOff s a).mh = s.mh := by
  unfold State.ctxOff
  repeat' (first | rfl | split | (refine (foldl_mh (fun _ _ => ?_) _ _).trans ?_) | (refine (foldl_fst_mh (fun _ _ => ?_) _ _).trans ?_) | simp)

@[simp] theorem State.evRead_mh (s : State) (a v : Nat) : (State.evRead s a v).mh = s.mh := by
  unfold State.evRead
  repeat' (first | rfl | split | (refine (foldl_mh (fun _ _ => ?_) _ _).trans ?_) | (refine (foldl_fst_mh (fun _ _ => ?_) _ _).trans ?_) | simp)

@[simp] theorem State.carve_mh (s : State) (d : Nat) : (State.carve s d).mh = s.mh := by
  unfold State.carve
  repeat' (first | rfl | split | (refine (foldl_mh (fun _ _ => ?_) _ _).trans ?_) | (refine (foldl_fst_mh (fun _ _ => ?_) _ _).trans ?_) | simp)

@[simp] theorem State.waysWrite_mh (s : State) (d v : Nat) : (State.waysWrite s d v).mh = s.mh := by
  unfold State.waysWrite
  repeat' (first | rfl | split | (refine (foldl_mh (fun _ _ => ?_) _ _).trans ?_) | (refine (foldl_fst_mh (fun _ _ => ?_) _ _).trans ?_) | simp)

end Sys2Proof.Machine
end

