-- ==== Sys2Proof/Laws/QuietEvents.lean ====
section
/-!
SUPPORT. The hardware steps that leave both memories as they are, one lemma for each.
-/

set_option linter.unusedVariables false
set_option linter.unreachableTactic false
set_option linter.unusedTactic false
set_option linter.unusedSimpArgs false

namespace Sys2Proof.Machine

theorem arrive_mh {f : State → Msg → Option State} {s t : State} (hf : ∀ s m t, f s m = some t → t.mh = s.mh)
    (h : s.arrive f = .next t) : t.mh = s.mh := by
  unfold State.arrive at h
  split at h
  · cases h; rfl
  · split at h
    · cases h; rfl
    · split at h
      · rename_i u hu
        cases h
        exact (hf _ _ _ hu).trans (State.take_mh _ _)
      · cases h; rfl

theorem tueStep_mh {ok : BitVec 256 → Bool} {f : State → BitVec 256 → State × Bool} {s t : State}
    (hf : ∀ s c, (f s c).1.mh = s.mh) (h : s.tueStep ok f = .next t) : t.mh = s.mh := by
  unfold State.tueStep at h
  split at h
  · cases h; rfl
  · split at h
    · cases h
    · dsimp only at h
      split at h
      · cases h; rfl
      · split at h
        · rename_i hu
          cases h
          exact (congrArg (fun p => p.1.mh) hu).symm.trans (hf _ _)
        · rename_i u hu
          cases h
          exact Eq.trans (b := u.mh) rfl ((congrArg (fun p => p.1.mh) hu).symm.trans (hf _ _))

theorem reqGo_mh {f : Req → Wg → State} {s t : State} {id : Nat} (hf : ∀ q w, (f q w).mh = s.mh)
    (h : s.reqGo id f = .next t) : t.mh = s.mh := by
  unfold State.reqGo at h
  split at h
  · cases h; exact State.unkeep_mh _ _
  · split at h
    · cases h; rfl
    · split at h
      · cases h; rfl
      · cases h; exact hf _ _

theorem ctxStart_mh {cmd v : Nat} {f : State → Nat → Host.Outcome State Fault Refusal} {s t : State}
    (hf : ∀ s a t, f s a = .next t → t.mh = s.mh) (h : s.ctxStart cmd v f = .next t) : t.mh = s.mh := by
  unfold State.ctxStart at h
  split at h
  · cases h; rfl
  · dsimp only at h
    split at h
    · cases h; rfl
    · exact (hf _ _ _ h).trans rfl

theorem execFwdGets_mh {s : State} {t' : State} (h : execFwdGets s = .next t') : t'.mh = s.mh := by
  unfold execFwdGets at h
  refine arrive_mh (fun s m t' h => ?_) h
  clear * - h
  repeat' (first | contradiction | split at h | (obtain rfl := Option.some.inj h; clear h) | dsimp only at h)
  all_goals (repeat' (first | rfl | split | (refine (foldl_mh (fun _ _ => ?_) _ _).trans ?_) | (refine (foldl_fst_mh (fun _ _ => ?_) _ _).trans ?_) | simp))

theorem execFwdGetm_mh {s : State} {t' : State} (h : execFwdGetm s = .next t') : t'.mh = s.mh := by
  unfold execFwdGetm at h
  refine arrive_mh (fun s m t' h => ?_) h
  clear * - h
  repeat' (first | contradiction | split at h | (obtain rfl := Option.some.inj h; clear h) | dsimp only at h)
  all_goals (repeat' (first | rfl | split | (refine (foldl_mh (fun _ _ => ?_) _ _).trans ?_) | (refine (foldl_fst_mh (fun _ _ => ?_) _ _).trans ?_) | simp))

theorem execInv_mh {s : State} {t' : State} (h : execInv s = .next t') : t'.mh = s.mh := by
  unfold execInv at h
  refine arrive_mh (fun s m t' h => ?_) h
  clear * - h
  repeat' (first | contradiction | split at h | (obtain rfl := Option.some.inj h; clear h) | dsimp only at h)
  all_goals (repeat' (first | rfl | split | (refine (foldl_mh (fun _ _ => ?_) _ _).trans ?_) | (refine (foldl_fst_mh (fun _ _ => ?_) _ _).trans ?_) | simp))

theorem execBackinv_mh {s : State} {t' : State} (h : execBackinv s = .next t') : t'.mh = s.mh := by
  unfold execBackinv at h
  refine arrive_mh (fun s m t' h => ?_) h
  clear * - h
  repeat' (first | contradiction | split at h | (obtain rfl := Option.some.inj h; clear h) | dsimp only at h)
  all_goals (repeat' (first | rfl | split | (refine (foldl_mh (fun _ _ => ?_) _ _).trans ?_) | (refine (foldl_fst_mh (fun _ _ => ?_) _ _).trans ?_) | simp))

theorem execData_mh {s : State} {t' : State} (h : execData s = .next t') : t'.mh = s.mh := by
  unfold execData at h
  refine arrive_mh (fun s m t' h => ?_) h
  clear * - h
  repeat' (first | contradiction | split at h | (obtain rfl := Option.some.inj h; clear h) | dsimp only at h)
  all_goals (repeat' (first | rfl | split | (refine (foldl_mh (fun _ _ => ?_) _ _).trans ?_) | (refine (foldl_fst_mh (fun _ _ => ?_) _ _).trans ?_) | simp))

theorem execInvack_mh {s : State} {t' : State} (h : execInvack s = .next t') : t'.mh = s.mh := by
  unfold execInvack at h
  refine arrive_mh (fun s m t' h => ?_) h
  clear * - h
  repeat' (first | contradiction | split at h | (obtain rfl := Option.some.inj h; clear h) | dsimp only at h)
  all_goals (repeat' (first | rfl | split | (refine (foldl_mh (fun _ _ => ?_) _ _).trans ?_) | (refine (foldl_fst_mh (fun _ _ => ?_) _ _).trans ?_) | simp))

theorem execPutack_mh {s : State} {t' : State} (h : execPutack s = .next t') : t'.mh = s.mh := by
  unfold execPutack at h
  refine arrive_mh (fun s m t' h => ?_) h
  clear * - h
  repeat' (first | contradiction | split at h | (obtain rfl := Option.some.inj h; clear h) | dsimp only at h)
  all_goals (repeat' (first | rfl | split | (refine (foldl_mh (fun _ _ => ?_) _ _).trans ?_) | (refine (foldl_fst_mh (fun _ _ => ?_) _ _).trans ?_) | simp))

theorem execWtack_mh {s : State} {t' : State} (h : execWtack s = .next t') : t'.mh = s.mh := by
  unfold execWtack at h
  refine arrive_mh (fun s m t' h => ?_) h
  clear * - h
  repeat' (first | contradiction | split at h | (obtain rfl := Option.some.inj h; clear h) | dsimp only at h)
  all_goals (repeat' (first | rfl | split | (refine (foldl_mh (fun _ _ => ?_) _ _).trans ?_) | (refine (foldl_fst_mh (fun _ _ => ?_) _ _).trans ?_) | simp))

theorem execAtomrsp_mh {s : State} {t' : State} (h : execAtomrsp s = .next t') : t'.mh = s.mh := by
  unfold execAtomrsp at h
  refine arrive_mh (fun s m t' h => ?_) h
  clear * - h
  repeat' (first | contradiction | split at h | (obtain rfl := Option.some.inj h; clear h) | dsimp only at h)
  all_goals (repeat' (first | rfl | split | (refine (foldl_mh (fun _ _ => ?_) _ _).trans ?_) | (refine (foldl_fst_mh (fun _ _ => ?_) _ _).trans ?_) | simp))

theorem execRetry_mh {s : State} {t' : State} (h : execRetry s = .next t') : t'.mh = s.mh := by
  unfold execRetry at h
  refine arrive_mh (fun s m t' h => ?_) h
  clear * - h
  repeat' (first | contradiction | split at h | (obtain rfl := Option.some.inj h; clear h) | dsimp only at h)
  all_goals (repeat' (first | rfl | split | (refine (foldl_mh (fun _ _ => ?_) _ _).trans ?_) | (refine (foldl_fst_mh (fun _ _ => ?_) _ _).trans ?_) | simp))

theorem execRetryReissue_mh {d line : Nat} {s : State} {t' : State} (h : execRetryReissue d line s = .next t') : t'.mh = s.mh := by
  unfold execRetryReissue at h
  repeat' (first | contradiction | split at h | (obtain rfl := Host.Outcome.next.inj h; clear h) | dsimp only at h)
  all_goals (repeat' (first | rfl | split | (refine (foldl_mh (fun _ _ => ?_) _ _).trans ?_) | (refine (foldl_fst_mh (fun _ _ => ?_) _ _).trans ?_) | simp))

theorem execNackwt_mh {s : State} {t' : State} (h : execNackwt s = .next t') : t'.mh = s.mh := by
  unfold execNackwt at h
  refine arrive_mh (fun s m t' h => ?_) h
  clear * - h
  repeat' (first | contradiction | split at h | (obtain rfl := Option.some.inj h; clear h) | dsimp only at h)
  all_goals (repeat' (first | rfl | split | (refine (foldl_mh (fun _ _ => ?_) _ _).trans ?_) | (refine (foldl_fst_mh (fun _ _ => ?_) _ _).trans ?_) | simp))

theorem execNacklost_mh {s : State} {t' : State} (h : execNacklost s = .next t') : t'.mh = s.mh := by
  unfold execNacklost at h
  refine arrive_mh (fun s m t' h => ?_) h
  clear * - h
  repeat' (first | contradiction | split at h | (obtain rfl := Option.some.inj h; clear h) | dsimp only at h)
  all_goals (repeat' (first | rfl | split | (refine (foldl_mh (fun _ _ => ?_) _ _).trans ?_) | (refine (foldl_fst_mh (fun _ _ => ?_) _ _).trans ?_) | simp))

theorem execPush_mh {s : State} {t' : State} (h : execPush s = .next t') : t'.mh = s.mh := by
  unfold execPush at h
  refine arrive_mh (fun s m t' h => ?_) h
  clear * - h
  repeat' (first | contradiction | split at h | (obtain rfl := Option.some.inj h; clear h) | dsimp only at h)
  all_goals (repeat' (first | rfl | split | (refine (foldl_mh (fun _ _ => ?_) _ _).trans ?_) | (refine (foldl_fst_mh (fun _ _ => ?_) _ _).trans ?_) | simp))

theorem execUnsuback_mh {s : State} {t' : State} (h : execUnsuback s = .next t') : t'.mh = s.mh := by
  unfold execUnsuback at h
  refine arrive_mh (fun s m t' h => ?_) h
  clear * - h
  repeat' (first | contradiction | split at h | (obtain rfl := Option.some.inj h; clear h) | dsimp only at h)
  all_goals (repeat' (first | rfl | split | (refine (foldl_mh (fun _ _ => ?_) _ _).trans ?_) | (refine (foldl_fst_mh (fun _ _ => ?_) _ _).trans ?_) | simp))

theorem execSubrsp_mh {s : State} {t' : State} (h : execSubrsp s = .next t') : t'.mh = s.mh := by
  unfold execSubrsp at h
  refine arrive_mh (fun s m t' h => ?_) h
  clear * - h
  repeat' (first | contradiction | split at h | (obtain rfl := Option.some.inj h; clear h) | dsimp only at h)
  all_goals (repeat' (first | rfl | split | (refine (foldl_mh (fun _ _ => ?_) _ _).trans ?_) | (refine (foldl_fst_mh (fun _ _ => ?_) _ _).trans ?_) | simp))

theorem execPushlost_mh {s : State} {t' : State} (h : execPushlost s = .next t') : t'.mh = s.mh := by
  unfold execPushlost at h
  refine arrive_mh (fun s m t' h => ?_) h
  clear * - h
  repeat' (first | contradiction | split at h | (obtain rfl := Option.some.inj h; clear h) | dsimp only at h)
  all_goals (repeat' (first | rfl | split | (refine (foldl_mh (fun _ _ => ?_) _ _).trans ?_) | (refine (foldl_fst_mh (fun _ _ => ?_) _ _).trans ?_) | simp))

theorem execLostCntRead_mh {d : Nat} {s : State} {t' : State} (h : execLostCntRead d s = .next t') : t'.mh = s.mh := by
  unfold execLostCntRead at h
  repeat' (first | contradiction | split at h | (obtain rfl := Host.Outcome.next.inj h; clear h) | dsimp only at h)
  all_goals (repeat' (first | rfl | split | (refine (foldl_mh (fun _ _ => ?_) _ _).trans ?_) | (refine (foldl_fst_mh (fun _ _ => ?_) _ _).trans ?_) | simp))

theorem execHostMemwr_mh {pa n v : Nat} {s : State} {t' : State} (h : execHostMemwr pa n v s = .next t') : t'.mh = s.mh := by
  unfold execHostMemwr at h
  repeat' (first | contradiction | split at h | (obtain rfl := Host.Outcome.next.inj h; clear h) | dsimp only at h)
  all_goals (repeat' (first | rfl | split | (refine (foldl_mh (fun _ _ => ?_) _ _).trans ?_) | (refine (foldl_fst_mh (fun _ _ => ?_) _ _).trans ?_) | simp))

theorem execStoreReachesL1_mh {wi gi : Nat} {s : State} {t' : State} (h : execStoreReachesL1 wi gi s = .next t') : t'.mh = s.mh := by
  unfold execStoreReachesL1 at h
  repeat' (first | contradiction | split at h | (obtain rfl := Host.Outcome.next.inj h; clear h) | dsimp only at h)
  all_goals (repeat' (first | rfl | split | (refine (foldl_mh (fun _ _ => ?_) _ _).trans ?_) | (refine (foldl_fst_mh (fun _ _ => ?_) _ _).trans ?_) | simp))

theorem execLoadReply_mh {id : Nat} {s : State} {t' : State} (h : execLoadReply id s = .next t') : t'.mh = s.mh := by
  unfold execLoadReply at h
  repeat' (first | contradiction | split at h | (obtain rfl := Host.Outcome.next.inj h; clear h) | dsimp only at h)
  all_goals (repeat' (first | rfl | split | (refine (foldl_mh (fun _ _ => ?_) _ _).trans ?_) | (refine (foldl_fst_mh (fun _ _ => ?_) _ _).trans ?_) | simp))

theorem execPageWalk_mh {s t : State} (h : execPageWalk s = .next t) : t.mh = s.mh := by
  unfold execPageWalk at h
  split at h
  · cases h; rfl
  · split at h
    · cases h; rfl
    · split at h
      · split at h
        · cases h; rw [State.retry_mh, State.pageFault_mh]
        · cases h; rfl
        · split at h
          · cases h; rw [State.retry_mh, State.pageFault_mh]
          · cases h; rw [State.retry_mh, State.cache_mh]
      · cases h; exact State.retry_mh _ _

theorem execReplCollapse_mh {s : State} {t' : State} (h : execReplCollapse s = .next t') : t'.mh = s.mh := by
  unfold execReplCollapse at h
  repeat' (first | contradiction | split at h | (obtain rfl := Host.Outcome.next.inj h; clear h) | dsimp only at h)
  all_goals (repeat' (first | rfl | split | (refine (foldl_mh (fun _ _ => ?_) _ _).trans ?_) | (refine (foldl_fst_mh (fun _ _ => ?_) _ _).trans ?_) | simp))

theorem State.faultReplay_mh {s : State} {i : Nat} {t' : State} (h : State.faultReplay s i = .next t') : t'.mh = s.mh := by
  unfold State.faultReplay at h
  repeat' (first | contradiction | split at h | (obtain rfl := Host.Outcome.next.inj h; clear h) | dsimp only at h)
  all_goals (repeat' (first | rfl | split | (refine (foldl_mh (fun _ _ => ?_) _ _).trans ?_) | (refine (foldl_fst_mh (fun _ _ => ?_) _ _).trans ?_) | simp))

theorem execReplay_mh {i : Nat} {s : State} {t' : State} (h : execReplay i s = .next t') : t'.mh = s.mh := by
  unfold execReplay at h
  repeat' (first | contradiction | split at h | (obtain rfl := Host.Outcome.next.inj h; clear h) | (rw [State.faultReplay_mh h]) | dsimp only at h)
  all_goals (repeat' (first | rfl | split | (refine (foldl_mh (fun _ _ => ?_) _ _).trans ?_) | (refine (foldl_fst_mh (fun _ _ => ?_) _ _).trans ?_) | simp))

theorem State.faultDeliver_mh {s : State} {i : Nat} {t' : State} (h : State.faultDeliver s i = .next t') : t'.mh = s.mh := by
  unfold State.faultDeliver at h
  repeat' (first | contradiction | split at h | (obtain rfl := Host.Outcome.next.inj h; clear h) | dsimp only at h)
  all_goals (repeat' (first | rfl | split | (refine (foldl_mh (fun _ _ => ?_) _ _).trans ?_) | (refine (foldl_fst_mh (fun _ _ => ?_) _ _).trans ?_) | simp))

theorem execDeliver_mh {i : Nat} {s : State} {t' : State} (h : execDeliver i s = .next t') : t'.mh = s.mh := by
  unfold execDeliver at h
  repeat' (first | contradiction | split at h | (obtain rfl := Host.Outcome.next.inj h; clear h) | (rw [State.faultDeliver_mh h]) | dsimp only at h)
  all_goals (repeat' (first | rfl | split | (refine (foldl_mh (fun _ _ => ?_) _ _).trans ?_) | (refine (foldl_fst_mh (fun _ _ => ?_) _ _).trans ?_) | simp))

theorem State.faultEnd_mh {s : State} {i : Nat} {t' : State} (h : State.faultEnd s i = .next t') : t'.mh = s.mh := by
  unfold State.faultEnd at h
  repeat' (first | contradiction | split at h | (obtain rfl := Host.Outcome.next.inj h; clear h) | dsimp only at h)
  all_goals (repeat' (first | rfl | split | (refine (foldl_mh (fun _ _ => ?_) _ _).trans ?_) | (refine (foldl_fst_mh (fun _ _ => ?_) _ _).trans ?_) | simp))

theorem execFaultKill_mh {i : Nat} {s : State} {t' : State} (h : execFaultKill i s = .next t') : t'.mh = s.mh := by
  unfold execFaultKill at h
  repeat' (first | contradiction | split at h | (obtain rfl := Host.Outcome.next.inj h; clear h) | (rw [State.faultEnd_mh h]) | dsimp only at h)
  all_goals (repeat' (first | rfl | split | (refine (foldl_mh (fun _ _ => ?_) _ _).trans ?_) | (refine (foldl_fst_mh (fun _ _ => ?_) _ _).trans ?_) | simp))

theorem execUncorrectableError_mh {id l : Nat} {s : State} {t' : State} (h : execUncorrectableError id l s = .next t') : t'.mh = s.mh := by
  unfold execUncorrectableError at h
  repeat' (first | contradiction | split at h | (obtain rfl := Host.Outcome.next.inj h; clear h) | dsimp only at h)
  all_goals (repeat' (first | rfl | split | (refine (foldl_mh (fun _ _ => ?_) _ _).trans ?_) | (refine (foldl_fst_mh (fun _ _ => ?_) _ _).trans ?_) | simp))

theorem execPseudoChannelFailure_mh {d p : Nat} {s : State} {t' : State} (h : execPseudoChannelFailure d p s = .next t') : t'.mh = s.mh := by
  unfold execPseudoChannelFailure at h
  repeat' (first | contradiction | split at h | (obtain rfl := Host.Outcome.next.inj h; clear h) | dsimp only at h)
  all_goals (repeat' (first | rfl | split | (refine (foldl_mh (fun _ _ => ?_) _ _).trans ?_) | (refine (foldl_fst_mh (fun _ _ => ?_) _ _).trans ?_) | simp))

theorem execFrontierSend_mh {d p k : Nat} {s : State} {t' : State} (h : execFrontierSend d p k s = .next t') : t'.mh = s.mh := by
  unfold execFrontierSend at h
  repeat' (first | contradiction | split at h | (obtain rfl := Host.Outcome.next.inj h; clear h) | dsimp only at h)
  all_goals (repeat' (first | rfl | split | (refine (foldl_mh (fun _ _ => ?_) _ _).trans ?_) | (refine (foldl_fst_mh (fun _ _ => ?_) _ _).trans ?_) | simp))

theorem execFrontierHoldExpiry_mh {d p k : Nat} {s : State} {t' : State} (h : execFrontierHoldExpiry d p k s = .next t') : t'.mh = s.mh := by
  unfold execFrontierHoldExpiry at h
  repeat' (first | contradiction | split at h | (obtain rfl := Host.Outcome.next.inj h; clear h) | dsimp only at h)
  all_goals (repeat' (first | rfl | split | (refine (foldl_mh (fun _ _ => ?_) _ _).trans ?_) | (refine (foldl_fst_mh (fun _ _ => ?_) _ _).trans ?_) | simp))

theorem execFrontierArrival_mh {s : State} {t' : State} (h : execFrontierArrival s = .next t') : t'.mh = s.mh := by
  unfold execFrontierArrival at h
  repeat' (first | contradiction | split at h | (obtain rfl := Host.Outcome.next.inj h; clear h) | dsimp only at h)
  all_goals (repeat' (first | rfl | split | (refine (foldl_mh (fun _ _ => ?_) _ _).trans ?_) | (refine (foldl_fst_mh (fun _ _ => ?_) _ _).trans ?_) | simp))

theorem State.doorbell_mh {s t : State} {q v : Nat} (h : s.doorbell q v = .next t) : t.mh = s.mh := by
  unfold State.doorbell at h
  dsimp only at h
  split at h
  · cases h; rfl
  · split at h
    · cases h
      rw [State.post_mh, State.setQueue_mh, State.freeNum_mh]
    · cases h; exact State.setQueue_mh _ _ _

theorem execQueueDoorbell_mh {q v : Nat} {s : State} {t' : State} (h : execQueueDoorbell q v s = .next t') : t'.mh = s.mh := by
  unfold execQueueDoorbell at h
  repeat' (first | contradiction | split at h | (obtain rfl := Host.Outcome.next.inj h; clear h) | (rw [State.doorbell_mh h]) | dsimp only at h)
  all_goals (repeat' (first | rfl | split | (refine (foldl_mh (fun _ _ => ?_) _ _).trans ?_) | (refine (foldl_fst_mh (fun _ _ => ?_) _ _).trans ?_) | simp))

theorem execSchedulingRound_mh {s : State} {t' : State} (h : execSchedulingRound s = .next t') : t'.mh = s.mh := by
  unfold execSchedulingRound at h
  repeat' (first | contradiction | split at h | (obtain rfl := Host.Outcome.next.inj h; clear h) | dsimp only at h)
  all_goals (repeat' (first | rfl | split | (refine (foldl_mh (fun _ _ => ?_) _ _).trans ?_) | (refine (foldl_fst_mh (fun _ _ => ?_) _ _).trans ?_) | simp))

theorem execWorkgroupComplete_mh {wi : Nat} {s : State} {t' : State} (h : execWorkgroupComplete wi s = .next t') : t'.mh = s.mh := by
  unfold execWorkgroupComplete at h
  repeat' (first | contradiction | split at h | (obtain rfl := Host.Outcome.next.inj h; clear h) | dsimp only at h)
  all_goals (repeat' (first | rfl | split | (refine (foldl_mh (fun _ _ => ?_) _ _).trans ?_) | (refine (foldl_fst_mh (fun _ _ => ?_) _ _).trans ?_) | simp))

theorem execResourceRelease_mh {wi : Nat} {s : State} {t' : State} (h : execResourceRelease wi s = .next t') : t'.mh = s.mh := by
  unfold execResourceRelease at h
  repeat' (first | contradiction | split at h | (obtain rfl := Host.Outcome.next.inj h; clear h) | dsimp only at h)
  all_goals (repeat' (first | rfl | split | (refine (foldl_mh (fun _ _ => ?_) _ _).trans ?_) | (refine (foldl_fst_mh (fun _ _ => ?_) _ _).trans ?_) | simp))

theorem execInterruptTimeExpiry_mh {s : State} {t' : State} (h : execInterruptTimeExpiry s = .next t') : t'.mh = s.mh := by
  unfold execInterruptTimeExpiry at h
  repeat' (first | contradiction | split at h | (obtain rfl := Host.Outcome.next.inj h; clear h) | dsimp only at h)
  all_goals (repeat' (first | rfl | split | (refine (foldl_mh (fun _ _ => ?_) _ _).trans ?_) | (refine (foldl_fst_mh (fun _ _ => ?_) _ _).trans ?_) | simp))

theorem State.tueRing_mh {s : State} {v : Nat} {t' : State} (h : State.tueRing s v = .next t') : t'.mh = s.mh := by
  unfold State.tueRing at h
  repeat' (first | contradiction | split at h | (obtain rfl := Host.Outcome.next.inj h; clear h) | dsimp only at h)
  all_goals (repeat' (first | rfl | split | (refine (foldl_mh (fun _ _ => ?_) _ _).trans ?_) | (refine (foldl_fst_mh (fun _ _ => ?_) _ _).trans ?_) | simp))

theorem execTueDoorbell_mh {v : Nat} {s : State} {t' : State} (h : execTueDoorbell v s = .next t') : t'.mh = s.mh := by
  unfold execTueDoorbell at h
  repeat' (first | contradiction | split at h | (obtain rfl := Host.Outcome.next.inj h; clear h) | (rw [State.tueRing_mh h]) | dsimp only at h)
  all_goals (repeat' (first | rfl | split | (refine (foldl_mh (fun _ _ => ?_) _ _).trans ?_) | (refine (foldl_fst_mh (fun _ _ => ?_) _ _).trans ?_) | simp))

theorem State.tueSet_mh {s : State} {v : Nat} {t' : State} (h : State.tueSet s v = .next t') : t'.mh = s.mh := by
  unfold State.tueSet at h
  repeat' (first | contradiction | split at h | (obtain rfl := Host.Outcome.next.inj h; clear h) | dsimp only at h)
  all_goals (repeat' (first | rfl | split | (refine (foldl_mh (fun _ _ => ?_) _ _).trans ?_) | (refine (foldl_fst_mh (fun _ _ => ?_) _ _).trans ?_) | simp))

theorem execTueCtlWrite_mh {v : Nat} {s : State} {t' : State} (h : execTueCtlWrite v s = .next t') : t'.mh = s.mh := by
  unfold execTueCtlWrite at h
  repeat' (first | contradiction | split at h | (obtain rfl := Host.Outcome.next.inj h; clear h) | (rw [State.tueSet_mh h]) | dsimp only at h)
  all_goals (repeat' (first | rfl | split | (refine (foldl_mh (fun _ _ => ?_) _ _).trans ?_) | (refine (foldl_fst_mh (fun _ _ => ?_) _ _).trans ?_) | simp))

theorem execShoot_mh {s : State} {t' : State} (h : execShoot s = .next t') : t'.mh = s.mh := by
  unfold execShoot at h
  refine tueStep_mh (fun s c => ?_) h
  clear * -
  repeat' (first | contradiction | split at h | (obtain rfl := Host.Outcome.next.inj h; clear h) | dsimp only at h)
  all_goals (repeat' (first | rfl | split | (refine (foldl_mh (fun _ _ => ?_) _ _).trans ?_) | (refine (foldl_fst_mh (fun _ _ => ?_) _ _).trans ?_) | simp))

theorem execIssueClock_mh {d c q : Nat} {s : State} {t' : State} (h : execIssueClock d c q s = .next t') : t'.mh = s.mh := by
  unfold execIssueClock at h
  repeat' (first | contradiction | split at h | (obtain rfl := Host.Outcome.next.inj h; clear h) | dsimp only at h)
  all_goals (repeat' (first | rfl | split | (refine (foldl_mh (fun _ _ => ?_) _ _).trans ?_) | (refine (foldl_fst_mh (fun _ _ => ?_) _ _).trans ?_) | simp))

theorem execSuperstepBarrierComplete_mh {l : Nat} {s : State} {t' : State} (h : execSuperstepBarrierComplete l s = .next t') : t'.mh = s.mh := by
  unfold execSuperstepBarrierComplete at h
  repeat' (first | contradiction | split at h | (obtain rfl := Host.Outcome.next.inj h; clear h) | dsimp only at h)
  all_goals (repeat' (first | rfl | split | (refine (foldl_mh (fun _ _ => ?_) _ _).trans ?_) | (refine (foldl_fst_mh (fun _ _ => ?_) _ _).trans ?_) | simp))

theorem execSignedOperationEnqueue_mh {w k : Nat} {s : State} {t' : State} (h : execSignedOperationEnqueue w k s = .next t') : t'.mh = s.mh := by
  unfold execSignedOperationEnqueue at h
  repeat' (first | contradiction | split at h | (obtain rfl := Host.Outcome.next.inj h; clear h) | dsimp only at h)
  all_goals (repeat' (first | rfl | split | (refine (foldl_mh (fun _ _ => ?_) _ _).trans ?_) | (refine (foldl_fst_mh (fun _ _ => ?_) _ _).trans ?_) | simp))

theorem execTileStep_mh {d c : Nat} {s : State} {t' : State} (h : execTileStep d c s = .next t') : t'.mh = s.mh := by
  unfold execTileStep at h
  repeat' (first | contradiction | split at h | (obtain rfl := Host.Outcome.next.inj h; clear h) | dsimp only at h)
  all_goals (repeat' (first | rfl | split | (refine (foldl_mh (fun _ _ => ?_) _ _).trans ?_) | (refine (foldl_fst_mh (fun _ _ => ?_) _ _).trans ?_) | simp))

theorem execBankZeroed_mh {d c b : Nat} {s : State} {t' : State} (h : execBankZeroed d c b s = .next t') : t'.mh = s.mh := by
  unfold execBankZeroed at h
  repeat' (first | contradiction | split at h | (obtain rfl := Host.Outcome.next.inj h; clear h) | dsimp only at h)
  all_goals (repeat' (first | rfl | split | (refine (foldl_mh (fun _ _ => ?_) _ _).trans ?_) | (refine (foldl_fst_mh (fun _ _ => ?_) _ _).trans ?_) | simp))

theorem execNbrWritePerformed_mh {r : Nat} {s : State} {t' : State} (h : execNbrWritePerformed r s = .next t') : t'.mh = s.mh := by
  unfold execNbrWritePerformed at h
  refine reqGo_mh (fun q w => ?_) h
  clear * -
  repeat' (first | contradiction | split at h | (obtain rfl := Host.Outcome.next.inj h; clear h) | dsimp only at h)
  all_goals (repeat' (first | rfl | split | (refine (foldl_mh (fun _ _ => ?_) _ _).trans ?_) | (refine (foldl_fst_mh (fun _ _ => ?_) _ _).trans ?_) | simp))

theorem State.cmdKill_mh {s t : State} {v : Nat} (h : s.cmdKill v = .next t) : t.mh = s.mh := by
  unfold State.cmdKill at h
  refine ctxStart_mh (fun s a u hu => ?_) h
  cases hu
  rw [State.cmdEnd_mh, State.killCtx_mh]

theorem execKill_mh {v : Nat} {s : State} {t' : State} (h : execKill v s = .next t') : t'.mh = s.mh := by
  unfold execKill at h
  repeat' (first | contradiction | split at h | (obtain rfl := Host.Outcome.next.inj h; clear h) | (rw [State.cmdKill_mh h]) | dsimp only at h)
  all_goals (repeat' (first | rfl | split | (refine (foldl_mh (fun _ _ => ?_) _ _).trans ?_) | (refine (foldl_fst_mh (fun _ _ => ?_) _ _).trans ?_) | simp))

theorem State.cmdFreeze_mh {s : State} {v : Nat} {t' : State} (h : State.cmdFreeze s v = .next t') : t'.mh = s.mh := by
  unfold State.cmdFreeze at h
  refine ctxStart_mh (fun s m t' h => ?_) h
  clear * - h
  repeat' (first | contradiction | split at h | (obtain rfl := Host.Outcome.next.inj h; clear h) | dsimp only at h)
  all_goals (repeat' (first | rfl | split | (refine (foldl_mh (fun _ _ => ?_) _ _).trans ?_) | (refine (foldl_fst_mh (fun _ _ => ?_) _ _).trans ?_) | simp))

theorem execFreeze_mh {v : Nat} {s : State} {t' : State} (h : execFreeze v s = .next t') : t'.mh = s.mh := by
  unfold execFreeze at h
  repeat' (first | contradiction | split at h | (obtain rfl := Host.Outcome.next.inj h; clear h) | (rw [State.cmdFreeze_mh h]) | dsimp only at h)
  all_goals (repeat' (first | rfl | split | (refine (foldl_mh (fun _ _ => ?_) _ _).trans ?_) | (refine (foldl_fst_mh (fun _ _ => ?_) _ _).trans ?_) | simp))

theorem State.cmdDrain_mh {s : State} {v : Nat} {t' : State} (h : State.cmdDrain s v = .next t') : t'.mh = s.mh := by
  unfold State.cmdDrain at h
  refine ctxStart_mh (fun s m t' h => ?_) h
  clear * - h
  repeat' (first | contradiction | split at h | (obtain rfl := Host.Outcome.next.inj h; clear h) | dsimp only at h)
  all_goals (repeat' (first | rfl | split | (refine (foldl_mh (fun _ _ => ?_) _ _).trans ?_) | (refine (foldl_fst_mh (fun _ _ => ?_) _ _).trans ?_) | simp))

theorem execDrain_mh {v : Nat} {s : State} {t' : State} (h : execDrain v s = .next t') : t'.mh = s.mh := by
  unfold execDrain at h
  repeat' (first | contradiction | split at h | (obtain rfl := Host.Outcome.next.inj h; clear h) | (rw [State.cmdDrain_mh h]) | dsimp only at h)
  all_goals (repeat' (first | rfl | split | (refine (foldl_mh (fun _ _ => ?_) _ _).trans ?_) | (refine (foldl_fst_mh (fun _ _ => ?_) _ _).trans ?_) | simp))

theorem execDrainDeadlineExpiry_mh {s : State} {t' : State} (h : execDrainDeadlineExpiry s = .next t') : t'.mh = s.mh := by
  unfold execDrainDeadlineExpiry at h
  repeat' (first | contradiction | split at h | (obtain rfl := Host.Outcome.next.inj h; clear h) | dsimp only at h)
  all_goals (repeat' (first | rfl | split | (refine (foldl_mh (fun _ _ => ?_) _ _).trans ?_) | (refine (foldl_fst_mh (fun _ _ => ?_) _ _).trans ?_) | simp))

theorem execFreezeDeadlineExpiry_mh {s t : State} (h : execFreezeDeadlineExpiry s = .next t) : t.mh = s.mh := by
  unfold execFreezeDeadlineExpiry at h
  split at h
  · split at h
    · cases h; exact State.freezeFail_mh _ _ _
    · cases h; rfl
  · cases h; rfl

theorem execFirmwareUpdate_mh {v : Nat} {s t : State} (h : execFirmwareUpdate v s = .next t) : t.mh = s.mh := by
  unfold execFirmwareUpdate at h
  split at h
  · cases h; exact State.fwWrite_mh _ _
  · split at h
    · cases h; rfl
    · extract_lets pa n len bs st p j at h
      clear_value len bs st j
      split at h
      · cases h
      · split at h <;> (obtain rfl := Host.Outcome.next.inj h; rfl)

theorem execBoraGrant_mh {region n : Nat} {s t : State} (h : execBoraGrant region n s = .next t) : t.mh = s.mh := by
  unfold execBoraGrant at h
  split at h
  · obtain rfl := Host.Outcome.next.inj h; rfl
  · obtain rfl := Host.Outcome.next.inj h
    exact (State.onIslands_mh _ _ _).trans (State.onIslands_mh _ _ _)

theorem execIslandPowerOn_mh {i : Nat} {s t : State} (h : execIslandPowerOn i s = .next t) : t.mh = s.mh := by
  unfold execIslandPowerOn at h
  dsimp only at h
  split at h
  · cases h; rfl
  · split at h
    · cases h; rfl
    · split at h
      · cases h; exact State.setIsland_mh _ _ _
      · split at h
        · cases h; rfl
        · split at h
          · cases h; exact State.setIsland_mh _ _ _
          · cases h
            rw [State.onIslands_mh, State.freeNum_mh, State.setIsland_mh]

theorem execPhaseFailure_mh {i : Nat} {s : State} {t' : State} (h : execPhaseFailure i s = .next t') : t'.mh = s.mh := by
  unfold execPhaseFailure at h
  repeat' (first | contradiction | split at h | (obtain rfl := Host.Outcome.next.inj h; clear h) | dsimp only at h)
  all_goals (repeat' (first | rfl | split | (refine (foldl_mh (fun _ _ => ?_) _ _).trans ?_) | (refine (foldl_fst_mh (fun _ _ => ?_) _ _).trans ?_) | simp))

theorem execRailVoltageMinimum_mh {i v : Nat} {s : State} {t' : State} (h : execRailVoltageMinimum i v s = .next t') : t'.mh = s.mh := by
  unfold execRailVoltageMinimum at h
  repeat' (first | contradiction | split at h | (obtain rfl := Host.Outcome.next.inj h; clear h) | dsimp only at h)
  all_goals (repeat' (first | rfl | split | (refine (foldl_mh (fun _ _ => ?_) _ _).trans ?_) | (refine (foldl_fst_mh (fun _ _ => ?_) _ _).trans ?_) | simp))

theorem execIslVminRead_mh {i : Nat} {s : State} {t' : State} (h : execIslVminRead i s = .next t') : t'.mh = s.mh := by
  unfold execIslVminRead at h
  repeat' (first | contradiction | split at h | (obtain rfl := Host.Outcome.next.inj h; clear h) | dsimp only at h)
  all_goals (repeat' (first | rfl | split | (refine (foldl_mh (fun _ _ => ?_) _ _).trans ?_) | (refine (foldl_fst_mh (fun _ _ => ?_) _ _).trans ?_) | simp))

theorem execFlitReceive_mh {k : Nat} {s : State} {t' : State} (h : execFlitReceive k s = .next t') : t'.mh = s.mh := by
  unfold execFlitReceive at h
  repeat' (first | contradiction | split at h | (obtain rfl := Host.Outcome.next.inj h; clear h) | dsimp only at h)
  all_goals (repeat' (first | rfl | split | (refine (foldl_mh (fun _ _ => ?_) _ _).trans ?_) | (refine (foldl_fst_mh (fun _ _ => ?_) _ _).trans ?_) | simp))

theorem execNakReceive_mh {k : Nat} {s : State} {t' : State} (h : execNakReceive k s = .next t') : t'.mh = s.mh := by
  unfold execNakReceive at h
  repeat' (first | contradiction | split at h | (obtain rfl := Host.Outcome.next.inj h; clear h) | dsimp only at h)
  all_goals (repeat' (first | rfl | split | (refine (foldl_mh (fun _ _ => ?_) _ _).trans ?_) | (refine (foldl_fst_mh (fun _ _ => ?_) _ _).trans ?_) | simp))

theorem execNakRepeatExpiry_mh {k : Nat} {s : State} {t' : State} (h : execNakRepeatExpiry k s = .next t') : t'.mh = s.mh := by
  unfold execNakRepeatExpiry at h
  repeat' (first | contradiction | split at h | (obtain rfl := Host.Outcome.next.inj h; clear h) | dsimp only at h)
  all_goals (repeat' (first | rfl | split | (refine (foldl_mh (fun _ _ => ?_) _ _).trans ?_) | (refine (foldl_fst_mh (fun _ _ => ?_) _ _).trans ?_) | simp))

theorem State.queueOn_mh {s : State} {q : Nat} {t' : State} (h : State.queueOn s q = .next t') : t'.mh = s.mh := by
  unfold State.queueOn at h
  repeat' (first | contradiction | split at h | (obtain rfl := Host.Outcome.next.inj h; clear h) | dsimp only at h)
  all_goals (repeat' (first | rfl | split | (refine (foldl_mh (fun _ _ => ?_) _ _).trans ?_) | (refine (foldl_fst_mh (fun _ _ => ?_) _ _).trans ?_) | simp))

theorem execQueueEnable_mh {q : Nat} {s : State} {t' : State} (h : execQueueEnable q s = .next t') : t'.mh = s.mh := by
  unfold execQueueEnable at h
  repeat' (first | contradiction | split at h | (obtain rfl := Host.Outcome.next.inj h; clear h) | (rw [State.queueOn_mh h]) | dsimp only at h)
  all_goals (repeat' (first | rfl | split | (refine (foldl_mh (fun _ _ => ?_) _ _).trans ?_) | (refine (foldl_fst_mh (fun _ _ => ?_) _ _).trans ?_) | simp))

theorem execQueueDisable_mh {q : Nat} {s : State} {t' : State} (h : execQueueDisable q s = .next t') : t'.mh = s.mh := by
  unfold execQueueDisable at h
  repeat' (first | contradiction | split at h | (obtain rfl := Host.Outcome.next.inj h; clear h) | dsimp only at h)
  all_goals (repeat' (first | rfl | split | (refine (foldl_mh (fun _ _ => ?_) _ _).trans ?_) | (refine (foldl_fst_mh (fun _ _ => ?_) _ _).trans ?_) | simp))

theorem State.ctxOn_mh {s : State} {a : Nat} {t' : State} (h : State.ctxOn s a = .next t') : t'.mh = s.mh := by
  unfold State.ctxOn at h
  repeat' (first | contradiction | split at h | (obtain rfl := Host.Outcome.next.inj h; clear h) | dsimp only at h)
  all_goals (repeat' (first | rfl | split | (refine (foldl_mh (fun _ _ => ?_) _ _).trans ?_) | (refine (foldl_fst_mh (fun _ _ => ?_) _ _).trans ?_) | simp))

theorem execContextRegister_mh {asid : Nat} {s : State} {t' : State} (h : execContextRegister asid s = .next t') : t'.mh = s.mh := by
  unfold execContextRegister at h
  repeat' (first | contradiction | split at h | (obtain rfl := Host.Outcome.next.inj h; clear h) | (rw [State.ctxOn_mh h]) | dsimp only at h)
  all_goals (repeat' (first | rfl | split | (refine (foldl_mh (fun _ _ => ?_) _ _).trans ?_) | (refine (foldl_fst_mh (fun _ _ => ?_) _ _).trans ?_) | simp))

theorem execContextUnregister_mh {asid : Nat} {s : State} {t' : State} (h : execContextUnregister asid s = .next t') : t'.mh = s.mh := by
  unfold execContextUnregister at h
  repeat' (first | contradiction | split at h | (obtain rfl := Host.Outcome.next.inj h; clear h) | dsimp only at h)
  all_goals (repeat' (first | rfl | split | (refine (foldl_mh (fun _ _ => ?_) _ _).trans ?_) | (refine (foldl_fst_mh (fun _ _ => ?_) _ _).trans ?_) | simp))

theorem execEventReadPointer_mh {asid v : Nat} {s : State} {t' : State} (h : execEventReadPointer asid v s = .next t') : t'.mh = s.mh := by
  unfold execEventReadPointer at h
  repeat' (first | contradiction | split at h | (obtain rfl := Host.Outcome.next.inj h; clear h) | dsimp only at h)
  all_goals (repeat' (first | rfl | split | (refine (foldl_mh (fun _ _ => ?_) _ _).trans ?_) | (refine (foldl_fst_mh (fun _ _ => ?_) _ _).trans ?_) | simp))

theorem execRimeEnable_mh {asid v : Nat} {s : State} {t' : State} (h : execRimeEnable asid v s = .next t') : t'.mh = s.mh := by
  unfold execRimeEnable at h
  repeat' (first | contradiction | split at h | (obtain rfl := Host.Outcome.next.inj h; clear h) | dsimp only at h)
  all_goals (repeat' (first | rfl | split | (refine (foldl_mh (fun _ _ => ?_) _ _).trans ?_) | (refine (foldl_fst_mh (fun _ _ => ?_) _ _).trans ?_) | simp))

theorem execRimeRearm_mh {asid : Nat} {s : State} {t' : State} (h : execRimeRearm asid s = .next t') : t'.mh = s.mh := by
  unfold execRimeRearm at h
  repeat' (first | contradiction | split at h | (obtain rfl := Host.Outcome.next.inj h; clear h) | dsimp only at h)
  all_goals (repeat' (first | rfl | split | (refine (foldl_mh (fun _ _ => ?_) _ _).trans ?_) | (refine (foldl_fst_mh (fun _ _ => ?_) _ _).trans ?_) | simp))

theorem execRtWaysChange_mh {d v : Nat} {s : State} {t' : State} (h : execRtWaysChange d v s = .next t') : t'.mh = s.mh := by
  unfold execRtWaysChange at h
  repeat' (first | contradiction | split at h | (obtain rfl := Host.Outcome.next.inj h; clear h) | dsimp only at h)
  all_goals (repeat' (first | rfl | split | (refine (foldl_mh (fun _ _ => ?_) _ _).trans ?_) | (refine (foldl_fst_mh (fun _ _ => ?_) _ _).trans ?_) | simp))

theorem execRtCarve_mh {d : Nat} {s : State} {t' : State} (h : execRtCarve d s = .next t') : t'.mh = s.mh := by
  unfold execRtCarve at h
  repeat' (first | contradiction | split at h | (obtain rfl := Host.Outcome.next.inj h; clear h) | dsimp only at h)
  all_goals (repeat' (first | rfl | split | (refine (foldl_mh (fun _ _ => ?_) _ _).trans ?_) | (refine (foldl_fst_mh (fun _ _ => ?_) _ _).trans ?_) | simp))

theorem State.respond_mh {s : State} {v : Nat} {t' : State} (h : State.respond s v = .next t') : t'.mh = s.mh := by
  unfold State.respond at h
  repeat' (first | contradiction | split at h | (obtain rfl := Host.Outcome.next.inj h; clear h) | (rw [State.faultDeliver_mh h]) | (rw [State.faultEnd_mh h]) | (rw [State.faultReplay_mh h]) | dsimp only at h)
  all_goals (repeat' (first | rfl | split | (refine (foldl_mh (fun _ _ => ?_) _ _).trans ?_) | (refine (foldl_fst_mh (fun _ _ => ?_) _ _).trans ?_) | simp))

theorem State.writeQueue_mh {s : State} {q r v : Nat} {t' : State} (h : State.writeQueue s q r v = .next t') : t'.mh = s.mh := by
  unfold State.writeQueue at h
  repeat' (first | contradiction | split at h | (obtain rfl := Host.Outcome.next.inj h; clear h) | (rw [State.doorbell_mh h]) | (rw [State.queueOn_mh h]) | dsimp only at h)
  all_goals (repeat' (first | rfl | split | (refine (foldl_mh (fun _ _ => ?_) _ _).trans ?_) | (refine (foldl_fst_mh (fun _ _ => ?_) _ _).trans ?_) | simp))

theorem State.writeCxCtl_mh {s t : State} {a v : Nat} (h : s.writeCxCtl a v = .next t) : t.mh = s.mh := by
  have hf : ∀ u : State, (if v / 2 % 2 = 1 then u.ctxOff a else u).mh = u.mh := by
    intro u
    split
    · exact State.ctxOff_mh _ _
    · rfl
  unfold State.writeCxCtl at h
  dsimp only at h
  split at h
  · split at h
    · rename_i u hu
      cases h
      rw [hf, State.ctxOn_mh hu, State.setCtx_mh]
    · rename_i o ho
      exact absurd h (ho _)
  · cases h
    rw [hf, State.setCtx_mh]

theorem State.writeCtx_mh {s : State} {a r v : Nat} {t' : State} (h : State.writeCtx s a r v = .next t') : t'.mh = s.mh := by
  unfold State.writeCtx at h
  repeat' (first | contradiction | split at h | (obtain rfl := Host.Outcome.next.inj h; clear h) | (rw [State.writeCxCtl_mh h]) | dsimp only at h)
  all_goals (repeat' (first | rfl | split | (refine (foldl_mh (fun _ _ => ?_) _ _).trans ?_) | (refine (foldl_fst_mh (fun _ _ => ?_) _ _).trans ?_) | simp))

end Sys2Proof.Machine
end

