-- ==== Sys2Proof/Laws/QuietIssue.lean ====
section
/-!
SUPPORT. The instructions that leave both memories as they are when they issue (all but those that put a record into
a ring or bind a page): issuing, traps, and one lemma for each meaning.
-/

set_option linter.unusedVariables false
set_option linter.unreachableTactic false
set_option linter.unusedTactic false
set_option linter.unusedSimpArgs false

namespace Sys2Proof.Machine

theorem State.resumePoint_mh (s : State) (gh ga : Group) (after yld : Bool) : (s.resumePoint gh ga after yld).1.mh = s.mh := by
  unfold State.resumePoint
  split <;> rfl

theorem onceBody_mh {f : State → Cx → Except Trap State} {s : State} {c : Cx} {t : State}
    (hf : ∀ s c t, f s c = .ok t → t.mh = s.mh) (h : onceBody f s c = .ok t) : t.mh = s.mh := by
  unfold onceBody at h
  split at h
  · cases h; rfl
  · exact hf s c t h

theorem issue_mh {i : Instr} {body : State → Cx → Except Trap State} {s t : State}
    (hb : ∀ s c t, body s c = .ok t → t.mh = s.mh) (h : s.issue i body = .next t) : t.mh = s.mh := by
  unfold State.issue at h
  split at h
  · cases h; rfl
  · dsimp only at h
    split at h
    · cases h; rfl
    · split at h
      · cases h; rfl
      · split at h
        · cases h; rfl
        · split at h
          · rename_i s1 h1
            cases h
            rw [State.issued_mh]
            split at h1
            · cases h1
            · split at h1
              · cases h1
              · exact (hb _ _ _ h1).trans rfl
          · cases h
            exact (State.trapAt_mh _ _ _ _ _ _ _ _ _).trans (State.resumePoint_mh _ _ _ _ _)

theorem rBody_mh {i : Instr} {o : ROp} {d : BitVec 7} {s : State} {c : Cx} {t : State} (h : rBody i o d s c = .ok t) :
    t.mh = s.mh := computeBody_mh h

theorem xBody_mh {i : Instr} {f : XF} {s : State} {c : Cx} {t : State} (h : xBody i f s c = .ok t) : t.mh = s.mh :=
  computeBody_mh h

theorem xOne_mh {i : Instr} {f : XF} {g : List Word → Lane → List VCell} {s : State} {c : Cx} {t : State}
    (h : xOne i f g s c = .ok t) : t.mh = s.mh := computeBody_mh h

theorem iBody_mh {d : BitVec 7} {g : List Word → Lane → VCell} {s : State} {c : Cx} {t : State}
    (h : iBody d g s c = .ok t) : t.mh = s.mh := computeBody_mh h

theorem fmaBody_mh {i : Instr} {f : XF} {g : List VCell → List VCell → List VCell → List VCell × Flags} {s : State}
    {c : Cx} {t : State} (h : fmaBody i f g s c = .ok t) : t.mh = s.mh := computeBody_mh h

theorem execAddI_mh {f : RF} {s : State} {t : State} (h : execAddI f s = .next t) : t.mh = s.mh :=
  issue_mh (fun _ _ _ h => rBody_mh h) h

theorem execSubI_mh {f : RF} {s : State} {t : State} (h : execSubI f s = .next t) : t.mh = s.mh :=
  issue_mh (fun _ _ _ h => rBody_mh h) h

theorem execAddcN_mh {f : RF} {s : State} {t : State} (h : execAddcN f s = .next t) : t.mh = s.mh :=
  issue_mh (fun _ _ _ h => rBody_mh h) h

theorem execSubbN_mh {f : RF} {s : State} {t : State} (h : execSubbN f s = .next t) : t.mh = s.mh :=
  issue_mh (fun _ _ _ h => rBody_mh h) h

theorem execMulI_mh {f : RF} {s : State} {t : State} (h : execMulI f s = .next t) : t.mh = s.mh :=
  issue_mh (fun _ _ _ h => rBody_mh h) h

theorem execMulhiI_mh {f : RF} {s : State} {t : State} (h : execMulhiI f s = .next t) : t.mh = s.mh :=
  issue_mh (fun _ _ _ h => rBody_mh h) h

theorem execMulhiN_mh {f : RF} {s : State} {t : State} (h : execMulhiN f s = .next t) : t.mh = s.mh :=
  issue_mh (fun _ _ _ h => rBody_mh h) h

theorem execDivI_mh {f : RF} {s : State} {t : State} (h : execDivI f s = .next t) : t.mh = s.mh :=
  issue_mh (fun _ _ _ h => rBody_mh h) h

theorem execDivN_mh {f : RF} {s : State} {t : State} (h : execDivN f s = .next t) : t.mh = s.mh :=
  issue_mh (fun _ _ _ h => rBody_mh h) h

theorem execRemI_mh {f : RF} {s : State} {t : State} (h : execRemI f s = .next t) : t.mh = s.mh :=
  issue_mh (fun _ _ _ h => rBody_mh h) h

theorem execRemN_mh {f : RF} {s : State} {t : State} (h : execRemN f s = .next t) : t.mh = s.mh :=
  issue_mh (fun _ _ _ h => rBody_mh h) h

theorem execMinI_mh {f : RF} {s : State} {t : State} (h : execMinI f s = .next t) : t.mh = s.mh :=
  issue_mh (fun _ _ _ h => rBody_mh h) h

theorem execMaxI_mh {f : RF} {s : State} {t : State} (h : execMaxI f s = .next t) : t.mh = s.mh :=
  issue_mh (fun _ _ _ h => rBody_mh h) h

theorem execMinN_mh {f : RF} {s : State} {t : State} (h : execMinN f s = .next t) : t.mh = s.mh :=
  issue_mh (fun _ _ _ h => rBody_mh h) h

theorem execMaxN_mh {f : RF} {s : State} {t : State} (h : execMaxN f s = .next t) : t.mh = s.mh :=
  issue_mh (fun _ _ _ h => rBody_mh h) h

theorem execAbsI_mh {f : RF} {s : State} {t : State} (h : execAbsI f s = .next t) : t.mh = s.mh :=
  issue_mh (fun _ _ _ h => rBody_mh h) h

theorem execAddI16x2_mh {f : RF} {s : State} {t : State} (h : execAddI16x2 f s = .next t) : t.mh = s.mh :=
  issue_mh (fun _ _ _ h => rBody_mh h) h

theorem execSubI16x2_mh {f : RF} {s : State} {t : State} (h : execSubI16x2 f s = .next t) : t.mh = s.mh :=
  issue_mh (fun _ _ _ h => rBody_mh h) h

theorem execAddN16x2_mh {f : RF} {s : State} {t : State} (h : execAddN16x2 f s = .next t) : t.mh = s.mh :=
  issue_mh (fun _ _ _ h => rBody_mh h) h

theorem execSubN16x2_mh {f : RF} {s : State} {t : State} (h : execSubN16x2 f s = .next t) : t.mh = s.mh :=
  issue_mh (fun _ _ _ h => rBody_mh h) h

theorem execAddI8x4_mh {f : RF} {s : State} {t : State} (h : execAddI8x4 f s = .next t) : t.mh = s.mh :=
  issue_mh (fun _ _ _ h => rBody_mh h) h

theorem execSubI8x4_mh {f : RF} {s : State} {t : State} (h : execSubI8x4 f s = .next t) : t.mh = s.mh :=
  issue_mh (fun _ _ _ h => rBody_mh h) h

theorem execAddN8x4_mh {f : RF} {s : State} {t : State} (h : execAddN8x4 f s = .next t) : t.mh = s.mh :=
  issue_mh (fun _ _ _ h => rBody_mh h) h

theorem execSubN8x4_mh {f : RF} {s : State} {t : State} (h : execSubN8x4 f s = .next t) : t.mh = s.mh :=
  issue_mh (fun _ _ _ h => rBody_mh h) h

theorem execAnd_mh {f : RF} {s : State} {t : State} (h : execAnd f s = .next t) : t.mh = s.mh :=
  issue_mh (fun _ _ _ h => rBody_mh h) h

theorem execOr_mh {f : RF} {s : State} {t : State} (h : execOr f s = .next t) : t.mh = s.mh :=
  issue_mh (fun _ _ _ h => rBody_mh h) h

theorem execXor_mh {f : RF} {s : State} {t : State} (h : execXor f s = .next t) : t.mh = s.mh :=
  issue_mh (fun _ _ _ h => rBody_mh h) h

theorem execAndn_mh {f : RF} {s : State} {t : State} (h : execAndn f s = .next t) : t.mh = s.mh :=
  issue_mh (fun _ _ _ h => rBody_mh h) h

theorem execShl_mh {f : RF} {s : State} {t : State} (h : execShl f s = .next t) : t.mh = s.mh :=
  issue_mh (fun _ _ _ h => rBody_mh h) h

theorem execShrN_mh {f : RF} {s : State} {t : State} (h : execShrN f s = .next t) : t.mh = s.mh :=
  issue_mh (fun _ _ _ h => rBody_mh h) h

theorem execShrI_mh {f : RF} {s : State} {t : State} (h : execShrI f s = .next t) : t.mh = s.mh :=
  issue_mh (fun _ _ _ h => rBody_mh h) h

theorem execPopc_mh {f : RF} {s : State} {t : State} (h : execPopc f s = .next t) : t.mh = s.mh :=
  issue_mh (fun _ _ _ h => rBody_mh h) h

theorem execClz_mh {f : RF} {s : State} {t : State} (h : execClz f s = .next t) : t.mh = s.mh :=
  issue_mh (fun _ _ _ h => rBody_mh h) h

theorem execBrev_mh {f : RF} {s : State} {t : State} (h : execBrev f s = .next t) : t.mh = s.mh :=
  issue_mh (fun _ _ _ h => rBody_mh h) h

theorem execMov_mh {f : RF} {s : State} {t : State} (h : execMov f s = .next t) : t.mh = s.mh :=
  issue_mh (fun _ _ _ h => rBody_mh h) h

theorem execAddIImm_mh {f : IF} {s : State} {t : State} (h : execAddIImm f s = .next t) : t.mh = s.mh :=
  issue_mh (fun _ _ _ h => iBody_mh h) h

theorem execAndImm_mh {f : IF} {s : State} {t : State} (h : execAndImm f s = .next t) : t.mh = s.mh :=
  issue_mh (fun _ _ _ h => iBody_mh h) h

theorem execOrImm_mh {f : IF} {s : State} {t : State} (h : execOrImm f s = .next t) : t.mh = s.mh :=
  issue_mh (fun _ _ _ h => iBody_mh h) h

theorem execXorImm_mh {f : IF} {s : State} {t : State} (h : execXorImm f s = .next t) : t.mh = s.mh :=
  issue_mh (fun _ _ _ h => iBody_mh h) h

theorem execShlImm_mh {f : IF} {s : State} {t : State} (h : execShlImm f s = .next t) : t.mh = s.mh :=
  issue_mh (fun _ _ _ h => iBody_mh h) h

theorem execShrNImm_mh {f : IF} {s : State} {t : State} (h : execShrNImm f s = .next t) : t.mh = s.mh :=
  issue_mh (fun _ _ _ h => iBody_mh h) h

theorem execShrIImm_mh {f : IF} {s : State} {t : State} (h : execShrIImm f s = .next t) : t.mh = s.mh :=
  issue_mh (fun _ _ _ h => iBody_mh h) h

theorem execMovImm_mh {f : IF} {s : State} {t : State} (h : execMovImm f s = .next t) : t.mh = s.mh :=
  issue_mh (fun _ _ _ h => iBody_mh h) h

theorem execMovLit_mh {f : LF} {s : State} {t : State} (h : execMovLit f s = .next t) : t.mh = s.mh :=
  issue_mh (fun _ _ _ h => computeBody_mh h) h

theorem execMadI_mh {f : XF} {s : State} {t : State} (h : execMadI f s = .next t) : t.mh = s.mh :=
  issue_mh (fun _ _ _ h => xOne_mh h) h

theorem execBfxN_mh {f : XF} {s : State} {t : State} (h : execBfxN f s = .next t) : t.mh = s.mh :=
  issue_mh (fun _ _ _ h => xOne_mh h) h

theorem execBfxI_mh {f : XF} {s : State} {t : State} (h : execBfxI f s = .next t) : t.mh = s.mh :=
  issue_mh (fun _ _ _ h => xOne_mh h) h

theorem execBfi_mh {f : XF} {s : State} {t : State} (h : execBfi f s = .next t) : t.mh = s.mh :=
  issue_mh (fun _ _ _ h => xOne_mh h) h

theorem execLea_mh {f : XF} {s : State} {t : State} (h : execLea f s = .next t) : t.mh = s.mh :=
  issue_mh (fun _ _ _ h => xOne_mh h) h

theorem execSetpI_mh {f : XF} {s : State} {t : State} (h : execSetpI f s = .next t) : t.mh = s.mh :=
  issue_mh (fun _ _ _ h => predBody_mh h) h

theorem execSetpN_mh {f : XF} {s : State} {t : State} (h : execSetpN f s = .next t) : t.mh = s.mh :=
  issue_mh (fun _ _ _ h => predBody_mh h) h

theorem execSel_mh {f : XF} {s : State} {t : State} (h : execSel f s = .next t) : t.mh = s.mh :=
  issue_mh (fun _ _ _ h => xOne_mh h) h

theorem execShfl_mh {f : XF} {s : State} {t' : State} (h : execShfl f s = .next t') : t'.mh = s.mh := by
  unfold execShfl at h
  refine issue_mh (fun s c t' h => ?_) h
  clear * - h
  repeat' (first | contradiction | split at h | (obtain rfl := Except.ok.inj h; clear h) | (rw [computeBody_mh h]) | dsimp only at h)
  all_goals (repeat' (first | rfl | split | (refine (foldl_mh (fun _ _ => ?_) _ _).trans ?_) | (refine (foldl_fst_mh (fun _ _ => ?_) _ _).trans ?_) | simp))

theorem execVote_mh {f : KF} {s : State} {t' : State} (h : execVote f s = .next t') : t'.mh = s.mh := by
  unfold execVote at h
  refine issue_mh (fun s c t' h => ?_) h
  clear * - h
  refine onceBody_mh (fun s c t' h => ?_) h
  clear * - h
  repeat' (first | contradiction | split at h | (obtain rfl := Except.ok.inj h; clear h) | (rw [onceBody_mh h]) | dsimp only at h)
  all_goals (repeat' (first | rfl | split | (refine (foldl_mh (fun _ _ => ?_) _ _).trans ?_) | (refine (foldl_fst_mh (fun _ _ => ?_) _ _).trans ?_) | simp))

theorem execXint_mh {f : XF} {s : State} {t : State} (h : execXint f s = .next t) : t.mh = s.mh :=
  issue_mh (fun _ _ _ h => xBody_mh h) h

theorem execAddF_mh {f : RF} {s : State} {t : State} (h : execAddF f s = .next t) : t.mh = s.mh :=
  issue_mh (fun _ _ _ h => rBody_mh h) h

theorem execSubF_mh {f : RF} {s : State} {t : State} (h : execSubF f s = .next t) : t.mh = s.mh :=
  issue_mh (fun _ _ _ h => rBody_mh h) h

theorem execMulF_mh {f : RF} {s : State} {t : State} (h : execMulF f s = .next t) : t.mh = s.mh :=
  issue_mh (fun _ _ _ h => rBody_mh h) h

theorem execMinF_mh {f : RF} {s : State} {t : State} (h : execMinF f s = .next t) : t.mh = s.mh :=
  issue_mh (fun _ _ _ h => rBody_mh h) h

theorem execMaxF_mh {f : RF} {s : State} {t : State} (h : execMaxF f s = .next t) : t.mh = s.mh :=
  issue_mh (fun _ _ _ h => rBody_mh h) h

theorem execAbsF_mh {f : RF} {s : State} {t : State} (h : execAbsF f s = .next t) : t.mh = s.mh :=
  issue_mh (fun _ _ _ h => rBody_mh h) h

theorem execNegF_mh {f : RF} {s : State} {t : State} (h : execNegF f s = .next t) : t.mh = s.mh :=
  issue_mh (fun _ _ _ h => rBody_mh h) h

theorem execDivF_mh {f : RF} {s : State} {t : State} (h : execDivF f s = .next t) : t.mh = s.mh :=
  issue_mh (fun _ _ _ h => rBody_mh h) h

theorem execAddF16x2_mh {f : RF} {s : State} {t : State} (h : execAddF16x2 f s = .next t) : t.mh = s.mh :=
  issue_mh (fun _ _ _ h => rBody_mh h) h

theorem execMulF16x2_mh {f : RF} {s : State} {t : State} (h : execMulF16x2 f s = .next t) : t.mh = s.mh :=
  issue_mh (fun _ _ _ h => rBody_mh h) h

theorem execMinF16x2_mh {f : RF} {s : State} {t : State} (h : execMinF16x2 f s = .next t) : t.mh = s.mh :=
  issue_mh (fun _ _ _ h => rBody_mh h) h

theorem execMaxF16x2_mh {f : RF} {s : State} {t : State} (h : execMaxF16x2 f s = .next t) : t.mh = s.mh :=
  issue_mh (fun _ _ _ h => rBody_mh h) h

theorem execAddBf16x2_mh {f : RF} {s : State} {t : State} (h : execAddBf16x2 f s = .next t) : t.mh = s.mh :=
  issue_mh (fun _ _ _ h => rBody_mh h) h

theorem execMulBf16x2_mh {f : RF} {s : State} {t : State} (h : execMulBf16x2 f s = .next t) : t.mh = s.mh :=
  issue_mh (fun _ _ _ h => rBody_mh h) h

theorem execMinBf16x2_mh {f : RF} {s : State} {t : State} (h : execMinBf16x2 f s = .next t) : t.mh = s.mh :=
  issue_mh (fun _ _ _ h => rBody_mh h) h

theorem execMaxBf16x2_mh {f : RF} {s : State} {t : State} (h : execMaxBf16x2 f s = .next t) : t.mh = s.mh :=
  issue_mh (fun _ _ _ h => rBody_mh h) h

theorem execAddF64_mh {f : RF} {s : State} {t : State} (h : execAddF64 f s = .next t) : t.mh = s.mh :=
  issue_mh (fun _ _ _ h => rBody_mh h) h

theorem execSubF64_mh {f : RF} {s : State} {t : State} (h : execSubF64 f s = .next t) : t.mh = s.mh :=
  issue_mh (fun _ _ _ h => rBody_mh h) h

theorem execMulF64_mh {f : RF} {s : State} {t : State} (h : execMulF64 f s = .next t) : t.mh = s.mh :=
  issue_mh (fun _ _ _ h => rBody_mh h) h

theorem execMinF64_mh {f : RF} {s : State} {t : State} (h : execMinF64 f s = .next t) : t.mh = s.mh :=
  issue_mh (fun _ _ _ h => rBody_mh h) h

theorem execMaxF64_mh {f : RF} {s : State} {t : State} (h : execMaxF64 f s = .next t) : t.mh = s.mh :=
  issue_mh (fun _ _ _ h => rBody_mh h) h

theorem execDivF64_mh {f : RF} {s : State} {t : State} (h : execDivF64 f s = .next t) : t.mh = s.mh :=
  issue_mh (fun _ _ _ h => rBody_mh h) h

theorem execRcpF_mh {f : RF} {s : State} {t : State} (h : execRcpF f s = .next t) : t.mh = s.mh :=
  issue_mh (fun _ _ _ h => rBody_mh h) h

theorem execSqrtF_mh {f : RF} {s : State} {t : State} (h : execSqrtF f s = .next t) : t.mh = s.mh :=
  issue_mh (fun _ _ _ h => rBody_mh h) h

theorem execRsqrtF_mh {f : RF} {s : State} {t : State} (h : execRsqrtF f s = .next t) : t.mh = s.mh :=
  issue_mh (fun _ _ _ h => rBody_mh h) h

theorem execExp2F_mh {f : RF} {s : State} {t : State} (h : execExp2F f s = .next t) : t.mh = s.mh :=
  issue_mh (fun _ _ _ h => rBody_mh h) h

theorem execLog2F_mh {f : RF} {s : State} {t : State} (h : execLog2F f s = .next t) : t.mh = s.mh :=
  issue_mh (fun _ _ _ h => rBody_mh h) h

theorem execRcpF64_mh {f : RF} {s : State} {t : State} (h : execRcpF64 f s = .next t) : t.mh = s.mh :=
  issue_mh (fun _ _ _ h => rBody_mh h) h

theorem execSqrtF64_mh {f : RF} {s : State} {t : State} (h : execSqrtF64 f s = .next t) : t.mh = s.mh :=
  issue_mh (fun _ _ _ h => rBody_mh h) h

theorem execFmaF_mh {f : XF} {s : State} {t : State} (h : execFmaF f s = .next t) : t.mh = s.mh :=
  issue_mh (fun _ _ _ h => fmaBody_mh h) h

theorem execFmaF16x2_mh {f : XF} {s : State} {t : State} (h : execFmaF16x2 f s = .next t) : t.mh = s.mh :=
  issue_mh (fun _ _ _ h => fmaBody_mh h) h

theorem execFmaBf16x2_mh {f : XF} {s : State} {t : State} (h : execFmaBf16x2 f s = .next t) : t.mh = s.mh :=
  issue_mh (fun _ _ _ h => fmaBody_mh h) h

theorem execFmaF64_mh {f : XF} {s : State} {t : State} (h : execFmaF64 f s = .next t) : t.mh = s.mh :=
  issue_mh (fun _ _ _ h => fmaBody_mh h) h

theorem execSetpF_mh {f : XF} {s : State} {t : State} (h : execSetpF f s = .next t) : t.mh = s.mh :=
  issue_mh (fun _ _ _ h => predBody_mh h) h

theorem execSetpF16x2_mh {f : XF} {s : State} {t : State} (h : execSetpF16x2 f s = .next t) : t.mh = s.mh :=
  issue_mh (fun _ _ _ h => predBody_mh h) h

theorem execSetpBf16x2_mh {f : XF} {s : State} {t : State} (h : execSetpBf16x2 f s = .next t) : t.mh = s.mh :=
  issue_mh (fun _ _ _ h => predBody_mh h) h

theorem execSetpF64_mh {f : XF} {s : State} {t : State} (h : execSetpF64 f s = .next t) : t.mh = s.mh :=
  issue_mh (fun _ _ _ h => predBody_mh h) h

theorem execRintF_mh {f : XF} {s : State} {t : State} (h : execRintF f s = .next t) : t.mh = s.mh :=
  issue_mh (fun _ _ _ h => computeBody_mh h) h

theorem execRintF64_mh {f : XF} {s : State} {t : State} (h : execRintF64 f s = .next t) : t.mh = s.mh :=
  issue_mh (fun _ _ _ h => computeBody_mh h) h

theorem execCrel_mh {f : XF} {s : State} {t : State} (h : execCrel f s = .next t) : t.mh = s.mh :=
  issue_mh (fun _ _ _ h => computeBody_mh h) h

theorem execDot4_mh {f : XF} {s : State} {t : State} (h : execDot4 f s = .next t) : t.mh = s.mh :=
  issue_mh (fun _ _ _ h => computeBody_mh h) h

theorem execCvt_mh {f : XF} {s : State} {t : State} (h : execCvt f s = .next t) : t.mh = s.mh := by
  unfold execCvt at h
  refine issue_mh (fun s c t' h => ?_) h
  repeat' (first | contradiction | split at h | (obtain rfl := Except.ok.inj h; clear h) | dsimp only at h)
  all_goals
    first
    | exact computeBody_mh (by assumption)
    | exact (State.putGrp_mh _ _ _).trans (computeBody_mh (by assumption))

theorem execXflt_mh {f : XF} {s : State} {t : State} (h : execXflt f s = .next t) : t.mh = s.mh :=
  issue_mh (fun _ _ _ h => xBody_mh h) h

theorem execLd_mh {f : XF} {s : State} {t' : State} (h : execLd f s = .next t') : t'.mh = s.mh := by
  unfold execLd at h
  refine issue_mh (fun s c t' h => ?_) h
  clear * - h
  repeat' (first | contradiction | split at h | (obtain rfl := Except.ok.inj h; clear h) | (rw [globalIssue_mh h]) | dsimp only at h)
  all_goals (repeat' (first | rfl | split | (refine (foldl_mh (fun _ _ => ?_) _ _).trans ?_) | (refine (foldl_fst_mh (fun _ _ => ?_) _ _).trans ?_) | simp))

theorem execLdw_mh {f : MF} {s : State} {t' : State} (h : execLdw f s = .next t') : t'.mh = s.mh := by
  unfold execLdw at h
  refine issue_mh (fun s c t' h => ?_) h
  clear * - h
  repeat' (first | contradiction | split at h | (obtain rfl := Except.ok.inj h; clear h) | (rw [globalIssue_mh h]) | dsimp only at h)
  all_goals (repeat' (first | rfl | split | (refine (foldl_mh (fun _ _ => ?_) _ _).trans ?_) | (refine (foldl_fst_mh (fun _ _ => ?_) _ _).trans ?_) | simp))

theorem execSt_mh {f : XF} {s : State} {t' : State} (h : execSt f s = .next t') : t'.mh = s.mh := by
  unfold execSt at h
  refine issue_mh (fun s c t' h => ?_) h
  clear * - h
  repeat' (first | contradiction | split at h | (obtain rfl := Except.ok.inj h; clear h) | (rw [globalIssue_mh h]) | dsimp only at h)
  all_goals (repeat' (first | rfl | split | (refine (foldl_mh (fun _ _ => ?_) _ _).trans ?_) | (refine (foldl_fst_mh (fun _ _ => ?_) _ _).trans ?_) | simp))

theorem execStw_mh {f : MF} {s : State} {t' : State} (h : execStw f s = .next t') : t'.mh = s.mh := by
  unfold execStw at h
  refine issue_mh (fun s c t' h => ?_) h
  clear * - h
  repeat' (first | contradiction | split at h | (obtain rfl := Except.ok.inj h; clear h) | (rw [globalIssue_mh h]) | dsimp only at h)
  all_goals (repeat' (first | rfl | split | (refine (foldl_mh (fun _ _ => ?_) _ _).trans ?_) | (refine (foldl_fst_mh (fun _ _ => ?_) _ _).trans ?_) | simp))

theorem execAtom_mh {f : XF} {s : State} {t' : State} (h : execAtom f s = .next t') : t'.mh = s.mh := by
  unfold execAtom at h
  refine issue_mh (fun s c t' h => ?_) h
  clear * - h
  repeat' (first | contradiction | split at h | (obtain rfl := Except.ok.inj h; clear h) | (rw [atomIssue_mh h]) | dsimp only at h)
  all_goals (repeat' (first | rfl | split | (refine (foldl_mh (fun _ _ => ?_) _ _).trans ?_) | (refine (foldl_fst_mh (fun _ _ => ?_) _ _).trans ?_) | simp))

theorem execRed_mh {f : XF} {s : State} {t' : State} (h : execRed f s = .next t') : t'.mh = s.mh := by
  unfold execRed at h
  refine issue_mh (fun s c t' h => ?_) h
  clear * - h
  repeat' (first | contradiction | split at h | (obtain rfl := Except.ok.inj h; clear h) | (rw [atomIssue_mh h]) | dsimp only at h)
  all_goals (repeat' (first | rfl | split | (refine (foldl_mh (fun _ _ => ?_) _ _).trans ?_) | (refine (foldl_fst_mh (fun _ _ => ?_) _ _).trans ?_) | simp))

theorem execCas_mh {f : XF} {s : State} {t' : State} (h : execCas f s = .next t') : t'.mh = s.mh := by
  unfold execCas at h
  refine issue_mh (fun s c t' h => ?_) h
  clear * - h
  repeat' (first | contradiction | split at h | (obtain rfl := Except.ok.inj h; clear h) | (rw [atomIssue_mh h]) | dsimp only at h)
  all_goals (repeat' (first | rfl | split | (refine (foldl_mh (fun _ _ => ?_) _ _).trans ?_) | (refine (foldl_fst_mh (fun _ _ => ?_) _ _).trans ?_) | simp))

theorem execVisMin_mh {f : XF} {s : State} {t' : State} (h : execVisMin f s = .next t') : t'.mh = s.mh := by
  unfold execVisMin at h
  refine issue_mh (fun s c t' h => ?_) h
  clear * - h
  repeat' (first | contradiction | split at h | (obtain rfl := Except.ok.inj h; clear h) | (rw [atomIssue_mh h]) | dsimp only at h)
  all_goals (repeat' (first | rfl | split | (refine (foldl_mh (fun _ _ => ?_) _ _).trans ?_) | (refine (foldl_fst_mh (fun _ _ => ?_) _ _).trans ?_) | simp))

theorem execLds_mh {f : XF} {s : State} {t' : State} (h : execLds f s = .next t') : t'.mh = s.mh := by
  unfold execLds at h
  refine issue_mh (fun s c t' h => ?_) h
  clear * - h
  repeat' (first | contradiction | split at h | (obtain rfl := Except.ok.inj h; clear h) | (rw [scratchIssue_mh h]) | dsimp only at h)
  all_goals (repeat' (first | rfl | split | (refine (foldl_mh (fun _ _ => ?_) _ _).trans ?_) | (refine (foldl_fst_mh (fun _ _ => ?_) _ _).trans ?_) | simp))

theorem execSts_mh {f : XF} {s : State} {t' : State} (h : execSts f s = .next t') : t'.mh = s.mh := by
  unfold execSts at h
  refine issue_mh (fun s c t' h => ?_) h
  clear * - h
  repeat' (first | contradiction | split at h | (obtain rfl := Except.ok.inj h; clear h) | (rw [scratchIssue_mh h]) | dsimp only at h)
  all_goals (repeat' (first | rfl | split | (refine (foldl_mh (fun _ _ => ?_) _ _).trans ?_) | (refine (foldl_fst_mh (fun _ _ => ?_) _ _).trans ?_) | simp))

theorem execAtoms_mh {f : XF} {s : State} {t' : State} (h : execAtoms f s = .next t') : t'.mh = s.mh := by
  unfold execAtoms at h
  refine issue_mh (fun s c t' h => ?_) h
  clear * - h
  repeat' (first | contradiction | split at h | (obtain rfl := Except.ok.inj h; clear h) | (rw [scratchIssue_mh h]) | dsimp only at h)
  all_goals (repeat' (first | rfl | split | (refine (foldl_mh (fun _ _ => ?_) _ _).trans ?_) | (refine (foldl_fst_mh (fun _ _ => ?_) _ _).trans ?_) | simp))

theorem execStandSub_mh {f : KF} {s : State} {t' : State} (h : execStandSub f s = .next t') : t'.mh = s.mh := by
  unfold execStandSub at h
  refine issue_mh (fun s c t' h => ?_) h
  clear * - h
  refine onceBody_mh (fun s c t' h => ?_) h
  clear * - h
  repeat' (first | contradiction | split at h | (obtain rfl := Except.ok.inj h; clear h) | (rw [onceBody_mh h]) | dsimp only at h)
  all_goals (repeat' (first | rfl | split | (refine (foldl_mh (fun _ _ => ?_) _ _).trans ?_) | (refine (foldl_fst_mh (fun _ _ => ?_) _ _).trans ?_) | simp))

theorem execStandRead_mh {f : KF} {s : State} {t' : State} (h : execStandRead f s = .next t') : t'.mh = s.mh := by
  unfold execStandRead at h
  refine issue_mh (fun s c t' h => ?_) h
  clear * - h
  refine onceBody_mh (fun s c t' h => ?_) h
  clear * - h
  repeat' (first | contradiction | split at h | (obtain rfl := Except.ok.inj h; clear h) | (rw [onceBody_mh h]) | (rw [standIssue_mh h]) | dsimp only at h)
  all_goals (repeat' (first | rfl | split | (refine (foldl_mh (fun _ _ => ?_) _ _).trans ?_) | (refine (foldl_fst_mh (fun _ _ => ?_) _ _).trans ?_) | simp))

theorem execStandSeq_mh {f : KF} {s : State} {t' : State} (h : execStandSeq f s = .next t') : t'.mh = s.mh := by
  unfold execStandSeq at h
  refine issue_mh (fun s c t' h => ?_) h
  clear * - h
  refine onceBody_mh (fun s c t' h => ?_) h
  clear * - h
  repeat' (first | contradiction | split at h | (obtain rfl := Except.ok.inj h; clear h) | (rw [onceBody_mh h]) | (rw [standIssue_mh h]) | dsimp only at h)
  all_goals (repeat' (first | rfl | split | (refine (foldl_mh (fun _ _ => ?_) _ _).trans ?_) | (refine (foldl_fst_mh (fun _ _ => ?_) _ _).trans ?_) | simp))

theorem execStandWait_mh {f : KF} {s : State} {t' : State} (h : execStandWait f s = .next t') : t'.mh = s.mh := by
  unfold execStandWait at h
  refine issue_mh (fun s c t' h => ?_) h
  clear * - h
  refine onceBody_mh (fun s c t' h => ?_) h
  clear * - h
  repeat' (first | contradiction | split at h | (obtain rfl := Except.ok.inj h; clear h) | (rw [onceBody_mh h]) | dsimp only at h)
  all_goals (repeat' (first | rfl | split | (refine (foldl_mh (fun _ _ => ?_) _ _).trans ?_) | (refine (foldl_fst_mh (fun _ _ => ?_) _ _).trans ?_) | simp))

theorem execStandDrop_mh {f : KF} {s : State} {t' : State} (h : execStandDrop f s = .next t') : t'.mh = s.mh := by
  unfold execStandDrop at h
  refine issue_mh (fun s c t' h => ?_) h
  clear * - h
  refine onceBody_mh (fun s c t' h => ?_) h
  clear * - h
  repeat' (first | contradiction | split at h | (obtain rfl := Except.ok.inj h; clear h) | (rw [onceBody_mh h]) | dsimp only at h)
  all_goals (repeat' (first | rfl | split | (refine (foldl_mh (fun _ _ => ?_) _ _).trans ?_) | (refine (foldl_fst_mh (fun _ _ => ?_) _ _).trans ?_) | simp))

theorem execCopy_mh {f : KF} {s : State} {t' : State} (h : execCopy f s = .next t') : t'.mh = s.mh := by
  unfold execCopy at h
  refine issue_mh (fun s c t' h => ?_) h
  clear * - h
  refine onceBody_mh (fun s c t' h => ?_) h
  clear * - h
  repeat' (first | contradiction | split at h | (obtain rfl := Except.ok.inj h; clear h) | (rw [onceBody_mh h]) | dsimp only at h)
  all_goals (repeat' (first | rfl | split | (refine (foldl_mh (fun _ _ => ?_) _ _).trans ?_) | (refine (foldl_fst_mh (fun _ _ => ?_) _ _).trans ?_) | simp))

theorem execFence_mh {f : RF} {s : State} {t' : State} (h : execFence f s = .next t') : t'.mh = s.mh := by
  unfold execFence at h
  refine issue_mh (fun s c t' h => ?_) h
  clear * - h
  refine onceBody_mh (fun s c t' h => ?_) h
  clear * - h
  repeat' (first | contradiction | split at h | (obtain rfl := Except.ok.inj h; clear h) | (rw [onceBody_mh h]) | dsimp only at h)
  all_goals (repeat' (first | rfl | split | (refine (foldl_mh (fun _ _ => ?_) _ _).trans ?_) | (refine (foldl_fst_mh (fun _ _ => ?_) _ _).trans ?_) | simp))

theorem execBra_mh {f : BF} {s : State} {t' : State} (h : execBra f s = .next t') : t'.mh = s.mh := by
  unfold execBra at h
  refine issue_mh (fun s c t' h => ?_) h
  clear * - h
  repeat' (first | contradiction | split at h | (obtain rfl := Except.ok.inj h; clear h) | dsimp only at h)
  all_goals (repeat' (first | rfl | split | (refine (foldl_mh (fun _ _ => ?_) _ _).trans ?_) | (refine (foldl_fst_mh (fun _ _ => ?_) _ _).trans ?_) | simp))

theorem execCall_mh {f : BF} {s : State} {t' : State} (h : execCall f s = .next t') : t'.mh = s.mh := by
  unfold execCall at h
  refine issue_mh (fun s c t' h => ?_) h
  clear * - h
  repeat' (first | contradiction | split at h | (obtain rfl := Except.ok.inj h; clear h) | dsimp only at h)
  all_goals (repeat' (first | rfl | split | (refine (foldl_mh (fun _ _ => ?_) _ _).trans ?_) | (refine (foldl_fst_mh (fun _ _ => ?_) _ _).trans ?_) | simp))

theorem execBrx_mh {f : RF} {s : State} {t : State} (h : execBrx f s = .next t) : t.mh = s.mh :=
  issue_mh (fun _ _ _ h => jumpBody_mh h) h

theorem execRet_mh {f : RF} {s : State} {t : State} (h : execRet f s = .next t) : t.mh = s.mh :=
  issue_mh (fun _ _ _ h => jumpBody_mh h) h

theorem execExit_mh {f : RF} {s : State} {t' : State} (h : execExit f s = .next t') : t'.mh = s.mh := by
  unfold execExit at h
  refine issue_mh (fun s c t' h => ?_) h
  clear * - h
  refine onceBody_mh (fun s c t' h => ?_) h
  clear * - h
  repeat' (first | contradiction | split at h | (obtain rfl := Except.ok.inj h; clear h) | (rw [onceBody_mh h]) | dsimp only at h)
  all_goals (repeat' (first | rfl | split | (refine (foldl_mh (fun _ _ => ?_) _ _).trans ?_) | (refine (foldl_fst_mh (fun _ _ => ?_) _ _).trans ?_) | simp))

theorem execMjoin_mh {f : KF} {s : State} {t' : State} (h : execMjoin f s = .next t') : t'.mh = s.mh := by
  unfold execMjoin at h
  refine issue_mh (fun s c t' h => ?_) h
  clear * - h
  repeat' (first | contradiction | split at h | (obtain rfl := Except.ok.inj h; clear h) | dsimp only at h)
  all_goals (repeat' (first | rfl | split | (refine (foldl_mh (fun _ _ => ?_) _ _).trans ?_) | (refine (foldl_fst_mh (fun _ _ => ?_) _ _).trans ?_) | simp))

theorem execMleave_mh {f : KF} {s : State} {t' : State} (h : execMleave f s = .next t') : t'.mh = s.mh := by
  unfold execMleave at h
  refine issue_mh (fun s c t' h => ?_) h
  clear * - h
  refine onceBody_mh (fun s c t' h => ?_) h
  clear * - h
  repeat' (first | contradiction | split at h | (obtain rfl := Except.ok.inj h; clear h) | (rw [onceBody_mh h]) | dsimp only at h)
  all_goals (repeat' (first | rfl | split | (refine (foldl_mh (fun _ _ => ?_) _ _).trans ?_) | (refine (foldl_fst_mh (fun _ _ => ?_) _ _).trans ?_) | simp))

theorem execMwait_mh {f : KF} {s : State} {t' : State} (h : execMwait f s = .next t') : t'.mh = s.mh := by
  unfold execMwait at h
  refine issue_mh (fun s c t' h => ?_) h
  clear * - h
  refine onceBody_mh (fun s c t' h => ?_) h
  clear * - h
  repeat' (first | contradiction | split at h | (obtain rfl := Except.ok.inj h; clear h) | (rw [onceBody_mh h]) | dsimp only at h)
  all_goals (repeat' (first | rfl | split | (refine (foldl_mh (fun _ _ => ?_) _ _).trans ?_) | (refine (foldl_fst_mh (fun _ _ => ?_) _ _).trans ?_) | simp))

theorem execMrd_mh {f : KF} {s : State} {t' : State} (h : execMrd f s = .next t') : t'.mh = s.mh := by
  unfold execMrd at h
  refine issue_mh (fun s c t' h => ?_) h
  clear * - h
  refine onceBody_mh (fun s c t' h => ?_) h
  clear * - h
  repeat' (first | contradiction | split at h | (obtain rfl := Except.ok.inj h; clear h) | (rw [onceBody_mh h]) | dsimp only at h)
  all_goals (repeat' (first | rfl | split | (refine (foldl_mh (fun _ _ => ?_) _ _).trans ?_) | (refine (foldl_fst_mh (fun _ _ => ?_) _ _).trans ?_) | simp))

theorem execBarArrive_mh {f : KF} {s : State} {t' : State} (h : execBarArrive f s = .next t') : t'.mh = s.mh := by
  unfold execBarArrive at h
  refine issue_mh (fun s c t' h => ?_) h
  clear * - h
  refine onceBody_mh (fun s c t' h => ?_) h
  clear * - h
  repeat' (first | contradiction | split at h | (obtain rfl := Except.ok.inj h; clear h) | (rw [arriveBody_mh h]) | (rw [onceBody_mh h]) | dsimp only at h)
  all_goals (repeat' (first | rfl | split | (refine (foldl_mh (fun _ _ => ?_) _ _).trans ?_) | (refine (foldl_fst_mh (fun _ _ => ?_) _ _).trans ?_) | simp))

theorem execBarSync_mh {f : KF} {s : State} {t' : State} (h : execBarSync f s = .next t') : t'.mh = s.mh := by
  unfold execBarSync at h
  refine issue_mh (fun s c t' h => ?_) h
  clear * - h
  refine onceBody_mh (fun s c t' h => ?_) h
  clear * - h
  repeat' (first | contradiction | split at h | (obtain rfl := Except.ok.inj h; clear h) | (rw [arriveBody_mh h]) | (rw [onceBody_mh h]) | dsimp only at h)
  all_goals (repeat' (first | rfl | split | (refine (foldl_mh (fun _ _ => ?_) _ _).trans ?_) | (refine (foldl_fst_mh (fun _ _ => ?_) _ _).trans ?_) | simp))

theorem execBarWait_mh {f : KF} {s : State} {t' : State} (h : execBarWait f s = .next t') : t'.mh = s.mh := by
  unfold execBarWait at h
  refine issue_mh (fun s c t' h => ?_) h
  clear * - h
  refine onceBody_mh (fun s c t' h => ?_) h
  clear * - h
  repeat' (first | contradiction | split at h | (obtain rfl := Except.ok.inj h; clear h) | (rw [onceBody_mh h]) | dsimp only at h)
  all_goals (repeat' (first | rfl | split | (refine (foldl_mh (fun _ _ => ?_) _ _).trans ?_) | (refine (foldl_fst_mh (fun _ _ => ?_) _ _).trans ?_) | simp))

theorem execSignDecl_mh {f : KF} {s : State} {t' : State} (h : execSignDecl f s = .next t') : t'.mh = s.mh := by
  unfold execSignDecl at h
  refine issue_mh (fun s c t' h => ?_) h
  clear * - h
  refine onceBody_mh (fun s c t' h => ?_) h
  clear * - h
  repeat' (first | contradiction | split at h | (obtain rfl := Except.ok.inj h; clear h) | (rw [onceBody_mh h]) | dsimp only at h)
  all_goals (repeat' (first | rfl | split | (refine (foldl_mh (fun _ _ => ?_) _ _).trans ?_) | (refine (foldl_fst_mh (fun _ _ => ?_) _ _).trans ?_) | simp))

theorem execWait_mh {f : XF} {s : State} {t' : State} (h : execWait f s = .next t') : t'.mh = s.mh := by
  unfold execWait at h
  refine issue_mh (fun s c t' h => ?_) h
  clear * - h
  repeat' (first | contradiction | split at h | (obtain rfl := Except.ok.inj h; clear h) | (rw [idleBody_mh h]) | dsimp only at h)
  all_goals (repeat' (first | rfl | split | (refine (foldl_mh (fun _ _ => ?_) _ _).trans ?_) | (refine (foldl_fst_mh (fun _ _ => ?_) _ _).trans ?_) | simp))

theorem execCondArm_mh {f : KF} {s : State} {t' : State} (h : execCondArm f s = .next t') : t'.mh = s.mh := by
  unfold execCondArm at h
  refine issue_mh (fun s c t' h => ?_) h
  clear * - h
  refine onceBody_mh (fun s c t' h => ?_) h
  clear * - h
  repeat' (first | contradiction | split at h | (obtain rfl := Except.ok.inj h; clear h) | (rw [onceBody_mh h]) | dsimp only at h)
  all_goals (repeat' (first | rfl | split | (refine (foldl_mh (fun _ _ => ?_) _ _).trans ?_) | (refine (foldl_fst_mh (fun _ _ => ?_) _ _).trans ?_) | simp))

theorem execCondSet_mh {f : KF} {s : State} {t' : State} (h : execCondSet f s = .next t') : t'.mh = s.mh := by
  unfold execCondSet at h
  refine issue_mh (fun s c t' h => ?_) h
  clear * - h
  refine onceBody_mh (fun s c t' h => ?_) h
  clear * - h
  repeat' (first | contradiction | split at h | (obtain rfl := Except.ok.inj h; clear h) | (rw [onceBody_mh h]) | dsimp only at h)
  all_goals (repeat' (first | rfl | split | (refine (foldl_mh (fun _ _ => ?_) _ _).trans ?_) | (refine (foldl_fst_mh (fun _ _ => ?_) _ _).trans ?_) | simp))

theorem execTileSet_mh {f : KF} {s : State} {t' : State} (h : execTileSet f s = .next t') : t'.mh = s.mh := by
  unfold execTileSet at h
  refine issue_mh (fun s c t' h => ?_) h
  clear * - h
  refine onceBody_mh (fun s c t' h => ?_) h
  clear * - h
  repeat' (first | contradiction | split at h | (obtain rfl := Except.ok.inj h; clear h) | (rw [onceBody_mh h]) | dsimp only at h)
  all_goals (repeat' (first | rfl | split | (refine (foldl_mh (fun _ _ => ?_) _ _).trans ?_) | (refine (foldl_fst_mh (fun _ _ => ?_) _ _).trans ?_) | simp))

theorem execAccAlloc_mh {f : KF} {s : State} {t' : State} (h : execAccAlloc f s = .next t') : t'.mh = s.mh := by
  unfold execAccAlloc at h
  refine issue_mh (fun s c t' h => ?_) h
  clear * - h
  refine onceBody_mh (fun s c t' h => ?_) h
  clear * - h
  repeat' (first | contradiction | split at h | (obtain rfl := Except.ok.inj h; clear h) | (rw [onceBody_mh h]) | dsimp only at h)
  all_goals (repeat' (first | rfl | split | (refine (foldl_mh (fun _ _ => ?_) _ _).trans ?_) | (refine (foldl_fst_mh (fun _ _ => ?_) _ _).trans ?_) | simp))

theorem execAccFree_mh {f : KF} {s : State} {t' : State} (h : execAccFree f s = .next t') : t'.mh = s.mh := by
  unfold execAccFree at h
  refine issue_mh (fun s c t' h => ?_) h
  clear * - h
  refine onceBody_mh (fun s c t' h => ?_) h
  clear * - h
  repeat' (first | contradiction | split at h | (obtain rfl := Except.ok.inj h; clear h) | (rw [onceBody_mh h]) | dsimp only at h)
  all_goals (repeat' (first | rfl | split | (refine (foldl_mh (fun _ _ => ?_) _ _).trans ?_) | (refine (foldl_fst_mh (fun _ _ => ?_) _ _).trans ?_) | simp))

theorem execAccBand_mh {f : KF} {s : State} {t' : State} (h : execAccBand f s = .next t') : t'.mh = s.mh := by
  unfold execAccBand at h
  refine issue_mh (fun s c t' h => ?_) h
  clear * - h
  refine onceBody_mh (fun s c t' h => ?_) h
  clear * - h
  repeat' (first | contradiction | split at h | (obtain rfl := Except.ok.inj h; clear h) | (rw [onceBody_mh h]) | dsimp only at h)
  all_goals (repeat' (first | rfl | split | (refine (foldl_mh (fun _ _ => ?_) _ _).trans ?_) | (refine (foldl_fst_mh (fun _ _ => ?_) _ _).trans ?_) | simp))

theorem execAccRead_mh {f : KF} {s : State} {t : State} (h : execAccRead f s = .next t) : t.mh = s.mh := by
  unfold execAccRead at h
  refine issue_mh (fun s c t' h => ?_) h
  clear * - h
  refine onceBody_mh (fun s c t' h => ?_) h
  clear * - h
  dsimp only at h
  split at h
  · obtain rfl := Except.ok.inj h
    exact (replyIssue_mh _ _ _ _ _).trans (State.freeNum_mh s)
  · obtain rfl := Except.ok.inj h
    simp

theorem execAccDrain_mh {f : KF} {s : State} {t' : State} (h : execAccDrain f s = .next t') : t'.mh = s.mh := by
  unfold execAccDrain at h
  refine issue_mh (fun s c t' h => ?_) h
  clear * - h
  refine onceBody_mh (fun s c t' h => ?_) h
  clear * - h
  repeat' (first | contradiction | split at h | (obtain rfl := Except.ok.inj h; clear h) | (rw [onceBody_mh h]) | dsimp only at h)
  all_goals (repeat' (first | rfl | split | (refine (foldl_mh (fun _ _ => ?_) _ _).trans ?_) | (refine (foldl_fst_mh (fun _ _ => ?_) _ _).trans ?_) | simp))

theorem execMma_mh {f : TF} {s : State} {t' : State} (h : execMma f s = .next t') : t'.mh = s.mh := by
  unfold execMma at h
  refine issue_mh (fun s c t' h => ?_) h
  clear * - h
  refine onceBody_mh (fun s c t' h => ?_) h
  clear * - h
  repeat' (first | contradiction | split at h | (obtain rfl := Except.ok.inj h; clear h) | (rw [onceBody_mh h]) | (rw [signBody_mh h]) | dsimp only at h)
  all_goals (repeat' (first | rfl | split | (refine (foldl_mh (fun _ _ => ?_) _ _).trans ?_) | (refine (foldl_fst_mh (fun _ _ => ?_) _ _).trans ?_) | simp))

theorem execMmaSpec_mh {f : TF} {s : State} {t' : State} (h : execMmaSpec f s = .next t') : t'.mh = s.mh := by
  unfold execMmaSpec at h
  refine issue_mh (fun s c t' h => ?_) h
  clear * - h
  refine onceBody_mh (fun s c t' h => ?_) h
  clear * - h
  repeat' (first | contradiction | split at h | (obtain rfl := Except.ok.inj h; clear h) | (rw [onceBody_mh h]) | (rw [signBody_mh h]) | dsimp only at h)
  all_goals (repeat' (first | rfl | split | (refine (foldl_mh (fun _ _ => ?_) _ _).trans ?_) | (refine (foldl_fst_mh (fun _ _ => ?_) _ _).trans ?_) | simp))

theorem execMmaIdx_mh {f : TF} {s : State} {t' : State} (h : execMmaIdx f s = .next t') : t'.mh = s.mh := by
  unfold execMmaIdx at h
  refine issue_mh (fun s c t' h => ?_) h
  clear * - h
  refine onceBody_mh (fun s c t' h => ?_) h
  clear * - h
  repeat' (first | contradiction | split at h | (obtain rfl := Except.ok.inj h; clear h) | (rw [onceBody_mh h]) | (rw [signBody_mh h]) | dsimp only at h)
  all_goals (repeat' (first | rfl | split | (refine (foldl_mh (fun _ _ => ?_) _ _).trans ?_) | (refine (foldl_fst_mh (fun _ _ => ?_) _ _).trans ?_) | simp))

theorem execPrimEmit_mh {f : KF} {s : State} {t' : State} (h : execPrimEmit f s = .next t') : t'.mh = s.mh := by
  unfold execPrimEmit at h
  refine issue_mh (fun s c t' h => ?_) h
  clear * - h
  refine onceBody_mh (fun s c t' h => ?_) h
  clear * - h
  repeat' (first | contradiction | split at h | (obtain rfl := Except.ok.inj h; clear h) | (rw [onceBody_mh h]) | dsimp only at h)
  all_goals (repeat' (first | rfl | split | (refine (foldl_mh (fun _ _ => ?_) _ _).trans ?_) | (refine (foldl_fst_mh (fun _ _ => ?_) _ _).trans ?_) | simp))

theorem execOccEnd_mh {f : KF} {s : State} {t' : State} (h : execOccEnd f s = .next t') : t'.mh = s.mh := by
  unfold execOccEnd at h
  refine issue_mh (fun s c t' h => ?_) h
  clear * - h
  refine onceBody_mh (fun s c t' h => ?_) h
  clear * - h
  repeat' (first | contradiction | split at h | (obtain rfl := Except.ok.inj h; clear h) | (rw [onceBody_mh h]) | dsimp only at h)
  all_goals (repeat' (first | rfl | split | (refine (foldl_mh (fun _ _ => ?_) _ _).trans ?_) | (refine (foldl_fst_mh (fun _ _ => ?_) _ _).trans ?_) | simp))

theorem execPxDiscard_mh {f : RF} {s : State} {t' : State} (h : execPxDiscard f s = .next t') : t'.mh = s.mh := by
  unfold execPxDiscard at h
  refine issue_mh (fun s c t' h => ?_) h
  clear * - h
  refine onceBody_mh (fun s c t' h => ?_) h
  clear * - h
  repeat' (first | contradiction | split at h | (obtain rfl := Except.ok.inj h; clear h) | (rw [onceBody_mh h]) | dsimp only at h)
  all_goals (repeat' (first | rfl | split | (refine (foldl_mh (fun _ _ => ?_) _ _).trans ?_) | (refine (foldl_fst_mh (fun _ _ => ?_) _ _).trans ?_) | simp))

theorem execPxDepth_mh {f : RF} {s : State} {t' : State} (h : execPxDepth f s = .next t') : t'.mh = s.mh := by
  unfold execPxDepth at h
  refine issue_mh (fun s c t' h => ?_) h
  clear * - h
  refine onceBody_mh (fun s c t' h => ?_) h
  clear * - h
  repeat' (first | contradiction | split at h | (obtain rfl := Except.ok.inj h; clear h) | (rw [onceBody_mh h]) | dsimp only at h)
  all_goals (repeat' (first | rfl | split | (refine (foldl_mh (fun _ _ => ?_) _ _).trans ?_) | (refine (foldl_fst_mh (fun _ _ => ?_) _ _).trans ?_) | simp))

theorem execTstBox_mh {f : XF} {s : State} {t' : State} (h : execTstBox f s = .next t') : t'.mh = s.mh := by
  unfold execTstBox at h
  refine issue_mh (fun s c t' h => ?_) h
  clear * - h
  repeat' (first | contradiction | split at h | (obtain rfl := Except.ok.inj h; clear h) | (rw [globalIssue_mh h]) | dsimp only at h)
  all_goals (repeat' (first | rfl | split | (refine (foldl_mh (fun _ _ => ?_) _ _).trans ?_) | (refine (foldl_fst_mh (fun _ _ => ?_) _ _).trans ?_) | simp))

theorem execTstTri_mh {f : XF} {s : State} {t' : State} (h : execTstTri f s = .next t') : t'.mh = s.mh := by
  unfold execTstTri at h
  refine issue_mh (fun s c t' h => ?_) h
  clear * - h
  repeat' (first | contradiction | split at h | (obtain rfl := Except.ok.inj h; clear h) | (rw [globalIssue_mh h]) | dsimp only at h)
  all_goals (repeat' (first | rfl | split | (refine (foldl_mh (fun _ _ => ?_) _ _).trans ?_) | (refine (foldl_fst_mh (fun _ _ => ?_) _ _).trans ?_) | simp))

theorem execStkPush_mh {f : KF} {s : State} {t' : State} (h : execStkPush f s = .next t') : t'.mh = s.mh := by
  unfold execStkPush at h
  refine issue_mh (fun s c t' h => ?_) h
  clear * - h
  refine onceBody_mh (fun s c t' h => ?_) h
  clear * - h
  repeat' (first | contradiction | split at h | (obtain rfl := Except.ok.inj h; clear h) | (rw [onceBody_mh h]) | dsimp only at h)
  all_goals (repeat' (first | rfl | split | (refine (foldl_mh (fun _ _ => ?_) _ _).trans ?_) | (refine (foldl_fst_mh (fun _ _ => ?_) _ _).trans ?_) | simp))

theorem execStkPop_mh {f : KF} {s : State} {t' : State} (h : execStkPop f s = .next t') : t'.mh = s.mh := by
  unfold execStkPop at h
  refine issue_mh (fun s c t' h => ?_) h
  clear * - h
  refine onceBody_mh (fun s c t' h => ?_) h
  clear * - h
  repeat' (first | contradiction | split at h | (obtain rfl := Except.ok.inj h; clear h) | (rw [onceBody_mh h]) | dsimp only at h)
  all_goals (repeat' (first | rfl | split | (refine (foldl_mh (fun _ _ => ?_) _ _).trans ?_) | (refine (foldl_fst_mh (fun _ _ => ?_) _ _).trans ?_) | simp))

theorem execSstep_mh {f : RF} {s : State} {t' : State} (h : execSstep f s = .next t') : t'.mh = s.mh := by
  unfold execSstep at h
  refine issue_mh (fun s c t' h => ?_) h
  clear * - h
  refine onceBody_mh (fun s c t' h => ?_) h
  clear * - h
  repeat' (first | contradiction | split at h | (obtain rfl := Except.ok.inj h; clear h) | (rw [onceBody_mh h]) | dsimp only at h)
  all_goals (repeat' (first | rfl | split | (refine (foldl_mh (fun _ _ => ?_) _ _).trans ?_) | (refine (foldl_fst_mh (fun _ _ => ?_) _ _).trans ?_) | simp))

theorem execNbrSend_mh {f : KF} {s : State} {t' : State} (h : execNbrSend f s = .next t') : t'.mh = s.mh := by
  unfold execNbrSend at h
  refine issue_mh (fun s c t' h => ?_) h
  clear * - h
  refine onceBody_mh (fun s c t' h => ?_) h
  clear * - h
  repeat' (first | contradiction | split at h | (obtain rfl := Except.ok.inj h; clear h) | (rw [nbrBody_mh h]) | (rw [onceBody_mh h]) | dsimp only at h)
  all_goals (repeat' (first | rfl | split | (refine (foldl_mh (fun _ _ => ?_) _ _).trans ?_) | (refine (foldl_fst_mh (fun _ _ => ?_) _ _).trans ?_) | simp))

theorem execNbrReduce_mh {f : KF} {s : State} {t' : State} (h : execNbrReduce f s = .next t') : t'.mh = s.mh := by
  unfold execNbrReduce at h
  refine issue_mh (fun s c t' h => ?_) h
  clear * - h
  refine onceBody_mh (fun s c t' h => ?_) h
  clear * - h
  repeat' (first | contradiction | split at h | (obtain rfl := Except.ok.inj h; clear h) | (rw [nbrBody_mh h]) | (rw [onceBody_mh h]) | dsimp only at h)
  all_goals (repeat' (first | rfl | split | (refine (foldl_mh (fun _ _ => ?_) _ _).trans ?_) | (refine (foldl_fst_mh (fun _ _ => ?_) _ _).trans ?_) | simp))

theorem execSregRd_mh {f : KF} {s : State} {t' : State} (h : execSregRd f s = .next t') : t'.mh = s.mh := by
  unfold execSregRd at h
  refine issue_mh (fun s c t' h => ?_) h
  clear * - h
  refine onceBody_mh (fun s c t' h => ?_) h
  clear * - h
  repeat' (first | contradiction | split at h | (obtain rfl := Except.ok.inj h; clear h) | (rw [onceBody_mh h]) | dsimp only at h)
  all_goals (repeat' (first | rfl | split | (refine (foldl_mh (fun _ _ => ?_) _ _).trans ?_) | (refine (foldl_fst_mh (fun _ _ => ?_) _ _).trans ?_) | simp))

theorem execSregWr_mh {f : KF} {s : State} {t' : State} (h : execSregWr f s = .next t') : t'.mh = s.mh := by
  unfold execSregWr at h
  refine issue_mh (fun s c t' h => ?_) h
  clear * - h
  refine onceBody_mh (fun s c t' h => ?_) h
  clear * - h
  repeat' (first | contradiction | split at h | (obtain rfl := Except.ok.inj h; clear h) | (rw [onceBody_mh h]) | dsimp only at h)
  all_goals (repeat' (first | rfl | split | (refine (foldl_mh (fun _ _ => ?_) _ _).trans ?_) | (refine (foldl_fst_mh (fun _ _ => ?_) _ _).trans ?_) | simp))

theorem execTrap_mh {f : IF} {s : State} {t' : State} (h : execTrap f s = .next t') : t'.mh = s.mh := by
  unfold execTrap at h
  refine issue_mh (fun s c t' h => ?_) h
  clear * - h
  refine onceBody_mh (fun s c t' h => ?_) h
  clear * - h
  repeat' (first | contradiction | split at h | (obtain rfl := Except.ok.inj h; clear h) | (rw [onceBody_mh h]) | dsimp only at h)
  all_goals (repeat' (first | rfl | split | (refine (foldl_mh (fun _ _ => ?_) _ _).trans ?_) | (refine (foldl_fst_mh (fun _ _ => ?_) _ _).trans ?_) | simp))

theorem execBrk_mh {f : IF} {s : State} {t' : State} (h : execBrk f s = .next t') : t'.mh = s.mh := by
  unfold execBrk at h
  refine issue_mh (fun s c t' h => ?_) h
  clear * - h
  refine onceBody_mh (fun s c t' h => ?_) h
  clear * - h
  repeat' (first | contradiction | split at h | (obtain rfl := Except.ok.inj h; clear h) | (rw [onceBody_mh h]) | dsimp only at h)
  all_goals (repeat' (first | rfl | split | (refine (foldl_mh (fun _ _ => ?_) _ _).trans ?_) | (refine (foldl_fst_mh (fun _ _ => ?_) _ _).trans ?_) | simp))

theorem execSys_mh {f : IF} {s : State} {t' : State} (h : execSys f s = .next t') : t'.mh = s.mh := by
  unfold execSys at h
  refine issue_mh (fun s c t' h => ?_) h
  clear * - h
  refine onceBody_mh (fun s c t' h => ?_) h
  clear * - h
  repeat' (first | contradiction | split at h | (obtain rfl := Except.ok.inj h; clear h) | (rw [onceBody_mh h]) | dsimp only at h)
  all_goals (repeat' (first | rfl | split | (refine (foldl_mh (fun _ _ => ?_) _ _).trans ?_) | (refine (foldl_fst_mh (fun _ _ => ?_) _ _).trans ?_) | simp))

theorem execEret_mh {f : RF} {s : State} {t' : State} (h : execEret f s = .next t') : t'.mh = s.mh := by
  unfold execEret at h
  refine issue_mh (fun s c t' h => ?_) h
  clear * - h
  refine onceBody_mh (fun s c t' h => ?_) h
  clear * - h
  repeat' (first | contradiction | split at h | (obtain rfl := Except.ok.inj h; clear h) | (rw [onceBody_mh h]) | dsimp only at h)
  all_goals (repeat' (first | rfl | split | (refine (foldl_mh (fun _ _ => ?_) _ _).trans ?_) | (refine (foldl_fst_mh (fun _ _ => ?_) _ _).trans ?_) | simp))

theorem execNop_mh {f : RF} {s : State} {t' : State} (h : execNop f s = .next t') : t'.mh = s.mh := by
  unfold execNop at h
  refine issue_mh (fun s c t' h => ?_) h
  clear * - h
  repeat' (first | contradiction | split at h | (obtain rfl := Except.ok.inj h; clear h) | (rw [idleBody_mh h]) | dsimp only at h)
  all_goals (repeat' (first | rfl | split | (refine (foldl_mh (fun _ _ => ?_) _ _).trans ?_) | (refine (foldl_fst_mh (fun _ _ => ?_) _ _).trans ?_) | simp))

end Sys2Proof.Machine
end

