-- ==== Sys2Proof/Laws/Inv.lean ====
section
/-!
SUPPORT. The operations and hardware steps that write memory keep its canonical form, one lemma for each.
-/

set_option linter.unusedVariables false
set_option linter.unreachableTactic false
set_option linter.unusedTactic false
set_option linter.unusedSimpArgs false

namespace Sys2Proof.Machine

/-- Both memories are canonical. -/
def MhOk (p : Mem × Mem) : Prop := p.1.wf = true ∧ p.2.wf = true

theorem State.inv_iff (s : State) : s.Inv ↔ MhOk s.mh := Iff.rfl

@[simp] theorem mhOk_mk (a b : Mem) : MhOk (a, b) ↔ a.wf = true ∧ b.wf = true := Iff.rfl

@[simp] theorem mem_wf {s : State} (h : MhOk s.mh) : s.mem.wf = true := h.1

@[simp] theorem host_wf {s : State} (h : MhOk s.mh) : s.host.wf = true := h.2

@[simp] theorem wf_putLine {m : Mem} (h : m.wf = true) (l : Nat) (d : BitVec 1024) : (m.putLine l d).wf = true :=
  Mem.wf_putNum h _ _ _

@[simp] theorem wf_putBytes {m : Mem} (h : m.wf = true) (a : Nat) (bs : List Byte) : (m.putBytes a bs).wf = true :=
  Mem.wf_putBytes h _ _

@[simp] theorem wf_putNum {m : Mem} (h : m.wf = true) (a n v : Nat) : (m.putNum a n v).wf = true := Mem.wf_putNum h _ _ _

@[simp] theorem wf_filter {m : Mem} (h : m.wf = true) (p : Nat × Byte → Bool) : Mem.wf (m.filter p) = true :=
  Mem.wf_filter h p

@[simp] theorem foldl_set_wf {α : Type} {f : α → Nat} {g : α → Byte} {l : List α} {m : Mem} (hm : m.wf = true) :
    Mem.wf (l.foldl (fun m b => m.set (f b) (g b)) m) = true := by
  induction l generalizing m with
  | nil => exact hm
  | cons a r ih => exact ih (Mem.wf_set hm _ _)

theorem foldl_ok {α : Type} {f : State → α → State} (hf : ∀ s a, MhOk s.mh → MhOk (f s a).mh) {l : List α} {s : State}
    (hs : MhOk s.mh) : MhOk (l.foldl f s).mh := by
  induction l generalizing s with
  | nil => exact hs
  | cons a r ih => exact ih (hf s a hs)

theorem foldl_fst_ok {α β : Type} {f : State × β → α → State × β} (hf : ∀ p a, MhOk p.1.mh → MhOk (f p a).1.mh)
    {l : List α} {p : State × β} (hp : MhOk p.1.mh) : MhOk (l.foldl f p).1.mh := by
  induction l generalizing p with
  | nil => exact hp
  | cons a r ih => exact ih (hf p a hp)

@[simp] theorem ite_mh (c : Prop) [Decidable c] (a b : State) : (if c then a else b).mh = if c then a.mh else b.mh := by
  split <;> rfl

theorem mhOk_of {s t : State} (h : t.mh = s.mh) (hs : MhOk s.mh) : MhOk t.mh := by rw [h]; exact hs

theorem mhOk_mem {u : State} {m : Mem} (h1 : m.wf = true) (h2 : u.host.wf = true) : MhOk (State.mh { u with mem := m }) :=
  ⟨h1, h2⟩

theorem foldl_pair_ok {α β : Type} {f : State × β → α → State × β} (hf : ∀ p a, MhOk p.1.mh → MhOk (f p a).1.mh)
    {l : List α} {p : State × β} (hp : MhOk p.1.mh) : MhOk (l.foldl f p).1.mh := by
  induction l generalizing p with
  | nil => exact hp
  | cons a r ih => exact ih (hf p a hp)

/-- Both ways out of a function that may stop early are canonical. -/
def ExOk (e : Except State State) : Prop := (∀ t, e = .ok t → MhOk t.mh) ∧ (∀ t, e = .error t → MhOk t.mh)

theorem onceBody_ok {f : State → Cx → Except Trap State} {s : State} {c : Cx} {t : State}
    (hf : ∀ s c t, MhOk s.mh → f s c = .ok t → MhOk t.mh) (hs : MhOk s.mh) (h : onceBody f s c = .ok t) : MhOk t.mh := by
  unfold onceBody at h
  split at h
  · cases h; exact hs
  · exact hf s c t hs h

theorem issue_ok {i : Instr} {body : State → Cx → Except Trap State} {s t : State}
    (hb : ∀ s c t, MhOk s.mh → body s c = .ok t → MhOk t.mh) (hs : MhOk s.mh) (h : s.issue i body = .next t) : MhOk t.mh := by
  unfold State.issue at h
  split at h
  · cases h; exact hs
  · dsimp only at h
    split at h
    · cases h; exact hs
    · split at h
      · cases h; exact hs
      · split at h
        · cases h; exact hs
        · split at h
          · rename_i s1 h1
            cases h
            rw [State.issued_mh]
            split at h1
            · cases h1
            · split at h1
              · cases h1
              · exact hb _ _ _ (by simpa using hs) h1
          · cases h
            exact mhOk_of ((State.trapAt_mh _ _ _ _ _ _ _ _ _).trans (State.resumePoint_mh _ _ _ _ _)) hs

theorem arrive_ok {f : State → Msg → Option State} {s t : State}
    (hf : ∀ s m t, MhOk s.mh → f s m = some t → MhOk t.mh) (hs : MhOk s.mh) (h : s.arrive f = .next t) : MhOk t.mh := by
  unfold State.arrive at h
  split at h
  · cases h; exact hs
  · split at h
    · cases h; exact hs
    · split at h
      · rename_i u hu
        cases h
        exact hf _ _ _ (mhOk_of (State.take_mh _ _) hs) hu
      · cases h; exact hs

theorem tueStep_ok {ok : BitVec 256 → Bool} {f : State → BitVec 256 → State × Bool} {s t : State}
    (hf : ∀ s c, MhOk s.mh → MhOk (f s c).1.mh) (hs : MhOk s.mh) (h : s.tueStep ok f = .next t) : MhOk t.mh := by
  unfold State.tueStep at h
  split at h
  · cases h; exact hs
  · split at h
    · cases h
    · dsimp only at h
      split at h
      · cases h; exact hs
      · split at h
        · rename_i hu
          cases h
          exact mhOk_of (congrArg (fun p => p.1.mh) hu).symm (hf _ _ hs)
        · rename_i u hu
          cases h
          exact mhOk_of (s := u) rfl (mhOk_of (congrArg (fun p => p.1.mh) hu).symm (hf _ _ hs))

theorem reqGo_ok {f : Req → Wg → State} {s t : State} {id : Nat} (hf : ∀ q w, MhOk (f q w).mh) (hs : MhOk s.mh)
    (h : s.reqGo id f = .next t) : MhOk t.mh := by
  unfold State.reqGo at h
  split at h
  · cases h; exact mhOk_of (State.unkeep_mh _ _) hs
  · split at h
    · cases h; exact hs
    · split at h
      · cases h; exact hs
      · cases h; exact hf _ _

theorem ctxStart_ok {cmd v : Nat} {f : State → Nat → Host.Outcome State Fault Refusal} {s t : State}
    (hf : ∀ s a t, MhOk s.mh → f s a = .next t → MhOk t.mh) (hs : MhOk s.mh) (h : s.ctxStart cmd v f = .next t) : MhOk t.mh := by
  unfold State.ctxStart at h
  split at h
  · cases h; exact hs
  · dsimp only at h
    split at h
    · cases h; exact mhOk_of (s := s) rfl hs
    · refine hf _ _ _ ?_ h
      exact mhOk_of (s := s.ctxFields (BitVec.ofNat 64 v)) rfl (mhOk_of (State.ctxFields_mh s _) hs)

theorem State.pokeLine_ok {s : State} {bs : List (Nat × Byte)} {line : Nat} (hs : MhOk s.mh) : MhOk (State.pokeLine s bs line).mh := by
  unfold State.pokeLine
  repeat' (first | assumption | split | (refine foldl_ok (fun _ _ h => ?_) ?_) | (refine foldl_fst_ok (fun _ _ h => ?_) ?_) | dsimp only)
  all_goals (try assumption)
  all_goals (try simp +contextual [*, foldl_mh, foldl_ok])
  repeat' (first | assumption | split | (refine foldl_ok (fun _ _ h => ?_) ?_) | (refine foldl_fst_ok (fun _ _ h => ?_) ?_))
  all_goals (try simp +contextual [*, foldl_mh, foldl_ok])

theorem State.poke_ok {s : State} {pa : Nat} {bs : List Byte} (hs : MhOk s.mh) : MhOk (s.poke pa bs).mh := by
  unfold State.poke
  exact foldl_ok (fun s l h => State.pokeLine_ok h) hs

theorem State.setLeaf_ok {s : State} {asid : Nat} {va : DWord} {f : Nat → DWord → DWord} (hs : MhOk s.mh) :
    MhOk (s.setLeaf asid va f).mh := by
  unfold State.setLeaf
  refine foldl_ok (fun s d h => ?_) hs
  split
  · exact State.poke_ok h
  · exact h

theorem State.zeroRange_ok {s : State} {pa n : Nat} (hs : MhOk s.mh) : MhOk (s.zeroRange pa n).mh :=
  ⟨wf_filter hs.1 _, hs.2⟩

theorem State.bindPage_ok {s : State} {d asid : Nat} {va : DWord} {size : Nat} {e : DWord} {t : State} (hs : MhOk s.mh)
    (h : s.bindPage d asid va size e = some t) : MhOk t.mh := by
  unfold State.bindPage at h
  dsimp only at h
  split at h
  · cases h
  · obtain rfl := Option.some.inj h
    exact State.setLeaf_ok (State.zeroRange_ok (mhOk_of (State.setDie_mh _ _ _) hs))

theorem State.homeOf_ok {s : State} {d asid : Nat} {va : DWord} (hs : MhOk s.mh) : MhOk (State.homeOf s d asid va).1.mh := by
  unfold State.homeOf
  split
  · exact hs
  · exact hs
  · split
    · exact hs
    · rename_i h
      exact State.bindPage_ok hs h

theorem State.touch_ok {s : State} {d asid : Nat} {va : DWord} (hs : MhOk s.mh) : MhOk (State.touch s d asid va).mh := by
  unfold State.touch
  split
  · exact hs
  · split
    · rename_i size e _
      cases h : s.bindPage d asid va size e with
      | none => exact hs
      | some t => exact State.bindPage_ok hs h
    · exact hs

theorem State.touchAll_ok {s : State} {d asid : Nat} {va : DWord} {n : Nat} (hs : MhOk s.mh) : MhOk (State.touchAll s d asid va n).mh := by
  unfold State.touchAll
  repeat' (first | assumption | split | (refine foldl_ok (fun _ _ h => ?_) ?_) | (refine foldl_fst_ok (fun _ _ h => ?_) ?_) | dsimp only)
  all_goals (try assumption)
  all_goals (try simp +contextual [*, foldl_mh, foldl_ok, State.touch_ok])
  repeat' (first | assumption | split | (refine foldl_ok (fun _ _ h => ?_) ?_) | (refine foldl_fst_ok (fun _ _ h => ?_) ?_))
  all_goals (try simp +contextual [*, foldl_mh, foldl_ok, State.touch_ok])

theorem State.pokeAll_ok {s : State} {bs : List (Nat × Byte)} (hs : MhOk s.mh) : MhOk (State.pokeAll s bs).mh := by
  unfold State.pokeAll
  dsimp only
  generalize hu : List.foldl (fun (s : State) l => s.pokeLine (bs.filter (fun b => decide (b.1 < hostBase))) l) s _ = u
  have h0 : MhOk u.mh := by
    rw [← hu]
    exact foldl_ok (fun s l h => State.pokeLine_ok h) hs
  exact ⟨mem_wf h0, foldl_set_wf (host_wf h0)⟩

theorem State.ringPut_ok {s : State} {d asid : Nat} {va : DWord} {bs : List Byte} (hs : MhOk s.mh) : MhOk (State.ringPut s d asid va bs).mh := by
  unfold State.ringPut
  repeat' (first | assumption | split | (refine foldl_ok (fun _ _ h => ?_) ?_) | (refine foldl_fst_ok (fun _ _ h => ?_) ?_) | dsimp only)
  all_goals (try assumption)
  all_goals (try simp +contextual [*, foldl_mh, foldl_ok, State.pokeAll_ok, State.touchAll_ok])
  repeat' (first | assumption | split | (refine foldl_ok (fun _ _ h => ?_) ?_) | (refine foldl_fst_ok (fun _ _ h => ?_) ?_))
  all_goals (try simp +contextual [*, foldl_mh, foldl_ok, State.pokeAll_ok, State.touchAll_ok])

theorem State.ampPut_ok {s : State} {d : Nat} {ch : Child} {t' : State} (hs : MhOk s.mh) (h : State.ampPut s d ch = some t') : MhOk t'.mh := by
  unfold State.ampPut at h
  repeat' (first | contradiction | split at h | (obtain rfl := Option.some.inj h; clear h) | dsimp only at h)
  all_goals try clear h
  repeat' (first | assumption | split | (refine foldl_ok (fun _ _ h => ?_) ?_) | (refine foldl_fst_ok (fun _ _ h => ?_) ?_) | dsimp only)
  all_goals (try assumption)
  all_goals (try simp +contextual [*, foldl_mh, foldl_ok, State.ringPut_ok])
  repeat' (first | assumption | split | (refine foldl_ok (fun _ _ h => ?_) ?_) | (refine foldl_fst_ok (fun _ _ h => ?_) ?_))
  all_goals (try simp +contextual [*, foldl_mh, foldl_ok, State.ringPut_ok])

theorem execTaskAmp_ok {f : KF} {s : State} {t' : State} (hs : MhOk s.mh) (h : execTaskAmp f s = .next t') : MhOk t'.mh := by
  unfold execTaskAmp at h
  refine issue_ok (fun s c t hs h => ?_) hs h
  refine onceBody_ok (fun s c t hs h => ?_) hs h
  dsimp only at h
  split at h
  · cases h
  · split at h
    · cases h
    · split at h
      · rename_i h1
        cases h
        exact mhOk_of (State.putWg_mh _ _) (State.ampPut_ok hs h1)
      · cases h
        exact mhOk_of (State.putWg_mh _ _) hs

theorem State.cellHome_ok {s : State} {d asid cell : Nat} (hs : MhOk s.mh) : MhOk (State.cellHome s d asid cell).1.mh :=
  State.homeOf_ok hs

theorem execOccBegin_ok {f : KF} {s : State} {t' : State} (hs : MhOk s.mh) (h : execOccBegin f s = .next t') : MhOk t'.mh := by
  unfold execOccBegin at h
  refine issue_ok (fun s c t hs h => ?_) hs h
  refine onceBody_ok (fun s c t hs h => ?_) hs h
  dsimp only at h
  split at h
  · cases h
  · split at h
    · cases h
    · split at h
      · cases h; exact hs
      · split at h
        · cases h
        · split at h
          · cases h
          · cases h
            simpa using State.cellHome_ok (mhOk_of (State.setPass_mh _ _) hs)

theorem recPut_put_ok {u : State} {d c : Nat} {k : Core} (hu : MhOk u.mh) :
    MhOk (State.mh { u with x := { u.x.setCore d c k with nextId := u.x.nextId + 1 } }) := hu

theorem State.recPut_ok {s : State} {d c : Nat} {r : GRec} {t' : State} (hs : MhOk s.mh) (h : State.recPut s d c r = some t') : MhOk t'.mh := by
  unfold State.recPut at h
  dsimp only at h
  split at h
  · obtain rfl := Option.some.inj h
    exact recPut_put_ok hs
  · split at h
    · cases h
    · split at h
      · cases h
      · obtain rfl := Option.some.inj h
        exact recPut_put_ok (foldl_ok (fun s x h => State.ringPut_ok h) hs)

theorem execRecPush_ok {f : KF} {s : State} {t' : State} (hs : MhOk s.mh) (h : execRecPush f s = .next t') : MhOk t'.mh := by
  unfold execRecPush at h
  refine issue_ok (fun s c t hs h => ?_) hs h
  refine onceBody_ok (fun s c t hs h => ?_) hs h
  dsimp only at h
  split at h
  · cases h
  · split at h
    · rename_i h1
      cases h
      exact State.recPut_ok hs h1
    · cases h
      exact mhOk_of (State.putGrp_mh _ _ _) hs

theorem State.recUnpark_ok {s : State} {w g : Nat} (hs : MhOk s.mh) : MhOk (State.recUnpark s w g).mh := by
  unfold State.recUnpark
  split
  · exact hs
  · split
    · exact hs
    · split
      · split
        · exact hs
        · rename_i s1 h
          exact mhOk_of (s := s1) rfl (State.recPut_ok hs h)
      · exact hs

theorem State.recWake_ok {s : State} {d c : Nat} (hs : MhOk s.mh) : MhOk (State.recWake s d c).mh := by
  unfold State.recWake
  exact foldl_ok (fun s w h => foldl_ok (fun s g h => State.recUnpark_ok h) h) hs

theorem State.stealFor_ok {s : State} {d c gr asid n : Nat} {r : GRec} {t : State} (hs : MhOk s.mh) (h : s.stealFor d c gr asid n = some (r, t)) : MhOk t.mh := by
  unfold State.stealFor at h
  dsimp only at h
  have key : ∀ e j, (((s.recs e j gr).reverse.dropWhile (fun r => s.passedOver e asid r || s.passedOver d asid r)).head?).map (fun r => (r, (s.recDel e j r).recWake e j)) = some (r, t) → MhOk t.mh := by
    intro e j hj
    obtain ⟨p, _, hp⟩ := Option.map_eq_some_iff.1 hj
    cases hp
    exact State.recWake_ok (mhOk_of (State.recDel_mh _ _ _ _) hs)
  split at h
  · rename_i q hq
    cases h
    obtain ⟨j, _, hj⟩ := List.exists_of_findSome?_eq_some hq
    exact key _ _ hj
  · obtain ⟨e, _, he⟩ := List.exists_of_findSome?_eq_some h
    split at he
    · exact key _ _ he
    · cases he

theorem popRec_steal_ok {u : State} {d c gr asid n : Nat} (hu : MhOk u.mh) :
    MhOk (match u.stealFor d c gr asid n with
      | none => ((none : Option GRec), u)
      | some (r, s3) => s3.recDecide d c asid r).2.mh := by
  split
  · exact hu
  · rename_i h3
    exact mhOk_of (State.recDecide_mh _ _ _ _ _) (State.stealFor_ok hu h3)

theorem State.popRec_ok {s : State} {d c gr asid : Nat} {steal : Bool} (hs : MhOk s.mh) : MhOk (s.popRec d c gr asid steal).2.mh := by
  have h0 := State.recTake_mh s d c asid (s.recs d c gr)
  unfold State.popRec
  generalize s.recTake d c asid (s.recs d c gr) = q at h0
  obtain ⟨o, s1⟩ := q
  have h1 : MhOk s1.mh := mhOk_of h0 hs
  cases o with
  | some r => exact h1
  | none =>
    cases steal with
    | false => exact h1
    | true => exact popRec_steal_ok (mhOk_of (s := s1) rfl h1)

theorem execRecPop_ok {f : KF} {s : State} {t' : State} (hs : MhOk s.mh) (h : execRecPop f s = .next t') : MhOk t'.mh := by
  unfold execRecPop at h
  refine issue_ok (fun s c t hs h => ?_) hs h
  refine onceBody_ok (fun s c t hs h => ?_) hs h
  dsimp only at h
  split at h
  · cases h
  · cases h
    exact State.recWake_ok (mhOk_of (State.addAcc_mh _ _ _ _) (State.popRec_ok hs))

theorem State.homesOf_ok {s : State} {d asid : Nat} {rs : List MRange} (hs : MhOk s.mh) : MhOk (State.homesOf s d asid rs).1.mh := by
  unfold State.homesOf
  refine foldl_pair_ok (p := (s, ([] : List (Nat × Nat)))) (fun p va h => ?_) hs
  exact State.homeOf_ok h

theorem bdeBody_ok {i : Instr} {f : KF} {fields align : List Word → Bool} {ranges : List Word → List MRange} {s : State} {c : Cx} {t : State}
    (hs : MhOk s.mh) (h : bdeBody i f fields align ranges s c = .ok t) : MhOk t.mh := by
  unfold bdeBody at h
  dsimp only at h
  have h1 : MhOk (reqIssue i f.x.toNat (bdeOps c.uni f) [] (s.homesOf c.w.die c.w.asid (ranges (bdeOps c.uni f))).1 c).mh :=
    mhOk_of (reqIssue_mh _ _ _ _ _ _) (State.homesOf_ok hs)
  repeat' (first | contradiction | split at h)
  all_goals first
    | (cases h; done)
    | (cases h; exact h1)
    | (cases h; exact mhOk_of (State.putGrp_mh _ _ _) h1)

theorem execBdeGather_ok {f : KF} {s : State} {t' : State} (hs : MhOk s.mh) (h : execBdeGather f s = .next t') : MhOk t'.mh := by
  unfold execBdeGather at h
  exact issue_ok (fun s c t hs h => onceBody_ok (fun s c t hs h => bdeBody_ok hs h) hs h) hs h

theorem execBdeReduce_ok {f : KF} {s : State} {t' : State} (hs : MhOk s.mh) (h : execBdeReduce f s = .next t') : MhOk t'.mh := by
  unfold execBdeReduce at h
  exact issue_ok (fun s c t hs h => onceBody_ok (fun s c t hs h => bdeBody_ok hs h) hs h) hs h

theorem execBdeCvt_ok {f : KF} {s : State} {t' : State} (hs : MhOk s.mh) (h : execBdeCvt f s = .next t') : MhOk t'.mh := by
  unfold execBdeCvt at h
  exact issue_ok (fun s c t hs h => onceBody_ok (fun s c t hs h => bdeBody_ok hs h) hs h) hs h

theorem State.homePutMsg_ok {s : State} {h : Nat} {m : Msg} {data : Option (BitVec 1024)} (hs : MhOk s.mh) : MhOk (State.homePutMsg s h m data).mh := by
  unfold State.homePutMsg
  repeat' (first | assumption | split | (refine foldl_ok (fun _ _ h => ?_) ?_) | (refine foldl_fst_ok (fun _ _ h => ?_) ?_) | dsimp only)
  all_goals (try assumption)
  all_goals (try simp +contextual [*, foldl_mh, foldl_ok])
  repeat' (first | assumption | split | (refine foldl_ok (fun _ _ h => ?_) ?_) | (refine foldl_fst_ok (fun _ _ h => ?_) ?_))
  all_goals (try simp +contextual [*, foldl_mh, foldl_ok])

theorem State.homeTake_ok {s : State} {h : Nat} {m : Msg} (hs : MhOk s.mh) : MhOk (State.homeTake s h m).mh := by
  unfold State.homeTake
  split
  · obtain ⟨id, src, dst, line, k⟩ := m
    cases k
    all_goals dsimp only
    all_goals (first | exact State.homePutMsg_ok hs | exact hs | skip)
    · split
      · split
        · exact mhOk_of (State.putDir_mh _ _ _ _) hs
        · exact hs
      · exact hs
    · exact mhOk_of (State.homeUnsub_mh _ _ _ _ _ _) hs
    · exact mhOk_of (State.homePushAck_mh _ _ _ _ _) hs
  · split
    · exact mhOk_of (State.send_mh _ _ _ _ _) hs
    · split
      · exact mhOk_of (State.setDie_mh _ _ _) hs
      · split
        · rename_i u hu
          refine mhOk_of (State.setDie_mh _ _ _) ?_
          split at hu
          · cases hu
          · exact mhOk_of (State.biasHold_mh hu) hs
        · have h0 : MhOk (s.snoopUsed h m.line).mh := mhOk_of (State.snoopUsed_mh _ _ _) hs
          generalize s.snoopUsed h m.line = s0 at h0
          dsimp only
          split
          · exact mhOk_of (State.homeRetry_mh _ _ _) h0
          · split
            · exact mhOk_of (State.homeGetS_mh _ _ _) h0
            · exact mhOk_of (State.homeGetM_mh _ _ _ _) h0
            · exact mhOk_of (State.homeGetM_mh _ _ _ _) h0
            · split
              · exact mhOk_of (State.send_mh _ _ _ _ _) h0
              · exact mhOk_of ((State.homeServe_mh _ _ _).trans (State.setDie_mh _ _ _)) h0
            · exact mhOk_of ((State.homeServe_mh _ _ _).trans (State.setDie_mh _ _ _)) h0

theorem State.heldServe_ok {s : State} {h : Nat} {p : Nat → Bool} (hs : MhOk s.mh) : MhOk (s.heldServe h p).mh := by
  unfold State.heldServe
  exact foldl_ok (fun s m hm => State.homeTake_ok hm) (mhOk_of (State.setDie_mh _ _ _) hs)

theorem State.recallLine_ok {s : State} {line : Nat} (hs : MhOk s.mh) : MhOk (State.recallLine s line).mh := by
  unfold State.recallLine
  extract_lets d h keep s1 s2
  have h1 : s1.mh = s.mh := by
    refine foldl_mh (fun s e => ?_) _ _
    split
    · rfl
    · exact State.copyGone_mh _ _ _
  have h2 : s2.mh = s.mh := by
    simp only [s2]
    split
    · rw [State.putDir_mh]
      split
      · simpa using h1
      · exact h1
    · split
      · simpa using h1
      · exact h1
  have h3 : MhOk s2.mh := mhOk_of h2 hs
  exact ⟨wf_putLine (mem_wf h3) _ _, host_wf h3⟩

theorem State.quietSet_ok {s : State} {line : Nat} {new : BitVec 1024} (hs : MhOk s.mh) : MhOk (State.quietSet s line new).mh := by
  unfold State.quietSet
  dsimp only
  split
  · exact mhOk_of (State.putLlc_mh _ _ _ _) hs
  · exact ⟨wf_putLine (mem_wf hs) _ _, host_wf hs⟩

theorem State.quietWrite_ok {s : State} {line : Nat} {bs : List (Nat × Byte)} {org : Origin} (hs : MhOk s.mh) : MhOk (State.quietWrite s line bs org).mh := by
  unfold State.quietWrite
  split
  · exact hs
  · dsimp only
    have := State.quietSet_ok (line := line) (new := lineMerge ((s.recallLine line).mem.line line) (maskData bs).2 (maskData bs).1) (State.recallLine_ok (line := line) hs)
    simpa using this

theorem State.engineWrite_ok {s : State} {bs : List (Nat × Byte)} {org : Origin} (hs : MhOk s.mh) : MhOk (State.engineWrite s bs org).mh := by
  unfold State.engineWrite
  extract_lets dev s1 hb
  have h1 : MhOk s1.mh := foldl_ok (fun s l h => State.quietWrite_ok h) hs
  refine foldl_ok (fun s l h => mhOk_of (State.rime_mh _ _ _) h) ?_
  exact ⟨mem_wf h1, foldl_set_wf (host_wf h1)⟩

theorem State.atHome_ok {s : State} {m : Msg} (hs : MhOk s.mh) : MhOk (State.atHome s m).mh := by
  unfold State.atHome
  repeat' (first | assumption | split | (refine foldl_ok (fun _ _ h => ?_) ?_) | (refine foldl_fst_ok (fun _ _ h => ?_) ?_) | dsimp only)
  all_goals (try assumption)
  all_goals (try simp +contextual [*, foldl_mh, foldl_ok, State.homeTake_ok])
  repeat' (first | assumption | split | (refine foldl_ok (fun _ _ h => ?_) ?_) | (refine foldl_fst_ok (fun _ _ h => ?_) ?_))
  all_goals (try simp +contextual [*, foldl_mh, foldl_ok, State.homeTake_ok])

theorem execGets_ok {s : State} {t' : State} (hs : MhOk s.mh) (h : execGets s = .next t') : MhOk t'.mh := by
  unfold execGets at h
  refine arrive_ok (fun s m t' hs h => ?_) hs h
  clear * - hs h
  repeat' (first | contradiction | split at h | (obtain rfl := Option.some.inj h; clear h) | dsimp only at h)
  all_goals try clear h
  repeat' (first | assumption | split | (refine foldl_ok (fun _ _ h => ?_) ?_) | (refine foldl_fst_ok (fun _ _ h => ?_) ?_) | dsimp only)
  all_goals (try assumption)
  all_goals (try simp +contextual [*, foldl_mh, foldl_ok, State.atHome_ok])
  repeat' (first | assumption | split | (refine foldl_ok (fun _ _ h => ?_) ?_) | (refine foldl_fst_ok (fun _ _ h => ?_) ?_))
  all_goals (try simp +contextual [*, foldl_mh, foldl_ok, State.atHome_ok])

theorem execGetm_ok {s : State} {t' : State} (hs : MhOk s.mh) (h : execGetm s = .next t') : MhOk t'.mh := by
  unfold execGetm at h
  refine arrive_ok (fun s m t' hs h => ?_) hs h
  clear * - hs h
  repeat' (first | contradiction | split at h | (obtain rfl := Option.some.inj h; clear h) | dsimp only at h)
  all_goals try clear h
  repeat' (first | assumption | split | (refine foldl_ok (fun _ _ h => ?_) ?_) | (refine foldl_fst_ok (fun _ _ h => ?_) ?_) | dsimp only)
  all_goals (try assumption)
  all_goals (try simp +contextual [*, foldl_mh, foldl_ok, State.atHome_ok])
  repeat' (first | assumption | split | (refine foldl_ok (fun _ _ h => ?_) ?_) | (refine foldl_fst_ok (fun _ _ h => ?_) ?_))
  all_goals (try simp +contextual [*, foldl_mh, foldl_ok, State.atHome_ok])

theorem execUpg_ok {s : State} {t' : State} (hs : MhOk s.mh) (h : execUpg s = .next t') : MhOk t'.mh := by
  unfold execUpg at h
  refine arrive_ok (fun s m t' hs h => ?_) hs h
  clear * - hs h
  repeat' (first | contradiction | split at h | (obtain rfl := Option.some.inj h; clear h) | dsimp only at h)
  all_goals try clear h
  repeat' (first | assumption | split | (refine foldl_ok (fun _ _ h => ?_) ?_) | (refine foldl_fst_ok (fun _ _ h => ?_) ?_) | dsimp only)
  all_goals (try assumption)
  all_goals (try simp +contextual [*, foldl_mh, foldl_ok, State.atHome_ok])
  repeat' (first | assumption | split | (refine foldl_ok (fun _ _ h => ?_) ?_) | (refine foldl_fst_ok (fun _ _ h => ?_) ?_))
  all_goals (try simp +contextual [*, foldl_mh, foldl_ok, State.atHome_ok])

theorem execPutm_ok {s : State} {t' : State} (hs : MhOk s.mh) (h : execPutm s = .next t') : MhOk t'.mh := by
  unfold execPutm at h
  refine arrive_ok (fun s m t' hs h => ?_) hs h
  clear * - hs h
  repeat' (first | contradiction | split at h | (obtain rfl := Option.some.inj h; clear h) | dsimp only at h)
  all_goals try clear h
  repeat' (first | assumption | split | (refine foldl_ok (fun _ _ h => ?_) ?_) | (refine foldl_fst_ok (fun _ _ h => ?_) ?_) | dsimp only)
  all_goals (try assumption)
  all_goals (try simp +contextual [*, foldl_mh, foldl_ok, State.atHome_ok])
  repeat' (first | assumption | split | (refine foldl_ok (fun _ _ h => ?_) ?_) | (refine foldl_fst_ok (fun _ _ h => ?_) ?_))
  all_goals (try simp +contextual [*, foldl_mh, foldl_ok, State.atHome_ok])

theorem execPuto_ok {s : State} {t' : State} (hs : MhOk s.mh) (h : execPuto s = .next t') : MhOk t'.mh := by
  unfold execPuto at h
  refine arrive_ok (fun s m t' hs h => ?_) hs h
  clear * - hs h
  repeat' (first | contradiction | split at h | (obtain rfl := Option.some.inj h; clear h) | dsimp only at h)
  all_goals try clear h
  repeat' (first | assumption | split | (refine foldl_ok (fun _ _ h => ?_) ?_) | (refine foldl_fst_ok (fun _ _ h => ?_) ?_) | dsimp only)
  all_goals (try assumption)
  all_goals (try simp +contextual [*, foldl_mh, foldl_ok, State.atHome_ok])
  repeat' (first | assumption | split | (refine foldl_ok (fun _ _ h => ?_) ?_) | (refine foldl_fst_ok (fun _ _ h => ?_) ?_))
  all_goals (try simp +contextual [*, foldl_mh, foldl_ok, State.atHome_ok])

theorem execPute_ok {s : State} {t' : State} (hs : MhOk s.mh) (h : execPute s = .next t') : MhOk t'.mh := by
  unfold execPute at h
  refine arrive_ok (fun s m t' hs h => ?_) hs h
  clear * - hs h
  repeat' (first | contradiction | split at h | (obtain rfl := Option.some.inj h; clear h) | dsimp only at h)
  all_goals try clear h
  repeat' (first | assumption | split | (refine foldl_ok (fun _ _ h => ?_) ?_) | (refine foldl_fst_ok (fun _ _ h => ?_) ?_) | dsimp only)
  all_goals (try assumption)
  all_goals (try simp +contextual [*, foldl_mh, foldl_ok, State.atHome_ok])
  repeat' (first | assumption | split | (refine foldl_ok (fun _ _ h => ?_) ?_) | (refine foldl_fst_ok (fun _ _ h => ?_) ?_))
  all_goals (try simp +contextual [*, foldl_mh, foldl_ok, State.atHome_ok])

theorem execMod_ok {s : State} {t' : State} (hs : MhOk s.mh) (h : execMod s = .next t') : MhOk t'.mh := by
  unfold execMod at h
  refine arrive_ok (fun s m t' hs h => ?_) hs h
  clear * - hs h
  repeat' (first | contradiction | split at h | (obtain rfl := Option.some.inj h; clear h) | dsimp only at h)
  all_goals try clear h
  repeat' (first | assumption | split | (refine foldl_ok (fun _ _ h => ?_) ?_) | (refine foldl_fst_ok (fun _ _ h => ?_) ?_) | dsimp only)
  all_goals (try assumption)
  all_goals (try simp +contextual [*, foldl_mh, foldl_ok, State.atHome_ok])
  repeat' (first | assumption | split | (refine foldl_ok (fun _ _ h => ?_) ?_) | (refine foldl_fst_ok (fun _ _ h => ?_) ?_))
  all_goals (try simp +contextual [*, foldl_mh, foldl_ok, State.atHome_ok])

theorem execWrthru_ok {s : State} {t' : State} (hs : MhOk s.mh) (h : execWrthru s = .next t') : MhOk t'.mh := by
  unfold execWrthru at h
  refine arrive_ok (fun s m t' hs h => ?_) hs h
  clear * - hs h
  repeat' (first | contradiction | split at h | (obtain rfl := Option.some.inj h; clear h) | dsimp only at h)
  all_goals try clear h
  repeat' (first | assumption | split | (refine foldl_ok (fun _ _ h => ?_) ?_) | (refine foldl_fst_ok (fun _ _ h => ?_) ?_) | dsimp only)
  all_goals (try assumption)
  all_goals (try simp +contextual [*, foldl_mh, foldl_ok, State.atHome_ok])
  repeat' (first | assumption | split | (refine foldl_ok (fun _ _ h => ?_) ?_) | (refine foldl_fst_ok (fun _ _ h => ?_) ?_))
  all_goals (try simp +contextual [*, foldl_mh, foldl_ok, State.atHome_ok])

theorem execAtomMsg_ok {s : State} {t' : State} (hs : MhOk s.mh) (h : execAtomMsg s = .next t') : MhOk t'.mh := by
  unfold execAtomMsg at h
  refine arrive_ok (fun s m t' hs h => ?_) hs h
  clear * - hs h
  repeat' (first | contradiction | split at h | (obtain rfl := Option.some.inj h; clear h) | dsimp only at h)
  all_goals try clear h
  repeat' (first | assumption | split | (refine foldl_ok (fun _ _ h => ?_) ?_) | (refine foldl_fst_ok (fun _ _ h => ?_) ?_) | dsimp only)
  all_goals (try assumption)
  all_goals (try simp +contextual [*, foldl_mh, foldl_ok, State.atHome_ok])
  repeat' (first | assumption | split | (refine foldl_ok (fun _ _ h => ?_) ?_) | (refine foldl_fst_ok (fun _ _ h => ?_) ?_))
  all_goals (try simp +contextual [*, foldl_mh, foldl_ok, State.atHome_ok])

theorem execSub_ok {s : State} {t' : State} (hs : MhOk s.mh) (h : execSub s = .next t') : MhOk t'.mh := by
  unfold execSub at h
  refine arrive_ok (fun s m t' hs h => ?_) hs h
  clear * - hs h
  repeat' (first | contradiction | split at h | (obtain rfl := Option.some.inj h; clear h) | dsimp only at h)
  all_goals try clear h
  repeat' (first | assumption | split | (refine foldl_ok (fun _ _ h => ?_) ?_) | (refine foldl_fst_ok (fun _ _ h => ?_) ?_) | dsimp only)
  all_goals (try assumption)
  all_goals (try simp +contextual [*, foldl_mh, foldl_ok, State.atHome_ok])
  repeat' (first | assumption | split | (refine foldl_ok (fun _ _ h => ?_) ?_) | (refine foldl_fst_ok (fun _ _ h => ?_) ?_))
  all_goals (try simp +contextual [*, foldl_mh, foldl_ok, State.atHome_ok])

theorem execUnsub_ok {s : State} {t' : State} (hs : MhOk s.mh) (h : execUnsub s = .next t') : MhOk t'.mh := by
  unfold execUnsub at h
  refine arrive_ok (fun s m t' hs h => ?_) hs h
  clear * - hs h
  repeat' (first | contradiction | split at h | (obtain rfl := Option.some.inj h; clear h) | dsimp only at h)
  all_goals try clear h
  repeat' (first | assumption | split | (refine foldl_ok (fun _ _ h => ?_) ?_) | (refine foldl_fst_ok (fun _ _ h => ?_) ?_) | dsimp only)
  all_goals (try assumption)
  all_goals (try simp +contextual [*, foldl_mh, foldl_ok, State.atHome_ok])
  repeat' (first | assumption | split | (refine foldl_ok (fun _ _ h => ?_) ?_) | (refine foldl_fst_ok (fun _ _ h => ?_) ?_))
  all_goals (try simp +contextual [*, foldl_mh, foldl_ok, State.atHome_ok])

theorem execPushack_ok {s : State} {t' : State} (hs : MhOk s.mh) (h : execPushack s = .next t') : MhOk t'.mh := by
  unfold execPushack at h
  refine arrive_ok (fun s m t' hs h => ?_) hs h
  clear * - hs h
  repeat' (first | contradiction | split at h | (obtain rfl := Option.some.inj h; clear h) | dsimp only at h)
  all_goals try clear h
  repeat' (first | assumption | split | (refine foldl_ok (fun _ _ h => ?_) ?_) | (refine foldl_fst_ok (fun _ _ h => ?_) ?_) | dsimp only)
  all_goals (try assumption)
  all_goals (try simp +contextual [*, foldl_mh, foldl_ok, State.atHome_ok])
  repeat' (first | assumption | split | (refine foldl_ok (fun _ _ h => ?_) ?_) | (refine foldl_fst_ok (fun _ _ h => ?_) ?_))
  all_goals (try simp +contextual [*, foldl_mh, foldl_ok, State.atHome_ok])

theorem State.homeBackInvAck_ok {s : State} {h line : Nat} {d : Option (BitVec 1024)} (hs : MhOk s.mh) : MhOk (State.homeBackInvAck s h line d).mh := by
  unfold State.homeBackInvAck
  repeat' (first | assumption | split | (refine foldl_ok (fun _ _ h => ?_) ?_) | (refine foldl_fst_ok (fun _ _ h => ?_) ?_) | dsimp only)
  all_goals (try assumption)
  all_goals (try simp +contextual [*, foldl_mh, foldl_ok])
  repeat' (first | assumption | split | (refine foldl_ok (fun _ _ h => ?_) ?_) | (refine foldl_fst_ok (fun _ _ h => ?_) ?_))
  all_goals (try simp +contextual [*, foldl_mh, foldl_ok])

theorem execBackinvack_ok {s : State} {t' : State} (hs : MhOk s.mh) (h : execBackinvack s = .next t') : MhOk t'.mh := by
  unfold execBackinvack at h
  refine arrive_ok (fun s m t' hs h => ?_) hs h
  clear * - hs h
  repeat' (first | contradiction | split at h | (obtain rfl := Option.some.inj h; clear h) | dsimp only at h)
  all_goals try clear h
  repeat' (first | assumption | split | (refine foldl_ok (fun _ _ h => ?_) ?_) | (refine foldl_fst_ok (fun _ _ h => ?_) ?_) | dsimp only)
  all_goals (try assumption)
  all_goals (try simp +contextual [*, foldl_mh, foldl_ok, State.homeBackInvAck_ok])
  repeat' (first | assumption | split | (refine foldl_ok (fun _ _ h => ?_) ?_) | (refine foldl_fst_ok (fun _ _ h => ?_) ?_))
  all_goals (try simp +contextual [*, foldl_mh, foldl_ok, State.homeBackInvAck_ok])

theorem State.reclaim_ok {s : State} {d v : Nat} {t : State} (hs : MhOk s.mh) (h : s.reclaim d v = .next t) : MhOk t.mh := by
  unfold State.reclaim at h
  dsimp only at h
  split at h
  · obtain rfl := Host.Outcome.next.inj h; exact hs
  · split at h
    · obtain rfl := Host.Outcome.next.inj h; exact mhOk_of (State.setDie_mh _ _ _) hs
    · split at h
      · obtain rfl := Host.Outcome.next.inj h
        exact mhOk_mem (wf_putLine (mem_wf hs) _ _) (host_wf (s := (s.setDie d _).setDie d _) hs)
      · obtain rfl := Host.Outcome.next.inj h
        exact mhOk_of ((State.setDie_mh _ _ _).trans (State.setDie_mh _ _ _)) hs

theorem execLineReclaim_ok {d v : Nat} {s : State} {t' : State} (hs : MhOk s.mh) (h : execLineReclaim d v s = .next t') : MhOk t'.mh := by
  unfold execLineReclaim at h
  repeat' (first | contradiction | split at h | (obtain rfl := Host.Outcome.next.inj h; clear h) | (exact State.reclaim_ok hs h) | dsimp only at h)
  all_goals try clear h
  repeat' (first | assumption | split | (refine foldl_ok (fun _ _ h => ?_) ?_) | (refine foldl_fst_ok (fun _ _ h => ?_) ?_) | dsimp only)
  all_goals (try assumption)
  all_goals (try simp +contextual [*, foldl_mh, foldl_ok])
  repeat' (first | assumption | split | (refine foldl_ok (fun _ _ h => ?_) ?_) | (refine foldl_fst_ok (fun _ _ h => ?_) ?_))
  all_goals (try simp +contextual [*, foldl_mh, foldl_ok])

theorem execHostMemrd_ok {pa : Nat} {s : State} {t' : State} (hs : MhOk s.mh) (h : execHostMemrd pa s = .next t') : MhOk t'.mh := by
  unfold execHostMemrd at h
  repeat' (first | contradiction | split at h | (obtain rfl := Host.Outcome.next.inj h; clear h) | dsimp only at h)
  all_goals try clear h
  repeat' (first | assumption | split | (refine foldl_ok (fun _ _ h => ?_) ?_) | (refine foldl_fst_ok (fun _ _ h => ?_) ?_) | dsimp only)
  all_goals (try assumption)
  all_goals (try simp +contextual [*, foldl_mh, foldl_ok, State.recallLine_ok])
  repeat' (first | assumption | split | (refine foldl_ok (fun _ _ h => ?_) ?_) | (refine foldl_fst_ok (fun _ _ h => ?_) ?_))
  all_goals (try simp +contextual [*, foldl_mh, foldl_ok, State.recallLine_ok])

theorem execBirsp_ok {d line dirty : Nat} {s t : State} (hs : MhOk s.mh) (h : execBirsp d line dirty s = .next t) : MhOk t.mh := by
  unfold execBirsp at h
  dsimp only at h
  split at h
  · obtain rfl := Host.Outcome.next.inj h; exact hs
  · obtain rfl := Host.Outcome.next.inj h
    generalize hu : (if dirty = 0 then s else _) = u
    have h0 : MhOk u.mh := by
      rw [← hu]
      split
      · exact hs
      · exact mhOk_of (State.pushStore_mh _ _ _ _) ⟨wf_putLine hs.1 _ _, hs.2⟩
    split
    · exact mhOk_of (State.setDie_mh _ _ _) h0
    · exact State.heldServe_ok (mhOk_of (State.setDie_mh _ _ _) h0)

theorem execHostCacheCompletion_ok {i v : Nat} {s : State} {t' : State} (hs : MhOk s.mh) (h : execHostCacheCompletion i v s = .next t') : MhOk t'.mh := by
  unfold execHostCacheCompletion at h
  repeat' (first | contradiction | split at h | (obtain rfl := Host.Outcome.next.inj h; clear h) | dsimp only at h)
  all_goals try clear h
  repeat' (first | assumption | split | (refine foldl_ok (fun _ _ h => ?_) ?_) | (refine foldl_fst_ok (fun _ _ h => ?_) ?_) | dsimp only)
  all_goals (try assumption)
  all_goals (try simp +contextual [*, foldl_mh, foldl_ok])
  repeat' (first | assumption | split | (refine foldl_ok (fun _ _ h => ?_) ?_) | (refine foldl_fst_ok (fun _ _ h => ?_) ?_))
  all_goals (try simp +contextual [*, foldl_mh, foldl_ok])

theorem State.setBias_ok {s : State} {d page v : Nat} (hs : MhOk s.mh) : MhOk (s.setBias d page v).mh := by
  unfold State.setBias
  exact State.poke_ok hs

theorem State.biasCmd_ok {s : State} {d v : Nat} {t : State} (hs : MhOk s.mh) (h : s.biasCmd d v = .next t) : MhOk t.mh := by
  unfold State.biasCmd at h
  dsimp only at h
  repeat' (first | (obtain rfl := Host.Outcome.next.inj h; clear h) | split at h)
  all_goals first
    | exact hs
    | exact mhOk_of (State.setDie_mh _ _ _) hs
    | exact mhOk_of ((State.setDie_mh _ _ _).trans (State.setDie_mh _ _ _)) hs
    | exact State.setBias_ok (mhOk_of ((State.setDie_mh _ _ _).trans (State.setDie_mh _ _ _)) hs)

theorem execBiasFlip_ok {d v : Nat} {s : State} {t' : State} (hs : MhOk s.mh) (h : execBiasFlip d v s = .next t') : MhOk t'.mh := by
  unfold execBiasFlip at h
  repeat' (first | contradiction | split at h | (obtain rfl := Host.Outcome.next.inj h; clear h) | (exact State.biasCmd_ok hs h) | dsimp only at h)
  all_goals try clear h
  repeat' (first | assumption | split | (refine foldl_ok (fun _ _ h => ?_) ?_) | (refine foldl_fst_ok (fun _ _ h => ?_) ?_) | dsimp only)
  all_goals (try assumption)
  all_goals (try simp +contextual [*, foldl_mh, foldl_ok])
  repeat' (first | assumption | split | (refine foldl_ok (fun _ _ h => ?_) ?_) | (refine foldl_fst_ok (fun _ _ h => ?_) ?_))
  all_goals (try simp +contextual [*, foldl_mh, foldl_ok])

theorem execBiasFlipComplete_ok {d : Nat} {s t : State} (hs : MhOk s.mh) (h : execBiasFlipComplete d s = .next t) : MhOk t.mh := by
  unfold execBiasFlipComplete at h
  dsimp only at h
  split at h
  · obtain rfl := Host.Outcome.next.inj h; exact hs
  · split at h
    · obtain rfl := Host.Outcome.next.inj h; exact hs
    · obtain rfl := Host.Outcome.next.inj h
      refine State.heldServe_ok (State.setBias_ok (mhOk_of (State.setDie_mh _ _ _) ?_))
      split
      · exact foldl_ok (fun s l h => State.recallLine_ok h) hs
      · exact hs

theorem execFirstTouchBind_ok {s t : State} (hs : MhOk s.mh) (h : execFirstTouchBind s = .next t) : MhOk t.mh := by
  unfold execFirstTouchBind at h
  split at h
  · split at h
    · obtain rfl := Host.Outcome.next.inj h; exact hs
    · split at h
      · split at h
        · split at h
          · rename_i u hu
            obtain rfl := Host.Outcome.next.inj h
            exact mhOk_of (State.retry_mh _ _) (State.bindPage_ok hs hu)
          · obtain rfl := Host.Outcome.next.inj h
            exact mhOk_of ((State.retry_mh _ _).trans (State.pageFault_mh _ _ _ _ _)) hs
        · obtain rfl := Host.Outcome.next.inj h; exact hs
      · obtain rfl := Host.Outcome.next.inj h; exact hs
  · obtain rfl := Host.Outcome.next.inj h; exact hs

theorem State.poolGive_ok {s : State} {d frame : Nat} (hs : MhOk s.mh) : MhOk (s.poolGive d frame).mh := by
  unfold State.poolGive
  dsimp only
  split
  · exact hs
  · exact State.poke_ok (mhOk_of (State.setDie_mh _ _ _) hs)

theorem State.collapsePage_ok {s : State} {asid : Nat} {va : DWord} {size : Nat} {t : State} (hs : MhOk s.mh)
    (h : s.collapsePage asid va size = some t) : MhOk t.mh := by
  unfold State.collapsePage at h
  dsimp only at h
  split at h
  · cases h
  · obtain rfl := Option.some.inj h
    refine mhOk_of (State.post_mh _ _) ?_
    have h1 : ∀ (l : List (Nat × Nat)) (u : State), MhOk u.mh →
        MhOk (l.foldl (fun s c => (s.rangeLines c.2 (2 ^ size)).foldl (fun s l => s.recallLine l) s) u).mh :=
      fun l u hu => foldl_ok (fun s c hc => foldl_ok (fun s l hl => State.recallLine_ok hl) hc) hu
    have h2 := mhOk_of (State.shoot_mh _ (Tlb.covers asid va)) (State.setLeaf_ok (asid := asid) (va := va)
      (f := fun _ old => ptePlace old (s.replOf asid va).1 (s.replOf asid va).2.1 1) (h1 (s.replOf asid va).2.2 s hs))
    split
    · exact foldl_ok (fun s c hc => State.poolGive_ok hc) h2
    · exact h2

theorem execReplCollapseComplete_ok {s t : State} (hs : MhOk s.mh) (h : execReplCollapseComplete s = .next t) : MhOk t.mh := by
  unfold execReplCollapseComplete at h
  split at h
  · obtain rfl := Host.Outcome.next.inj h; exact hs
  · dsimp only at h
    split at h
    · obtain rfl := Host.Outcome.next.inj h; exact hs
    · rename_i u hu
      obtain rfl := Host.Outcome.next.inj h
      exact foldl_ok (fun s a ha => mhOk_of (State.accTry_mh _ _) ha) (mhOk_of (s := u) rfl (State.collapsePage_ok hs hu))

theorem State.unitX_ok {s : State} {d asid : Nat} {va : DWord} {write : Bool} {id : Nat} (hs : MhOk s.mh) : MhOk (State.unitX s d asid va write id).1.mh := by
  have leaf : ∀ (u : State) (e : Tlb), MhOk u.mh → MhOk (match xlateLeaf e va write false with
    | .ok e pa =>
      if write && ptePlc e.pte == 3 then (u.collapseFor asid va id, UnitX.wait) else (u, .ok ((if pteLoc e.pte then hostBase else 0) + pa))
    | .fault c => (u, .fault c)
    | .bind => (u, .fault 1)).1.mh := by
    intro u e hu
    split
    · split
      · exact mhOk_of (State.collapseFor_mh _ _ _ _) hu
      · exact hu
    · exact hu
    · exact hu
  unfold State.unitX
  split
  · exact hs
  · split
    · exact leaf s _ hs
    · exact hs
    · split
      · exact hs
      · rename_i h1
        have h2 := State.bindPage_ok hs h1
        split
        · exact leaf _ _ h2
        · exact h2

theorem State.rimeAppend_ok {s : State} {asid page : Nat} {cls : BitVec 4} {lines : BitVec 32} {t : State} (hs : MhOk s.mh)
    (h : s.rimeAppend asid page cls lines = .ok t) : MhOk t.mh := by
  unfold State.rimeAppend at h
  dsimp only at h
  split at h
  · obtain rfl := Except.ok.inj h; exact mhOk_of (State.setCtx_mh _ _ _) hs
  · split at h
    · cases h
    · obtain rfl := Except.ok.inj h
      exact State.poke_ok (mhOk_of (State.setCtx_mh _ _ _) hs)

theorem execRimeEntryExpiry_ok {asid page : Nat} {s t : State} (hs : MhOk s.mh) (h : execRimeEntryExpiry asid page s = .next t) :
    MhOk t.mh := by
  unfold execRimeEntryExpiry at h
  dsimp only at h
  split at h
  · obtain rfl := Host.Outcome.next.inj h; exact hs
  · split at h
    · obtain rfl := Host.Outcome.next.inj h; exact hs
    · split at h
      · obtain rfl := Host.Outcome.next.inj h; exact mhOk_of (State.setCtx_mh _ _ _) hs
      · split at h
        · rename_i u hu
          obtain rfl := Host.Outcome.next.inj h
          exact State.rimeAppend_ok (mhOk_of (State.setCtx_mh _ _ _) hs) hu
        · cases h

theorem State.ctlTouch_ok {s : State} {asid : Nat} {va : DWord} {n : Nat} (hs : MhOk s.mh) : MhOk (State.ctlTouch s asid va n).mh := by
  unfold State.ctlTouch
  repeat' (first | assumption | split | (refine foldl_ok (fun _ _ h => ?_) ?_) | (refine foldl_fst_ok (fun _ _ h => ?_) ?_) | dsimp only)
  all_goals (try assumption)
  all_goals (try simp +contextual [*, foldl_mh, foldl_ok, State.touchAll_ok])
  repeat' (first | assumption | split | (refine foldl_ok (fun _ _ h => ?_) ?_) | (refine foldl_fst_ok (fun _ _ h => ?_) ?_))
  all_goals (try simp +contextual [*, foldl_mh, foldl_ok, State.touchAll_ok])

theorem State.ctlPut_ok {s : State} {asid : Nat} {va : DWord} {bs : List Byte} (hs : MhOk s.mh) : MhOk (s.ctlPut asid va bs).1.mh := by
  unfold State.ctlPut
  split
  · exact State.ctlTouch_ok hs
  · dsimp only
    split
    · exact State.engineWrite_ok hs
    · exact mhOk_of (State.snoopAsk_mh _ _) hs

theorem State.ctlPut_ok' {s : State} {asid : Nat} {va : DWord} {bs : List Byte} {t : State} {b : Bool} (hs : MhOk s.mh)
    (h : s.ctlPut asid va bs = (t, b)) : MhOk t.mh :=
  mhOk_of (congrArg (fun p => p.1.mh) h).symm (State.ctlPut_ok hs)

theorem State.ampUnpark_ok {s : State} {wi gi : Nat} (hs : MhOk s.mh) : MhOk (State.ampUnpark s wi gi).mh := by
  unfold State.ampUnpark
  repeat' (first | assumption | split | (refine foldl_ok (fun _ _ h => ?_) ?_) | (refine foldl_fst_ok (fun _ _ h => ?_) ?_) | dsimp only)
  all_goals (try assumption)
  all_goals ((try have := State.ampPut_ok (by assumption) (by assumption)))
  all_goals (try simp +contextual [*, foldl_mh, foldl_ok])
  repeat' (first | assumption | split | (refine foldl_ok (fun _ _ h => ?_) ?_) | (refine foldl_fst_ok (fun _ _ h => ?_) ?_))
  all_goals (try simp +contextual [*, foldl_mh, foldl_ok])

theorem State.ampWake_ok {s : State} {d : Nat} (hs : MhOk s.mh) : MhOk (State.ampWake s d).mh := by
  unfold State.ampWake
  repeat' (first | assumption | split | (refine foldl_ok (fun _ _ h => ?_) ?_) | (refine foldl_fst_ok (fun _ _ h => ?_) ?_) | dsimp only)
  all_goals (try assumption)
  all_goals (try simp +contextual [*, foldl_mh, foldl_ok, State.ampUnpark_ok])
  repeat' (first | assumption | split | (refine foldl_ok (fun _ _ h => ?_) ?_) | (refine foldl_fst_ok (fun _ _ h => ?_) ?_))
  all_goals (try simp +contextual [*, foldl_mh, foldl_ok, State.ampUnpark_ok])

theorem execAmpQueueDequeue_ok {d : Nat} {s : State} {t' : State} (hs : MhOk s.mh) (h : execAmpQueueDequeue d s = .next t') : MhOk t'.mh := by
  unfold execAmpQueueDequeue at h
  dsimp only at h
  split at h
  · cases h; exact hs
  · split at h
    · cases h; exact hs
    · split at h
      · cases h; exact hs
      · split at h
        · cases h; exact State.ctlTouch_ok hs
        · split at h
          · cases h; exact hs
          · rename_i h2
            cases h
            exact State.ampWake_ok (mhOk_of ((State.setGdie_mh _ _ _).trans ((State.placeIn_mh h2).trans (State.assignIndex_mh _ _))) hs)

theorem execOverflowRingRefill_ok {d : Nat} {s : State} {t' : State} (hs : MhOk s.mh) (h : execOverflowRingRefill d s = .next t') : MhOk t'.mh := by
  unfold execOverflowRingRefill at h
  dsimp only at h
  split at h
  · cases h; exact hs
  · split at h
    · cases h; exact hs
    · cases h
      exact State.ampWake_ok (mhOk_of (State.setGdie_mh _ _ _) hs)

theorem State.storePut_ok {s : State} {d : Nat} {p : Pass} {q : Pkt} (hs : MhOk s.mh) : MhOk (State.storePut s d p q).mh := by
  unfold State.storePut
  repeat' (first | assumption | split | (refine foldl_ok (fun _ _ h => ?_) ?_) | (refine foldl_fst_ok (fun _ _ h => ?_) ?_) | dsimp only)
  all_goals (try assumption)
  all_goals (try simp +contextual [*, foldl_mh, foldl_ok, State.ringPut_ok])
  repeat' (first | assumption | split | (refine foldl_ok (fun _ _ h => ?_) ?_) | (refine foldl_fst_ok (fun _ _ h => ?_) ?_))
  all_goals (try simp +contextual [*, foldl_mh, foldl_ok, State.ringPut_ok])

theorem execPacketArrival_ok {s : State} {t' : State} (hs : MhOk s.mh) (h : execPacketArrival s = .next t') : MhOk t'.mh := by
  unfold execPacketArrival at h
  repeat' (first | contradiction | split at h | (obtain rfl := Host.Outcome.next.inj h; clear h) | dsimp only at h)
  all_goals try clear h
  repeat' (first | assumption | split | (refine foldl_ok (fun _ _ h => ?_) ?_) | (refine foldl_fst_ok (fun _ _ h => ?_) ?_) | dsimp only)
  all_goals (try assumption)
  all_goals (try simp +contextual [*, foldl_mh, foldl_ok, State.storePut_ok])
  repeat' (first | assumption | split | (refine foldl_ok (fun _ _ h => ?_) ?_) | (refine foldl_fst_ok (fun _ _ h => ?_) ?_))
  all_goals (try simp +contextual [*, foldl_mh, foldl_ok, State.storePut_ok])

theorem State.addWord_ok {s : State} {asid : Nat} {va : DWord} {n : Nat} (hs : MhOk s.mh) : MhOk (State.addWord s asid va n).1.mh := by
  unfold State.addWord
  split
  · exact hs
  · dsimp only
    split
    · exact State.ctlTouch_ok hs
    · exact State.ctlPut_ok (State.ctlTouch_ok hs)

theorem State.addWord_ok' {s : State} {asid : Nat} {va : DWord} {n : Nat} {t' : State} {b' : Bool} (hs : MhOk s.mh) (h : State.addWord s asid va n = (t', b')) : MhOk t'.mh :=
  mhOk_of (congrArg (fun p => p.1.mh) h).symm (State.addWord_ok hs)

theorem State.passFlush_ok {s : State} {p : Pass} (hs : MhOk s.mh) : MhOk (s.passFlush p).1.mh := by
  unfold State.passFlush
  split
  · rename_i u hu; exact State.addWord_ok' hs hu
  · rename_i u hu
    have h1 := State.addWord_ok' hs hu
    dsimp only
    split
    · rename_i v hv; exact State.addWord_ok' (mhOk_of (State.setPass_mh _ _) h1) hv
    · rename_i v hv; exact mhOk_of (State.setPass_mh _ _) (State.addWord_ok' (mhOk_of (State.setPass_mh _ _) h1) hv)

theorem State.passFlush_ok' {s : State} {p : Pass} {t : State} {b : Bool} (hs : MhOk s.mh) (h : s.passFlush p = (t, b)) :
    MhOk t.mh := by
  have h1 : MhOk (s.passFlush p).1.mh := State.passFlush_ok hs
  rw [h] at h1; exact h1

theorem State.passCheck_ok {s : State} {p : Nat} (hs : MhOk s.mh) : MhOk (s.passCheck p).mh := by
  unfold State.passCheck
  split
  · exact hs
  · split
    · exact hs
    · rename_i ps _ _
      dsimp only
      generalize hu : (if ps.fed = true then s else _) = u
      have h0 : MhOk u.mh := by
        rw [← hu]
        split
        · exact hs
        · exact mhOk_of ((State.setPass_mh _ _).trans (State.feed_mh _ _ _)) hs
      split
      · exact h0
      · split
        · exact h0
        · split
          · rename_i v hv; exact State.passFlush_ok' h0 hv
          · rename_i v hv; exact mhOk_of ((State.setPass_mh _ _).trans (State.passDrop_mh _ _)) (State.passFlush_ok' h0 hv)

theorem execRasterisePrimitive_ok {d p : Nat} {s : State} {t' : State} (hs : MhOk s.mh) (h : execRasterisePrimitive d p s = .next t') : MhOk t'.mh := by
  unfold execRasterisePrimitive at h
  repeat' (first | contradiction | split at h | (obtain rfl := Host.Outcome.next.inj h; clear h) | dsimp only at h)
  all_goals try clear h
  repeat' (first | assumption | split | (refine foldl_ok (fun _ _ h => ?_) ?_) | (refine foldl_fst_ok (fun _ _ h => ?_) ?_) | dsimp only)
  all_goals (try assumption)
  all_goals (try simp +contextual [*, foldl_mh, foldl_ok, State.passCheck_ok])
  repeat' (first | assumption | split | (refine foldl_ok (fun _ _ h => ?_) ?_) | (refine foldl_fst_ok (fun _ _ h => ?_) ?_))
  all_goals (try simp +contextual [*, foldl_mh, foldl_ok, State.passCheck_ok])

theorem State.unitFault_mh (s : State) (d asid code : Nat) (va : DWord) (write : Bool) : (s.unitFault d asid code va write).1.mh = s.mh := by
  unfold State.unitFault
  exact (State.postFault_mh _ _ _ _ _ _ _ _ _).trans rfl

theorem State.fragPage_ok {s : State} {p : Pass} {d : Nat} {f : Frag} {write : Bool} (hs : MhOk s.mh) :
    (∀ t n, s.fragPage p d f write = .ok (t, n) → MhOk t.mh) ∧ (∀ t, s.fragPage p d f write = .error t → MhOk t.mh) := by
  have h0 := State.unitX_ok (d := d) (asid := p.asid) (va := p.depthAt f.x f.y f.smp) (write := write) (id := f.id) hs
  unfold State.fragPage
  dsimp only
  generalize s.unitX d p.asid (p.depthAt f.x f.y f.smp) write f.id = q at h0
  obtain ⟨s1, u⟩ := q
  cases u with
  | ok pa =>
    dsimp only
    split
    · refine ⟨fun t n h => (by cases h), fun t h => ?_⟩
      cases h; exact mhOk_of (State.fragDone_mh _ _ _ _) h0
    · split
      · refine ⟨fun t n h => (by cases h), fun t h => ?_⟩
        cases h; exact mhOk_of (State.snoopAsk_mh _ _) h0
      · refine ⟨fun t n h => ?_, fun t h => (by cases h)⟩
        cases h; exact h0
  | fault c =>
    refine ⟨fun t n h => (by cases h), fun t h => ?_⟩
    cases h; exact mhOk_of ((State.setFrag_mh _ _ _).trans (State.unitFault_mh _ _ _ _ _ _)) h0
  | wait =>
    refine ⟨fun t n h => (by cases h), fun t h => ?_⟩
    cases h; exact h0

theorem State.depthPut_ok {s : State} {p : Pass} {d : Nat} {f : Frag} (hs : MhOk s.mh) : ExOk (s.depthPut p d f) := by
  unfold State.depthPut
  split
  · exact ⟨fun t h => (by cases h; exact hs), fun t h => (by cases h)⟩
  · split
    · rename_i h1
      exact ⟨fun t h => (by cases h), fun t h => (by cases h; exact (State.fragPage_ok hs).2 _ h1)⟩
    · rename_i h1
      have h2 := (State.fragPage_ok hs).1 _ _ h1
      dsimp only
      split
      · exact ⟨fun t h => (by cases h; exact mhOk_of (State.hzUpdate_mh _ _ _ _ _) (State.engineWrite_ok h2)), fun t h => (by cases h)⟩
      · exact ⟨fun t h => (by cases h), fun t h => (by cases h; exact mhOk_of (State.snoopAsk_mh _ _) h2)⟩

theorem State.earlyTest_ok {s : State} {p : Pass} {fl : PixFlags} {d : Nat} {f : Frag} (hs : MhOk s.mh) : MhOk (State.earlyTest s p fl d f).mh := by
  unfold State.earlyTest
  split
  · rename_i h1; exact (State.fragPage_ok hs).2 _ h1
  · rename_i h1
    have h2 := (State.fragPage_ok hs).1 _ _ h1
    split
    · exact mhOk_of (State.fragDone_mh _ _ _ _) h2
    · split
      · split
        · rename_i h3; exact (State.depthPut_ok h2).2 _ h3
        · rename_i h3
          have h4 := (State.depthPut_ok h2).1 _ h3
          split
          · exact mhOk_of (State.setFrag_mh _ _ _) h4
          · exact mhOk_of (State.fragDone_mh _ _ _ _) h4
      · exact mhOk_of (State.setFrag_mh _ _ _) h2

theorem State.lateTest_ok {s : State} {p : Pass} {fl : PixFlags} {d : Nat} {f : Frag} (hs : MhOk s.mh) : MhOk (State.lateTest s p fl d f).mh := by
  unfold State.lateTest
  split
  · exact mhOk_of (State.fragDone_mh _ _ _ _) hs
  · split
    · exact mhOk_of (State.fragDone_mh _ _ _ _) hs
    · split
      · rename_i h1; exact (State.fragPage_ok hs).2 _ h1
      · rename_i h1
        have h2 := (State.fragPage_ok hs).1 _ _ h1
        split
        · exact mhOk_of (State.fragDone_mh _ _ _ _) h2
        · split
          · rename_i h3; exact (State.depthPut_ok h2).2 _ h3
          · rename_i h3
            exact mhOk_of (State.fragDone_mh _ _ _ _) ((State.depthPut_ok h2).1 _ h3)

theorem execDepthTest_ok {d p f : Nat} {s : State} {t' : State} (hs : MhOk s.mh) (h : execDepthTest d p f s = .next t') : MhOk t'.mh := by
  unfold execDepthTest at h
  dsimp only at h
  repeat' (first | (obtain rfl := Host.Outcome.next.inj h; clear h) | split at h)
  all_goals first
    | exact hs
    | exact State.passCheck_ok (mhOk_of (State.fragDone_mh _ _ _ _) hs)
    | exact mhOk_of (State.setFrag_mh _ _ _) hs
    | exact State.passCheck_ok (State.earlyTest_ok hs)
    | exact State.passCheck_ok (State.lateTest_ok hs)

theorem execOccContribution_ok {d p i : Nat} {s : State} {t' : State} (hs : MhOk s.mh) (h : execOccContribution d p i s = .next t') : MhOk t'.mh := by
  unfold execOccContribution at h
  dsimp only at h
  repeat' (first | (obtain rfl := Host.Outcome.next.inj h; clear h) | split at h)
  all_goals first
    | exact hs
    | exact mhOk_of (State.gsend_mh _ _ _ _) (State.cellHome_ok (mhOk_of (State.setGdie_mh _ _ _) hs))

theorem State.cellDone_ok {s : State} {d : Nat} {o : CellOp} {k : Nat} (hs : MhOk s.mh) : MhOk (State.cellDone s d o k).mh := by
  unfold State.cellDone
  repeat' (first | assumption | split | (refine foldl_ok (fun _ _ h => ?_) ?_) | (refine foldl_fst_ok (fun _ _ h => ?_) ?_) | dsimp only)
  all_goals (try assumption)
  all_goals (try simp +contextual [*, foldl_mh, foldl_ok, State.passCheck_ok])
  repeat' (first | assumption | split | (refine foldl_ok (fun _ _ h => ?_) ?_) | (refine foldl_fst_ok (fun _ _ h => ?_) ?_))
  all_goals (try simp +contextual [*, foldl_mh, foldl_ok, State.passCheck_ok])

theorem State.cellGo_ok {s : State} {d : Nat} {o : CellOp} (hs : MhOk s.mh) : MhOk (State.cellGo s d o).mh := by
  unfold State.cellGo
  dsimp only
  have h0 := State.unitX_ok (d := d) (asid := o.asid) (va := BitVec.ofNat 64 o.cell) (write := true) (id := o.id) hs
  generalize s.unitX d o.asid (BitVec.ofNat 64 o.cell) true o.id = q at h0
  obtain ⟨s1, u⟩ := q
  split
  · exact hs
  · cases u with
    | ok pa =>
      dsimp only at h0 ⊢
      generalize (if o.zero = true then 0 else ((((s1.pass? o.pass).getD default).contribs.find? (fun c => c.1 == o.cell)).map (fun c => c.2)).getD 0 + 1) = k
      split
      · exact mhOk_of (State.delCell_mh _ _ _) h0
      · split
        · exact mhOk_of (State.snoopAsk_mh _ _) h0
        · generalize (regsFrom pa 4).zip _ = w
          split
          · exact mhOk_of (State.snoopAsk_mh _ _) h0
          · exact State.cellDone_ok (State.engineWrite_ok h0)
    | fault c => exact mhOk_of ((State.setCell_mh _ _ _).trans (State.unitFault_mh _ _ _ _ _ _)) h0
    | wait => exact h0

theorem execOccCellUpdate_ok {s t : State} (hs : MhOk s.mh) (h : execOccCellUpdate s = .next t) : MhOk t.mh := by
  unfold execOccCellUpdate at h
  dsimp only at h
  have hg : MhOk s.gtake.mh := mhOk_of (State.gtake_mh _) hs
  repeat' (first | (obtain rfl := Host.Outcome.next.inj h; clear h) | split at h)
  all_goals first
    | exact hs
    | exact hg
    | exact State.cellGo_ok hs
    | exact State.cellGo_ok (mhOk_of (State.setGdie_mh _ _ _) hg)

theorem execGraphRecordRun_ok {d c l : Nat} {s : State} {t' : State} (hs : MhOk s.mh) (h : execGraphRecordRun d c l s = .next t') : MhOk t'.mh := by
  unfold execGraphRecordRun at h
  dsimp only at h
  repeat' (first | (obtain rfl := Host.Outcome.next.inj h; clear h) | split at h)
  all_goals first
    | exact hs
    | exact State.recWake_ok (mhOk_of ((State.skipRec_mh _ _).trans (State.recDel_mh _ _ _ _)) hs)
    | exact State.ctlTouch_ok hs
    | skip
  · rename_i h1
    refine State.recWake_ok (mhOk_of ((congrArg (fun p => p.2.mh) h1).symm.trans ?_) hs)
    exact (State.recTake_mh _ _ _ _ _).trans (State.assignIndex_mh _ _)
  · rename_i r1 s1 h1 _ s2 h2
    refine State.recWake_ok (mhOk_of ((State.placeOn_mh h2).trans ((congrArg (fun p => p.2.mh) h1).symm.trans ?_)) hs)
    exact (State.recTake_mh _ _ _ _ _).trans (State.assignIndex_mh _ _)

theorem execWaitListResolve_ok {d i : Nat} {s : State} {t' : State} (hs : MhOk s.mh) (h : execWaitListResolve d i s = .next t') : MhOk t'.mh := by
  unfold execWaitListResolve at h
  dsimp only at h
  repeat' (first | (obtain rfl := Host.Outcome.next.inj h; clear h) | split at h)
  all_goals first
    | exact hs
    | exact mhOk_of ((State.skipRec_mh _ _).trans (State.setGdie_mh _ _ _)) hs
    | exact State.recPut_ok (mhOk_of (State.setGdie_mh _ _ _) hs) (by assumption)

theorem execRecPushParkRelease_ok {w g : Nat} {s : State} {t' : State} (hs : MhOk s.mh) (h : execRecPushParkRelease w g s = .next t') : MhOk t'.mh := by
  unfold execRecPushParkRelease at h
  repeat' (first | contradiction | split at h | (obtain rfl := Host.Outcome.next.inj h; clear h) | dsimp only at h)
  all_goals try clear h
  repeat' (first | assumption | split | (refine foldl_ok (fun _ _ h => ?_) ?_) | (refine foldl_fst_ok (fun _ _ h => ?_) ?_) | dsimp only)
  all_goals (try assumption)
  all_goals (try simp +contextual [*, foldl_mh, foldl_ok, State.recUnpark_ok])
  repeat' (first | assumption | split | (refine foldl_ok (fun _ _ h => ?_) ?_) | (refine foldl_fst_ok (fun _ _ h => ?_) ?_))
  all_goals (try simp +contextual [*, foldl_mh, foldl_ok, State.recUnpark_ok])

theorem State.stealFrom_ok {s : State} {d c e j gr asid : Nat} {t' : State} (hs : MhOk s.mh) (h : State.stealFrom s d c e j gr asid = some t') : MhOk t'.mh := by
  unfold State.stealFrom at h
  split at h
  · cases h
  · obtain ⟨u, hu, ht⟩ := Option.map_eq_some_iff.1 h
    cases ht
    exact State.recWake_ok (State.recPut_ok (mhOk_of (State.recDel_mh _ _ _ _) hs) hu)

theorem State.stealOwn_ok {s : State} {d c : Nat} {g : Launch} (hs : MhOk s.mh) : MhOk (State.stealOwn s d c g).mh := by
  unfold State.stealOwn
  dsimp only
  split
  · rename_i t h
    obtain ⟨j, _, hj⟩ := List.exists_of_findSome?_eq_some h
    exact State.stealFrom_ok hs hj
  · exact hs

theorem execStealAttempt_ok {d c l : Nat} {s : State} {t' : State} (hs : MhOk s.mh) (h : execStealAttempt d c l s = .next t') : MhOk t'.mh := by
  unfold execStealAttempt at h
  repeat' (first | contradiction | split at h | (obtain rfl := Host.Outcome.next.inj h; clear h) | dsimp only at h)
  all_goals try clear h
  repeat' (first | assumption | split | (refine foldl_ok (fun _ _ h => ?_) ?_) | (refine foldl_fst_ok (fun _ _ h => ?_) ?_) | dsimp only)
  all_goals (try assumption)
  all_goals (try simp +contextual [*, foldl_mh, foldl_ok, State.stealOwn_ok])
  repeat' (first | assumption | split | (refine foldl_ok (fun _ _ h => ?_) ?_) | (refine foldl_fst_ok (fun _ _ h => ?_) ?_))
  all_goals (try simp +contextual [*, foldl_mh, foldl_ok, State.stealOwn_ok])

theorem execStealRequest_ok {d c l : Nat} {s : State} {t' : State} (hs : MhOk s.mh) (h : execStealRequest d c l s = .next t') : MhOk t'.mh := by
  unfold execStealRequest at h
  dsimp only at h
  repeat' (first | (obtain rfl := Host.Outcome.next.inj h; clear h) | split at h)
  all_goals first
    | exact hs
    | skip
  rename_i s1 h1
  obtain ⟨j, _, hj⟩ := Option.bind_eq_some_iff.1 h1
  exact mhOk_of (s := s1) rfl (State.stealFrom_ok hs hj)

theorem execStealRetryExpiry_ok {d c l : Nat} {s : State} {t' : State} (hs : MhOk s.mh) (h : execStealRetryExpiry d c l s = .next t') : MhOk t'.mh := by
  unfold execStealRetryExpiry at h
  dsimp only at h
  repeat' (first | (obtain rfl := Host.Outcome.next.inj h; clear h) | split at h)
  all_goals first
    | exact hs
    | exact State.stealOwn_ok (mhOk_of (s := s) rfl hs)

theorem State.passesFlush_ok {s : State} {asid : Nat} (hs : MhOk s.mh) : MhOk (State.passesFlush s asid).1.mh := by
  unfold State.passesFlush
  repeat' (first | assumption | split | (refine foldl_ok (fun _ _ h => ?_) ?_) | (refine foldl_fst_ok (fun _ _ h => ?_) ?_) | dsimp only)
  all_goals (try assumption)
  all_goals ((try have := State.passFlush_ok' (by assumption) (by assumption)))
  all_goals (try simp +contextual [*, foldl_mh, foldl_ok, State.passFlush_ok])
  repeat' (first | assumption | split | (refine foldl_ok (fun _ _ h => ?_) ?_) | (refine foldl_fst_ok (fun _ _ h => ?_) ?_))
  all_goals (try simp +contextual [*, foldl_mh, foldl_ok, State.passFlush_ok])

theorem State.passesFlush_ok' {s : State} {asid : Nat} {t' : State} {b' : Bool} (hs : MhOk s.mh) (h : State.passesFlush s asid = (t', b')) : MhOk t'.mh := by
  have h1 := State.passesFlush_ok (by exact hs) (s := s) (asid := asid)
  rw [h] at h1; exact h1

theorem execGraphLaunchComplete_ok {l : Nat} {s t : State} (hs : MhOk s.mh) (h : execGraphLaunchComplete l s = .next t) : MhOk t.mh := by
  unfold execGraphLaunchComplete at h
  split at h
  · obtain rfl := Host.Outcome.next.inj h; exact hs
  · split at h
    · obtain rfl := Host.Outcome.next.inj h; exact hs
    · split at h
      · rename_i u hu
        obtain rfl := Host.Outcome.next.inj h; exact State.passesFlush_ok' hs hu
      · rename_i u hu
        have h1 := State.passesFlush_ok' hs hu
        split at h
        · rename_i v hv
          obtain rfl := Host.Outcome.next.inj h; exact State.addWord_ok' h1 hv
        · rename_i v hv
          obtain rfl := Host.Outcome.next.inj h
          exact mhOk_of (State.endLaunch_mh _ _ _ _ _) (State.addWord_ok' h1 hv)

theorem State.rcbTouch_ok {s : State} {asid n : Nat} {a : DWord} (hs : MhOk s.mh) : MhOk (State.rcbTouch s asid n a).mh := by
  induction n generalizing s a with
  | zero => exact hs
  | succ n ih =>
    unfold State.rcbTouch
    split
    · exact hs
    · dsimp only
      split
      · exact State.ctlTouch_ok hs
      · exact ih (State.ctlTouch_ok hs)

theorem State.pushSeeds_ok {s : State} {g : Launch} {recs : List (List Word)} {t' : State} (hs : MhOk s.mh) (h : State.pushSeeds s g recs = some t') : MhOk t'.mh := by
  unfold State.pushSeeds at h
  have key : ∀ (l : List (Nat × List Word)) (o : Option State), (∀ u, o = some u → MhOk u.mh) → ∀ t, l.foldl (fun (o : Option State) p =>
      match o, s.seedCores[p.1 % s.seedCores.length]? with
      | some s, some (d, c) => s.recPut d c { graph := g.id, words := p.2 }
      | _, _ => o) o = some t → MhOk t.mh := by
    intro l
    induction l with
    | nil => intro o ho t ht; exact ho t ht
    | cons p r ih =>
      intro o ho t ht
      refine ih _ (fun u hu => ?_) t ht
      dsimp only at hu
      split at hu
      · exact State.recPut_ok (ho _ rfl) hu
      · exact ho u hu
  exact key _ _ (fun u hu => by cases hu; exact hs) _ h

theorem State.acceptGraph_ok {s : State} {l : Launch} {t' : State} (hs : MhOk s.mh) (h : State.acceptGraph s l = some t') : MhOk t'.mh := by
  unfold State.acceptGraph at h
  dsimp only at h
  split at h
  · cases h
  · split at h
    · cases h; exact mhOk_of (State.rejectLaunch_mh _ _ _) hs
    · split at h
      · cases h
      · exact State.pushSeeds_ok (mhOk_of (State.addLaunch_mh _ _) hs) h

theorem State.touchPacket_ok {s : State} {asid : Nat} {t : BitVec 1024} (hs : MhOk s.mh) : MhOk (State.touchPacket s asid t).mh := by
  unfold State.touchPacket
  dsimp only
  have h0 := State.rcbTouch_ok (asid := asid) (n := 8) (a := pkRcb t) hs
  split
  · exact h0
  · split
    · exact State.ctlTouch_ok (State.ctlTouch_ok h0)
    · exact State.ctlTouch_ok (State.ctlTouch_ok (State.ctlTouch_ok h0))
  · exact State.ctlTouch_ok (State.ctlTouch_ok h0)
  · exact State.ctlTouch_ok h0

theorem State.accept_ok {s : State} {q : Nat} {k : Queue} {t : BitVec 1024} {t' : State} (hs : MhOk s.mh) (h : State.accept s q k t = some t') : MhOk t'.mh := by
  unfold State.accept at h
  repeat' (first | contradiction | split at h | (obtain rfl := Option.some.inj h; clear h) | (exact State.acceptGraph_ok hs h) | (exact mhOk_of (State.acceptPass_mh h) hs) | dsimp only at h)
  all_goals try clear h
  repeat' (first | assumption | split | (refine foldl_ok (fun _ _ h => ?_) ?_) | (refine foldl_fst_ok (fun _ _ h => ?_) ?_) | dsimp only)
  all_goals (try assumption)
  all_goals ((try have := State.acceptGraph_ok (by assumption) (by assumption)); (try have := State.acceptPass_mh (by assumption)))
  all_goals (try simp +contextual [*, foldl_mh, foldl_ok])
  repeat' (first | assumption | split | (refine foldl_ok (fun _ _ h => ?_) ?_) | (refine foldl_fst_ok (fun _ _ h => ?_) ?_))
  all_goals (try simp +contextual [*, foldl_mh, foldl_ok])

theorem execPacketFetch_ok {q : Nat} {s t : State} (hs : MhOk s.mh) (h : execPacketFetch q s = .next t) : MhOk t.mh := by
  unfold execPacketFetch at h
  dsimp only at h
  split at h
  · obtain rfl := Host.Outcome.next.inj h; exact hs
  · split at h
    · obtain rfl := Host.Outcome.next.inj h; exact State.ctlTouch_ok (State.ctlTouch_ok hs)
    · split at h
      · obtain rfl := Host.Outcome.next.inj h; exact State.touchPacket_ok hs
      · rename_i u hu
        have h1 := State.accept_ok hs hu
        split at h
        · obtain rfl := Host.Outcome.next.inj h; exact State.ctlPut_ok hs
        · rename_i v hv
          obtain rfl := Host.Outcome.next.inj h
          exact mhOk_of (State.setQueue_mh _ _ _) (State.ctlPut_ok' h1 hv)

theorem execWorkgroupPlacement_ok {l : Nat} {s : State} {t' : State} (hs : MhOk s.mh) (h : execWorkgroupPlacement l s = .next t') : MhOk t'.mh := by
  unfold execWorkgroupPlacement at h
  repeat' (first | contradiction | split at h | (obtain rfl := Host.Outcome.next.inj h; clear h) | dsimp only at h)
  all_goals try clear h
  repeat' (first | assumption | split | (refine foldl_ok (fun _ _ h => ?_) ?_) | (refine foldl_fst_ok (fun _ _ h => ?_) ?_) | dsimp only)
  all_goals (try assumption)
  all_goals ((try have := State.deal_mh (by assumption)))
  all_goals (try simp +contextual [*, foldl_mh, foldl_ok, State.ctlTouch_ok])
  repeat' (first | assumption | split | (refine foldl_ok (fun _ _ h => ?_) ?_) | (refine foldl_fst_ok (fun _ _ h => ?_) ?_))
  all_goals (try simp +contextual [*, foldl_mh, foldl_ok, State.ctlTouch_ok])

theorem execLaunchComplete_ok {l : Nat} {s : State} {t' : State} (hs : MhOk s.mh) (h : execLaunchComplete l s = .next t') : MhOk t'.mh := by
  unfold execLaunchComplete at h
  repeat' (first | contradiction | split at h | (obtain rfl := Host.Outcome.next.inj h; clear h) | dsimp only at h)
  all_goals try clear h
  repeat' (first | assumption | split | (refine foldl_ok (fun _ _ h => ?_) ?_) | (refine foldl_fst_ok (fun _ _ h => ?_) ?_) | dsimp only)
  all_goals (try assumption)
  all_goals ((try have := State.passFlush_ok' (by assumption) (by assumption)))
  all_goals (try simp +contextual [*, foldl_mh, foldl_ok, State.passFlush_ok])
  repeat' (first | assumption | split | (refine foldl_ok (fun _ _ h => ?_) ?_) | (refine foldl_fst_ok (fun _ _ h => ?_) ?_))
  all_goals (try simp +contextual [*, foldl_mh, foldl_ok, State.passFlush_ok])

theorem State.paPut_ok {s : State} {pa : Nat} {bs : List Byte} (hs : MhOk s.mh) : MhOk (s.paPut pa bs).1.mh := by
  unfold State.paPut
  dsimp only
  repeat' split
  all_goals first
    | exact hs
    | exact State.engineWrite_ok hs
    | exact mhOk_of (State.snoopAsk_mh _ _) hs
    | exact mhOk_of (State.hzUpdate_mh _ _ _ _ _) (State.engineWrite_ok hs)

theorem State.paPut_ok' {s : State} {pa : Nat} {bs : List Byte} {t : State} {b : Bool} (hs : MhOk s.mh) (h : s.paPut pa bs = (t, b)) : MhOk t.mh := by
  have h1 : MhOk (s.paPut pa bs).1.mh := State.paPut_ok hs
  rw [h] at h1; exact h1

theorem State.recorded_ok {s : State} {r : PendRec} (hs : MhOk s.mh) : MhOk (s.recorded r).mh := by
  have h0 : MhOk (match r.wake with
      | some (w, g, id) => { s with x := s.x.onGrp w g (fun gr => { gr with lanes := gr.lanes.map (fun (t : Lane) => t.lift (.sys id)) }) }
      | none => s : State).mh := by
    split
    · exact mhOk_of (s := s) rfl hs
    · exact hs
  unfold State.recorded
  dsimp only at h0 ⊢
  split
  · exact h0
  · have h1 := fun (l : Launch) => mhOk_of (State.setLaunch_mh _ l) h0
    split
    · refine State.passCheck_ok ?_
      split
      · exact mhOk_of (State.feed_mh _ _ _) (h1 _)
      · exact h1 _
    · split
      · exact mhOk_of (State.feed_mh _ _ _) (h1 _)
      · exact h1 _

theorem execEventRecordWrite_ok {s t : State} (hs : MhOk s.mh) (h : execEventRecordWrite s = .next t) : MhOk t.mh := by
  unfold execEventRecordWrite at h
  dsimp only at h
  split at h
  · rename_i r v hr hv
    split at h
    · obtain rfl := Host.Outcome.next.inj h; exact hs
    · have fin2 : ∀ (u : State), MhOk u.mh → MhOk (State.recorded (if (v.c = 0 ∧ v.t = 0) ∨ (v.c ≠ 0 ∧ v.c ≤ v.since + 1) then
          ({ u with sch := { u.sch with pend := delFirst (fun w => w == r) u.sch.pend } } : State).interrupt s.sel
            { v with wp := v.wp + 1, since := v.since + 1, oldest := some (v.oldest.getD s.time) }
          else ({ u with sch := { u.sch with pend := delFirst (fun w => w == r) u.sch.pend } } : State).setRingV s.sel
            { v with wp := v.wp + 1, since := v.since + 1, oldest := some (v.oldest.getD s.time) }) r).mh := by
        intro u hu
        refine State.recorded_ok ?_
        split
        · exact mhOk_of (State.interrupt_mh _ _ _) (mhOk_of (s := u) rfl hu)
        · exact mhOk_of (State.setRingV_mh _ _ _) (mhOk_of (s := u) rfl hu)
      split at h
      · split at h
        · rename_i u hu
          obtain rfl := Host.Outcome.next.inj h; exact State.ctlPut_ok' hs hu
        · rename_i u hu
          have h1 := State.ctlPut_ok' hs hu
          split at h
          · obtain rfl := Host.Outcome.next.inj h; exact State.ctlPut_ok hs
          · rename_i w hw
            obtain rfl := Host.Outcome.next.inj h
            exact fin2 w (State.ctlPut_ok' h1 hw)
      · split at h
        · cases h
        · split at h
          · rename_i u hu
            obtain rfl := Host.Outcome.next.inj h; exact State.paPut_ok' hs hu
          · rename_i u hu
            obtain rfl := Host.Outcome.next.inj h
            exact fin2 u (State.paPut_ok' hs hu)
  · obtain rfl := Host.Outcome.next.inj h; exact hs

theorem execWrite_ok {s t : State} (hs : MhOk s.mh) (h : execWrite s = .next t) : MhOk t.mh := by
  unfold execWrite at h
  refine tueStep_ok (fun s c hs => ?_) hs h
  refine mhOk_of (State.invalidate_mh _ _ _ _) (foldl_ok (fun s d h => ?_) hs)
  split
  · exact h
  · split
    · exact State.poke_ok h
    · exact h

theorem State.releasePage_ok {s : State} {f : Nat} (hs : MhOk s.mh) : MhOk (State.releasePage s f).mh := by
  unfold State.releasePage
  exact State.heldServe_ok (mhOk_of (s := s) rfl hs)

theorem execFlush_ok {s t : State} (hs : MhOk s.mh) (h : execFlush s = .next t) : MhOk t.mh := by
  unfold execFlush at h
  refine tueStep_ok (fun s c hs => ?_) hs h
  dsimp only
  split
  · exact mhOk_of (s := s) rfl hs
  · split
    · exact mhOk_of (s := s) rfl hs
    · exact State.releasePage_ok (foldl_ok (fun s l h => State.recallLine_ok h) hs)

theorem State.moveSubs_ok {s : State} {line new : Nat} (hs : MhOk s.mh) : MhOk (State.moveSubs s line new).mh := by
  unfold State.moveSubs
  repeat' (first | assumption | split | (refine foldl_ok (fun _ _ h => ?_) ?_) | (refine foldl_fst_ok (fun _ _ h => ?_) ?_) | dsimp only)
  all_goals (try assumption)
  all_goals (try simp +contextual [*, foldl_mh, foldl_ok, State.touch_ok])
  repeat' (first | assumption | split | (refine foldl_ok (fun _ _ h => ?_) ?_) | (refine foldl_fst_ok (fun _ _ h => ?_) ?_))
  all_goals (try simp +contextual [*, foldl_mh, foldl_ok, State.touch_ok])

theorem State.moveHeld_ok {s : State} {f new : Nat} (hs : MhOk s.mh) : MhOk (State.moveHeld s f new).mh := by
  unfold State.moveHeld
  extract_lets h on k go sl s1 _ s2 s3 s4
  have h2 : MhOk s2.mh := mhOk_of (s := s1) rfl (mhOk_of (State.setDie_mh _ _ _) hs)
  have h3 : MhOk s3.mh := foldl_ok (fun s e h => foldl_ok (fun s v h => mhOk_of (State.moveWant_mh _ _ _ _ _) h) h) h2
  have h4 : MhOk s4.mh := foldl_ok (fun s m h => mhOk_of (State.send_mh _ _ _ _ _) h) h3
  refine foldl_ok (fun s m h => ?_) h4
  dsimp only
  split
  · exact h
  · split
    · exact h
    · exact State.homeTake_ok h

theorem State.moveLine_ok {s : State} {a b : Nat} {copy : Bool} (hs : MhOk s.mh) : MhOk (State.moveLine s a b copy).mh := by
  unfold State.moveLine
  extract_lets lost s1 s2
  have h1 : MhOk s1.mh := State.recallLine_ok (State.recallLine_ok hs)
  clear_value s1
  refine State.moveSubs_ok ?_
  simp only [s2]
  split
  · exact mhOk_of (State.loseLine_mh _ _ _) h1
  · split
    · exact mhOk_mem (wf_putLine (mem_wf h1) _ _) (host_wf h1)
    · exact h1

theorem execMigrate_ok {s t : State} (hs : MhOk s.mh) (h : execMigrate s = .next t) : MhOk t.mh := by
  unfold execMigrate at h
  refine tueStep_ok (fun s c hs => ?_) hs h
  have leaf : ∀ u : State, MhOk u.mh → MhOk ((u.setLeaf (tcAsid c) (tcVa c) (fun _ _ => tcPte c)).invalidate (tcAsid c)
      (va57 (tcVa c) / 4096 * 4096) (va57 (tcVa c) / 4096 * 4096 + 4096)).mh :=
    fun u hu => mhOk_of (State.invalidate_mh _ _ _ _) (State.setLeaf_ok hu)
  dsimp only
  split
  · exact mhOk_of (s := (s.setLeaf (tcAsid c) (tcVa c) (fun _ _ => tcPte c)).invalidate (tcAsid c) _ _) rfl (leaf s hs)
  · split
    · exact mhOk_of (s := s) rfl hs
    · generalize hu : List.foldl (fun (s : State) k => s.moveLine _ _ _) s _ = u
      have hu2 : MhOk u.mh := by
        rw [← hu]
        exact foldl_ok (fun s k h => State.moveLine_ok h) hs
      exact State.moveHeld_ok (mhOk_of (s := (u.setLeaf (tcAsid c) (tcVa c) (fun _ _ => tcPte c)).invalidate (tcAsid c) _ _) rfl (leaf u hu2))

theorem State.tueWrite_ok {s : State} {c : BitVec 256} {v : Nat} {fin : State → State} {t : State}
    (hf : ∀ s, MhOk s.mh → MhOk (fin s).mh) (hs : MhOk s.mh) (h : s.tueWrite c v fin = .next t) : MhOk t.mh := by
  unfold State.tueWrite at h
  split at h
  · cases h
  · split at h
    · rename_i u hu
      obtain rfl := Host.Outcome.next.inj h; exact State.paPut_ok' hs hu
    · rename_i u hu
      obtain rfl := Host.Outcome.next.inj h; exact hf _ (State.paPut_ok' hs hu)

theorem execTueReservedCommand_ok {s t : State} (hs : MhOk s.mh) (h : execTueReservedCommand s = .next t) : MhOk t.mh := by
  unfold execTueReservedCommand at h
  split at h
  · obtain rfl := Host.Outcome.next.inj h; exact hs
  · split at h
    · cases h
    · dsimp only at h
      split at h
      · obtain rfl := Host.Outcome.next.inj h; exact hs
      · refine State.tueWrite_ok (fun s hs => ?_) hs h
        exact mhOk_of (s := s) rfl hs

theorem execTueDone_ok {s t : State} (hs : MhOk s.mh) (h : execTueDone s = .next t) : MhOk t.mh := by
  unfold execTueDone at h
  split at h
  · obtain rfl := Host.Outcome.next.inj h; exact hs
  · split at h
    · obtain rfl := Host.Outcome.next.inj h; exact hs
    · refine State.tueWrite_ok (fun s hs => ?_) hs h
      exact mhOk_of (s := s) rfl hs

theorem State.reqPage_ok {s : State} {r : Req} {w : Wg} {write : Bool} {va : DWord} (hs : MhOk s.mh) : ExOk (s.reqPage r w write va) := by
  have go : ∀ u : State, MhOk u.mh → ExOk (match u.pageX w write va with
    | .ok _ _ => Except.ok (match u.walk w.die w.asid va with
      | .ok e => if (u.cached w.die w.core w.asid va).isSome then u else u.cache w.die w.core e
      | _ => u)
    | .fault c => .error (u.reqFault r c va write)
    | .bind _ _ => .error u
    | .collapse => .error (u.collapseFor w.asid va r.id)) := by
    intro u hu
    split
    · refine ⟨fun t h => ?_, fun t h => (by cases h)⟩
      cases h
      split
      · split
        · exact hu
        · exact mhOk_of (State.cache_mh _ _ _ _) hu
      · exact hu
    · exact ⟨fun t h => (by cases h), fun t h => (by cases h; exact mhOk_of (State.reqFault_mh _ _ _ _ _) hu)⟩
    · exact ⟨fun t h => (by cases h), fun t h => (by cases h; exact hu)⟩
    · exact ⟨fun t h => (by cases h), fun t h => (by cases h; exact mhOk_of (State.collapseFor_mh _ _ _ _) hu)⟩
  unfold State.reqPage
  dsimp only
  split
  · split
    · rename_i h1
      exact go _ (State.bindPage_ok hs h1)
    · exact ⟨fun t h => (by cases h), fun t h => (by cases h; exact mhOk_of (State.reqFault_mh _ _ _ _ _) hs)⟩
  · exact go s hs

theorem State.reqRanges_ok {s : State} {r : Req} {w : Wg} {rs : List MRange} (hs : MhOk s.mh) : ExOk (s.reqRanges r w rs) := by
  unfold State.reqRanges
  have h0 : ExOk (.ok s) := ⟨fun t h => (by cases h; exact hs), fun t h => (by cases h)⟩
  revert h0
  generalize (Except.ok s : Except State State) = e
  generalize rs.flatMap (fun g => (pieceList g).map (fun p => (p.1, g.2.2))) = l
  intro h0
  induction l generalizing e with
  | nil => exact h0
  | cons a l ih =>
    refine ih _ ?_
    cases e with
    | ok t => exact State.reqPage_ok (h0.1 t rfl)
    | error t => exact h0

theorem State.copySrc_mh {s : State} {w : Wg} {hint : Nat} {ps : List (DWord × Nat)} {t : State} (h : s.copySrc w hint ps = .error t) : t.mh = s.mh := by
  unfold State.copySrc at h
  dsimp only at h
  split at h
  · cases h
    exact foldl_mh (fun s l => State.wantLine_mh _ _ _ _ _) _ _
  · cases h

theorem State.copyStep_ok {s : State} {r : Req} {w : Wg} {f : KF} {k : Nat} (hs : MhOk s.mh) : MhOk (State.copyStep s r w f k).mh := by
  unfold State.copyStep
  extract_lets len p src dst at_ kind srcMem dstMem hint
  split
  · rename_i hr
    exact (State.reqRanges_ok hs).2 _ hr
  · rename_i s1 hr
    have h1 := (State.reqRanges_ok hs).1 _ hr
    extract_lets todo rd
    split
    · rename_i hb
      exact mhOk_of (State.reqBad_mh hb) h1
    · split
      · rename_i he
        split at he
        · exact mhOk_of (State.copySrc_mh he) h1
        · cases he
      · dsimp only
        refine mhOk_of (State.reqMoved_mh _ _ _ _) ?_
        split
        · exact mhOk_of (State.reqWrite_mh _ _ _ _ _ _) h1
        · exact mhOk_of (State.putWg_mh _ _) h1

theorem execCopyComplete_ok {r n : Nat} {s : State} {t' : State} (hs : MhOk s.mh) (h : execCopyComplete r n s = .next t') : MhOk t'.mh := by
  unfold execCopyComplete at h
  refine reqGo_ok (fun q w => ?_) hs h
  clear * - hs
  repeat' (first | contradiction | split at h | (obtain rfl := Host.Outcome.next.inj h; clear h) | dsimp only at h)
  all_goals try clear h
  repeat' (first | assumption | split | (refine foldl_ok (fun _ _ h => ?_) ?_) | (refine foldl_fst_ok (fun _ _ h => ?_) ?_) | dsimp only)
  all_goals (try assumption)
  all_goals (try simp +contextual [*, foldl_mh, foldl_ok, State.copyStep_ok])
  repeat' (first | assumption | split | (refine foldl_ok (fun _ _ h => ?_) ?_) | (refine foldl_fst_ok (fun _ _ h => ?_) ?_))
  all_goals (try simp +contextual [*, foldl_mh, foldl_ok, State.copyStep_ok])

theorem State.drainRead_mh (s : State) (r : Req) (w : Wg) (z : Bool) : (s.drainRead r w z).1.mh = s.mh := by
  unfold State.drainRead
  split <;> rfl

theorem State.drainStep_ok {s : State} {r : Req} {w : Wg} {f : KF} (hs : MhOk s.mh) : MhOk (State.drainStep s r w f).mh := by
  unfold State.drainStep
  extract_lets mode base ctl pitch rows
  split
  · rename_i hr
    exact (State.reqRanges_ok hs).2 _ hr
  · rename_i s0 hr
    have h0 := (State.reqRanges_ok hs).1 _ hr
    split
    · rename_i hb
      exact mhOk_of (State.reqBad_mh hb) h0
    · split
      rename_i s1 r1 hd
      have h1 : MhOk s1.mh := mhOk_of ((congrArg (fun p => p.1.mh) hd).symm.trans (State.drainRead_mh _ _ _ _)) h0
      split
      · exact mhOk_of (State.drainAdd_mh _ _ _ _ _ _) h1
      · split
        · exact mhOk_of ((State.reqMoved_mh _ _ _ _).trans (State.putWg_mh _ _)) h1
        · exact mhOk_of (State.drainStore_mh _ _ _ _ _ _ _) h1

theorem execDrainPerform_ok {r : Nat} {s : State} {t' : State} (hs : MhOk s.mh) (h : execDrainPerform r s = .next t') : MhOk t'.mh := by
  unfold execDrainPerform at h
  refine reqGo_ok (fun q w => ?_) hs h
  clear * - hs
  repeat' (first | contradiction | split at h | (obtain rfl := Host.Outcome.next.inj h; clear h) | dsimp only at h)
  all_goals try clear h
  repeat' (first | assumption | split | (refine foldl_ok (fun _ _ h => ?_) ?_) | (refine foldl_fst_ok (fun _ _ h => ?_) ?_) | dsimp only)
  all_goals (try assumption)
  all_goals (try simp +contextual [*, foldl_mh, foldl_ok, State.drainStep_ok])
  repeat' (first | assumption | split | (refine foldl_ok (fun _ _ h => ?_) ?_) | (refine foldl_fst_ok (fun _ _ h => ?_) ?_))
  all_goals (try simp +contextual [*, foldl_mh, foldl_ok, State.drainStep_ok])

theorem State.bdeStep_ok {s : State} {r : Req} {w : Wg} {rs : List MRange} {out : State → List (Nat × Byte) × List MRange} (hs : MhOk s.mh) : MhOk (State.bdeStep s r w rs out).mh := by
  unfold State.bdeStep
  split
  · exact hs
  · extract_lets r1 s0
    have h0 : MhOk s0.mh := hs
    split
    · rename_i hr
      exact (State.reqRanges_ok h0).2 _ hr
    · rename_i s1 hr
      have h1 := (State.reqRanges_ok h0).1 _ hr
      split
      · exact mhOk_of (State.deliverReq_mh _ _ _ _) h1
      · dsimp only
        split
        · rename_i hb
          exact mhOk_of (State.reqBlocked_mh hb) h1
        · exact mhOk_of ((State.reqMoved_mh _ _ _ _).trans (State.splitWrite_mh _ _ _ _)) h1

theorem execBdeRequestComplete_ok {r : Nat} {s : State} {t' : State} (hs : MhOk s.mh) (h : execBdeRequestComplete r s = .next t') : MhOk t'.mh := by
  unfold execBdeRequestComplete at h
  refine reqGo_ok (fun q w => ?_) hs h
  clear * - hs
  repeat' (first | contradiction | split at h | (obtain rfl := Host.Outcome.next.inj h; clear h) | dsimp only at h)
  all_goals try clear h
  repeat' (first | assumption | split | (refine foldl_ok (fun _ _ h => ?_) ?_) | (refine foldl_fst_ok (fun _ _ h => ?_) ?_) | dsimp only)
  all_goals (try assumption)
  all_goals (try simp +contextual [*, foldl_mh, foldl_ok, State.bdeStep_ok])
  repeat' (first | assumption | split | (refine foldl_ok (fun _ _ h => ?_) ?_) | (refine foldl_fst_ok (fun _ _ h => ?_) ?_))
  all_goals (try simp +contextual [*, foldl_mh, foldl_ok, State.bdeStep_ok])

theorem State.saveImage_ok {s : State} {m : Image} {t' : State} (hs : MhOk s.mh) (h : State.saveImage s m = .next t') : MhOk t'.mh := by
  unfold State.saveImage at h
  split at h
  · obtain rfl := Host.Outcome.next.inj h
    exact mhOk_of (State.freezeFail_mh _ _ _) hs
  · dsimp only at h
    split at h
    · cases h
    · split at h
      · obtain rfl := Host.Outcome.next.inj h
        exact mhOk_of (State.snoopAsk_mh _ _) hs
      · obtain rfl := Host.Outcome.next.inj h
        refine mhOk_of ((State.cmdEnd_mh _).trans (State.postCmd_mh _ _ _ _ _)) ?_
        refine mhOk_of (s := (s.engineWrite _ {}).unload m) rfl (mhOk_of (State.unload_mh _ _) (State.engineWrite_ok hs))

theorem execDrainComplete_ok {s t : State} (hs : MhOk s.mh) (h : execDrainComplete s = .next t) : MhOk t.mh := by
  unfold execDrainComplete at h
  split at h
  · obtain rfl := Host.Outcome.next.inj h; exact hs
  · dsimp only at h
    have h0 : ∀ ps : List Pass, MhOk (ps.foldl (fun (s : State) p => s.passCheck p.id) s).mh := fun ps => foldl_ok (fun s p h => State.passCheck_ok h) hs
    split at h
    · obtain rfl := Host.Outcome.next.inj h; exact hs
    · exact State.saveImage_ok (h0 _) h

theorem execFreezeImageWrite_ok {s t : State} (hs : MhOk s.mh) (h : execFreezeImageWrite s = .next t) : MhOk t.mh := by
  unfold execFreezeImageWrite at h
  split at h
  · obtain rfl := Host.Outcome.next.inj h; exact hs
  · split at h
    · obtain rfl := Host.Outcome.next.inj h; exact hs
    · dsimp only at h
      have h0 : ∀ (ps : List Pass) (ws : List Wg), MhOk (ws.foldl (fun (s : State) w => s.dropSlots w) (ps.foldl (fun (s : State) p => s.passCheck p.id) s)).mh :=
        fun ps ws => foldl_ok (fun s w h => mhOk_of (State.dropSlots_mh _ _) h) (foldl_ok (fun s p h => State.passCheck_ok h) hs)
      split at h
      · obtain rfl := Host.Outcome.next.inj h; exact h0 _ _
      · exact State.saveImage_ok (h0 _ _) h

theorem State.resub_ok {s : State} {r : Req} (hs : MhOk s.mh) : MhOk (State.resub s r).mh := by
  unfold State.resub
  split
  · exact mhOk_of (s := s) rfl hs
  · split
    · exact mhOk_of (s := s) rfl hs
    · split
      · rename_i hr
        exact (State.reqRanges_ok hs).2 _ hr
      · rename_i s1 hr
        have h1 := (State.reqRanges_ok hs).1 _ hr
        split
        · split
          · exact mhOk_of (State.resubLost_mh _ _) h1
          · exact mhOk_of (State.subSend_mh _ _ _ _ _) (mhOk_of (s := s1) rfl h1)
        · exact h1

theorem State.resubAll_ok {s : State} (hs : MhOk s.mh) : MhOk (State.resubAll s).mh := by
  unfold State.resubAll
  exact foldl_ok (fun s r h => State.resub_ok h) hs

theorem State.recBack_ok {s : State} {d c : Nat} {r : GRec} (hs : MhOk s.mh) : MhOk (State.recBack s d c r).mh := by
  unfold State.recBack
  repeat' (first | assumption | split | (refine foldl_ok (fun _ _ h => ?_) ?_) | (refine foldl_fst_ok (fun _ _ h => ?_) ?_) | dsimp only)
  all_goals (try assumption)
  all_goals ((try have := State.recPut_ok (by assumption) (by assumption)))
  all_goals (try simp +contextual [*, foldl_mh, foldl_ok])
  repeat' (first | assumption | split | (refine foldl_ok (fun _ _ h => ?_) ?_) | (refine foldl_fst_ok (fun _ _ h => ?_) ?_))
  all_goals (try simp +contextual [*, foldl_mh, foldl_ok])

theorem State.moveRecs_ok {s : State} {d c : Nat} (hs : MhOk s.mh) : MhOk (s.moveRecs d c).mh := by
  unfold State.moveRecs
  dsimp only
  split
  · exact hs
  · exact foldl_ok (fun s r h => State.recBack_ok h) (mhOk_of (s := s) (by simp) hs)

theorem State.resumeOn_ok {s : State} {m : Image} {lc d c : Nat} (hs : MhOk s.mh) : MhOk (State.resumeOn s m lc d c).mh := by
  unfold State.resumeOn
  repeat' (first | assumption | split | (refine foldl_ok (fun _ _ h => ?_) ?_) | (refine foldl_fst_ok (fun _ _ h => ?_) ?_) | dsimp only)
  all_goals (try assumption)
  all_goals (try simp +contextual [*, foldl_mh, foldl_ok, State.recBack_ok])
  repeat' (first | assumption | split | (refine foldl_ok (fun _ _ h => ?_) ?_) | (refine foldl_fst_ok (fun _ _ h => ?_) ?_))
  all_goals (try simp +contextual [*, foldl_mh, foldl_ok, State.recBack_ok])

theorem State.resumeFit_ok {s : State} {l : List (Nat × Image)} (hs : MhOk s.mh) : MhOk (s.resumeFit l).1.mh := by
  induction l generalizing s with
  | nil => exact hs
  | cons e r ih =>
    unfold State.resumeFit
    split
    · exact ih hs
    · rename_i p hp
      exact ih (State.resumeOn_ok (mhOk_of (State.resumeCores_mh (maxBy_mem hp)) hs))

theorem State.resumeGo_ok {s : State} {ids : List Nat} (hs : MhOk s.mh) : MhOk (State.resumeGo s ids).mh := by
  unfold State.resumeGo
  exact State.resubAll_ok (foldl_ok (fun s i h => mhOk_of (State.accTry_mh _ _) h) (mhOk_of (State.restamp_mh _ _) hs))

theorem State.resumeStep_ok {s : State} (hs : MhOk s.mh) : MhOk (State.resumeStep s).mh := by
  have h0 := State.resumeFit_ok (l := s.sch.resuming) hs
  unfold State.resumeStep
  generalize s.resumeFit s.sch.resuming = q at h0
  dsimp only
  have h1 : MhOk (State.resumeGo { q.1 with sch := { q.1.sch with resuming := q.2.1 } } q.2.2).mh := State.resumeGo_ok (mhOk_of (s := q.1) rfl h0)
  split
  · exact mhOk_of (State.cmdEnd_mh _) h1
  · exact h1

theorem resumeLaunch_pass_ok {s1 : State} {l : Launch} {p : Nat} {c : Option Nat} {u : State} (h1 : MhOk s1.mh)
    (hq : (match s1.passFor l.asid l.pkt with
      | some (some (p, s2)) => if pkStage l.pkt ≠ 1 then some (p, none, s2) else match s2.passFor l.asid l.tmpl with
        | some (some (c, s3)) => some (p, some c, s3)
        | _ => none
      | _ => none) = some (p, c, u)) : MhOk u.mh := by
  split at hq
  · rename_i h2
    have h3 := mhOk_of (State.passFor_mh h2) h1
    split at hq
    · cases hq; exact h3
    · split at hq
      · rename_i h4
        cases hq; exact mhOk_of (State.passFor_mh h4) h3
      · cases hq
  · cases hq

theorem resumeLaunch_out_ok {q : Option (Nat × Option Nat × State)} {s1 : State} {l1 : Launch}
    (hq : ∀ p c u, q = some (p, c, u) → MhOk u.mh) (h1 : MhOk s1.mh) : MhOk (match q with
      | some (p, c, s2) => { s2 with sch := { s2.sch with launches := s2.sch.launches ++ [{ l1 with pass := some p, cpass := c }] } }
      | none => (s1.addLaunch { l1 with st := .ended }).postLaunch l1 stBAD_PACKET 0 0).mh := by
  split
  · rename_i p c s2
    exact mhOk_of (s := s2) rfl (hq _ _ _ rfl)
  · exact mhOk_of ((State.postLaunch_mh _ _ _ _ _).trans (State.addLaunch_mh _ _)) h1

theorem State.resumeLaunch_ok {s : State} {lo : Nat} {l : Launch} (hs : MhOk s.mh) : MhOk (State.resumeLaunch s lo l).mh := by
  unfold State.resumeLaunch
  extract_lets l1 _ s1 q
  have h1 : MhOk s1.mh := hs
  by_cases hc : l.pass.isSome = true ∧ l.open = true
  · rw [if_pos hc]
    exact resumeLaunch_out_ok (fun p c u hq => resumeLaunch_pass_ok h1 hq) h1
  · rw [if_neg hc]
    exact mhOk_of (s := s1) rfl h1

theorem State.cmdResume_ok {s t : State} {v : Nat} (hs : MhOk s.mh) (h : State.cmdResume s v = .next t) : MhOk t.mh := by
  unfold State.cmdResume at h
  refine ctxStart_ok (fun s a t hs h => ?_) hs h
  split at h
  · cases h
  · split at h
    · obtain rfl := Host.Outcome.next.inj h
      exact mhOk_of (State.resumeFail_mh _ _ _) hs
    · dsimp only at h
      split at h
      · obtain rfl := Host.Outcome.next.inj h
        exact mhOk_of (State.resumeFail_mh _ _ _) hs
      · have h1 : ∀ (ls : List Launch) (u : State), MhOk u.mh → MhOk (ls.foldl (fun (u : State) l => u.resumeLaunch s.sch.nextLaunch l) u).mh :=
          fun ls u hu => foldl_ok (fun s l h => State.resumeLaunch_ok h) hu
        split at h
        · obtain rfl := Host.Outcome.next.inj h
          exact mhOk_of (State.resumeFail_mh _ _ _) hs
        · obtain rfl := Host.Outcome.next.inj h
          refine State.resumeStep_ok ?_
          refine mhOk_of (s := List.foldl _ _ _) rfl (h1 _ _ ?_)
          exact mhOk_of (s := s) rfl hs

theorem execResume_ok {v : Nat} {s t : State} (hs : MhOk s.mh) (h : execResume v s = .next t) : MhOk t.mh := State.cmdResume_ok hs h

theorem execResumePlacement_ok {s t : State} (hs : MhOk s.mh) (h : execResumePlacement s = .next t) : MhOk t.mh := by
  unfold execResumePlacement at h
  split at h
  · split at h
    · obtain rfl := Host.Outcome.next.inj h; exact State.resumeStep_ok hs
    · obtain rfl := Host.Outcome.next.inj h; exact State.resubAll_ok hs
  · obtain rfl := Host.Outcome.next.inj h; exact State.resubAll_ok hs

theorem State.lineLost_ok {s : State} {ds : List Nat} {h line : Nat} {e : Dir} (hs : MhOk s.mh) : MhOk (State.lineLost s ds h line e).mh := by
  have hd := mhOk_of (State.delDir_mh s h line) hs
  have hl := mhOk_of (State.loseLine_mh s h line) hs
  unfold State.lineLost
  dsimp only
  split
  · exact hs
  · split
    · split
      · exact mhOk_mem (wf_putLine (mem_wf hs) _ _) (host_wf (mhOk_of (State.putDir_mh s _ _ _) hs))
      · split
        · exact hd
        · exact hl
    · split
      · exact hd
      · exact mhOk_of (State.putDir_mh _ _ _ _) hs

theorem lineSettle_end_ok {u : State} {h line : Nat} {v : Option (BitVec 1024)} {cur : Bool} (hu : MhOk u.mh) :
    MhOk (match v with
      | some d => { u.delDir h line with mem := u.mem.putLine line d }
      | none => if cur then u.delDir h line else u.loseLine h line).mh := by
  split
  · exact mhOk_mem (wf_putLine (mem_wf hu) _ _) (host_wf (mhOk_of (State.delDir_mh u _ _) hu))
  · split
    · exact mhOk_of (State.delDir_mh _ _ _) hu
    · exact mhOk_of (State.loseLine_mh _ _ _) hu

theorem State.lineSettle_ok {s : State} {h line : Nat} (hs : MhOk s.mh) : MhOk (State.lineSettle s h line).mh := by
  unfold State.lineSettle
  refine lineSettle_end_ok (foldl_ok (fun s e h => ?_) ?_)
  · split
    · exact mhOk_of (State.llcGone_mh _ _ _) h
    · exact h
  · exact mhOk_of (s := ((s.slice line).waits.filter (fun m => !m.k.settles)).foldl (fun (s : State) (m : Msg) => s.send m.src (sliceOf line) line m.k) s) rfl
      (foldl_ok (fun s m h => mhOk_of (State.send_mh _ _ _ _ _) h) hs)

theorem State.fabricLoss_ok {s : State} {ds : List Nat} (hs : MhOk s.mh) : MhOk (State.fabricLoss s ds).mh := by
  unfold State.fabricLoss
  repeat' (first | assumption | split | (refine foldl_ok (fun _ _ h => ?_) ?_) | (refine foldl_fst_ok (fun _ _ h => ?_) ?_) | dsimp only)
  all_goals (try assumption)
  all_goals (try simp +contextual [*, foldl_mh, foldl_ok, State.lineLost_ok, State.lineSettle_ok])
  repeat' (first | assumption | split | (refine foldl_ok (fun _ _ h => ?_) ?_) | (refine foldl_fst_ok (fun _ _ h => ?_) ?_))
  all_goals (try simp +contextual [*, foldl_mh, foldl_ok, State.lineLost_ok, State.lineSettle_ok])

theorem State.diesLost_ok {s : State} {ds : List Nat} (hs : MhOk s.mh) : MhOk (State.diesLost s ds).mh := by
  unfold State.diesLost
  split
  · exact hs
  · exact mhOk_of (s := ((s.workLoss ds).fabricLoss ds).standLoss ds) rfl
      (mhOk_of (State.standLoss_mh _ _) (State.fabricLoss_ok (mhOk_of (State.workLoss_mh _ _) hs)))

theorem State.remap_ok {s : State} {f : Pkg → Pkg} (hs : MhOk s.mh) : MhOk (State.remap s f).mh := by
  unfold State.remap
  dsimp only
  refine mhOk_of (s := State.buildMap _) rfl (mhOk_of (State.buildMap_mh _) (State.diesLost_ok ?_))
  exact mhOk_of (s := s) rfl hs

theorem State.dieOut_ok {s : State} {d : Nat} (hs : MhOk s.mh) : MhOk (State.dieOut s d).mh := by
  unfold State.dieOut
  repeat' (first | assumption | split | (refine foldl_ok (fun _ _ h => ?_) ?_) | (refine foldl_fst_ok (fun _ _ h => ?_) ?_) | dsimp only)
  all_goals (try assumption)
  all_goals (try simp +contextual [*, foldl_mh, foldl_ok, State.remap_ok])
  repeat' (first | assumption | split | (refine foldl_ok (fun _ _ h => ?_) ?_) | (refine foldl_fst_ok (fun _ _ h => ?_) ?_))
  all_goals (try simp +contextual [*, foldl_mh, foldl_ok, State.remap_ok])

theorem State.linkOut_ok {s : State} {n : Nat} (hs : MhOk s.mh) : MhOk (State.linkOut s n).mh := by
  unfold State.linkOut
  repeat' (first | assumption | split | (refine foldl_ok (fun _ _ h => ?_) ?_) | (refine foldl_fst_ok (fun _ _ h => ?_) ?_) | dsimp only)
  all_goals (try assumption)
  all_goals (try simp +contextual [*, foldl_mh, foldl_ok, State.remap_ok])
  repeat' (first | assumption | split | (refine foldl_ok (fun _ _ h => ?_) ?_) | (refine foldl_fst_ok (fun _ _ h => ?_) ?_))
  all_goals (try simp +contextual [*, foldl_mh, foldl_ok, State.remap_ok])

theorem State.coreOut_ok {s : State} {d c : Nat} (hs : MhOk s.mh) : MhOk (State.coreOut s d c).mh := by
  unfold State.coreOut
  repeat' (first | assumption | split | (refine foldl_ok (fun _ _ h => ?_) ?_) | (refine foldl_fst_ok (fun _ _ h => ?_) ?_) | dsimp only)
  all_goals (try assumption)
  all_goals (try simp +contextual [*, foldl_mh, foldl_ok, State.remap_ok])
  repeat' (first | assumption | split | (refine foldl_ok (fun _ _ h => ?_) ?_) | (refine foldl_fst_ok (fun _ _ h => ?_) ?_))
  all_goals (try simp +contextual [*, foldl_mh, foldl_ok, State.remap_ok])

theorem execDieMapChange_ok {kind i : Nat} {s : State} {t' : State} (hs : MhOk s.mh) (h : execDieMapChange kind i s = .next t') : MhOk t'.mh := by
  unfold execDieMapChange at h
  repeat' (first | contradiction | split at h | (obtain rfl := Host.Outcome.next.inj h; clear h) | dsimp only at h)
  all_goals try clear h
  repeat' (first | assumption | split | (refine foldl_ok (fun _ _ h => ?_) ?_) | (refine foldl_fst_ok (fun _ _ h => ?_) ?_) | dsimp only)
  all_goals (try assumption)
  all_goals (try simp +contextual [*, foldl_mh, foldl_ok, State.dieOut_ok, State.linkOut_ok])
  repeat' (first | assumption | split | (refine foldl_ok (fun _ _ h => ?_) ?_) | (refine foldl_fst_ok (fun _ _ h => ?_) ?_))
  all_goals (try simp +contextual [*, foldl_mh, foldl_ok, State.dieOut_ok, State.linkOut_ok])

theorem execPowerOn_ok {dies links fw : Nat} {s t : State} (hs : MhOk s.mh) (h : execPowerOn dies links fw s = .next t) : MhOk t.mh := by
  have hb : MhOk (s.bootMem, s.host) := ⟨wf_filter (mem_wf hs) _, host_wf hs⟩
  unfold execPowerOn at h
  dsimp only at h
  split at h
  · obtain rfl := Host.Outcome.next.inj h; exact hs
  · split at h
    · obtain rfl := Host.Outcome.next.inj h; exact mhOk_of (State.bootFail_mh _ _ _) hs
    · split at h
      · obtain rfl := Host.Outcome.next.inj h; exact mhOk_of (State.bootFail_mh _ _ _) hs
      · split at h
        · obtain rfl := Host.Outcome.next.inj h
          exact mhOk_of ((State.bootFail_mh _ _ _).trans rfl) hs
        · split at h
          · obtain rfl := Host.Outcome.next.inj h
            have := (State.bootFail_mh (State.bootMap { s with pkg := { s.pkg with timeOff := 2 ^ 64 - 2 * s.x.clk / 3 % 2 ^ 64 }, mem := s.bootMem } { dies := dies, links := links, fw := fw }) 6 1).trans (State.bootMap_mh _ _)
            exact this ▸ hb
          · obtain rfl := Host.Outcome.next.inj h
            have := (State.bootReady_mh (State.bootMap { s with pkg := { s.pkg with timeOff := 2 ^ 64 - 2 * s.x.clk / 3 % 2 ^ 64 }, mem := s.bootMem } { dies := dies, links := links, fw := fw }) { dies := dies, links := links, fw := fw }).trans (State.bootMap_mh _ _)
            exact this ▸ hb

theorem execPowerRemoved_ok {s t : State} (hs : MhOk s.mh) (h : execPowerRemoved s = .next t) : MhOk t.mh := by
  unfold execPowerRemoved at h
  obtain rfl := Host.Outcome.next.inj h
  have h1 := State.fabricLoss_ok (ds := List.range Config.nDies) hs
  generalize s.fabricLoss (List.range Config.nDies) = u at h1
  exact ⟨wf_filter (mem_wf h1) _, host_wf h1⟩

theorem execAttestationReport_ok {v : Nat} {s t : State} (hs : MhOk s.mh) (h : execAttestationReport v s = .next t) : MhOk t.mh := by
  unfold execAttestationReport at h
  split at h
  · obtain rfl := Host.Outcome.next.inj h; exact mhOk_of (State.attWrite_mh _ _) hs
  · split at h
    · obtain rfl := Host.Outcome.next.inj h; exact hs
    · dsimp only at h
      split at h
      · cases h
      · split at h
        · rename_i u hu
          obtain rfl := Host.Outcome.next.inj h
          exact State.paPut_ok' hs hu
        · rename_i u hu
          obtain rfl := Host.Outcome.next.inj h
          exact mhOk_of (s := u) rfl (State.paPut_ok' hs hu)

theorem State.moveCore_ok {s t : State} {d c a : Nat} (hs : MhOk s.mh) (h : State.moveCore s d c a = some t) : MhOk t.mh := by
  unfold State.moveCore at h
  extract_lets ws cx gs m0 own m s1 k k1 _ gfx _ s2 s3 q at h
  have h1 : MhOk s1.mh := foldl_ok (fun s w h => mhOk_of (State.dropWg_mh _ _) h) hs
  have h3 : MhOk s3.mh := mhOk_of (State.setCtx_mh _ _ _) (mhOk_of (s := s1) rfl h1)
  have h4 : MhOk q.1.mh := State.resumeFit_ok h3
  clear_value q
  split at h
  · cases h
  · obtain rfl := Option.some.inj h
    refine State.resumeGo_ok ?_
    exact mhOk_of (s := q.1) rfl h4

theorem State.leaveCore_ok {s : State} {d c a : Nat} (hs : MhOk s.mh) : MhOk (State.leaveCore s d c a).mh := by
  unfold State.leaveCore
  split
  · exact mhOk_of ((State.postCmd_mh _ _ _ _ _).trans (State.killCtx_mh _ _)) hs
  · split
    · rename_i hm
      exact State.moveCore_ok hs hm
    · exact mhOk_of ((State.postCmd_mh _ _ _ _ _).trans (State.killCtx_mh _ _)) hs

theorem execIslandGate_ok {i : Nat} {s t : State} (hs : MhOk s.mh) (h : execIslandGate i s = .next t) : MhOk t.mh := by
  unfold execIslandGate at h
  dsimp only at h
  split at h
  · obtain rfl := Host.Outcome.next.inj h; exact hs
  · split at h
    · obtain rfl := Host.Outcome.next.inj h
      exact mhOk_of (State.setIsland_mh _ _ _) hs
    · split at h
      · obtain rfl := Host.Outcome.next.inj h
        exact State.dieOut_ok (mhOk_of (State.setIsland_mh _ _ _) hs)
      · split at h
        · obtain rfl := Host.Outcome.next.inj h; exact hs
        · obtain rfl := Host.Outcome.next.inj h
          refine State.coreOut_ok (mhOk_of (State.setIsland_mh _ _ _) (State.moveRecs_ok ?_))
          refine foldl_ok (fun s a h => State.leaveCore_ok h) ?_
          exact mhOk_of (s := s) rfl hs

theorem execLinkTrainingEnd_ok {k ok : Nat} {s : State} {t' : State} (hs : MhOk s.mh) (h : execLinkTrainingEnd k ok s = .next t') : MhOk t'.mh := by
  unfold execLinkTrainingEnd at h
  repeat' (first | contradiction | split at h | (obtain rfl := Host.Outcome.next.inj h; clear h) | dsimp only at h)
  all_goals try clear h
  repeat' (first | assumption | split | (refine foldl_ok (fun _ _ h => ?_) ?_) | (refine foldl_fst_ok (fun _ _ h => ?_) ?_) | dsimp only)
  all_goals (try assumption)
  all_goals (try simp +contextual [*, foldl_mh, foldl_ok, State.linkOut_ok])
  repeat' (first | assumption | split | (refine foldl_ok (fun _ _ h => ?_) ?_) | (refine foldl_fst_ok (fun _ _ h => ?_) ?_))
  all_goals (try simp +contextual [*, foldl_mh, foldl_ok, State.linkOut_ok])

theorem State.command_ok {s t : State} {v : Nat} (hs : MhOk s.mh) (h : State.command s v = .next t) : MhOk t.mh := by
  unfold State.command at h
  split at h
  · obtain rfl := Host.Outcome.next.inj h; exact mhOk_of (State.ctxFields_mh _ _) hs
  · exact mhOk_of (State.cmdDrain_mh h) hs
  · exact mhOk_of (State.cmdFreeze_mh h) hs
  · exact mhOk_of (State.cmdKill_mh h) hs
  · exact State.cmdResume_ok hs h
  · obtain rfl := Host.Outcome.next.inj h
    exact mhOk_of (State.ctxFields_mh s (BitVec.ofNat 64 v)) hs

theorem ite_next_ok {c : Prop} [Decidable c] {a b : Host.Outcome State Fault Refusal} {t : State} (h : (if c then a else b) = .next t)
    (ha : a = .next t → MhOk t.mh) (hb : b = .next t → MhOk t.mh) : MhOk t.mh := by
  by_cases hc : c
  · rw [if_pos hc] at h; exact ha h
  · rw [if_neg hc] at h; exact hb h

theorem next_ok {u t : State} (hu : MhOk u.mh) (h : (Host.Outcome.next u : Host.Outcome State Fault Refusal) = .next t) : MhOk t.mh := by
  cases h; exact hu

theorem setSch_ok {s : State} (hs : MhOk s.mh) (c : Sched) : MhOk (State.mh { s with sch := c }) := hs

theorem setTue_ok {s : State} (hs : MhOk s.mh) (c : Tue) : MhOk (State.mh { s with tue := c }) := hs

theorem State.writePkg_ok {s t : State} {off v : Nat} (hs : MhOk s.mh) (h : State.writePkg s off v = .next t) : MhOk t.mh := by
  unfold State.writePkg at h
  refine ite_next_ok h (next_ok (mhOk_of (State.fwWrite_mh _ _) hs)) fun h => ?_
  refine ite_next_ok h (State.command_ok hs) fun h => ?_
  refine ite_next_ok h (next_ok (setSch_ok hs _)) fun h => ?_
  refine ite_next_ok h (next_ok (setSch_ok hs _)) fun h => ?_
  refine ite_next_ok h (next_ok (setTue_ok hs _)) fun h => ?_
  refine ite_next_ok h (fun h => mhOk_of (State.tueSet_mh h) hs) fun h => ?_
  refine ite_next_ok h (fun h => mhOk_of (State.tueRing_mh h) hs) fun h => ?_
  refine ite_next_ok h (next_ok (setSch_ok hs _)) fun h => ?_
  refine ite_next_ok h (next_ok (setSch_ok hs _)) fun h => ?_
  refine ite_next_ok h (next_ok (setSch_ok hs _)) fun h => ?_
  exact ite_next_ok h (fun h => mhOk_of (State.respond_mh h) hs) (next_ok hs)

theorem State.writeDie_ok {s t : State} {d r v : Nat} (hs : MhOk s.mh) (h : State.writeDie s d r v = .next t) : MhOk t.mh := by
  unfold State.writeDie at h
  dsimp only at h
  have hd : ∀ k, MhOk (s.setDie d k).mh := fun k => mhOk_of (State.setDie_mh _ _ _) hs
  refine ite_next_ok h (next_ok (mhOk_of (State.waysWrite_mh _ _ _) hs)) fun h => ?_
  refine ite_next_ok h (next_ok (hd _)) fun h => ?_
  refine ite_next_ok h (next_ok (hd _)) fun h => ?_
  refine ite_next_ok h (next_ok (hd _)) fun h => ?_
  refine ite_next_ok h (next_ok (hd _)) fun h => ?_
  refine ite_next_ok h (State.reclaim_ok hs) fun h => ?_
  refine ite_next_ok h (next_ok (hd _)) fun h => ?_
  refine ite_next_ok h (State.biasCmd_ok hs) fun h => ?_
  refine ite_next_ok h (next_ok (hd _)) fun h => ?_
  refine ite_next_ok h (next_ok (hd _)) fun h => ?_
  exact ite_next_ok h (next_ok (hd _)) (next_ok hs)

theorem execRegisterWrite_ok {off v : Nat} {s : State} {t' : State} (hs : MhOk s.mh) (h : execRegisterWrite off v s = .next t') : MhOk t'.mh := by
  unfold execRegisterWrite at h
  repeat' (first | contradiction | split at h | (obtain rfl := Host.Outcome.next.inj h; clear h) | (exact State.writeDie_ok hs h) | (exact State.writePkg_ok hs h) | (exact mhOk_of (State.writeCtx_mh h) hs) | (exact mhOk_of (State.writeQueue_mh h) hs) | dsimp only at h)
  all_goals try clear h
  repeat' (first | assumption | split | (refine foldl_ok (fun _ _ h => ?_) ?_) | (refine foldl_fst_ok (fun _ _ h => ?_) ?_) | dsimp only)
  all_goals (try assumption)
  all_goals (try simp +contextual [*, foldl_mh, foldl_ok])
  repeat' (first | assumption | split | (refine foldl_ok (fun _ _ h => ?_) ?_) | (refine foldl_fst_ok (fun _ _ h => ?_) ?_))
  all_goals (try simp +contextual [*, foldl_mh, foldl_ok])

end Sys2Proof.Machine
end

