-- ==== Sys2Proof/Laws/Look.lean ====
section
/-!
SUPPORT. Finding and replacing the parts of the state: a part that has just been replaced is found, every other part
is as before, and what issuing adds to the group of an instruction.
-/

set_option linter.unusedVariables false

namespace Sys2Proof.Machine

/-! ### Lists -/

theorem find?_updFirst_self {α : Type} (p : α → Bool) (v : α) (hv : p v = true) {l : List α} {u : α} (h : l.find? p = some u) :
    (updFirst p (fun _ => v) l).find? p = some v := by
  induction l with
  | nil => cases h
  | cons x r ih =>
    unfold updFirst
    rw [List.find?_cons] at h
    by_cases hx : p x = true
    · rw [if_pos hx, List.find?_cons, hv]
    · rw [if_neg hx, List.find?_cons]
      simp only [Bool.not_eq_true] at hx
      rw [hx] at h ⊢
      exact ih h

theorem find?_updFirst_ne {α : Type} (p q : α → Bool) (v : α) (hv : q v = false) (hd : ∀ x, p x = true → q x = false) (l : List α) :
    (updFirst p (fun _ => v) l).find? q = l.find? q := by
  induction l with
  | nil => rfl
  | cons x r ih =>
    unfold updFirst
    by_cases hx : p x = true
    · rw [if_pos hx, List.find?_cons, List.find?_cons, hv, hd x hx]
    · rw [if_neg hx, List.find?_cons, List.find?_cons, ih]

theorem mem_updFirst_of_ne {α : Type} {p : α → Bool} {v x : α} {l : List α} (hx : x ∈ l) (hp : p x = false) :
    x ∈ updFirst p (fun _ => v) l := by
  induction l with
  | nil => cases hx
  | cons y r ih =>
    unfold updFirst
    rcases List.mem_cons.1 hx with rfl | h
    · rw [hp]; simp
    · split
      · exact List.mem_cons_of_mem _ h
      · exact List.mem_cons_of_mem _ (ih h)

theorem updFirst_none {α : Type} {p : α → Bool} {f : α → α} {l : List α} (h : l.find? p = none) : updFirst p f l = l := by
  induction l with
  | nil => rfl
  | cons x r ih =>
    rw [List.find?_cons] at h
    unfold updFirst
    split at h
    · cases h
    · rename_i hx
      rw [hx, ih h]; simp

/-! ### Workgroups and groups -/

@[simp] theorem Exec.wg?_id {x : Exec} {i : Nat} {w : Wg} (h : x.wg? i = some w) : w.id = i := by
  have := List.find?_some h
  simpa using this

theorem Exec.wg?_setWg_self {x : Exec} {w u : Wg} (h : x.wg? w.id = some u) : (x.setWg w).wg? w.id = some w := by
  unfold Exec.wg? at h ⊢
  unfold Exec.setWg
  exact find?_updFirst_self (fun u => u.id == w.id) w (by simp) h

theorem Exec.wg?_setWg_self' {x : Exec} {w u : Wg} {i : Nat} (hi : w.id = i) (h : x.wg? i = some u) : (x.setWg w).wg? i = some w := by
  subst hi; exact Exec.wg?_setWg_self h

theorem Exec.wg?_setWg_ne {x : Exec} {w : Wg} {i : Nat} (h : i ≠ w.id) : (x.setWg w).wg? i = x.wg? i := by
  refine find?_updFirst_ne _ _ w (by simpa using Ne.symm h) (fun u hu => ?_) x.wgs
  simp only [beq_iff_eq] at hu
  simp only [beq_eq_false_iff_ne]
  omega

@[simp] theorem Exec.setWg_accs (x : Exec) (w : Wg) : (x.setWg w).accs = x.accs := rfl
@[simp] theorem Exec.setWg_reqs (x : Exec) (w : Wg) : (x.setWg w).reqs = x.reqs := rfl
@[simp] theorem Exec.setWg_cores (x : Exec) (w : Wg) : (x.setWg w).cores = x.cores := rfl
@[simp] theorem Exec.setWg_clk (x : Exec) (w : Wg) : (x.setWg w).clk = x.clk := rfl
@[simp] theorem Exec.setWg_nextId (x : Exec) (w : Wg) : (x.setWg w).nextId = x.nextId := rfl
@[simp] theorem Exec.core_setWg (x : Exec) (w : Wg) (d c : Nat) : (x.setWg w).core d c = x.core d c := rfl
@[simp] theorem Exec.setCore_wgs (x : Exec) (d c : Nat) (k : Core) : (x.setCore d c k).wgs = x.wgs := rfl
@[simp] theorem Exec.setCore_accs (x : Exec) (d c : Nat) (k : Core) : (x.setCore d c k).accs = x.accs := rfl
@[simp] theorem Exec.setCore_reqs (x : Exec) (d c : Nat) (k : Core) : (x.setCore d c k).reqs = x.reqs := rfl
@[simp] theorem Exec.setCore_clk (x : Exec) (d c : Nat) (k : Core) : (x.setCore d c k).clk = x.clk := rfl
@[simp] theorem Exec.wg?_setCore (x : Exec) (d c : Nat) (k : Core) (i : Nat) : (x.setCore d c k).wg? i = x.wg? i := rfl
@[simp] theorem Exec.core_setCore_self (x : Exec) (d c : Nat) (k : Core) : (x.setCore d c k).core d c = k := by
  unfold Exec.core Exec.setCore; simp

theorem Wg.grp?_setGrp_self {w : Wg} {g h : Group} (hg : w.grp? g.idx = some h) : (w.setGrp g).grp? g.idx = some g := by
  unfold Wg.grp? Wg.setGrp at *
  simp only
  rw [List.getElem?_set_self]
  exact (List.getElem?_eq_some_iff.1 hg).1

theorem Wg.grp?_setGrp_ne {w : Wg} {g : Group} {i : Nat} (h : i ≠ g.idx) : (w.setGrp g).grp? i = w.grp? i := by
  unfold Wg.grp? Wg.setGrp
  simp only
  rw [List.getElem?_set_ne (Ne.symm h)]

@[simp] theorem Wg.setGrp_id (w : Wg) (g : Group) : (w.setGrp g).id = w.id := rfl

/-! ### Lanes -/

theorem Group.lane_onLanes (g : Group) (ls : List Nat) (f : Nat → Lane → Lane) (l : Nat) :
    (g.onLanes ls f).lane l = if l < g.lanes.length ∧ l ∈ ls then f l (g.lane l) else g.lane l := by
  unfold Group.onLanes Group.lane
  simp only [List.getElem?_mapIdx]
  by_cases hl : l < g.lanes.length
  · simp [hl]
  · simp [hl]

/-- A live lane is one of the group's lanes. -/
theorem Group.live_lt {g : Group} {l : Nat} (h : (g.lane l).st = .live) : l < g.lanes.length := by
  by_contra hn
  unfold Group.lane at h
  rw [List.getElem?_eq_none (by omega)] at h
  cases h

theorem Group.lane_setLane_self {g : Group} {l : Nat} (h : l < g.lanes.length) (t : Lane) : (g.setLane l t).lane l = t := by
  unfold Group.setLane Group.lane
  simp [h]

theorem Group.lane_setLane_ne (g : Group) {l k : Nat} (h : k ≠ l) (t : Lane) : (g.setLane l t).lane k = g.lane k := by
  unfold Group.setLane Group.lane
  simp only
  rw [List.getElem?_set_ne (Ne.symm h)]

/-! ### What a selected instruction finds -/

/-- The state in which the effect takes place holds the workgroup that the instruction found. -/
theorem State.pick_wg {s : State} {i : Instr} {c : Cx} {y : Bool} (h : s.pick i = some (c, y)) :
    (s.base c).x.wg? c.w.id = some c.w ∧ c.sl = s.x.cur := by
  unfold State.pick at h
  split at h
  · cases h
  rename_i sl hcur
  split at h
  · cases h
  rename_i w hw
  split at h
  · cases h
  rename_i g0 hg
  split at h
  · cases h
  simp only [Option.some.injEq, Prod.mk.injEq] at h
  obtain ⟨rfl, rfl⟩ := h
  refine ⟨?_, by rw [hcur]⟩
  have hid := Exec.wg?_id hw
  exact Exec.wg?_setWg_self (u := w) (by simp only [Wg.setGrp_id]; rw [hid]; exact hw)

/-- The lanes that execute are among those that issue, and each of these is a live lane of the group. -/
theorem State.pick_lanes {s : State} {i : Instr} {c : Cx} {y : Bool} (h : s.pick i = some (c, y)) :
    (∀ l ∈ c.ex, l ∈ c.iss) ∧ ∀ l ∈ c.iss, l < 32 ∧ l < c.g.lanes.length ∧ (c.g.lane l).st = .live := by
  unfold State.pick at h
  split at h
  · cases h
  rename_i sl hcur
  split at h
  · cases h
  rename_i w hw
  split at h
  · cases h
  rename_i g0 hg
  split at h
  · cases h
  rename_i l0 r hl
  simp only [Option.some.injEq, Prod.mk.injEq] at h
  obtain ⟨rfl, rfl⟩ := h
  refine ⟨fun l hx => (List.mem_filter.1 hx).1, fun l hx => ?_⟩
  dsimp only at hx ⊢
  rw [← hl] at hx
  obtain ⟨h1, h2⟩ := List.mem_filter.1 hx
  have h3 : (g0.lane l).st = .live := by simpa using h2
  have h32 : l < 32 := by
    unfold lanesOf at h1
    exact List.mem_range.1 (List.mem_filter.1 h1).1
  have hlt := Group.live_lt h3
  refine ⟨h32, ?_, ?_⟩
  · simpa [Group.onLanes] using hlt
  · rw [Group.lane_onLanes, Group.lane_onLanes]
    have hm : l ∈ l0 :: r := by rw [← hl]; exact hx
    rw [if_pos ⟨by simpa [Group.onLanes] using hlt, hm⟩, if_pos ⟨hlt, hm⟩]
    unfold Lane.advance Lane.open_
    split <;> exact h3

/-! ### The group replaced, and what issuing adds -/

theorem State.putGrp_wg {s : State} {wi : Nat} {w : Wg} (h : s.x.wg? wi = some w) (g : Group) :
    s.putGrp wi g = { s with x := s.x.setWg (w.setGrp g) } := by
  unfold State.putGrp
  rw [h]

theorem State.putGrp_wg? {s : State} {wi : Nat} {w : Wg} (h : s.x.wg? wi = some w) (g : Group) :
    (s.putGrp wi g).x.wg? wi = some (w.setGrp g) := by
  rw [State.putGrp_wg h]
  have hid := Exec.wg?_id h
  exact Exec.wg?_setWg_self' (by rw [Wg.setGrp_id]; exact hid) h

/-- The execution state after an instruction of a group has issued (R32, R34): its datapath busy, one more issued, its
pending writes, and a new age after YLD. -/
def Exec.afterIssue (x : Exec) (i : Instr) (c : Cx) (y : Bool) (w : Wg) (g : Group) : Exec :=
  let k := x.core w.die w.core
  let x1 := x.setCore w.die w.core { k with busy := k.busy.set (g.idx % 4) (max ((k.busy[g.idx % 4]?).getD 0) (x.clk + occupancy i)) }
  let x2 := if y then { x1 with nextAge := x1.nextAge + 1 } else x1
  x2.setWg (w.setGrp { g with issued := g.issued + 1, age := if y then x.nextAge else g.age, busy := g.busy ++ pendWrites i x.clk c.ex })

theorem State.issued_eq {s : State} {c : Cx} {w : Wg} {g : Group} (i : Instr) (y : Bool) (hw : s.x.wg? c.w.id = some w)
    (hg : w.grp? c.g.idx = some g) : s.issued i c y false = { s with x := s.x.afterIssue i c y w g } := by
  unfold State.issued
  rw [hw]
  dsimp only
  rw [hg]
  dsimp only
  rw [Bool.false_and, Bool.false_and, if_neg (by decide)]
  rfl

theorem State.issued_none {s : State} {c : Cx} (i : Instr) (y : Bool) (h : ∀ w, s.x.wg? c.w.id = some w → w.grp? c.g.idx = none) :
    s.issued i c y false = s := by
  unfold State.issued
  cases hw : s.x.wg? c.w.id with
  | none => rfl
  | some w => simp only [h w hw]

theorem State.issued_cases (s : State) (i : Instr) (c : Cx) (y : Bool) :
    s.issued i c y false = s ∨ ∃ w g, s.x.wg? c.w.id = some w ∧ w.grp? c.g.idx = some g ∧
      s.issued i c y false = { s with x := s.x.afterIssue i c y w g } := by
  cases hw : s.x.wg? c.w.id with
  | none => exact .inl (State.issued_none i y (fun w h => by rw [hw] at h; cases h))
  | some w =>
    cases hg : w.grp? c.g.idx with
    | none => exact .inl (State.issued_none i y (fun u h => by rw [hw] at h; obtain rfl := Option.some.inj h; exact hg))
    | some g => exact .inr ⟨w, g, rfl, hg, State.issued_eq i y hw hg⟩

@[simp] theorem Exec.afterIssue_accs (x : Exec) (i : Instr) (c : Cx) (y : Bool) (w : Wg) (g : Group) : (x.afterIssue i c y w g).accs = x.accs := by
  unfold Exec.afterIssue; cases y <;> rfl
@[simp] theorem Exec.afterIssue_reqs (x : Exec) (i : Instr) (c : Cx) (y : Bool) (w : Wg) (g : Group) : (x.afterIssue i c y w g).reqs = x.reqs := by
  unfold Exec.afterIssue; cases y <;> rfl
@[simp] theorem Exec.afterIssue_clk (x : Exec) (i : Instr) (c : Cx) (y : Bool) (w : Wg) (g : Group) : (x.afterIssue i c y w g).clk = x.clk := by
  unfold Exec.afterIssue; cases y <;> rfl
@[simp] theorem Exec.afterIssue_nextId (x : Exec) (i : Instr) (c : Cx) (y : Bool) (w : Wg) (g : Group) : (x.afterIssue i c y w g).nextId = x.nextId := by
  unfold Exec.afterIssue; cases y <;> rfl
@[simp] theorem Exec.afterIssue_free (x : Exec) (i : Instr) (c : Cx) (y : Bool) (w : Wg) (g : Group) : (x.afterIssue i c y w g).free = x.free := by
  unfold Exec.afterIssue; cases y <;> rfl
@[simp] theorem Exec.afterIssue_cur (x : Exec) (i : Instr) (c : Cx) (y : Bool) (w : Wg) (g : Group) : (x.afterIssue i c y w g).cur = x.cur := by
  unfold Exec.afterIssue; cases y <;> rfl

/-- Only the clocks of the datapaths differ in the cores. -/
theorem Exec.afterIssue_core (x : Exec) (i : Instr) (c : Cx) (y : Bool) (w : Wg) (g : Group) (d k : Nat) :
    ∃ b, (x.afterIssue i c y w g).core d k = { x.core d k with busy := b } := by
  unfold Exec.afterIssue Exec.core Exec.setCore
  by_cases e : coreNo d k = coreNo w.die w.core
  · refine ⟨(x.core w.die w.core).busy.set (g.idx % 4) (max (((x.core w.die w.core).busy[g.idx % 4]?).getD 0) (x.clk + occupancy i)), ?_⟩
    cases y <;> simp [e, cget_cset_self, Exec.core]
  · refine ⟨(x.core d k).busy, ?_⟩
    cases y <;> simp [cget_cset_ne _ e, Exec.core]

/-- The group and the workgroup of the instruction. -/
theorem Exec.afterIssue_wg {x : Exec} {w : Wg} {k : Nat} (i : Instr) (c : Cx) (y : Bool) (g : Group) (hw : x.wg? k = some w) :
    (x.afterIssue i c y w g).wg? k =
      some (w.setGrp { g with issued := g.issued + 1, age := if y then x.nextAge else g.age, busy := g.busy ++ pendWrites i x.clk c.ex }) := by
  have hid := Exec.wg?_id hw
  unfold Exec.afterIssue
  refine Exec.wg?_setWg_self' (u := w) (by rw [Wg.setGrp_id]; exact hid) ?_
  cases y <;> exact hw

/-- Every other workgroup is as it was. -/
theorem Exec.afterIssue_other (x : Exec) (i : Instr) (c : Cx) (y : Bool) (w : Wg) (g : Group) {k : Nat} (h : k ≠ w.id) :
    (x.afterIssue i c y w g).wg? k = x.wg? k := by
  unfold Exec.afterIssue
  dsimp only
  rw [Exec.wg?_setWg_ne (by rw [Wg.setGrp_id]; exact h)]
  cases y <;> rfl

/-- Nothing outside the execution state changes when an instruction has issued, nor do the accesses, the requests and
the clock. -/
theorem State.issued_outside (s : State) (i : Instr) (c : Cx) (y : Bool) :
    SameOutside s (s.issued i c y false) ∧ (s.issued i c y false).sch = s.sch ∧ (s.issued i c y false).tue = s.tue ∧
      (s.issued i c y false).x.accs = s.x.accs ∧ (s.issued i c y false).x.reqs = s.x.reqs ∧
      (s.issued i c y false).x.clk = s.x.clk ∧ (s.issued i c y false).x.nextId = s.x.nextId := by
  rcases State.issued_cases s i c y with h | ⟨w, g, hw, hg, h⟩ <;> rw [h]
  · exact ⟨⟨rfl, rfl, rfl, rfl, rfl, rfl⟩, rfl, rfl, rfl, rfl, rfl, rfl⟩
  · exact ⟨⟨rfl, rfl, rfl, rfl, rfl, rfl⟩, rfl, rfl, by simp, by simp, by simp, by simp⟩

theorem State.issued_core (s : State) (i : Instr) (c : Cx) (y : Bool) (d k : Nat) :
    ∃ b, (s.issued i c y false).x.core d k = { s.x.core d k with busy := b } := by
  rcases State.issued_cases s i c y with h | ⟨w, g, hw, hg, h⟩ <;> rw [h]
  · exact ⟨_, rfl⟩
  · exact Exec.afterIssue_core ..

/-- The group of an instruction that has issued: one more issued, its pending writes, a new age after YLD. -/
theorem State.issued_grp {s : State} {c : Cx} {w : Wg} {g : Group} (i : Instr) (y : Bool) (hw : s.x.wg? c.w.id = some w)
    (hg : w.grp? c.g.idx = some g) (hi : g.idx = c.g.idx) :
    (s.issued i c y false).grpOf c =
      some { g with issued := g.issued + 1, age := if y then s.x.nextAge else g.age, busy := g.busy ++ pendWrites i s.x.clk c.ex } := by
  rw [State.issued_eq i y hw hg]
  unfold State.grpOf
  rw [Exec.afterIssue_wg i c y g hw]
  simp only [Option.bind_some]
  rw [← hi]
  exact Wg.grp?_setGrp_self (g := { g with issued := g.issued + 1, age := if y then s.x.nextAge else g.age, busy := g.busy ++ pendWrites i s.x.clk c.ex }) (h := g) (by rw [hi]; exact hg)

/-- The workgroup of an instruction that has issued differs in its groups alone. -/
theorem State.issued_wg {s : State} {c : Cx} {w : Wg} (i : Instr) (y : Bool) (hw : s.x.wg? c.w.id = some w) :
    ∃ gs, (s.issued i c y false).x.wg? c.w.id = some { w with groups := gs } := by
  rcases State.issued_cases s i c y with h | ⟨u, g, hu, hg, h⟩ <;> rw [h]
  · exact ⟨w.groups, hw⟩
  · obtain rfl := Option.some.inj (hw.symm.trans hu)
    exact ⟨_, Exec.afterIssue_wg i c y g hw⟩

/-- Every other workgroup is as it was. -/
theorem State.issued_other {s : State} (i : Instr) (c : Cx) (y : Bool) {k : Nat} (h : k ≠ c.w.id) :
    (s.issued i c y false).x.wg? k = s.x.wg? k := by
  rcases State.issued_cases s i c y with e | ⟨w, g, hw, hg, e⟩ <;> rw [e]
  exact Exec.afterIssue_other _ _ _ _ _ _ (by rw [Exec.wg?_id hw]; exact h)

end Sys2Proof.Machine
end

