-- ==== Sys2Proof/Laws/PerInstr.lean ====
section
/-!
SUPPORT. Families of statements about every instruction as syntax, one lemma for each constructor.
Family Encoded: the first word of an encoded instruction carries its opcode in bits [31:24], and the opcode map reads
the instruction's own fields back from its words (08_encoding R188, R196).
-/

set_option linter.unusedVariables false

namespace Sys2Proof.Laws.Encoded

/-- What the family says of an instruction. -/
def Statement (i : Instr) : Prop :=
  ∀ op f, i.enc = some (op, f) → opcode (f.word op) = op.toNat ∧ instrOfOp op.toNat (f.word op) f.word2 = some i

theorem opcode_append (op : BitVec 8) (x : BitVec 24) : opcode (op ++ x) = op.toNat := by
  unfold opcode bits
  rw [BitVec.toNat_append, Nat.shiftRight_eq_div_pow, Nat.shiftLeft_eq, Nat.mul_comm, ← Nat.two_pow_add_eq_or_of_lt x.isLt, Nat.mul_add_div (by decide), Nat.div_eq_of_lt x.isLt]
  exact Nat.mod_eq_of_lt op.isLt

theorem r_opcode (op : BitVec 8) (f : RF) : opcode ((Fmt.r f).word op) = op.toNat := by
  have h : (Fmt.r f).word op = op ++ (((f.d ++ f.a ++ f.b ++ f.g) : BitVec 24)) := by
    simp only [Fmt.word, BitVec.append_assoc, BitVec.cast_eq]
  rw [h, opcode_append]

theorem r_fields (op : BitVec 8) (f : RF) : rfOf ((Fmt.r f).word op) = f := by
  obtain ⟨d, a, b, g⟩ := f
  simp only [rfOf, Fmt.word, RF.mk.injEq]
  refine ⟨?_, ?_, ?_, ?_⟩ <;> (ext i hi; rw [← BitVec.getLsbD_eq_getElem, ← BitVec.getLsbD_eq_getElem, BitVec.getLsbD_extractLsb', decide_eq_true hi, Bool.true_and]; simp only [BitVec.getLsbD_append]; interval_cases i <;> rfl)

theorem i_opcode (op : BitVec 8) (f : IF) : opcode ((Fmt.i f).word op) = op.toNat := by
  have h : (Fmt.i f).word op = op ++ (((f.d ++ f.a ++ f.imm) : BitVec 24)) := by
    simp only [Fmt.word, BitVec.append_assoc, BitVec.cast_eq]
  rw [h, opcode_append]

theorem i_fields (op : BitVec 8) (f : IF) : ifOf ((Fmt.i f).word op) = f := by
  obtain ⟨d, a, imm⟩ := f
  simp only [ifOf, Fmt.word, IF.mk.injEq]
  refine ⟨?_, ?_, ?_⟩ <;> (ext i hi; rw [← BitVec.getLsbD_eq_getElem, ← BitVec.getLsbD_eq_getElem, BitVec.getLsbD_extractLsb', decide_eq_true hi, Bool.true_and]; simp only [BitVec.getLsbD_append]; interval_cases i <;> rfl)

theorem m_opcode (op : BitVec 8) (f : MF) : opcode ((Fmt.m f).word op) = op.toNat := by
  have h : (Fmt.m f).word op = op ++ (((f.d ++ f.a ++ f.hint ++ f.off ++ f.g) : BitVec 24)) := by
    simp only [Fmt.word, BitVec.append_assoc, BitVec.cast_eq]
  rw [h, opcode_append]

theorem m_fields (op : BitVec 8) (f : MF) : mfOf ((Fmt.m f).word op) = f := by
  obtain ⟨d, a, hint, off, g⟩ := f
  simp only [mfOf, Fmt.word, MF.mk.injEq]
  refine ⟨?_, ?_, ?_, ?_, ?_⟩ <;> (ext i hi; rw [← BitVec.getLsbD_eq_getElem, ← BitVec.getLsbD_eq_getElem, BitVec.getLsbD_extractLsb', decide_eq_true hi, Bool.true_and]; simp only [BitVec.getLsbD_append]; interval_cases i <;> rfl)

theorem b_opcode (op : BitVec 8) (f : BF) : opcode ((Fmt.b f).word op) = op.toNat := by
  have h : (Fmt.b f).word op = op ++ (((f.g ++ f.off) : BitVec 24)) := by
    simp only [Fmt.word, BitVec.append_assoc, BitVec.cast_eq]
  rw [h, opcode_append]

theorem b_fields (op : BitVec 8) (f : BF) : bfOf ((Fmt.b f).word op) = f := by
  obtain ⟨g, off⟩ := f
  simp only [bfOf, Fmt.word, BF.mk.injEq]
  refine ⟨?_, ?_⟩ <;> (ext i hi; rw [← BitVec.getLsbD_eq_getElem, ← BitVec.getLsbD_eq_getElem, BitVec.getLsbD_extractLsb', decide_eq_true hi, Bool.true_and]; simp only [BitVec.getLsbD_append]; interval_cases i <;> rfl)

theorem k_opcode (op : BitVec 8) (f : KF) : opcode ((Fmt.k f).word op) = op.toNat := by
  have h : (Fmt.k f).word op = op ++ (((f.x ++ f.a ++ f.b ++ f.f ++ f.g) : BitVec 24)) := by
    simp only [Fmt.word, BitVec.append_assoc, BitVec.cast_eq]
  rw [h, opcode_append]

theorem k_fields (op : BitVec 8) (f : KF) : kfOf ((Fmt.k f).word op) = f := by
  obtain ⟨x, a, b, f, g⟩ := f
  simp only [kfOf, Fmt.word, KF.mk.injEq]
  refine ⟨?_, ?_, ?_, ?_, ?_⟩ <;> (ext i hi; rw [← BitVec.getLsbD_eq_getElem, ← BitVec.getLsbD_eq_getElem, BitVec.getLsbD_extractLsb', decide_eq_true hi, Bool.true_and]; simp only [BitVec.getLsbD_append]; interval_cases i <;> rfl)

theorem t_opcode (op : BitVec 8) (f : TF) : opcode ((Fmt.t f).word op) = op.toNat := by
  have h : (Fmt.t f).word op = op ++ (((f.tA ++ f.tB ++ f.acc ++ f.k ++ f.f ++ f.h ++ f.flags) : BitVec 24)) := by
    simp only [Fmt.word, BitVec.append_assoc, BitVec.cast_eq]
  rw [h, opcode_append]

theorem t_fields (op : BitVec 8) (f : TF) : tfOf ((Fmt.t f).word op) = f := by
  obtain ⟨tA, tB, acc, k, f, h, flags⟩ := f
  simp only [tfOf, Fmt.word, TF.mk.injEq]
  refine ⟨?_, ?_, ?_, ?_, ?_, ?_, ?_⟩ <;> (ext i hi; rw [← BitVec.getLsbD_eq_getElem, ← BitVec.getLsbD_eq_getElem, BitVec.getLsbD_extractLsb', decide_eq_true hi, Bool.true_and]; simp only [BitVec.getLsbD_append]; interval_cases i <;> rfl)

theorem x_opcode (op : BitVec 8) (f : XF) : opcode ((Fmt.x f).word op) = op.toNat := by
  have h : (Fmt.x f).word op = op ++ (((f.d ++ f.a ++ f.b ++ f.g) : BitVec 24)) := by
    simp only [Fmt.word, BitVec.append_assoc, BitVec.cast_eq]
  rw [h, opcode_append]

theorem x_fields (op : BitVec 8) (f : XF) : xfOf ((Fmt.x f).word op) (Fmt.x f).word2 = f := by
  obtain ⟨d, a, b, g, c⟩ := f
  simp only [xfOf, Fmt.word, Fmt.word2, XF.mk.injEq]
  refine ⟨?_, ?_, ?_, ?_, trivial⟩ <;> (ext i hi; rw [← BitVec.getLsbD_eq_getElem, ← BitVec.getLsbD_eq_getElem, BitVec.getLsbD_extractLsb', decide_eq_true hi, Bool.true_and]; simp only [BitVec.getLsbD_append]; interval_cases i <;> rfl)

theorem l_opcode (op : BitVec 8) (f : LF) : opcode ((Fmt.l f).word op) = op.toNat := by
  have h : (Fmt.l f).word op = op ++ (((f.d ++ f.a ++ f.f7 ++ f.g) : BitVec 24)) := by
    simp only [Fmt.word, BitVec.append_assoc, BitVec.cast_eq]
  rw [h, opcode_append]

theorem l_fields (op : BitVec 8) (f : LF) : lfOf ((Fmt.l f).word op) (Fmt.l f).word2 = f := by
  obtain ⟨d, a, f7, g, lit⟩ := f
  simp only [lfOf, Fmt.word, Fmt.word2, LF.mk.injEq]
  refine ⟨?_, ?_, ?_, ?_, trivial⟩ <;> (ext i hi; rw [← BitVec.getLsbD_eq_getElem, ← BitVec.getLsbD_eq_getElem, BitVec.getLsbD_extractLsb', decide_eq_true hi, Bool.true_and]; simp only [BitVec.getLsbD_append]; interval_cases i <;> rfl)

theorem issueClock a b c : Statement (.issueClock a b c) := nofun

theorem loadReply a : Statement (.loadReply a) := nofun

theorem storeReachesL1 a b : Statement (.storeReachesL1 a b) := nofun

theorem superstepBarrierComplete a : Statement (.superstepBarrierComplete a) := nofun

theorem signedOperationEnqueue a b : Statement (.signedOperationEnqueue a b) := nofun

theorem tileStep a b : Statement (.tileStep a b) := nofun

theorem drainPerform a : Statement (.drainPerform a) := nofun

theorem bankZeroed a b c : Statement (.bankZeroed a b c) := nofun

theorem copyComplete a b : Statement (.copyComplete a b) := nofun

theorem bdeRequestComplete a : Statement (.bdeRequestComplete a) := nofun

theorem nbrWritePerformed a : Statement (.nbrWritePerformed a) := nofun

theorem workgroupComplete a : Statement (.workgroupComplete a) := nofun

theorem resourceRelease a : Statement (.resourceRelease a) := nofun

theorem ampQueueDequeue a : Statement (.ampQueueDequeue a) := nofun

theorem overflowRingRefill a : Statement (.overflowRingRefill a) := nofun

theorem frontierSend a b c : Statement (.frontierSend a b c) := nofun

theorem frontierHoldExpiry a b c : Statement (.frontierHoldExpiry a b c) := nofun

theorem rasterisePrimitive a b : Statement (.rasterisePrimitive a b) := nofun

theorem depthTest a b c : Statement (.depthTest a b c) := nofun

theorem occContribution a b c : Statement (.occContribution a b c) := nofun

theorem graphRecordRun a b c : Statement (.graphRecordRun a b c) := nofun

theorem waitListResolve a b : Statement (.waitListResolve a b) := nofun

theorem recPushParkRelease a b : Statement (.recPushParkRelease a b) := nofun

theorem stealAttempt a b c : Statement (.stealAttempt a b c) := nofun

theorem stealRequest a b c : Statement (.stealRequest a b c) := nofun

theorem stealRetryExpiry a b c : Statement (.stealRetryExpiry a b c) := nofun

theorem graphLaunchComplete a : Statement (.graphLaunchComplete a) := nofun

theorem queueDoorbell a b : Statement (.queueDoorbell a b) := nofun

theorem packetFetch a : Statement (.packetFetch a) := nofun

theorem workgroupPlacement a : Statement (.workgroupPlacement a) := nofun

theorem launchComplete a : Statement (.launchComplete a) := nofun

theorem registerWrite a b : Statement (.registerWrite a b) := nofun

theorem queueEnable a : Statement (.queueEnable a) := nofun

theorem queueDisable a : Statement (.queueDisable a) := nofun

theorem contextRegister a : Statement (.contextRegister a) := nofun

theorem contextUnregister a : Statement (.contextUnregister a) := nofun

theorem eventReadPointer a b : Statement (.eventReadPointer a b) := nofun

theorem rimeEnable a b : Statement (.rimeEnable a b) := nofun

theorem rimeRearm a : Statement (.rimeRearm a) := nofun

theorem rtWaysChange a b : Statement (.rtWaysChange a b) := nofun

theorem rtCarve a : Statement (.rtCarve a) := nofun

theorem tueDoorbell a : Statement (.tueDoorbell a) := nofun

theorem tueCtlWrite a : Statement (.tueCtlWrite a) := nofun

theorem lineReclaim a b : Statement (.lineReclaim a b) := nofun

theorem lostCntRead a : Statement (.lostCntRead a) := nofun

theorem biasFlip a b : Statement (.biasFlip a b) := nofun

theorem biasFlipComplete a : Statement (.biasFlipComplete a) := nofun

theorem attestationReport a : Statement (.attestationReport a) := nofun

theorem firmwareUpdate a : Statement (.firmwareUpdate a) := nofun

theorem drain a : Statement (.drain a) := nofun

theorem freeze a : Statement (.freeze a) := nofun

theorem kill a : Statement (.kill a) := nofun

theorem resume a : Statement (.resume a) := nofun

theorem replay a : Statement (.replay a) := nofun

theorem deliver a : Statement (.deliver a) := nofun

theorem faultKill a : Statement (.faultKill a) := nofun

theorem islVminRead a : Statement (.islVminRead a) := nofun

theorem rimeEntryExpiry a b : Statement (.rimeEntryExpiry a b) := nofun

theorem retryReissue a b : Statement (.retryReissue a b) := nofun

theorem birsp a b c : Statement (.birsp a b c) := nofun

theorem hostMemrd a : Statement (.hostMemrd a) := nofun

theorem hostMemwr a b c : Statement (.hostMemwr a b c) := nofun

theorem flitReceive a : Statement (.flitReceive a) := nofun

theorem nakReceive a : Statement (.nakReceive a) := nofun

theorem nakRepeatExpiry a : Statement (.nakRepeatExpiry a) := nofun

theorem dieMapChange a b : Statement (.dieMapChange a b) := nofun

theorem powerOn a b c : Statement (.powerOn a b c) := nofun

theorem boraGrant a b : Statement (.boraGrant a b) := nofun

theorem islandPowerOn a : Statement (.islandPowerOn a) := nofun

theorem phaseFailure a : Statement (.phaseFailure a) := nofun

theorem islandGate a : Statement (.islandGate a) := nofun

theorem pseudoChannelFailure a b : Statement (.pseudoChannelFailure a b) := nofun

theorem uncorrectableError a b : Statement (.uncorrectableError a b) := nofun

theorem addI (f : RF) : Statement (.addI f) := by
  rintro _ _ ⟨⟩
  exact ⟨r_opcode _ f, congrArg (fun x => some (Instr.addI x)) (r_fields _ f)⟩

theorem addIImm (f : IF) : Statement (.addIImm f) := by
  rintro _ _ ⟨⟩
  exact ⟨i_opcode _ f, congrArg (fun x => some (Instr.addIImm x)) (i_fields _ f)⟩

theorem subI (f : RF) : Statement (.subI f) := by
  rintro _ _ ⟨⟩
  exact ⟨r_opcode _ f, congrArg (fun x => some (Instr.subI x)) (r_fields _ f)⟩

theorem addcN (f : RF) : Statement (.addcN f) := by
  rintro _ _ ⟨⟩
  exact ⟨r_opcode _ f, congrArg (fun x => some (Instr.addcN x)) (r_fields _ f)⟩

theorem subbN (f : RF) : Statement (.subbN f) := by
  rintro _ _ ⟨⟩
  exact ⟨r_opcode _ f, congrArg (fun x => some (Instr.subbN x)) (r_fields _ f)⟩

theorem mulI (f : RF) : Statement (.mulI f) := by
  rintro _ _ ⟨⟩
  exact ⟨r_opcode _ f, congrArg (fun x => some (Instr.mulI x)) (r_fields _ f)⟩

theorem mulhiI (f : RF) : Statement (.mulhiI f) := by
  rintro _ _ ⟨⟩
  exact ⟨r_opcode _ f, congrArg (fun x => some (Instr.mulhiI x)) (r_fields _ f)⟩

theorem mulhiN (f : RF) : Statement (.mulhiN f) := by
  rintro _ _ ⟨⟩
  exact ⟨r_opcode _ f, congrArg (fun x => some (Instr.mulhiN x)) (r_fields _ f)⟩

theorem madI (f : XF) : Statement (.madI f) := by
  rintro _ _ ⟨⟩
  exact ⟨x_opcode _ f, congrArg (fun x => some (Instr.madI x)) (x_fields _ f)⟩

theorem divI (f : RF) : Statement (.divI f) := by
  rintro _ _ ⟨⟩
  exact ⟨r_opcode _ f, congrArg (fun x => some (Instr.divI x)) (r_fields _ f)⟩

theorem divN (f : RF) : Statement (.divN f) := by
  rintro _ _ ⟨⟩
  exact ⟨r_opcode _ f, congrArg (fun x => some (Instr.divN x)) (r_fields _ f)⟩

theorem remI (f : RF) : Statement (.remI f) := by
  rintro _ _ ⟨⟩
  exact ⟨r_opcode _ f, congrArg (fun x => some (Instr.remI x)) (r_fields _ f)⟩

theorem remN (f : RF) : Statement (.remN f) := by
  rintro _ _ ⟨⟩
  exact ⟨r_opcode _ f, congrArg (fun x => some (Instr.remN x)) (r_fields _ f)⟩

theorem minI (f : RF) : Statement (.minI f) := by
  rintro _ _ ⟨⟩
  exact ⟨r_opcode _ f, congrArg (fun x => some (Instr.minI x)) (r_fields _ f)⟩

theorem maxI (f : RF) : Statement (.maxI f) := by
  rintro _ _ ⟨⟩
  exact ⟨r_opcode _ f, congrArg (fun x => some (Instr.maxI x)) (r_fields _ f)⟩

theorem minN (f : RF) : Statement (.minN f) := by
  rintro _ _ ⟨⟩
  exact ⟨r_opcode _ f, congrArg (fun x => some (Instr.minN x)) (r_fields _ f)⟩

theorem maxN (f : RF) : Statement (.maxN f) := by
  rintro _ _ ⟨⟩
  exact ⟨r_opcode _ f, congrArg (fun x => some (Instr.maxN x)) (r_fields _ f)⟩

theorem absI (f : RF) : Statement (.absI f) := by
  rintro _ _ ⟨⟩
  exact ⟨r_opcode _ f, congrArg (fun x => some (Instr.absI x)) (r_fields _ f)⟩

theorem addI16x2 (f : RF) : Statement (.addI16x2 f) := by
  rintro _ _ ⟨⟩
  exact ⟨r_opcode _ f, congrArg (fun x => some (Instr.addI16x2 x)) (r_fields _ f)⟩

theorem subI16x2 (f : RF) : Statement (.subI16x2 f) := by
  rintro _ _ ⟨⟩
  exact ⟨r_opcode _ f, congrArg (fun x => some (Instr.subI16x2 x)) (r_fields _ f)⟩

theorem addN16x2 (f : RF) : Statement (.addN16x2 f) := by
  rintro _ _ ⟨⟩
  exact ⟨r_opcode _ f, congrArg (fun x => some (Instr.addN16x2 x)) (r_fields _ f)⟩

theorem subN16x2 (f : RF) : Statement (.subN16x2 f) := by
  rintro _ _ ⟨⟩
  exact ⟨r_opcode _ f, congrArg (fun x => some (Instr.subN16x2 x)) (r_fields _ f)⟩

theorem addI8x4 (f : RF) : Statement (.addI8x4 f) := by
  rintro _ _ ⟨⟩
  exact ⟨r_opcode _ f, congrArg (fun x => some (Instr.addI8x4 x)) (r_fields _ f)⟩

theorem subI8x4 (f : RF) : Statement (.subI8x4 f) := by
  rintro _ _ ⟨⟩
  exact ⟨r_opcode _ f, congrArg (fun x => some (Instr.subI8x4 x)) (r_fields _ f)⟩

theorem addN8x4 (f : RF) : Statement (.addN8x4 f) := by
  rintro _ _ ⟨⟩
  exact ⟨r_opcode _ f, congrArg (fun x => some (Instr.addN8x4 x)) (r_fields _ f)⟩

theorem subN8x4 (f : RF) : Statement (.subN8x4 f) := by
  rintro _ _ ⟨⟩
  exact ⟨r_opcode _ f, congrArg (fun x => some (Instr.subN8x4 x)) (r_fields _ f)⟩

theorem and (f : RF) : Statement (.and f) := by
  rintro _ _ ⟨⟩
  exact ⟨r_opcode _ f, congrArg (fun x => some (Instr.and x)) (r_fields _ f)⟩

theorem or (f : RF) : Statement (.or f) := by
  rintro _ _ ⟨⟩
  exact ⟨r_opcode _ f, congrArg (fun x => some (Instr.or x)) (r_fields _ f)⟩

theorem xor (f : RF) : Statement (.xor f) := by
  rintro _ _ ⟨⟩
  exact ⟨r_opcode _ f, congrArg (fun x => some (Instr.xor x)) (r_fields _ f)⟩

theorem andn (f : RF) : Statement (.andn f) := by
  rintro _ _ ⟨⟩
  exact ⟨r_opcode _ f, congrArg (fun x => some (Instr.andn x)) (r_fields _ f)⟩

theorem andImm (f : IF) : Statement (.andImm f) := by
  rintro _ _ ⟨⟩
  exact ⟨i_opcode _ f, congrArg (fun x => some (Instr.andImm x)) (i_fields _ f)⟩

theorem orImm (f : IF) : Statement (.orImm f) := by
  rintro _ _ ⟨⟩
  exact ⟨i_opcode _ f, congrArg (fun x => some (Instr.orImm x)) (i_fields _ f)⟩

theorem xorImm (f : IF) : Statement (.xorImm f) := by
  rintro _ _ ⟨⟩
  exact ⟨i_opcode _ f, congrArg (fun x => some (Instr.xorImm x)) (i_fields _ f)⟩

theorem shl (f : RF) : Statement (.shl f) := by
  rintro _ _ ⟨⟩
  exact ⟨r_opcode _ f, congrArg (fun x => some (Instr.shl x)) (r_fields _ f)⟩

theorem shrN (f : RF) : Statement (.shrN f) := by
  rintro _ _ ⟨⟩
  exact ⟨r_opcode _ f, congrArg (fun x => some (Instr.shrN x)) (r_fields _ f)⟩

theorem shrI (f : RF) : Statement (.shrI f) := by
  rintro _ _ ⟨⟩
  exact ⟨r_opcode _ f, congrArg (fun x => some (Instr.shrI x)) (r_fields _ f)⟩

theorem shlImm (f : IF) : Statement (.shlImm f) := by
  rintro _ _ ⟨⟩
  exact ⟨i_opcode _ f, congrArg (fun x => some (Instr.shlImm x)) (i_fields _ f)⟩

theorem shrNImm (f : IF) : Statement (.shrNImm f) := by
  rintro _ _ ⟨⟩
  exact ⟨i_opcode _ f, congrArg (fun x => some (Instr.shrNImm x)) (i_fields _ f)⟩

theorem shrIImm (f : IF) : Statement (.shrIImm f) := by
  rintro _ _ ⟨⟩
  exact ⟨i_opcode _ f, congrArg (fun x => some (Instr.shrIImm x)) (i_fields _ f)⟩

theorem bfxN (f : XF) : Statement (.bfxN f) := by
  rintro _ _ ⟨⟩
  exact ⟨x_opcode _ f, congrArg (fun x => some (Instr.bfxN x)) (x_fields _ f)⟩

theorem bfxI (f : XF) : Statement (.bfxI f) := by
  rintro _ _ ⟨⟩
  exact ⟨x_opcode _ f, congrArg (fun x => some (Instr.bfxI x)) (x_fields _ f)⟩

theorem bfi (f : XF) : Statement (.bfi f) := by
  rintro _ _ ⟨⟩
  exact ⟨x_opcode _ f, congrArg (fun x => some (Instr.bfi x)) (x_fields _ f)⟩

theorem popc (f : RF) : Statement (.popc f) := by
  rintro _ _ ⟨⟩
  exact ⟨r_opcode _ f, congrArg (fun x => some (Instr.popc x)) (r_fields _ f)⟩

theorem clz (f : RF) : Statement (.clz f) := by
  rintro _ _ ⟨⟩
  exact ⟨r_opcode _ f, congrArg (fun x => some (Instr.clz x)) (r_fields _ f)⟩

theorem brev (f : RF) : Statement (.brev f) := by
  rintro _ _ ⟨⟩
  exact ⟨r_opcode _ f, congrArg (fun x => some (Instr.brev x)) (r_fields _ f)⟩

theorem lea (f : XF) : Statement (.lea f) := by
  rintro _ _ ⟨⟩
  exact ⟨x_opcode _ f, congrArg (fun x => some (Instr.lea x)) (x_fields _ f)⟩

theorem setpI (f : XF) : Statement (.setpI f) := by
  rintro _ _ ⟨⟩
  exact ⟨x_opcode _ f, congrArg (fun x => some (Instr.setpI x)) (x_fields _ f)⟩

theorem setpN (f : XF) : Statement (.setpN f) := by
  rintro _ _ ⟨⟩
  exact ⟨x_opcode _ f, congrArg (fun x => some (Instr.setpN x)) (x_fields _ f)⟩

theorem sel (f : XF) : Statement (.sel f) := by
  rintro _ _ ⟨⟩
  exact ⟨x_opcode _ f, congrArg (fun x => some (Instr.sel x)) (x_fields _ f)⟩

theorem mov (f : RF) : Statement (.mov f) := by
  rintro _ _ ⟨⟩
  exact ⟨r_opcode _ f, congrArg (fun x => some (Instr.mov x)) (r_fields _ f)⟩

theorem movImm (f : IF) : Statement (.movImm f) := by
  rintro _ _ ⟨⟩
  exact ⟨i_opcode _ f, congrArg (fun x => some (Instr.movImm x)) (i_fields _ f)⟩

theorem movLit (f : LF) : Statement (.movLit f) := by
  rintro _ _ ⟨⟩
  exact ⟨l_opcode _ f, congrArg (fun x => some (Instr.movLit x)) (l_fields _ f)⟩

theorem shfl (f : XF) : Statement (.shfl f) := by
  rintro _ _ ⟨⟩
  exact ⟨x_opcode _ f, congrArg (fun x => some (Instr.shfl x)) (x_fields _ f)⟩

theorem vote (f : KF) : Statement (.vote f) := by
  rintro _ _ ⟨⟩
  exact ⟨k_opcode _ f, congrArg (fun x => some (Instr.vote x)) (k_fields _ f)⟩

theorem xint (f : XF) : Statement (.xint f) := by
  rintro _ _ ⟨⟩
  exact ⟨x_opcode _ f, congrArg (fun x => some (Instr.xint x)) (x_fields _ f)⟩

theorem addF (f : RF) : Statement (.addF f) := by
  rintro _ _ ⟨⟩
  exact ⟨r_opcode _ f, congrArg (fun x => some (Instr.addF x)) (r_fields _ f)⟩

theorem subF (f : RF) : Statement (.subF f) := by
  rintro _ _ ⟨⟩
  exact ⟨r_opcode _ f, congrArg (fun x => some (Instr.subF x)) (r_fields _ f)⟩

theorem mulF (f : RF) : Statement (.mulF f) := by
  rintro _ _ ⟨⟩
  exact ⟨r_opcode _ f, congrArg (fun x => some (Instr.mulF x)) (r_fields _ f)⟩

theorem fmaF (f : XF) : Statement (.fmaF f) := by
  rintro _ _ ⟨⟩
  exact ⟨x_opcode _ f, congrArg (fun x => some (Instr.fmaF x)) (x_fields _ f)⟩

theorem minF (f : RF) : Statement (.minF f) := by
  rintro _ _ ⟨⟩
  exact ⟨r_opcode _ f, congrArg (fun x => some (Instr.minF x)) (r_fields _ f)⟩

theorem maxF (f : RF) : Statement (.maxF f) := by
  rintro _ _ ⟨⟩
  exact ⟨r_opcode _ f, congrArg (fun x => some (Instr.maxF x)) (r_fields _ f)⟩

theorem absF (f : RF) : Statement (.absF f) := by
  rintro _ _ ⟨⟩
  exact ⟨r_opcode _ f, congrArg (fun x => some (Instr.absF x)) (r_fields _ f)⟩

theorem negF (f : RF) : Statement (.negF f) := by
  rintro _ _ ⟨⟩
  exact ⟨r_opcode _ f, congrArg (fun x => some (Instr.negF x)) (r_fields _ f)⟩

theorem divF (f : RF) : Statement (.divF f) := by
  rintro _ _ ⟨⟩
  exact ⟨r_opcode _ f, congrArg (fun x => some (Instr.divF x)) (r_fields _ f)⟩

theorem setpF (f : XF) : Statement (.setpF f) := by
  rintro _ _ ⟨⟩
  exact ⟨x_opcode _ f, congrArg (fun x => some (Instr.setpF x)) (x_fields _ f)⟩

theorem addF16x2 (f : RF) : Statement (.addF16x2 f) := by
  rintro _ _ ⟨⟩
  exact ⟨r_opcode _ f, congrArg (fun x => some (Instr.addF16x2 x)) (r_fields _ f)⟩

theorem mulF16x2 (f : RF) : Statement (.mulF16x2 f) := by
  rintro _ _ ⟨⟩
  exact ⟨r_opcode _ f, congrArg (fun x => some (Instr.mulF16x2 x)) (r_fields _ f)⟩

theorem fmaF16x2 (f : XF) : Statement (.fmaF16x2 f) := by
  rintro _ _ ⟨⟩
  exact ⟨x_opcode _ f, congrArg (fun x => some (Instr.fmaF16x2 x)) (x_fields _ f)⟩

theorem minF16x2 (f : RF) : Statement (.minF16x2 f) := by
  rintro _ _ ⟨⟩
  exact ⟨r_opcode _ f, congrArg (fun x => some (Instr.minF16x2 x)) (r_fields _ f)⟩

theorem maxF16x2 (f : RF) : Statement (.maxF16x2 f) := by
  rintro _ _ ⟨⟩
  exact ⟨r_opcode _ f, congrArg (fun x => some (Instr.maxF16x2 x)) (r_fields _ f)⟩

theorem setpF16x2 (f : XF) : Statement (.setpF16x2 f) := by
  rintro _ _ ⟨⟩
  exact ⟨x_opcode _ f, congrArg (fun x => some (Instr.setpF16x2 x)) (x_fields _ f)⟩

theorem addBf16x2 (f : RF) : Statement (.addBf16x2 f) := by
  rintro _ _ ⟨⟩
  exact ⟨r_opcode _ f, congrArg (fun x => some (Instr.addBf16x2 x)) (r_fields _ f)⟩

theorem mulBf16x2 (f : RF) : Statement (.mulBf16x2 f) := by
  rintro _ _ ⟨⟩
  exact ⟨r_opcode _ f, congrArg (fun x => some (Instr.mulBf16x2 x)) (r_fields _ f)⟩

theorem fmaBf16x2 (f : XF) : Statement (.fmaBf16x2 f) := by
  rintro _ _ ⟨⟩
  exact ⟨x_opcode _ f, congrArg (fun x => some (Instr.fmaBf16x2 x)) (x_fields _ f)⟩

theorem minBf16x2 (f : RF) : Statement (.minBf16x2 f) := by
  rintro _ _ ⟨⟩
  exact ⟨r_opcode _ f, congrArg (fun x => some (Instr.minBf16x2 x)) (r_fields _ f)⟩

theorem maxBf16x2 (f : RF) : Statement (.maxBf16x2 f) := by
  rintro _ _ ⟨⟩
  exact ⟨r_opcode _ f, congrArg (fun x => some (Instr.maxBf16x2 x)) (r_fields _ f)⟩

theorem setpBf16x2 (f : XF) : Statement (.setpBf16x2 f) := by
  rintro _ _ ⟨⟩
  exact ⟨x_opcode _ f, congrArg (fun x => some (Instr.setpBf16x2 x)) (x_fields _ f)⟩

theorem addF64 (f : RF) : Statement (.addF64 f) := by
  rintro _ _ ⟨⟩
  exact ⟨r_opcode _ f, congrArg (fun x => some (Instr.addF64 x)) (r_fields _ f)⟩

theorem subF64 (f : RF) : Statement (.subF64 f) := by
  rintro _ _ ⟨⟩
  exact ⟨r_opcode _ f, congrArg (fun x => some (Instr.subF64 x)) (r_fields _ f)⟩

theorem mulF64 (f : RF) : Statement (.mulF64 f) := by
  rintro _ _ ⟨⟩
  exact ⟨r_opcode _ f, congrArg (fun x => some (Instr.mulF64 x)) (r_fields _ f)⟩

theorem fmaF64 (f : XF) : Statement (.fmaF64 f) := by
  rintro _ _ ⟨⟩
  exact ⟨x_opcode _ f, congrArg (fun x => some (Instr.fmaF64 x)) (x_fields _ f)⟩

theorem minF64 (f : RF) : Statement (.minF64 f) := by
  rintro _ _ ⟨⟩
  exact ⟨r_opcode _ f, congrArg (fun x => some (Instr.minF64 x)) (r_fields _ f)⟩

theorem maxF64 (f : RF) : Statement (.maxF64 f) := by
  rintro _ _ ⟨⟩
  exact ⟨r_opcode _ f, congrArg (fun x => some (Instr.maxF64 x)) (r_fields _ f)⟩

theorem divF64 (f : RF) : Statement (.divF64 f) := by
  rintro _ _ ⟨⟩
  exact ⟨r_opcode _ f, congrArg (fun x => some (Instr.divF64 x)) (r_fields _ f)⟩

theorem setpF64 (f : XF) : Statement (.setpF64 f) := by
  rintro _ _ ⟨⟩
  exact ⟨x_opcode _ f, congrArg (fun x => some (Instr.setpF64 x)) (x_fields _ f)⟩

theorem rcpF (f : RF) : Statement (.rcpF f) := by
  rintro _ _ ⟨⟩
  exact ⟨r_opcode _ f, congrArg (fun x => some (Instr.rcpF x)) (r_fields _ f)⟩

theorem sqrtF (f : RF) : Statement (.sqrtF f) := by
  rintro _ _ ⟨⟩
  exact ⟨r_opcode _ f, congrArg (fun x => some (Instr.sqrtF x)) (r_fields _ f)⟩

theorem rsqrtF (f : RF) : Statement (.rsqrtF f) := by
  rintro _ _ ⟨⟩
  exact ⟨r_opcode _ f, congrArg (fun x => some (Instr.rsqrtF x)) (r_fields _ f)⟩

theorem exp2F (f : RF) : Statement (.exp2F f) := by
  rintro _ _ ⟨⟩
  exact ⟨r_opcode _ f, congrArg (fun x => some (Instr.exp2F x)) (r_fields _ f)⟩

theorem log2F (f : RF) : Statement (.log2F f) := by
  rintro _ _ ⟨⟩
  exact ⟨r_opcode _ f, congrArg (fun x => some (Instr.log2F x)) (r_fields _ f)⟩

theorem rcpF64 (f : RF) : Statement (.rcpF64 f) := by
  rintro _ _ ⟨⟩
  exact ⟨r_opcode _ f, congrArg (fun x => some (Instr.rcpF64 x)) (r_fields _ f)⟩

theorem sqrtF64 (f : RF) : Statement (.sqrtF64 f) := by
  rintro _ _ ⟨⟩
  exact ⟨r_opcode _ f, congrArg (fun x => some (Instr.sqrtF64 x)) (r_fields _ f)⟩

theorem rintF (f : XF) : Statement (.rintF f) := by
  rintro _ _ ⟨⟩
  exact ⟨x_opcode _ f, congrArg (fun x => some (Instr.rintF x)) (x_fields _ f)⟩

theorem rintF64 (f : XF) : Statement (.rintF64 f) := by
  rintro _ _ ⟨⟩
  exact ⟨x_opcode _ f, congrArg (fun x => some (Instr.rintF64 x)) (x_fields _ f)⟩

theorem crel (f : XF) : Statement (.crel f) := by
  rintro _ _ ⟨⟩
  exact ⟨x_opcode _ f, congrArg (fun x => some (Instr.crel x)) (x_fields _ f)⟩

theorem dot4 (f : XF) : Statement (.dot4 f) := by
  rintro _ _ ⟨⟩
  exact ⟨x_opcode _ f, congrArg (fun x => some (Instr.dot4 x)) (x_fields _ f)⟩

theorem cvt (f : XF) : Statement (.cvt f) := by
  rintro _ _ ⟨⟩
  exact ⟨x_opcode _ f, congrArg (fun x => some (Instr.cvt x)) (x_fields _ f)⟩

theorem xflt (f : XF) : Statement (.xflt f) := by
  rintro _ _ ⟨⟩
  exact ⟨x_opcode _ f, congrArg (fun x => some (Instr.xflt x)) (x_fields _ f)⟩

theorem ld (f : XF) : Statement (.ld f) := by
  rintro _ _ ⟨⟩
  exact ⟨x_opcode _ f, congrArg (fun x => some (Instr.ld x)) (x_fields _ f)⟩

theorem ldw (f : MF) : Statement (.ldw f) := by
  rintro _ _ ⟨⟩
  exact ⟨m_opcode _ f, congrArg (fun x => some (Instr.ldw x)) (m_fields _ f)⟩

theorem st (f : XF) : Statement (.st f) := by
  rintro _ _ ⟨⟩
  exact ⟨x_opcode _ f, congrArg (fun x => some (Instr.st x)) (x_fields _ f)⟩

theorem stw (f : MF) : Statement (.stw f) := by
  rintro _ _ ⟨⟩
  exact ⟨m_opcode _ f, congrArg (fun x => some (Instr.stw x)) (m_fields _ f)⟩

theorem lds (f : XF) : Statement (.lds f) := by
  rintro _ _ ⟨⟩
  exact ⟨x_opcode _ f, congrArg (fun x => some (Instr.lds x)) (x_fields _ f)⟩

theorem sts (f : XF) : Statement (.sts f) := by
  rintro _ _ ⟨⟩
  exact ⟨x_opcode _ f, congrArg (fun x => some (Instr.sts x)) (x_fields _ f)⟩

theorem atom (f : XF) : Statement (.atom f) := by
  rintro _ _ ⟨⟩
  exact ⟨x_opcode _ f, congrArg (fun x => some (Instr.atom x)) (x_fields _ f)⟩

theorem red (f : XF) : Statement (.red f) := by
  rintro _ _ ⟨⟩
  exact ⟨x_opcode _ f, congrArg (fun x => some (Instr.red x)) (x_fields _ f)⟩

theorem cas (f : XF) : Statement (.cas f) := by
  rintro _ _ ⟨⟩
  exact ⟨x_opcode _ f, congrArg (fun x => some (Instr.cas x)) (x_fields _ f)⟩

theorem atoms (f : XF) : Statement (.atoms f) := by
  rintro _ _ ⟨⟩
  exact ⟨x_opcode _ f, congrArg (fun x => some (Instr.atoms x)) (x_fields _ f)⟩

theorem standSub (f : KF) : Statement (.standSub f) := by
  rintro _ _ ⟨⟩
  exact ⟨k_opcode _ f, congrArg (fun x => some (Instr.standSub x)) (k_fields _ f)⟩

theorem standRead (f : KF) : Statement (.standRead f) := by
  rintro _ _ ⟨⟩
  exact ⟨k_opcode _ f, congrArg (fun x => some (Instr.standRead x)) (k_fields _ f)⟩

theorem standSeq (f : KF) : Statement (.standSeq f) := by
  rintro _ _ ⟨⟩
  exact ⟨k_opcode _ f, congrArg (fun x => some (Instr.standSeq x)) (k_fields _ f)⟩

theorem standWait (f : KF) : Statement (.standWait f) := by
  rintro _ _ ⟨⟩
  exact ⟨k_opcode _ f, congrArg (fun x => some (Instr.standWait x)) (k_fields _ f)⟩

theorem standDrop (f : KF) : Statement (.standDrop f) := by
  rintro _ _ ⟨⟩
  exact ⟨k_opcode _ f, congrArg (fun x => some (Instr.standDrop x)) (k_fields _ f)⟩

theorem copy (f : KF) : Statement (.copy f) := by
  rintro _ _ ⟨⟩
  exact ⟨k_opcode _ f, congrArg (fun x => some (Instr.copy x)) (k_fields _ f)⟩

theorem fence (f : RF) : Statement (.fence f) := by
  rintro _ _ ⟨⟩
  exact ⟨r_opcode _ f, congrArg (fun x => some (Instr.fence x)) (r_fields _ f)⟩

theorem bra (f : BF) : Statement (.bra f) := by
  rintro _ _ ⟨⟩
  exact ⟨b_opcode _ f, congrArg (fun x => some (Instr.bra x)) (b_fields _ f)⟩

theorem call (f : BF) : Statement (.call f) := by
  rintro _ _ ⟨⟩
  exact ⟨b_opcode _ f, congrArg (fun x => some (Instr.call x)) (b_fields _ f)⟩

theorem brx (f : RF) : Statement (.brx f) := by
  rintro _ _ ⟨⟩
  exact ⟨r_opcode _ f, congrArg (fun x => some (Instr.brx x)) (r_fields _ f)⟩

theorem ret (f : RF) : Statement (.ret f) := by
  rintro _ _ ⟨⟩
  exact ⟨r_opcode _ f, congrArg (fun x => some (Instr.ret x)) (r_fields _ f)⟩

theorem exit (f : RF) : Statement (.exit f) := by
  rintro _ _ ⟨⟩
  exact ⟨r_opcode _ f, congrArg (fun x => some (Instr.exit x)) (r_fields _ f)⟩

theorem mjoin (f : KF) : Statement (.mjoin f) := by
  rintro _ _ ⟨⟩
  exact ⟨k_opcode _ f, congrArg (fun x => some (Instr.mjoin x)) (k_fields _ f)⟩

theorem mleave (f : KF) : Statement (.mleave f) := by
  rintro _ _ ⟨⟩
  exact ⟨k_opcode _ f, congrArg (fun x => some (Instr.mleave x)) (k_fields _ f)⟩

theorem mwait (f : KF) : Statement (.mwait f) := by
  rintro _ _ ⟨⟩
  exact ⟨k_opcode _ f, congrArg (fun x => some (Instr.mwait x)) (k_fields _ f)⟩

theorem mrd (f : KF) : Statement (.mrd f) := by
  rintro _ _ ⟨⟩
  exact ⟨k_opcode _ f, congrArg (fun x => some (Instr.mrd x)) (k_fields _ f)⟩

theorem barArrive (f : KF) : Statement (.barArrive f) := by
  rintro _ _ ⟨⟩
  exact ⟨k_opcode _ f, congrArg (fun x => some (Instr.barArrive x)) (k_fields _ f)⟩

theorem barSync (f : KF) : Statement (.barSync f) := by
  rintro _ _ ⟨⟩
  exact ⟨k_opcode _ f, congrArg (fun x => some (Instr.barSync x)) (k_fields _ f)⟩

theorem barWait (f : KF) : Statement (.barWait f) := by
  rintro _ _ ⟨⟩
  exact ⟨k_opcode _ f, congrArg (fun x => some (Instr.barWait x)) (k_fields _ f)⟩

theorem signDecl (f : KF) : Statement (.signDecl f) := by
  rintro _ _ ⟨⟩
  exact ⟨k_opcode _ f, congrArg (fun x => some (Instr.signDecl x)) (k_fields _ f)⟩

theorem wait (f : XF) : Statement (.wait f) := by
  rintro _ _ ⟨⟩
  exact ⟨x_opcode _ f, congrArg (fun x => some (Instr.wait x)) (x_fields _ f)⟩

theorem condArm (f : KF) : Statement (.condArm f) := by
  rintro _ _ ⟨⟩
  exact ⟨k_opcode _ f, congrArg (fun x => some (Instr.condArm x)) (k_fields _ f)⟩

theorem condSet (f : KF) : Statement (.condSet f) := by
  rintro _ _ ⟨⟩
  exact ⟨k_opcode _ f, congrArg (fun x => some (Instr.condSet x)) (k_fields _ f)⟩

theorem tileSet (f : KF) : Statement (.tileSet f) := by
  rintro _ _ ⟨⟩
  exact ⟨k_opcode _ f, congrArg (fun x => some (Instr.tileSet x)) (k_fields _ f)⟩

theorem accAlloc (f : KF) : Statement (.accAlloc f) := by
  rintro _ _ ⟨⟩
  exact ⟨k_opcode _ f, congrArg (fun x => some (Instr.accAlloc x)) (k_fields _ f)⟩

theorem accFree (f : KF) : Statement (.accFree f) := by
  rintro _ _ ⟨⟩
  exact ⟨k_opcode _ f, congrArg (fun x => some (Instr.accFree x)) (k_fields _ f)⟩

theorem accBand (f : KF) : Statement (.accBand f) := by
  rintro _ _ ⟨⟩
  exact ⟨k_opcode _ f, congrArg (fun x => some (Instr.accBand x)) (k_fields _ f)⟩

theorem accRead (f : KF) : Statement (.accRead f) := by
  rintro _ _ ⟨⟩
  exact ⟨k_opcode _ f, congrArg (fun x => some (Instr.accRead x)) (k_fields _ f)⟩

theorem accDrain (f : KF) : Statement (.accDrain f) := by
  rintro _ _ ⟨⟩
  exact ⟨k_opcode _ f, congrArg (fun x => some (Instr.accDrain x)) (k_fields _ f)⟩

theorem mma (f : TF) : Statement (.mma f) := by
  rintro _ _ ⟨⟩
  exact ⟨t_opcode _ f, congrArg (fun x => some (Instr.mma x)) (t_fields _ f)⟩

theorem mmaSpec (f : TF) : Statement (.mmaSpec f) := by
  rintro _ _ ⟨⟩
  exact ⟨t_opcode _ f, congrArg (fun x => some (Instr.mmaSpec x)) (t_fields _ f)⟩

theorem mmaIdx (f : TF) : Statement (.mmaIdx f) := by
  rintro _ _ ⟨⟩
  exact ⟨t_opcode _ f, congrArg (fun x => some (Instr.mmaIdx x)) (t_fields _ f)⟩

theorem taskAmp (f : KF) : Statement (.taskAmp f) := by
  rintro _ _ ⟨⟩
  exact ⟨k_opcode _ f, congrArg (fun x => some (Instr.taskAmp x)) (k_fields _ f)⟩

theorem primEmit (f : KF) : Statement (.primEmit f) := by
  rintro _ _ ⟨⟩
  exact ⟨k_opcode _ f, congrArg (fun x => some (Instr.primEmit x)) (k_fields _ f)⟩

theorem visMin (f : XF) : Statement (.visMin f) := by
  rintro _ _ ⟨⟩
  exact ⟨x_opcode _ f, congrArg (fun x => some (Instr.visMin x)) (x_fields _ f)⟩

theorem occBegin (f : KF) : Statement (.occBegin f) := by
  rintro _ _ ⟨⟩
  exact ⟨k_opcode _ f, congrArg (fun x => some (Instr.occBegin x)) (k_fields _ f)⟩

theorem occEnd (f : KF) : Statement (.occEnd f) := by
  rintro _ _ ⟨⟩
  exact ⟨k_opcode _ f, congrArg (fun x => some (Instr.occEnd x)) (k_fields _ f)⟩

theorem pxDiscard (f : RF) : Statement (.pxDiscard f) := by
  rintro _ _ ⟨⟩
  exact ⟨r_opcode _ f, congrArg (fun x => some (Instr.pxDiscard x)) (r_fields _ f)⟩

theorem pxDepth (f : RF) : Statement (.pxDepth f) := by
  rintro _ _ ⟨⟩
  exact ⟨r_opcode _ f, congrArg (fun x => some (Instr.pxDepth x)) (r_fields _ f)⟩

theorem tstBox (f : XF) : Statement (.tstBox f) := by
  rintro _ _ ⟨⟩
  exact ⟨x_opcode _ f, congrArg (fun x => some (Instr.tstBox x)) (x_fields _ f)⟩

theorem tstTri (f : XF) : Statement (.tstTri f) := by
  rintro _ _ ⟨⟩
  exact ⟨x_opcode _ f, congrArg (fun x => some (Instr.tstTri x)) (x_fields _ f)⟩

theorem stkPush (f : KF) : Statement (.stkPush f) := by
  rintro _ _ ⟨⟩
  exact ⟨k_opcode _ f, congrArg (fun x => some (Instr.stkPush x)) (k_fields _ f)⟩

theorem stkPop (f : KF) : Statement (.stkPop f) := by
  rintro _ _ ⟨⟩
  exact ⟨k_opcode _ f, congrArg (fun x => some (Instr.stkPop x)) (k_fields _ f)⟩

theorem recPush (f : KF) : Statement (.recPush f) := by
  rintro _ _ ⟨⟩
  exact ⟨k_opcode _ f, congrArg (fun x => some (Instr.recPush x)) (k_fields _ f)⟩

theorem recPop (f : KF) : Statement (.recPop f) := by
  rintro _ _ ⟨⟩
  exact ⟨k_opcode _ f, congrArg (fun x => some (Instr.recPop x)) (k_fields _ f)⟩

theorem sstep (f : RF) : Statement (.sstep f) := by
  rintro _ _ ⟨⟩
  exact ⟨r_opcode _ f, congrArg (fun x => some (Instr.sstep x)) (r_fields _ f)⟩

theorem nbrSend (f : KF) : Statement (.nbrSend f) := by
  rintro _ _ ⟨⟩
  exact ⟨k_opcode _ f, congrArg (fun x => some (Instr.nbrSend x)) (k_fields _ f)⟩

theorem nbrReduce (f : KF) : Statement (.nbrReduce f) := by
  rintro _ _ ⟨⟩
  exact ⟨k_opcode _ f, congrArg (fun x => some (Instr.nbrReduce x)) (k_fields _ f)⟩

theorem bdeGather (f : KF) : Statement (.bdeGather f) := by
  rintro _ _ ⟨⟩
  exact ⟨k_opcode _ f, congrArg (fun x => some (Instr.bdeGather x)) (k_fields _ f)⟩

theorem bdeReduce (f : KF) : Statement (.bdeReduce f) := by
  rintro _ _ ⟨⟩
  exact ⟨k_opcode _ f, congrArg (fun x => some (Instr.bdeReduce x)) (k_fields _ f)⟩

theorem bdeCvt (f : KF) : Statement (.bdeCvt f) := by
  rintro _ _ ⟨⟩
  exact ⟨k_opcode _ f, congrArg (fun x => some (Instr.bdeCvt x)) (k_fields _ f)⟩

theorem sregRd (f : KF) : Statement (.sregRd f) := by
  rintro _ _ ⟨⟩
  exact ⟨k_opcode _ f, congrArg (fun x => some (Instr.sregRd x)) (k_fields _ f)⟩

theorem sregWr (f : KF) : Statement (.sregWr f) := by
  rintro _ _ ⟨⟩
  exact ⟨k_opcode _ f, congrArg (fun x => some (Instr.sregWr x)) (k_fields _ f)⟩

theorem trap (f : IF) : Statement (.trap f) := by
  rintro _ _ ⟨⟩
  exact ⟨i_opcode _ f, congrArg (fun x => some (Instr.trap x)) (i_fields _ f)⟩

theorem sys (f : IF) : Statement (.sys f) := by
  rintro _ _ ⟨⟩
  exact ⟨i_opcode _ f, congrArg (fun x => some (Instr.sys x)) (i_fields _ f)⟩

theorem eret (f : RF) : Statement (.eret f) := by
  rintro _ _ ⟨⟩
  exact ⟨r_opcode _ f, congrArg (fun x => some (Instr.eret x)) (r_fields _ f)⟩

theorem brk (f : IF) : Statement (.brk f) := by
  rintro _ _ ⟨⟩
  exact ⟨i_opcode _ f, congrArg (fun x => some (Instr.brk x)) (i_fields _ f)⟩

theorem nop (f : RF) : Statement (.nop f) := by
  rintro _ _ ⟨⟩
  exact ⟨r_opcode _ f, congrArg (fun x => some (Instr.nop x)) (r_fields _ f)⟩

theorem hostCacheCompletion a b : Statement (.hostCacheCompletion a b) := nofun

theorem railVoltageMinimum a b : Statement (.railVoltageMinimum a b) := nofun

theorem linkTrainingEnd a b : Statement (.linkTrainingEnd a b) := nofun

theorem packetArrival : Statement (.packetArrival) := nofun

theorem frontierArrival : Statement (.frontierArrival) := nofun

theorem occCellUpdate : Statement (.occCellUpdate) := nofun

theorem schedulingRound : Statement (.schedulingRound) := nofun

theorem eventRecordWrite : Statement (.eventRecordWrite) := nofun

theorem interruptTimeExpiry : Statement (.interruptTimeExpiry) := nofun

theorem write : Statement (.write) := nofun

theorem shoot : Statement (.shoot) := nofun

theorem migrate : Statement (.migrate) := nofun

theorem flush : Statement (.flush) := nofun

theorem tueReservedCommand : Statement (.tueReservedCommand) := nofun

theorem tueDone : Statement (.tueDone) := nofun

theorem drainComplete : Statement (.drainComplete) := nofun

theorem drainDeadlineExpiry : Statement (.drainDeadlineExpiry) := nofun

theorem freezeImageWrite : Statement (.freezeImageWrite) := nofun

theorem freezeDeadlineExpiry : Statement (.freezeDeadlineExpiry) := nofun

theorem resumePlacement : Statement (.resumePlacement) := nofun

theorem pageWalk : Statement (.pageWalk) := nofun

theorem firstTouchBind : Statement (.firstTouchBind) := nofun

theorem replCollapse : Statement (.replCollapse) := nofun

theorem replCollapseComplete : Statement (.replCollapseComplete) := nofun

theorem gets : Statement (.gets) := nofun

theorem getm : Statement (.getm) := nofun

theorem upg : Statement (.upg) := nofun

theorem putm : Statement (.putm) := nofun

theorem puto : Statement (.puto) := nofun

theorem pute : Statement (.pute) := nofun

theorem mod : Statement (.mod) := nofun

theorem wrthru : Statement (.wrthru) := nofun

theorem atomMsg : Statement (.atomMsg) := nofun

theorem sub : Statement (.sub) := nofun

theorem unsub : Statement (.unsub) := nofun

theorem fwdGets : Statement (.fwdGets) := nofun

theorem fwdGetm : Statement (.fwdGetm) := nofun

theorem inv : Statement (.inv) := nofun

theorem backinv : Statement (.backinv) := nofun

theorem data : Statement (.data) := nofun

theorem invack : Statement (.invack) := nofun

theorem backinvack : Statement (.backinvack) := nofun

theorem putack : Statement (.putack) := nofun

theorem wtack : Statement (.wtack) := nofun

theorem atomrsp : Statement (.atomrsp) := nofun

theorem retry : Statement (.retry) := nofun

theorem nackwt : Statement (.nackwt) := nofun

theorem nacklost : Statement (.nacklost) := nofun

theorem push : Statement (.push) := nofun

theorem pushack : Statement (.pushack) := nofun

theorem unsuback : Statement (.unsuback) := nofun

theorem subrsp : Statement (.subrsp) := nofun

theorem pushlost : Statement (.pushlost) := nofun

theorem powerRemoved : Statement (.powerRemoved) := nofun

end Sys2Proof.Laws.Encoded
end

