-- ==== Sys2Proof/Laws/State.lean ====
section
/-!
SUPPORT. The fields and parts of the state under its updates: one lemma for each field and update, so that no proof
unfolds a record update.
-/

namespace Sys2Proof.Machine

/-! ### Fields of the state under its updates -/

@[simp] theorem State.setDie_slots (s : State) (d : Nat) (k : Die) : (s.setDie d k).slots = s.slots := rfl
@[simp] theorem State.setDie_agenda (s : State) (d : Nat) (k : Die) : (s.setDie d k).agenda = s.agenda := rfl
@[simp] theorem State.setDie_sel (s : State) (d : Nat) (k : Die) : (s.setDie d k).sel = s.sel := rfl
@[simp] theorem State.setDie_x (s : State) (d : Nat) (k : Die) : (s.setDie d k).x = s.x := rfl
@[simp] theorem State.setDie_mem (s : State) (d : Nat) (k : Die) : (s.setDie d k).mem = s.mem := rfl
@[simp] theorem State.setDie_host (s : State) (d : Nat) (k : Die) : (s.setDie d k).host = s.host := rfl
@[simp] theorem State.setDie_sch (s : State) (d : Nat) (k : Die) : (s.setDie d k).sch = s.sch := rfl
@[simp] theorem State.setDie_tue (s : State) (d : Nat) (k : Die) : (s.setDie d k).tue = s.tue := rfl
@[simp] theorem State.setDie_gfx (s : State) (d : Nat) (k : Die) : (s.setDie d k).gfx = s.gfx := rfl
@[simp] theorem State.setDie_pkg (s : State) (d : Nat) (k : Die) : (s.setDie d k).pkg = s.pkg := rfl
@[simp] theorem State.setDie_links (s : State) (d : Nat) (k : Die) : (s.setDie d k).links = s.links := rfl
@[simp] theorem State.setCtx_slots (s : State) (a : Nat) (c : Ctx) : (s.setCtx a c).slots = s.slots := rfl
@[simp] theorem State.setCtx_agenda (s : State) (a : Nat) (c : Ctx) : (s.setCtx a c).agenda = s.agenda := rfl
@[simp] theorem State.setCtx_sel (s : State) (a : Nat) (c : Ctx) : (s.setCtx a c).sel = s.sel := rfl
@[simp] theorem State.setCtx_x (s : State) (a : Nat) (c : Ctx) : (s.setCtx a c).x = s.x := rfl
@[simp] theorem State.setCtx_mem (s : State) (a : Nat) (c : Ctx) : (s.setCtx a c).mem = s.mem := rfl
@[simp] theorem State.setCtx_host (s : State) (a : Nat) (c : Ctx) : (s.setCtx a c).host = s.host := rfl
@[simp] theorem State.setCtx_fab (s : State) (a : Nat) (c : Ctx) : (s.setCtx a c).fab = s.fab := rfl
@[simp] theorem State.setCtx_tue (s : State) (a : Nat) (c : Ctx) : (s.setCtx a c).tue = s.tue := rfl
@[simp] theorem State.setCtx_gfx (s : State) (a : Nat) (c : Ctx) : (s.setCtx a c).gfx = s.gfx := rfl
@[simp] theorem State.setCtx_pkg (s : State) (a : Nat) (c : Ctx) : (s.setCtx a c).pkg = s.pkg := rfl
@[simp] theorem State.setCtx_links (s : State) (a : Nat) (c : Ctx) : (s.setCtx a c).links = s.links := rfl
@[simp] theorem State.setQueue_slots (s : State) (q : Nat) (k : Queue) : (s.setQueue q k).slots = s.slots := rfl
@[simp] theorem State.setQueue_agenda (s : State) (q : Nat) (k : Queue) : (s.setQueue q k).agenda = s.agenda := rfl
@[simp] theorem State.setQueue_sel (s : State) (q : Nat) (k : Queue) : (s.setQueue q k).sel = s.sel := rfl
@[simp] theorem State.setQueue_x (s : State) (q : Nat) (k : Queue) : (s.setQueue q k).x = s.x := rfl
@[simp] theorem State.setQueue_mem (s : State) (q : Nat) (k : Queue) : (s.setQueue q k).mem = s.mem := rfl
@[simp] theorem State.setQueue_host (s : State) (q : Nat) (k : Queue) : (s.setQueue q k).host = s.host := rfl
@[simp] theorem State.setQueue_fab (s : State) (q : Nat) (k : Queue) : (s.setQueue q k).fab = s.fab := rfl
@[simp] theorem State.setQueue_tue (s : State) (q : Nat) (k : Queue) : (s.setQueue q k).tue = s.tue := rfl
@[simp] theorem State.setQueue_gfx (s : State) (q : Nat) (k : Queue) : (s.setQueue q k).gfx = s.gfx := rfl
@[simp] theorem State.setQueue_pkg (s : State) (q : Nat) (k : Queue) : (s.setQueue q k).pkg = s.pkg := rfl
@[simp] theorem State.setQueue_links (s : State) (q : Nat) (k : Queue) : (s.setQueue q k).links = s.links := rfl
@[simp] theorem State.setLaunch_slots (s : State) (l : Launch) : (s.setLaunch l).slots = s.slots := rfl
@[simp] theorem State.setLaunch_agenda (s : State) (l : Launch) : (s.setLaunch l).agenda = s.agenda := rfl
@[simp] theorem State.setLaunch_sel (s : State) (l : Launch) : (s.setLaunch l).sel = s.sel := rfl
@[simp] theorem State.setLaunch_x (s : State) (l : Launch) : (s.setLaunch l).x = s.x := rfl
@[simp] theorem State.setLaunch_mem (s : State) (l : Launch) : (s.setLaunch l).mem = s.mem := rfl
@[simp] theorem State.setLaunch_host (s : State) (l : Launch) : (s.setLaunch l).host = s.host := rfl
@[simp] theorem State.setLaunch_fab (s : State) (l : Launch) : (s.setLaunch l).fab = s.fab := rfl
@[simp] theorem State.setLaunch_tue (s : State) (l : Launch) : (s.setLaunch l).tue = s.tue := rfl
@[simp] theorem State.setLaunch_gfx (s : State) (l : Launch) : (s.setLaunch l).gfx = s.gfx := rfl
@[simp] theorem State.setLaunch_pkg (s : State) (l : Launch) : (s.setLaunch l).pkg = s.pkg := rfl
@[simp] theorem State.setLaunch_links (s : State) (l : Launch) : (s.setLaunch l).links = s.links := rfl
@[simp] theorem State.setGdie_slots (s : State) (d : Nat) (k : GDie) : (s.setGdie d k).slots = s.slots := rfl
@[simp] theorem State.setGdie_agenda (s : State) (d : Nat) (k : GDie) : (s.setGdie d k).agenda = s.agenda := rfl
@[simp] theorem State.setGdie_sel (s : State) (d : Nat) (k : GDie) : (s.setGdie d k).sel = s.sel := rfl
@[simp] theorem State.setGdie_x (s : State) (d : Nat) (k : GDie) : (s.setGdie d k).x = s.x := rfl
@[simp] theorem State.setGdie_mem (s : State) (d : Nat) (k : GDie) : (s.setGdie d k).mem = s.mem := rfl
@[simp] theorem State.setGdie_host (s : State) (d : Nat) (k : GDie) : (s.setGdie d k).host = s.host := rfl
@[simp] theorem State.setGdie_fab (s : State) (d : Nat) (k : GDie) : (s.setGdie d k).fab = s.fab := rfl
@[simp] theorem State.setGdie_sch (s : State) (d : Nat) (k : GDie) : (s.setGdie d k).sch = s.sch := rfl
@[simp] theorem State.setGdie_tue (s : State) (d : Nat) (k : GDie) : (s.setGdie d k).tue = s.tue := rfl
@[simp] theorem State.setGdie_pkg (s : State) (d : Nat) (k : GDie) : (s.setGdie d k).pkg = s.pkg := rfl
@[simp] theorem State.setGdie_links (s : State) (d : Nat) (k : GDie) : (s.setGdie d k).links = s.links := rfl
@[simp] theorem State.setPass_slots (s : State) (p : Pass) : (s.setPass p).slots = s.slots := rfl
@[simp] theorem State.setPass_agenda (s : State) (p : Pass) : (s.setPass p).agenda = s.agenda := rfl
@[simp] theorem State.setPass_sel (s : State) (p : Pass) : (s.setPass p).sel = s.sel := rfl
@[simp] theorem State.setPass_x (s : State) (p : Pass) : (s.setPass p).x = s.x := rfl
@[simp] theorem State.setPass_mem (s : State) (p : Pass) : (s.setPass p).mem = s.mem := rfl
@[simp] theorem State.setPass_host (s : State) (p : Pass) : (s.setPass p).host = s.host := rfl
@[simp] theorem State.setPass_fab (s : State) (p : Pass) : (s.setPass p).fab = s.fab := rfl
@[simp] theorem State.setPass_sch (s : State) (p : Pass) : (s.setPass p).sch = s.sch := rfl
@[simp] theorem State.setPass_tue (s : State) (p : Pass) : (s.setPass p).tue = s.tue := rfl
@[simp] theorem State.setPass_pkg (s : State) (p : Pass) : (s.setPass p).pkg = s.pkg := rfl
@[simp] theorem State.setPass_links (s : State) (p : Pass) : (s.setPass p).links = s.links := rfl
@[simp] theorem State.setIsland_slots (s : State) (i : Nat) (k : Island) : (s.setIsland i k).slots = s.slots := rfl
@[simp] theorem State.setIsland_agenda (s : State) (i : Nat) (k : Island) : (s.setIsland i k).agenda = s.agenda := rfl
@[simp] theorem State.setIsland_sel (s : State) (i : Nat) (k : Island) : (s.setIsland i k).sel = s.sel := rfl
@[simp] theorem State.setIsland_x (s : State) (i : Nat) (k : Island) : (s.setIsland i k).x = s.x := rfl
@[simp] theorem State.setIsland_mem (s : State) (i : Nat) (k : Island) : (s.setIsland i k).mem = s.mem := rfl
@[simp] theorem State.setIsland_host (s : State) (i : Nat) (k : Island) : (s.setIsland i k).host = s.host := rfl
@[simp] theorem State.setIsland_fab (s : State) (i : Nat) (k : Island) : (s.setIsland i k).fab = s.fab := rfl
@[simp] theorem State.setIsland_sch (s : State) (i : Nat) (k : Island) : (s.setIsland i k).sch = s.sch := rfl
@[simp] theorem State.setIsland_tue (s : State) (i : Nat) (k : Island) : (s.setIsland i k).tue = s.tue := rfl
@[simp] theorem State.setIsland_gfx (s : State) (i : Nat) (k : Island) : (s.setIsland i k).gfx = s.gfx := rfl
@[simp] theorem State.setIsland_links (s : State) (i : Nat) (k : Island) : (s.setIsland i k).links = s.links := rfl
@[simp] theorem State.setLink_slots (s : State) (i : Nat) (k : Link) : (s.setLink i k).slots = s.slots := rfl
@[simp] theorem State.setLink_agenda (s : State) (i : Nat) (k : Link) : (s.setLink i k).agenda = s.agenda := rfl
@[simp] theorem State.setLink_sel (s : State) (i : Nat) (k : Link) : (s.setLink i k).sel = s.sel := rfl
@[simp] theorem State.setLink_x (s : State) (i : Nat) (k : Link) : (s.setLink i k).x = s.x := rfl
@[simp] theorem State.setLink_mem (s : State) (i : Nat) (k : Link) : (s.setLink i k).mem = s.mem := rfl
@[simp] theorem State.setLink_host (s : State) (i : Nat) (k : Link) : (s.setLink i k).host = s.host := rfl
@[simp] theorem State.setLink_fab (s : State) (i : Nat) (k : Link) : (s.setLink i k).fab = s.fab := rfl
@[simp] theorem State.setLink_sch (s : State) (i : Nat) (k : Link) : (s.setLink i k).sch = s.sch := rfl
@[simp] theorem State.setLink_tue (s : State) (i : Nat) (k : Link) : (s.setLink i k).tue = s.tue := rfl
@[simp] theorem State.setLink_gfx (s : State) (i : Nat) (k : Link) : (s.setLink i k).gfx = s.gfx := rfl
@[simp] theorem State.setLink_pkg (s : State) (i : Nat) (k : Link) : (s.setLink i k).pkg = s.pkg := rfl
@[simp] theorem State.post_slots (s : State) (r : PendRec) : (s.post r).slots = s.slots := rfl
@[simp] theorem State.post_agenda (s : State) (r : PendRec) : (s.post r).agenda = s.agenda := rfl
@[simp] theorem State.post_sel (s : State) (r : PendRec) : (s.post r).sel = s.sel := rfl
@[simp] theorem State.post_x (s : State) (r : PendRec) : (s.post r).x = s.x := rfl
@[simp] theorem State.post_mem (s : State) (r : PendRec) : (s.post r).mem = s.mem := rfl
@[simp] theorem State.post_host (s : State) (r : PendRec) : (s.post r).host = s.host := rfl
@[simp] theorem State.post_fab (s : State) (r : PendRec) : (s.post r).fab = s.fab := rfl
@[simp] theorem State.post_tue (s : State) (r : PendRec) : (s.post r).tue = s.tue := rfl
@[simp] theorem State.post_gfx (s : State) (r : PendRec) : (s.post r).gfx = s.gfx := rfl
@[simp] theorem State.post_pkg (s : State) (r : PendRec) : (s.post r).pkg = s.pkg := rfl
@[simp] theorem State.post_links (s : State) (r : PendRec) : (s.post r).links = s.links := rfl
@[simp] theorem State.postLaunch_slots (s : State) (l : Launch) (st f : Nat) (e : DWord) : (s.postLaunch l st f e).slots = s.slots := rfl
@[simp] theorem State.postLaunch_agenda (s : State) (l : Launch) (st f : Nat) (e : DWord) : (s.postLaunch l st f e).agenda = s.agenda := rfl
@[simp] theorem State.postLaunch_sel (s : State) (l : Launch) (st f : Nat) (e : DWord) : (s.postLaunch l st f e).sel = s.sel := rfl
@[simp] theorem State.postLaunch_x (s : State) (l : Launch) (st f : Nat) (e : DWord) : (s.postLaunch l st f e).x = s.x := rfl
@[simp] theorem State.postLaunch_mem (s : State) (l : Launch) (st f : Nat) (e : DWord) : (s.postLaunch l st f e).mem = s.mem := rfl
@[simp] theorem State.postLaunch_host (s : State) (l : Launch) (st f : Nat) (e : DWord) : (s.postLaunch l st f e).host = s.host := rfl
@[simp] theorem State.postLaunch_fab (s : State) (l : Launch) (st f : Nat) (e : DWord) : (s.postLaunch l st f e).fab = s.fab := rfl
@[simp] theorem State.postLaunch_tue (s : State) (l : Launch) (st f : Nat) (e : DWord) : (s.postLaunch l st f e).tue = s.tue := rfl
@[simp] theorem State.postLaunch_gfx (s : State) (l : Launch) (st f : Nat) (e : DWord) : (s.postLaunch l st f e).gfx = s.gfx := rfl
@[simp] theorem State.postLaunch_pkg (s : State) (l : Launch) (st f : Nat) (e : DWord) : (s.postLaunch l st f e).pkg = s.pkg := rfl
@[simp] theorem State.postLaunch_links (s : State) (l : Launch) (st f : Nat) (e : DWord) : (s.postLaunch l st f e).links = s.links := rfl
@[simp] theorem State.postCmd_slots (s : State) (a st f : Nat) (e : DWord) : (s.postCmd a st f e).slots = s.slots := rfl
@[simp] theorem State.postCmd_agenda (s : State) (a st f : Nat) (e : DWord) : (s.postCmd a st f e).agenda = s.agenda := rfl
@[simp] theorem State.postCmd_sel (s : State) (a st f : Nat) (e : DWord) : (s.postCmd a st f e).sel = s.sel := rfl
@[simp] theorem State.postCmd_x (s : State) (a st f : Nat) (e : DWord) : (s.postCmd a st f e).x = s.x := rfl
@[simp] theorem State.postCmd_mem (s : State) (a st f : Nat) (e : DWord) : (s.postCmd a st f e).mem = s.mem := rfl
@[simp] theorem State.postCmd_host (s : State) (a st f : Nat) (e : DWord) : (s.postCmd a st f e).host = s.host := rfl
@[simp] theorem State.postCmd_fab (s : State) (a st f : Nat) (e : DWord) : (s.postCmd a st f e).fab = s.fab := rfl
@[simp] theorem State.postCmd_tue (s : State) (a st f : Nat) (e : DWord) : (s.postCmd a st f e).tue = s.tue := rfl
@[simp] theorem State.postCmd_gfx (s : State) (a st f : Nat) (e : DWord) : (s.postCmd a st f e).gfx = s.gfx := rfl
@[simp] theorem State.postCmd_pkg (s : State) (a st f : Nat) (e : DWord) : (s.postCmd a st f e).pkg = s.pkg := rfl
@[simp] theorem State.postCmd_links (s : State) (a st f : Nat) (e : DWord) : (s.postCmd a st f e).links = s.links := rfl
@[simp] theorem State.postFault_slots (s : State) (f a d i : Nat) (v : DWord) (k n o : Nat) : (s.postFault f a d i v k n o).slots = s.slots := rfl
@[simp] theorem State.postFault_agenda (s : State) (f a d i : Nat) (v : DWord) (k n o : Nat) : (s.postFault f a d i v k n o).agenda = s.agenda := rfl
@[simp] theorem State.postFault_sel (s : State) (f a d i : Nat) (v : DWord) (k n o : Nat) : (s.postFault f a d i v k n o).sel = s.sel := rfl
@[simp] theorem State.postFault_x (s : State) (f a d i : Nat) (v : DWord) (k n o : Nat) : (s.postFault f a d i v k n o).x = s.x := rfl
@[simp] theorem State.postFault_mem (s : State) (f a d i : Nat) (v : DWord) (k n o : Nat) : (s.postFault f a d i v k n o).mem = s.mem := rfl
@[simp] theorem State.postFault_host (s : State) (f a d i : Nat) (v : DWord) (k n o : Nat) : (s.postFault f a d i v k n o).host = s.host := rfl
@[simp] theorem State.postFault_fab (s : State) (f a d i : Nat) (v : DWord) (k n o : Nat) : (s.postFault f a d i v k n o).fab = s.fab := rfl
@[simp] theorem State.postFault_tue (s : State) (f a d i : Nat) (v : DWord) (k n o : Nat) : (s.postFault f a d i v k n o).tue = s.tue := rfl
@[simp] theorem State.postFault_gfx (s : State) (f a d i : Nat) (v : DWord) (k n o : Nat) : (s.postFault f a d i v k n o).gfx = s.gfx := rfl
@[simp] theorem State.postFault_pkg (s : State) (f a d i : Nat) (v : DWord) (k n o : Nat) : (s.postFault f a d i v k n o).pkg = s.pkg := rfl
@[simp] theorem State.postFault_links (s : State) (f a d i : Nat) (v : DWord) (k n o : Nat) : (s.postFault f a d i v k n o).links = s.links := rfl
@[simp] theorem State.send_slots (s : State) (a b : Agent) (l : Nat) (k : MsgK) : (s.send a b l k).slots = s.slots := rfl
@[simp] theorem State.send_agenda (s : State) (a b : Agent) (l : Nat) (k : MsgK) : (s.send a b l k).agenda = s.agenda := rfl
@[simp] theorem State.send_sel (s : State) (a b : Agent) (l : Nat) (k : MsgK) : (s.send a b l k).sel = s.sel := rfl
@[simp] theorem State.send_mem (s : State) (a b : Agent) (l : Nat) (k : MsgK) : (s.send a b l k).mem = s.mem := rfl
@[simp] theorem State.send_host (s : State) (a b : Agent) (l : Nat) (k : MsgK) : (s.send a b l k).host = s.host := rfl
@[simp] theorem State.send_sch (s : State) (a b : Agent) (l : Nat) (k : MsgK) : (s.send a b l k).sch = s.sch := rfl
@[simp] theorem State.send_tue (s : State) (a b : Agent) (l : Nat) (k : MsgK) : (s.send a b l k).tue = s.tue := rfl
@[simp] theorem State.send_gfx (s : State) (a b : Agent) (l : Nat) (k : MsgK) : (s.send a b l k).gfx = s.gfx := rfl
@[simp] theorem State.send_pkg (s : State) (a b : Agent) (l : Nat) (k : MsgK) : (s.send a b l k).pkg = s.pkg := rfl
@[simp] theorem State.send_links (s : State) (a b : Agent) (l : Nat) (k : MsgK) : (s.send a b l k).links = s.links := rfl
@[simp] theorem State.take_slots (s : State) (i : Nat) : (s.take i).slots = s.slots := rfl
@[simp] theorem State.take_agenda (s : State) (i : Nat) : (s.take i).agenda = s.agenda := rfl
@[simp] theorem State.take_sel (s : State) (i : Nat) : (s.take i).sel = s.sel := rfl
@[simp] theorem State.take_x (s : State) (i : Nat) : (s.take i).x = s.x := rfl
@[simp] theorem State.take_mem (s : State) (i : Nat) : (s.take i).mem = s.mem := rfl
@[simp] theorem State.take_host (s : State) (i : Nat) : (s.take i).host = s.host := rfl
@[simp] theorem State.take_sch (s : State) (i : Nat) : (s.take i).sch = s.sch := rfl
@[simp] theorem State.take_tue (s : State) (i : Nat) : (s.take i).tue = s.tue := rfl
@[simp] theorem State.take_gfx (s : State) (i : Nat) : (s.take i).gfx = s.gfx := rfl
@[simp] theorem State.take_pkg (s : State) (i : Nat) : (s.take i).pkg = s.pkg := rfl
@[simp] theorem State.take_links (s : State) (i : Nat) : (s.take i).links = s.links := rfl

/-! ### Parts under updates of other parts -/

@[simp] theorem State.setDie_ctx (s : State) (d : Nat) (k : Die) (j : Nat) : (s.setDie d k).ctx j = s.ctx j := rfl
@[simp] theorem State.setDie_queue (s : State) (d : Nat) (k : Die) (j : Nat) : (s.setDie d k).queue j = s.queue j := rfl
@[simp] theorem State.setDie_launch (s : State) (d : Nat) (k : Die) (j : Nat) : (s.setDie d k).launch? j = s.launch? j := rfl
@[simp] theorem State.setDie_gdie (s : State) (d : Nat) (k : Die) (j : Nat) : (s.setDie d k).gdie j = s.gdie j := rfl
@[simp] theorem State.setDie_pass (s : State) (d : Nat) (k : Die) (j : Nat) : (s.setDie d k).pass? j = s.pass? j := rfl
@[simp] theorem State.setDie_island (s : State) (d : Nat) (k : Die) (j : Nat) : (s.setDie d k).island j = s.island j := rfl
@[simp] theorem State.setDie_link (s : State) (d : Nat) (k : Die) (j : Nat) : (s.setDie d k).link j = s.link j := rfl
@[simp] theorem State.setDie_dmap (s : State) (d : Nat) (k : Die) (j : Nat) : (s.setDie d k).dmap j = s.dmap j := rfl
@[simp] theorem State.setDie_working (s : State) (d : Nat) (k : Die) (j : Nat) : (s.setDie d k).working j = s.working j := rfl
@[simp] theorem State.setDie_paExists (s : State) (d : Nat) (k : Die) (j : Nat) : (s.setDie d k).paExists j = s.paExists j := rfl
@[simp] theorem State.setCtx_die (s : State) (a : Nat) (c : Ctx) (j : Nat) : (s.setCtx a c).die j = s.die j := rfl
@[simp] theorem State.setCtx_queue (s : State) (a : Nat) (c : Ctx) (j : Nat) : (s.setCtx a c).queue j = s.queue j := rfl
@[simp] theorem State.setCtx_launch (s : State) (a : Nat) (c : Ctx) (j : Nat) : (s.setCtx a c).launch? j = s.launch? j := rfl
@[simp] theorem State.setCtx_gdie (s : State) (a : Nat) (c : Ctx) (j : Nat) : (s.setCtx a c).gdie j = s.gdie j := rfl
@[simp] theorem State.setCtx_pass (s : State) (a : Nat) (c : Ctx) (j : Nat) : (s.setCtx a c).pass? j = s.pass? j := rfl
@[simp] theorem State.setCtx_island (s : State) (a : Nat) (c : Ctx) (j : Nat) : (s.setCtx a c).island j = s.island j := rfl
@[simp] theorem State.setCtx_link (s : State) (a : Nat) (c : Ctx) (j : Nat) : (s.setCtx a c).link j = s.link j := rfl
@[simp] theorem State.setCtx_dmap (s : State) (a : Nat) (c : Ctx) (j : Nat) : (s.setCtx a c).dmap j = s.dmap j := rfl
@[simp] theorem State.setCtx_working (s : State) (a : Nat) (c : Ctx) (j : Nat) : (s.setCtx a c).working j = s.working j := rfl
@[simp] theorem State.setCtx_paExists (s : State) (a : Nat) (c : Ctx) (j : Nat) : (s.setCtx a c).paExists j = s.paExists j := rfl
@[simp] theorem State.setQueue_die (s : State) (q : Nat) (k : Queue) (j : Nat) : (s.setQueue q k).die j = s.die j := rfl
@[simp] theorem State.setQueue_ctx (s : State) (q : Nat) (k : Queue) (j : Nat) : (s.setQueue q k).ctx j = s.ctx j := rfl
@[simp] theorem State.setQueue_launch (s : State) (q : Nat) (k : Queue) (j : Nat) : (s.setQueue q k).launch? j = s.launch? j := rfl
@[simp] theorem State.setQueue_gdie (s : State) (q : Nat) (k : Queue) (j : Nat) : (s.setQueue q k).gdie j = s.gdie j := rfl
@[simp] theorem State.setQueue_pass (s : State) (q : Nat) (k : Queue) (j : Nat) : (s.setQueue q k).pass? j = s.pass? j := rfl
@[simp] theorem State.setQueue_island (s : State) (q : Nat) (k : Queue) (j : Nat) : (s.setQueue q k).island j = s.island j := rfl
@[simp] theorem State.setQueue_link (s : State) (q : Nat) (k : Queue) (j : Nat) : (s.setQueue q k).link j = s.link j := rfl
@[simp] theorem State.setQueue_dmap (s : State) (q : Nat) (k : Queue) (j : Nat) : (s.setQueue q k).dmap j = s.dmap j := rfl
@[simp] theorem State.setQueue_working (s : State) (q : Nat) (k : Queue) (j : Nat) : (s.setQueue q k).working j = s.working j := rfl
@[simp] theorem State.setQueue_paExists (s : State) (q : Nat) (k : Queue) (j : Nat) : (s.setQueue q k).paExists j = s.paExists j := rfl
@[simp] theorem State.setLaunch_die (s : State) (l : Launch) (j : Nat) : (s.setLaunch l).die j = s.die j := rfl
@[simp] theorem State.setLaunch_ctx (s : State) (l : Launch) (j : Nat) : (s.setLaunch l).ctx j = s.ctx j := rfl
@[simp] theorem State.setLaunch_queue (s : State) (l : Launch) (j : Nat) : (s.setLaunch l).queue j = s.queue j := rfl
@[simp] theorem State.setLaunch_gdie (s : State) (l : Launch) (j : Nat) : (s.setLaunch l).gdie j = s.gdie j := rfl
@[simp] theorem State.setLaunch_pass (s : State) (l : Launch) (j : Nat) : (s.setLaunch l).pass? j = s.pass? j := rfl
@[simp] theorem State.setLaunch_island (s : State) (l : Launch) (j : Nat) : (s.setLaunch l).island j = s.island j := rfl
@[simp] theorem State.setLaunch_link (s : State) (l : Launch) (j : Nat) : (s.setLaunch l).link j = s.link j := rfl
@[simp] theorem State.setLaunch_dmap (s : State) (l : Launch) (j : Nat) : (s.setLaunch l).dmap j = s.dmap j := rfl
@[simp] theorem State.setLaunch_working (s : State) (l : Launch) (j : Nat) : (s.setLaunch l).working j = s.working j := rfl
@[simp] theorem State.setLaunch_paExists (s : State) (l : Launch) (j : Nat) : (s.setLaunch l).paExists j = s.paExists j := rfl
@[simp] theorem State.setGdie_die (s : State) (d : Nat) (k : GDie) (j : Nat) : (s.setGdie d k).die j = s.die j := rfl
@[simp] theorem State.setGdie_ctx (s : State) (d : Nat) (k : GDie) (j : Nat) : (s.setGdie d k).ctx j = s.ctx j := rfl
@[simp] theorem State.setGdie_queue (s : State) (d : Nat) (k : GDie) (j : Nat) : (s.setGdie d k).queue j = s.queue j := rfl
@[simp] theorem State.setGdie_launch (s : State) (d : Nat) (k : GDie) (j : Nat) : (s.setGdie d k).launch? j = s.launch? j := rfl
@[simp] theorem State.setGdie_pass (s : State) (d : Nat) (k : GDie) (j : Nat) : (s.setGdie d k).pass? j = s.pass? j := rfl
@[simp] theorem State.setGdie_island (s : State) (d : Nat) (k : GDie) (j : Nat) : (s.setGdie d k).island j = s.island j := rfl
@[simp] theorem State.setGdie_link (s : State) (d : Nat) (k : GDie) (j : Nat) : (s.setGdie d k).link j = s.link j := rfl
@[simp] theorem State.setGdie_dmap (s : State) (d : Nat) (k : GDie) (j : Nat) : (s.setGdie d k).dmap j = s.dmap j := rfl
@[simp] theorem State.setGdie_working (s : State) (d : Nat) (k : GDie) (j : Nat) : (s.setGdie d k).working j = s.working j := rfl
@[simp] theorem State.setGdie_paExists (s : State) (d : Nat) (k : GDie) (j : Nat) : (s.setGdie d k).paExists j = s.paExists j := rfl
@[simp] theorem State.setPass_die (s : State) (p : Pass) (j : Nat) : (s.setPass p).die j = s.die j := rfl
@[simp] theorem State.setPass_ctx (s : State) (p : Pass) (j : Nat) : (s.setPass p).ctx j = s.ctx j := rfl
@[simp] theorem State.setPass_queue (s : State) (p : Pass) (j : Nat) : (s.setPass p).queue j = s.queue j := rfl
@[simp] theorem State.setPass_launch (s : State) (p : Pass) (j : Nat) : (s.setPass p).launch? j = s.launch? j := rfl
@[simp] theorem State.setPass_gdie (s : State) (p : Pass) (j : Nat) : (s.setPass p).gdie j = s.gdie j := rfl
@[simp] theorem State.setPass_island (s : State) (p : Pass) (j : Nat) : (s.setPass p).island j = s.island j := rfl
@[simp] theorem State.setPass_link (s : State) (p : Pass) (j : Nat) : (s.setPass p).link j = s.link j := rfl
@[simp] theorem State.setPass_dmap (s : State) (p : Pass) (j : Nat) : (s.setPass p).dmap j = s.dmap j := rfl
@[simp] theorem State.setPass_working (s : State) (p : Pass) (j : Nat) : (s.setPass p).working j = s.working j := rfl
@[simp] theorem State.setPass_paExists (s : State) (p : Pass) (j : Nat) : (s.setPass p).paExists j = s.paExists j := rfl
@[simp] theorem State.setIsland_die (s : State) (i : Nat) (k : Island) (j : Nat) : (s.setIsland i k).die j = s.die j := rfl
@[simp] theorem State.setIsland_ctx (s : State) (i : Nat) (k : Island) (j : Nat) : (s.setIsland i k).ctx j = s.ctx j := rfl
@[simp] theorem State.setIsland_queue (s : State) (i : Nat) (k : Island) (j : Nat) : (s.setIsland i k).queue j = s.queue j := rfl
@[simp] theorem State.setIsland_launch (s : State) (i : Nat) (k : Island) (j : Nat) : (s.setIsland i k).launch? j = s.launch? j := rfl
@[simp] theorem State.setIsland_gdie (s : State) (i : Nat) (k : Island) (j : Nat) : (s.setIsland i k).gdie j = s.gdie j := rfl
@[simp] theorem State.setIsland_pass (s : State) (i : Nat) (k : Island) (j : Nat) : (s.setIsland i k).pass? j = s.pass? j := rfl
@[simp] theorem State.setIsland_link (s : State) (i : Nat) (k : Island) (j : Nat) : (s.setIsland i k).link j = s.link j := rfl
@[simp] theorem State.setIsland_dmap (s : State) (i : Nat) (k : Island) (j : Nat) : (s.setIsland i k).dmap j = s.dmap j := rfl
@[simp] theorem State.setIsland_working (s : State) (i : Nat) (k : Island) (j : Nat) : (s.setIsland i k).working j = s.working j := rfl
@[simp] theorem State.setIsland_paExists (s : State) (i : Nat) (k : Island) (j : Nat) : (s.setIsland i k).paExists j = s.paExists j := rfl
@[simp] theorem State.setLink_die (s : State) (i : Nat) (k : Link) (j : Nat) : (s.setLink i k).die j = s.die j := rfl
@[simp] theorem State.setLink_ctx (s : State) (i : Nat) (k : Link) (j : Nat) : (s.setLink i k).ctx j = s.ctx j := rfl
@[simp] theorem State.setLink_queue (s : State) (i : Nat) (k : Link) (j : Nat) : (s.setLink i k).queue j = s.queue j := rfl
@[simp] theorem State.setLink_launch (s : State) (i : Nat) (k : Link) (j : Nat) : (s.setLink i k).launch? j = s.launch? j := rfl
@[simp] theorem State.setLink_gdie (s : State) (i : Nat) (k : Link) (j : Nat) : (s.setLink i k).gdie j = s.gdie j := rfl
@[simp] theorem State.setLink_pass (s : State) (i : Nat) (k : Link) (j : Nat) : (s.setLink i k).pass? j = s.pass? j := rfl
@[simp] theorem State.setLink_island (s : State) (i : Nat) (k : Link) (j : Nat) : (s.setLink i k).island j = s.island j := rfl
@[simp] theorem State.setLink_dmap (s : State) (i : Nat) (k : Link) (j : Nat) : (s.setLink i k).dmap j = s.dmap j := rfl
@[simp] theorem State.setLink_working (s : State) (i : Nat) (k : Link) (j : Nat) : (s.setLink i k).working j = s.working j := rfl
@[simp] theorem State.setLink_paExists (s : State) (i : Nat) (k : Link) (j : Nat) : (s.setLink i k).paExists j = s.paExists j := rfl
@[simp] theorem State.post_die (s : State) (r : PendRec) (j : Nat) : (s.post r).die j = s.die j := rfl
@[simp] theorem State.post_ctx (s : State) (r : PendRec) (j : Nat) : (s.post r).ctx j = s.ctx j := rfl
@[simp] theorem State.post_queue (s : State) (r : PendRec) (j : Nat) : (s.post r).queue j = s.queue j := rfl
@[simp] theorem State.post_launch (s : State) (r : PendRec) (j : Nat) : (s.post r).launch? j = s.launch? j := rfl
@[simp] theorem State.post_gdie (s : State) (r : PendRec) (j : Nat) : (s.post r).gdie j = s.gdie j := rfl
@[simp] theorem State.post_pass (s : State) (r : PendRec) (j : Nat) : (s.post r).pass? j = s.pass? j := rfl
@[simp] theorem State.post_island (s : State) (r : PendRec) (j : Nat) : (s.post r).island j = s.island j := rfl
@[simp] theorem State.post_link (s : State) (r : PendRec) (j : Nat) : (s.post r).link j = s.link j := rfl
@[simp] theorem State.post_dmap (s : State) (r : PendRec) (j : Nat) : (s.post r).dmap j = s.dmap j := rfl
@[simp] theorem State.post_working (s : State) (r : PendRec) (j : Nat) : (s.post r).working j = s.working j := rfl
@[simp] theorem State.post_paExists (s : State) (r : PendRec) (j : Nat) : (s.post r).paExists j = s.paExists j := rfl
@[simp] theorem State.postLaunch_die (s : State) (l : Launch) (st f : Nat) (e : DWord) (j : Nat) : (s.postLaunch l st f e).die j = s.die j := rfl
@[simp] theorem State.postLaunch_ctx (s : State) (l : Launch) (st f : Nat) (e : DWord) (j : Nat) : (s.postLaunch l st f e).ctx j = s.ctx j := rfl
@[simp] theorem State.postLaunch_queue (s : State) (l : Launch) (st f : Nat) (e : DWord) (j : Nat) : (s.postLaunch l st f e).queue j = s.queue j := rfl
@[simp] theorem State.postLaunch_launch (s : State) (l : Launch) (st f : Nat) (e : DWord) (j : Nat) : (s.postLaunch l st f e).launch? j = s.launch? j := rfl
@[simp] theorem State.postLaunch_gdie (s : State) (l : Launch) (st f : Nat) (e : DWord) (j : Nat) : (s.postLaunch l st f e).gdie j = s.gdie j := rfl
@[simp] theorem State.postLaunch_pass (s : State) (l : Launch) (st f : Nat) (e : DWord) (j : Nat) : (s.postLaunch l st f e).pass? j = s.pass? j := rfl
@[simp] theorem State.postLaunch_island (s : State) (l : Launch) (st f : Nat) (e : DWord) (j : Nat) : (s.postLaunch l st f e).island j = s.island j := rfl
@[simp] theorem State.postLaunch_link (s : State) (l : Launch) (st f : Nat) (e : DWord) (j : Nat) : (s.postLaunch l st f e).link j = s.link j := rfl
@[simp] theorem State.postLaunch_dmap (s : State) (l : Launch) (st f : Nat) (e : DWord) (j : Nat) : (s.postLaunch l st f e).dmap j = s.dmap j := rfl
@[simp] theorem State.postLaunch_working (s : State) (l : Launch) (st f : Nat) (e : DWord) (j : Nat) : (s.postLaunch l st f e).working j = s.working j := rfl
@[simp] theorem State.postLaunch_paExists (s : State) (l : Launch) (st f : Nat) (e : DWord) (j : Nat) : (s.postLaunch l st f e).paExists j = s.paExists j := rfl
@[simp] theorem State.postCmd_die (s : State) (a st f : Nat) (e : DWord) (j : Nat) : (s.postCmd a st f e).die j = s.die j := rfl
@[simp] theorem State.postCmd_ctx (s : State) (a st f : Nat) (e : DWord) (j : Nat) : (s.postCmd a st f e).ctx j = s.ctx j := rfl
@[simp] theorem State.postCmd_queue (s : State) (a st f : Nat) (e : DWord) (j : Nat) : (s.postCmd a st f e).queue j = s.queue j := rfl
@[simp] theorem State.postCmd_launch (s : State) (a st f : Nat) (e : DWord) (j : Nat) : (s.postCmd a st f e).launch? j = s.launch? j := rfl
@[simp] theorem State.postCmd_gdie (s : State) (a st f : Nat) (e : DWord) (j : Nat) : (s.postCmd a st f e).gdie j = s.gdie j := rfl
@[simp] theorem State.postCmd_pass (s : State) (a st f : Nat) (e : DWord) (j : Nat) : (s.postCmd a st f e).pass? j = s.pass? j := rfl
@[simp] theorem State.postCmd_island (s : State) (a st f : Nat) (e : DWord) (j : Nat) : (s.postCmd a st f e).island j = s.island j := rfl
@[simp] theorem State.postCmd_link (s : State) (a st f : Nat) (e : DWord) (j : Nat) : (s.postCmd a st f e).link j = s.link j := rfl
@[simp] theorem State.postCmd_dmap (s : State) (a st f : Nat) (e : DWord) (j : Nat) : (s.postCmd a st f e).dmap j = s.dmap j := rfl
@[simp] theorem State.postCmd_working (s : State) (a st f : Nat) (e : DWord) (j : Nat) : (s.postCmd a st f e).working j = s.working j := rfl
@[simp] theorem State.postCmd_paExists (s : State) (a st f : Nat) (e : DWord) (j : Nat) : (s.postCmd a st f e).paExists j = s.paExists j := rfl
@[simp] theorem State.postFault_die (s : State) (f a d i : Nat) (v : DWord) (k n o : Nat) (j : Nat) : (s.postFault f a d i v k n o).die j = s.die j := rfl
@[simp] theorem State.postFault_ctx (s : State) (f a d i : Nat) (v : DWord) (k n o : Nat) (j : Nat) : (s.postFault f a d i v k n o).ctx j = s.ctx j := rfl
@[simp] theorem State.postFault_queue (s : State) (f a d i : Nat) (v : DWord) (k n o : Nat) (j : Nat) : (s.postFault f a d i v k n o).queue j = s.queue j := rfl
@[simp] theorem State.postFault_launch (s : State) (f a d i : Nat) (v : DWord) (k n o : Nat) (j : Nat) : (s.postFault f a d i v k n o).launch? j = s.launch? j := rfl
@[simp] theorem State.postFault_gdie (s : State) (f a d i : Nat) (v : DWord) (k n o : Nat) (j : Nat) : (s.postFault f a d i v k n o).gdie j = s.gdie j := rfl
@[simp] theorem State.postFault_pass (s : State) (f a d i : Nat) (v : DWord) (k n o : Nat) (j : Nat) : (s.postFault f a d i v k n o).pass? j = s.pass? j := rfl
@[simp] theorem State.postFault_island (s : State) (f a d i : Nat) (v : DWord) (k n o : Nat) (j : Nat) : (s.postFault f a d i v k n o).island j = s.island j := rfl
@[simp] theorem State.postFault_link (s : State) (f a d i : Nat) (v : DWord) (k n o : Nat) (j : Nat) : (s.postFault f a d i v k n o).link j = s.link j := rfl
@[simp] theorem State.postFault_dmap (s : State) (f a d i : Nat) (v : DWord) (k n o : Nat) (j : Nat) : (s.postFault f a d i v k n o).dmap j = s.dmap j := rfl
@[simp] theorem State.postFault_working (s : State) (f a d i : Nat) (v : DWord) (k n o : Nat) (j : Nat) : (s.postFault f a d i v k n o).working j = s.working j := rfl
@[simp] theorem State.postFault_paExists (s : State) (f a d i : Nat) (v : DWord) (k n o : Nat) (j : Nat) : (s.postFault f a d i v k n o).paExists j = s.paExists j := rfl
@[simp] theorem State.send_die (s : State) (a b : Agent) (l : Nat) (k : MsgK) (j : Nat) : (s.send a b l k).die j = s.die j := rfl
@[simp] theorem State.send_ctx (s : State) (a b : Agent) (l : Nat) (k : MsgK) (j : Nat) : (s.send a b l k).ctx j = s.ctx j := rfl
@[simp] theorem State.send_queue (s : State) (a b : Agent) (l : Nat) (k : MsgK) (j : Nat) : (s.send a b l k).queue j = s.queue j := rfl
@[simp] theorem State.send_launch (s : State) (a b : Agent) (l : Nat) (k : MsgK) (j : Nat) : (s.send a b l k).launch? j = s.launch? j := rfl
@[simp] theorem State.send_gdie (s : State) (a b : Agent) (l : Nat) (k : MsgK) (j : Nat) : (s.send a b l k).gdie j = s.gdie j := rfl
@[simp] theorem State.send_pass (s : State) (a b : Agent) (l : Nat) (k : MsgK) (j : Nat) : (s.send a b l k).pass? j = s.pass? j := rfl
@[simp] theorem State.send_island (s : State) (a b : Agent) (l : Nat) (k : MsgK) (j : Nat) : (s.send a b l k).island j = s.island j := rfl
@[simp] theorem State.send_link (s : State) (a b : Agent) (l : Nat) (k : MsgK) (j : Nat) : (s.send a b l k).link j = s.link j := rfl
@[simp] theorem State.send_dmap (s : State) (a b : Agent) (l : Nat) (k : MsgK) (j : Nat) : (s.send a b l k).dmap j = s.dmap j := rfl
@[simp] theorem State.send_working (s : State) (a b : Agent) (l : Nat) (k : MsgK) (j : Nat) : (s.send a b l k).working j = s.working j := rfl
@[simp] theorem State.send_paExists (s : State) (a b : Agent) (l : Nat) (k : MsgK) (j : Nat) : (s.send a b l k).paExists j = s.paExists j := rfl
@[simp] theorem State.take_die (s : State) (i : Nat) (j : Nat) : (s.take i).die j = s.die j := rfl
@[simp] theorem State.take_ctx (s : State) (i : Nat) (j : Nat) : (s.take i).ctx j = s.ctx j := rfl
@[simp] theorem State.take_queue (s : State) (i : Nat) (j : Nat) : (s.take i).queue j = s.queue j := rfl
@[simp] theorem State.take_launch (s : State) (i : Nat) (j : Nat) : (s.take i).launch? j = s.launch? j := rfl
@[simp] theorem State.take_gdie (s : State) (i : Nat) (j : Nat) : (s.take i).gdie j = s.gdie j := rfl
@[simp] theorem State.take_pass (s : State) (i : Nat) (j : Nat) : (s.take i).pass? j = s.pass? j := rfl
@[simp] theorem State.take_island (s : State) (i : Nat) (j : Nat) : (s.take i).island j = s.island j := rfl
@[simp] theorem State.take_link (s : State) (i : Nat) (j : Nat) : (s.take i).link j = s.link j := rfl
@[simp] theorem State.take_dmap (s : State) (i : Nat) (j : Nat) : (s.take i).dmap j = s.dmap j := rfl
@[simp] theorem State.take_working (s : State) (i : Nat) (j : Nat) : (s.take i).working j = s.working j := rfl
@[simp] theorem State.take_paExists (s : State) (i : Nat) (j : Nat) : (s.take i).paExists j = s.paExists j := rfl

/-! ### A part that has just been replaced -/

@[simp] theorem State.setDie_die_self (s : State) (d : Nat) (k : Die) : (s.setDie d k).die d = k := by simp [State.setDie, State.die]
theorem State.setDie_die_ne (s : State) (d e : Nat) (k : Die) (h : e ≠ d) : (s.setDie d k).die e = s.die e := by simp [State.setDie, State.die, cget_cset_ne, h]
@[simp] theorem State.setCtx_ctx_self (s : State) (d : Nat) (k : Ctx) : (s.setCtx d k).ctx d = k := by simp [State.setCtx, State.ctx]
theorem State.setCtx_ctx_ne (s : State) (d e : Nat) (k : Ctx) (h : e ≠ d) : (s.setCtx d k).ctx e = s.ctx e := by simp [State.setCtx, State.ctx, cget_cset_ne, h]
@[simp] theorem State.setQueue_queue_self (s : State) (d : Nat) (k : Queue) : (s.setQueue d k).queue d = k := by simp [State.setQueue, State.queue]
theorem State.setQueue_queue_ne (s : State) (d e : Nat) (k : Queue) (h : e ≠ d) : (s.setQueue d k).queue e = s.queue e := by simp [State.setQueue, State.queue, cget_cset_ne, h]
@[simp] theorem State.setGdie_gdie_self (s : State) (d : Nat) (k : GDie) : (s.setGdie d k).gdie d = k := by simp [State.setGdie, State.gdie]
theorem State.setGdie_gdie_ne (s : State) (d e : Nat) (k : GDie) (h : e ≠ d) : (s.setGdie d k).gdie e = s.gdie e := by simp [State.setGdie, State.gdie, cget_cset_ne, h]
@[simp] theorem State.setIsland_island_self (s : State) (d : Nat) (k : Island) : (s.setIsland d k).island d = k := by simp [State.setIsland, State.island]
theorem State.setIsland_island_ne (s : State) (d e : Nat) (k : Island) (h : e ≠ d) : (s.setIsland d k).island e = s.island e := by simp [State.setIsland, State.island, cget_cset_ne, h]
@[simp] theorem State.setLink_link_self (s : State) (d : Nat) (k : Link) : (s.setLink d k).link d = k := by simp [State.setLink, State.link]
theorem State.setLink_link_ne (s : State) (d e : Nat) (k : Link) (h : e ≠ d) : (s.setLink d k).link e = s.link e := by simp [State.setLink, State.link, cget_cset_ne, h]

/-! ### Fields of the execution state, a workgroup and a group under their updates -/

@[simp] theorem Exec.setWg_nextAge (x : Exec) (w : Wg) : (x.setWg w).nextAge = x.nextAge := rfl
@[simp] theorem Exec.setWg_cur (x : Exec) (w : Wg) : (x.setWg w).cur = x.cur := rfl
@[simp] theorem Exec.setWg_free (x : Exec) (w : Wg) : (x.setWg w).free = x.free := rfl
@[simp] theorem Exec.setCore_nextId (x : Exec) (d c : Nat) (k : Core) : (x.setCore d c k).nextId = x.nextId := rfl
@[simp] theorem Exec.setCore_nextAge (x : Exec) (d c : Nat) (k : Core) : (x.setCore d c k).nextAge = x.nextAge := rfl
@[simp] theorem Exec.setCore_cur (x : Exec) (d c : Nat) (k : Core) : (x.setCore d c k).cur = x.cur := rfl
@[simp] theorem Exec.setCore_free (x : Exec) (d c : Nat) (k : Core) : (x.setCore d c k).free = x.free := rfl
@[simp] theorem Exec.setAcc_wgs (x : Exec) (a : Access) : (x.setAcc a).wgs = x.wgs := rfl
@[simp] theorem Exec.setAcc_cores (x : Exec) (a : Access) : (x.setAcc a).cores = x.cores := rfl
@[simp] theorem Exec.setAcc_reqs (x : Exec) (a : Access) : (x.setAcc a).reqs = x.reqs := rfl
@[simp] theorem Exec.setAcc_clk (x : Exec) (a : Access) : (x.setAcc a).clk = x.clk := rfl
@[simp] theorem Exec.setAcc_nextId (x : Exec) (a : Access) : (x.setAcc a).nextId = x.nextId := rfl
@[simp] theorem Exec.setAcc_nextAge (x : Exec) (a : Access) : (x.setAcc a).nextAge = x.nextAge := rfl
@[simp] theorem Exec.setAcc_cur (x : Exec) (a : Access) : (x.setAcc a).cur = x.cur := rfl
@[simp] theorem Exec.setAcc_free (x : Exec) (a : Access) : (x.setAcc a).free = x.free := rfl
@[simp] theorem Exec.delAcc_wgs (x : Exec) (i : Nat) : (x.delAcc i).wgs = x.wgs := rfl
@[simp] theorem Exec.delAcc_cores (x : Exec) (i : Nat) : (x.delAcc i).cores = x.cores := rfl
@[simp] theorem Exec.delAcc_reqs (x : Exec) (i : Nat) : (x.delAcc i).reqs = x.reqs := rfl
@[simp] theorem Exec.delAcc_clk (x : Exec) (i : Nat) : (x.delAcc i).clk = x.clk := rfl
@[simp] theorem Exec.delAcc_nextId (x : Exec) (i : Nat) : (x.delAcc i).nextId = x.nextId := rfl
@[simp] theorem Exec.delAcc_nextAge (x : Exec) (i : Nat) : (x.delAcc i).nextAge = x.nextAge := rfl
@[simp] theorem Exec.delAcc_cur (x : Exec) (i : Nat) : (x.delAcc i).cur = x.cur := rfl
@[simp] theorem Exec.delAcc_free (x : Exec) (i : Nat) : (x.delAcc i).free = x.free := rfl
@[simp] theorem Exec.setReq_wgs (x : Exec) (r : Req) : (x.setReq r).wgs = x.wgs := rfl
@[simp] theorem Exec.setReq_cores (x : Exec) (r : Req) : (x.setReq r).cores = x.cores := rfl
@[simp] theorem Exec.setReq_accs (x : Exec) (r : Req) : (x.setReq r).accs = x.accs := rfl
@[simp] theorem Exec.setReq_clk (x : Exec) (r : Req) : (x.setReq r).clk = x.clk := rfl
@[simp] theorem Exec.setReq_nextId (x : Exec) (r : Req) : (x.setReq r).nextId = x.nextId := rfl
@[simp] theorem Exec.setReq_nextAge (x : Exec) (r : Req) : (x.setReq r).nextAge = x.nextAge := rfl
@[simp] theorem Exec.setReq_cur (x : Exec) (r : Req) : (x.setReq r).cur = x.cur := rfl
@[simp] theorem Exec.setReq_free (x : Exec) (r : Req) : (x.setReq r).free = x.free := rfl
@[simp] theorem Exec.delReq_wgs (x : Exec) (i : Nat) : (x.delReq i).wgs = x.wgs := rfl
@[simp] theorem Exec.delReq_cores (x : Exec) (i : Nat) : (x.delReq i).cores = x.cores := rfl
@[simp] theorem Exec.delReq_accs (x : Exec) (i : Nat) : (x.delReq i).accs = x.accs := rfl
@[simp] theorem Exec.delReq_clk (x : Exec) (i : Nat) : (x.delReq i).clk = x.clk := rfl
@[simp] theorem Exec.delReq_nextId (x : Exec) (i : Nat) : (x.delReq i).nextId = x.nextId := rfl
@[simp] theorem Exec.delReq_nextAge (x : Exec) (i : Nat) : (x.delReq i).nextAge = x.nextAge := rfl
@[simp] theorem Exec.delReq_cur (x : Exec) (i : Nat) : (x.delReq i).cur = x.cur := rfl
@[simp] theorem Exec.delReq_free (x : Exec) (i : Nat) : (x.delReq i).free = x.free := rfl
@[simp] theorem Wg.setGrp_launch (w : Wg) (g : Group) : (w.setGrp g).launch = w.launch := rfl
@[simp] theorem Wg.setGrp_asid (w : Wg) (g : Group) : (w.setGrp g).asid = w.asid := rfl
@[simp] theorem Wg.setGrp_index (w : Wg) (g : Group) : (w.setGrp g).index = w.index := rfl
@[simp] theorem Wg.setGrp_die (w : Wg) (g : Group) : (w.setGrp g).die = w.die := rfl
@[simp] theorem Wg.setGrp_core (w : Wg) (g : Group) : (w.setGrp g).core = w.core := rfl
@[simp] theorem Wg.setGrp_st (w : Wg) (g : Group) : (w.setGrp g).st = w.st := rfl
@[simp] theorem Wg.setGrp_nthr (w : Wg) (g : Group) : (w.setGrp g).nthr = w.nthr := rfl
@[simp] theorem Wg.setGrp_regs (w : Wg) (g : Group) : (w.setGrp g).regs = w.regs := rfl
@[simp] theorem Wg.setGrp_scratch (w : Wg) (g : Group) : (w.setGrp g).scratch = w.scratch := rfl
@[simp] theorem Wg.setGrp_scrSize (w : Wg) (g : Group) : (w.setGrp g).scrSize = w.scrSize := rfl
@[simp] theorem Wg.setGrp_scrBase (w : Wg) (g : Group) : (w.setGrp g).scrBase = w.scrBase := rfl
@[simp] theorem Wg.setGrp_accMax (w : Wg) (g : Group) : (w.setGrp g).accMax = w.accMax := rfl
@[simp] theorem Wg.setGrp_mctx (w : Wg) (g : Group) : (w.setGrp g).mctx = w.mctx := rfl
@[simp] theorem Wg.setGrp_producer (w : Wg) (g : Group) : (w.setGrp g).producer = w.producer := rfl
@[simp] theorem Wg.setGrp_stage (w : Wg) (g : Group) : (w.setGrp g).stage = w.stage := rfl
@[simp] theorem Wg.setGrp_cores (w : Wg) (g : Group) : (w.setGrp g).cores = w.cores := rfl
@[simp] theorem Wg.setGrp_meshl (w : Wg) (g : Group) : (w.setGrp g).meshl = w.meshl := rfl
@[simp] theorem Wg.setGrp_handler (w : Wg) (g : Group) : (w.setGrp g).handler = w.handler := rfl
@[simp] theorem Wg.setGrp_nwg (w : Wg) (g : Group) : (w.setGrp g).nwg = w.nwg := rfl
@[simp] theorem Wg.setGrp_lcore (w : Wg) (g : Group) : (w.setGrp g).lcore = w.lcore := rfl
@[simp] theorem Wg.setGrp_lx (w : Wg) (g : Group) : (w.setGrp g).lx = w.lx := rfl
@[simp] theorem Wg.setGrp_ly (w : Wg) (g : Group) : (w.setGrp g).ly = w.ly := rfl
@[simp] theorem Wg.setGrp_ring (w : Wg) (g : Group) : (w.setGrp g).ring = w.ring := rfl
@[simp] theorem Wg.setGrp_nring (w : Wg) (g : Group) : (w.setGrp g).nring = w.nring := rfl
@[simp] theorem Wg.setGrp_stkBase (w : Wg) (g : Group) : (w.setGrp g).stkBase = w.stkBase := rfl
@[simp] theorem Wg.setGrp_spillN (w : Wg) (g : Group) : (w.setGrp g).spillN = w.spillN := rfl
@[simp] theorem Wg.setGrp_spillVa (w : Wg) (g : Group) : (w.setGrp g).spillVa = w.spillVa := rfl
@[simp] theorem Wg.setGrp_spillG (w : Wg) (g : Group) : (w.setGrp g).spillG = w.spillG := rfl
@[simp] theorem Wg.setGrp_ampMax (w : Wg) (g : Group) : (w.setGrp g).ampMax = w.ampMax := rfl
@[simp] theorem Wg.setGrp_vmax (w : Wg) (g : Group) : (w.setGrp g).vmax = w.vmax := rfl
@[simp] theorem Wg.setGrp_pmax (w : Wg) (g : Group) : (w.setGrp g).pmax = w.pmax := rfl
@[simp] theorem Wg.setGrp_stream (w : Wg) (g : Group) : (w.setGrp g).stream = w.stream := rfl
@[simp] theorem Wg.setGrp_draw (w : Wg) (g : Group) : (w.setGrp g).draw = w.draw := rfl
@[simp] theorem Wg.setGrp_task (w : Wg) (g : Group) : (w.setGrp g).task = w.task := rfl
@[simp] theorem Wg.setGrp_mesh (w : Wg) (g : Group) : (w.setGrp g).mesh = w.mesh := rfl
@[simp] theorem Wg.setGrp_passId (w : Wg) (g : Group) : (w.setGrp g).passId = w.passId := rfl
@[simp] theorem Wg.setGrp_node (w : Wg) (g : Group) : (w.setGrp g).node = w.node := rfl
@[simp] theorem Wg.setGrp_nd (w : Wg) (g : Group) : (w.setGrp g).nd = w.nd := rfl
@[simp] theorem Wg.setGrp_dw (w : Wg) (g : Group) : (w.setGrp g).dw = w.dw := rfl
@[simp] theorem Wg.setGrp_frag (w : Wg) (g : Group) : (w.setGrp g).frag = w.frag := rfl
@[simp] theorem Wg.setGrp_emits (w : Wg) (g : Group) : (w.setGrp g).emits = w.emits := rfl
@[simp] theorem Wg.setGrp_prims (w : Wg) (g : Group) : (w.setGrp g).prims = w.prims := rfl
@[simp] theorem Wg.setGrp_sstArr (w : Wg) (g : Group) : (w.setGrp g).sstArr = w.sstArr := rfl
@[simp] theorem Wg.setGrp_sstDone (w : Wg) (g : Group) : (w.setGrp g).sstDone = w.sstDone := rfl
@[simp] theorem Wg.setGrp_ks (w : Wg) (g : Group) : (w.setGrp g).ks = w.ks := rfl
@[simp] theorem Wg.setGrp_bs (w : Wg) (g : Group) : (w.setGrp g).bs = w.bs := rfl
@[simp] theorem Wg.setGrp_qs (w : Wg) (g : Group) : (w.setGrp g).qs = w.qs := rfl
@[simp] theorem Wg.setGrp_ts (w : Wg) (g : Group) : (w.setGrp g).ts = w.ts := rfl
@[simp] theorem Wg.setGrp_hs (w : Wg) (g : Group) : (w.setGrp g).hs = w.hs := rfl
@[simp] theorem Wg.setGrp_cs (w : Wg) (g : Group) : (w.setGrp g).cs = w.cs := rfl
@[simp] theorem Group.setLane_idx (g : Group) (l : Nat) (t : Lane) : (g.setLane l t).idx = g.idx := rfl
@[simp] theorem Group.setLane_age (g : Group) (l : Nat) (t : Lane) : (g.setLane l t).age = g.age := rfl
@[simp] theorem Group.setLane_pass (g : Group) (l : Nat) (t : Lane) : (g.setLane l t).pass = g.pass := rfl
@[simp] theorem Group.setLane_s (g : Group) (l : Nat) (t : Lane) : (g.setLane l t).s = g.s := rfl
@[simp] theorem Group.setLane_m (g : Group) (l : Nat) (t : Lane) : (g.setLane l t).m = g.m := rfl
@[simp] theorem Group.setLane_arr (g : Group) (l : Nat) (t : Lane) : (g.setLane l t).arr = g.arr := rfl
@[simp] theorem Group.setLane_ld (g : Group) (l : Nat) (t : Lane) : (g.setLane l t).ld = g.ld := rfl
@[simp] theorem Group.setLane_stc (g : Group) (l : Nat) (t : Lane) : (g.setLane l t).stc = g.stc := rfl
@[simp] theorem Group.setLane_tl (g : Group) (l : Nat) (t : Lane) : (g.setLane l t).tl = g.tl := rfl
@[simp] theorem Group.setLane_fmode (g : Group) (l : Nat) (t : Lane) : (g.setLane l t).fmode = g.fmode := rfl
@[simp] theorem Group.setLane_phase (g : Group) (l : Nat) (t : Lane) : (g.setLane l t).phase = g.phase := rfl
@[simp] theorem Group.setLane_phaseAt (g : Group) (l : Nat) (t : Lane) : (g.setLane l t).phaseAt = g.phaseAt := rfl
@[simp] theorem Group.setLane_handler (g : Group) (l : Nat) (t : Lane) : (g.setLane l t).handler = g.handler := rfl
@[simp] theorem Group.setLane_ecause (g : Group) (l : Nat) (t : Lane) : (g.setLane l t).ecause = g.ecause := rfl
@[simp] theorem Group.setLane_eaddr (g : Group) (l : Nat) (t : Lane) : (g.setLane l t).eaddr = g.eaddr := rfl
@[simp] theorem Group.setLane_eskid (g : Group) (l : Nat) (t : Lane) : (g.setLane l t).eskid = g.eskid := rfl
@[simp] theorem Group.setLane_park (g : Group) (l : Nat) (t : Lane) : (g.setLane l t).park = g.park := rfl
@[simp] theorem Group.setLane_busy (g : Group) (l : Nat) (t : Lane) : (g.setLane l t).busy = g.busy := rfl
@[simp] theorem Group.setLane_fences (g : Group) (l : Nat) (t : Lane) : (g.setLane l t).fences = g.fences := rfl
@[simp] theorem Group.setLane_seen (g : Group) (l : Nat) (t : Lane) : (g.setLane l t).seen = g.seen := rfl
@[simp] theorem Group.setLane_issued (g : Group) (l : Nat) (t : Lane) : (g.setLane l t).issued = g.issued := rfl
@[simp] theorem Group.onLanes_idx (g : Group) (ls : List Nat) (f : Nat → Lane → Lane) : (g.onLanes ls f).idx = g.idx := rfl
@[simp] theorem Group.onLanes_age (g : Group) (ls : List Nat) (f : Nat → Lane → Lane) : (g.onLanes ls f).age = g.age := rfl
@[simp] theorem Group.onLanes_pass (g : Group) (ls : List Nat) (f : Nat → Lane → Lane) : (g.onLanes ls f).pass = g.pass := rfl
@[simp] theorem Group.onLanes_s (g : Group) (ls : List Nat) (f : Nat → Lane → Lane) : (g.onLanes ls f).s = g.s := rfl
@[simp] theorem Group.onLanes_m (g : Group) (ls : List Nat) (f : Nat → Lane → Lane) : (g.onLanes ls f).m = g.m := rfl
@[simp] theorem Group.onLanes_arr (g : Group) (ls : List Nat) (f : Nat → Lane → Lane) : (g.onLanes ls f).arr = g.arr := rfl
@[simp] theorem Group.onLanes_ld (g : Group) (ls : List Nat) (f : Nat → Lane → Lane) : (g.onLanes ls f).ld = g.ld := rfl
@[simp] theorem Group.onLanes_stc (g : Group) (ls : List Nat) (f : Nat → Lane → Lane) : (g.onLanes ls f).stc = g.stc := rfl
@[simp] theorem Group.onLanes_tl (g : Group) (ls : List Nat) (f : Nat → Lane → Lane) : (g.onLanes ls f).tl = g.tl := rfl
@[simp] theorem Group.onLanes_fmode (g : Group) (ls : List Nat) (f : Nat → Lane → Lane) : (g.onLanes ls f).fmode = g.fmode := rfl
@[simp] theorem Group.onLanes_phase (g : Group) (ls : List Nat) (f : Nat → Lane → Lane) : (g.onLanes ls f).phase = g.phase := rfl
@[simp] theorem Group.onLanes_phaseAt (g : Group) (ls : List Nat) (f : Nat → Lane → Lane) : (g.onLanes ls f).phaseAt = g.phaseAt := rfl
@[simp] theorem Group.onLanes_handler (g : Group) (ls : List Nat) (f : Nat → Lane → Lane) : (g.onLanes ls f).handler = g.handler := rfl
@[simp] theorem Group.onLanes_ecause (g : Group) (ls : List Nat) (f : Nat → Lane → Lane) : (g.onLanes ls f).ecause = g.ecause := rfl
@[simp] theorem Group.onLanes_eaddr (g : Group) (ls : List Nat) (f : Nat → Lane → Lane) : (g.onLanes ls f).eaddr = g.eaddr := rfl
@[simp] theorem Group.onLanes_eskid (g : Group) (ls : List Nat) (f : Nat → Lane → Lane) : (g.onLanes ls f).eskid = g.eskid := rfl
@[simp] theorem Group.onLanes_park (g : Group) (ls : List Nat) (f : Nat → Lane → Lane) : (g.onLanes ls f).park = g.park := rfl
@[simp] theorem Group.onLanes_busy (g : Group) (ls : List Nat) (f : Nat → Lane → Lane) : (g.onLanes ls f).busy = g.busy := rfl
@[simp] theorem Group.onLanes_fences (g : Group) (ls : List Nat) (f : Nat → Lane → Lane) : (g.onLanes ls f).fences = g.fences := rfl
@[simp] theorem Group.onLanes_seen (g : Group) (ls : List Nat) (f : Nat → Lane → Lane) : (g.onLanes ls f).seen = g.seen := rfl
@[simp] theorem Group.onLanes_issued (g : Group) (ls : List Nat) (f : Nat → Lane → Lane) : (g.onLanes ls f).issued = g.issued := rfl

end Sys2Proof.Machine
end

