-- ==== Sys2Proof/Tests/Slice0.lean ====
section
/-!
SUPPORT. Tests: words of every instruction decoded; terms that each check of the encoding refuses; for every statement
with hypotheses, states that meet them; single steps with results from the manual.
-/

set_option linter.unusedVariables false

open Sys2Proof Sys2Proof.Machine

namespace Sys2Proof.Tests

/-! ### Words by the opcode map and the formats of 08_encoding R188, R196, and the opcode table, decoded -/

theorem test_decode_scalar_integer :
  decode 0x014A4C5B 0x00000000 = .ok (.addI { d := 0x25, a := 0x13, b := 0xB, g := 0x3 }) ∧
  decode 0x024A4EA5 0x00000000 = .ok (.addIImm { d := 0x25, a := 0x13, imm := 0x2A5 }) ∧
  decode 0x034A4C5B 0x00000000 = .ok (.subI { d := 0x25, a := 0x13, b := 0xB, g := 0x3 }) ∧
  decode 0x044A4C5B 0x00000000 = .ok (.addcN { d := 0x25, a := 0x13, b := 0xB, g := 0x3 }) ∧
  decode 0x054A4C5B 0x00000000 = .ok (.subbN { d := 0x25, a := 0x13, b := 0xB, g := 0x3 }) ∧
  decode 0x064A4C5B 0x00000000 = .ok (.mulI { d := 0x25, a := 0x13, b := 0xB, g := 0x3 }) ∧
  decode 0x074A4C5B 0x00000000 = .ok (.mulhiI { d := 0x25, a := 0x13, b := 0xB, g := 0x3 }) ∧
  decode 0x084A4C5B 0x00000000 = .ok (.mulhiN { d := 0x25, a := 0x13, b := 0xB, g := 0x3 }) ∧
  decode 0x094A4C5B 0x14140000 = .ok (.madI { d := 0x25, a := 0x13, b := 0xB, g := 0x3, c := 0x14140000 }) ∧
  decode 0x0A4A4C5B 0x00000000 = .ok (.divI { d := 0x25, a := 0x13, b := 0xB, g := 0x3 }) ∧
  decode 0x0B4A4C5B 0x00000000 = .ok (.divN { d := 0x25, a := 0x13, b := 0xB, g := 0x3 }) ∧
  decode 0x0C4A4C5B 0x00000000 = .ok (.remI { d := 0x25, a := 0x13, b := 0xB, g := 0x3 }) ∧
  decode 0x0D4A4C5B 0x00000000 = .ok (.remN { d := 0x25, a := 0x13, b := 0xB, g := 0x3 }) ∧
  decode 0x0E4A4C5B 0x00000000 = .ok (.minI { d := 0x25, a := 0x13, b := 0xB, g := 0x3 }) ∧
  decode 0x0F4A4C5B 0x00000000 = .ok (.maxI { d := 0x25, a := 0x13, b := 0xB, g := 0x3 }) ∧
  decode 0x104A4C5B 0x00000000 = .ok (.minN { d := 0x25, a := 0x13, b := 0xB, g := 0x3 }) ∧
  decode 0x114A4C5B 0x00000000 = .ok (.maxN { d := 0x25, a := 0x13, b := 0xB, g := 0x3 }) ∧
  decode 0x124A4C03 0x00000000 = .ok (.absI { d := 0x25, a := 0x13, b := 0x0, g := 0x3 }) := by
  decide

theorem test_decode_packed_integer :
  decode 0x134A4C5B 0x00000000 = .ok (.addI16x2 { d := 0x25, a := 0x13, b := 0xB, g := 0x3 }) ∧
  decode 0x144A4C5B 0x00000000 = .ok (.subI16x2 { d := 0x25, a := 0x13, b := 0xB, g := 0x3 }) ∧
  decode 0x154A4C5B 0x00000000 = .ok (.addN16x2 { d := 0x25, a := 0x13, b := 0xB, g := 0x3 }) ∧
  decode 0x164A4C5B 0x00000000 = .ok (.subN16x2 { d := 0x25, a := 0x13, b := 0xB, g := 0x3 }) ∧
  decode 0x174A4C5B 0x00000000 = .ok (.addI8x4 { d := 0x25, a := 0x13, b := 0xB, g := 0x3 }) ∧
  decode 0x184A4C5B 0x00000000 = .ok (.subI8x4 { d := 0x25, a := 0x13, b := 0xB, g := 0x3 }) ∧
  decode 0x194A4C5B 0x00000000 = .ok (.addN8x4 { d := 0x25, a := 0x13, b := 0xB, g := 0x3 }) ∧
  decode 0x1A4A4C5B 0x00000000 = .ok (.subN8x4 { d := 0x25, a := 0x13, b := 0xB, g := 0x3 }) := by
  decide

theorem test_decode_logic_shift_field :
  decode 0x1B4A4C5B 0x00000000 = .ok (.and { d := 0x25, a := 0x13, b := 0xB, g := 0x3 }) ∧
  decode 0x1C4A4C5B 0x00000000 = .ok (.or { d := 0x25, a := 0x13, b := 0xB, g := 0x3 }) ∧
  decode 0x1D4A4C5B 0x00000000 = .ok (.xor { d := 0x25, a := 0x13, b := 0xB, g := 0x3 }) ∧
  decode 0x1E4A4C5B 0x00000000 = .ok (.andn { d := 0x25, a := 0x13, b := 0xB, g := 0x3 }) ∧
  decode 0x1F4A4EA5 0x00000000 = .ok (.andImm { d := 0x25, a := 0x13, imm := 0x2A5 }) ∧
  decode 0x204A4EA5 0x00000000 = .ok (.orImm { d := 0x25, a := 0x13, imm := 0x2A5 }) ∧
  decode 0x214A4EA5 0x00000000 = .ok (.xorImm { d := 0x25, a := 0x13, imm := 0x2A5 }) ∧
  decode 0x224A4C5B 0x00000000 = .ok (.shl { d := 0x25, a := 0x13, b := 0xB, g := 0x3 }) ∧
  decode 0x234A4C5B 0x00000000 = .ok (.shrN { d := 0x25, a := 0x13, b := 0xB, g := 0x3 }) ∧
  decode 0x244A4C5B 0x00000000 = .ok (.shrI { d := 0x25, a := 0x13, b := 0xB, g := 0x3 }) ∧
  decode 0x254A4EA5 0x00000000 = .ok (.shlImm { d := 0x25, a := 0x13, imm := 0x2A5 }) ∧
  decode 0x264A4EA5 0x00000000 = .ok (.shrNImm { d := 0x25, a := 0x13, imm := 0x2A5 }) ∧
  decode 0x274A4EA5 0x00000000 = .ok (.shrIImm { d := 0x25, a := 0x13, imm := 0x2A5 }) ∧
  decode 0x284A4C5B 0x04000000 = .ok (.bfxN { d := 0x25, a := 0x13, b := 0xB, g := 0x3, c := 0x4000000 }) ∧
  decode 0x294A4C5B 0x08000000 = .ok (.bfxI { d := 0x25, a := 0x13, b := 0xB, g := 0x3, c := 0x8000000 }) ∧
  decode 0x2A4A4C5B 0x04140000 = .ok (.bfi { d := 0x25, a := 0x13, b := 0xB, g := 0x3, c := 0x4140000 }) ∧
  decode 0x2B4A4C03 0x00000000 = .ok (.popc { d := 0x25, a := 0x13, b := 0x0, g := 0x3 }) ∧
  decode 0x2C4A4C03 0x00000000 = .ok (.clz { d := 0x25, a := 0x13, b := 0x0, g := 0x3 }) ∧
  decode 0x2D4A4C03 0x00000000 = .ok (.brev { d := 0x25, a := 0x13, b := 0x0, g := 0x3 }) := by
  decide

theorem test_decode_address_compare_select_move :
  decode 0x2E4A4C5B 0x0C00000B = .ok (.lea { d := 0x25, a := 0x13, b := 0xB, g := 0x3, c := 0xC00000B }) ∧
  decode 0x2F4A4C5B 0x00080013 = .ok (.setpI { d := 0x25, a := 0x13, b := 0xB, g := 0x3, c := 0x80013 }) ∧
  decode 0x304A4C5B 0x04000005 = .ok (.setpN { d := 0x25, a := 0x13, b := 0xB, g := 0x3, c := 0x4000005 }) ∧
  decode 0x314A4C5B 0x040C0000 = .ok (.sel { d := 0x25, a := 0x13, b := 0xB, g := 0x3, c := 0x40C0000 }) ∧
  decode 0x324A4C03 0x00000000 = .ok (.mov { d := 0x25, a := 0x13, b := 0x0, g := 0x3 }) ∧
  decode 0x334A02A5 0x00000000 = .ok (.movImm { d := 0x25, a := 0x0, imm := 0x2A5 }) ∧
  decode 0x344A005B 0x3FC00000 = .ok (.movLit { d := 0x25, a := 0x0, f7 := 0xB, g := 0x3, lit := 0x3FC00000 }) ∧
  decode 0x354A4C5B 0x04000002 = .ok (.shfl { d := 0x25, a := 0x13, b := 0xB, g := 0x3, c := 0x4000002 }) := by
  decide

theorem test_decode_lane_exchange_and_extended_integer :
  decode 0x360262E3 0x00000000 = .ok (.vote { x := 0x0, a := 0x13, b := 0xB, f := 0x4, g := 0x3 }) ∧
  decode 0x374A4C5B 0x1C000003 = .ok (.xint { d := 0x25, a := 0x13, b := 0xB, g := 0x3, c := 0x1C000003 }) := by
  decide

theorem test_decode_single_float :
  decode 0x384A4C5B 0x00000000 = .ok (.addF { d := 0x25, a := 0x13, b := 0xB, g := 0x3 }) ∧
  decode 0x394A4C5B 0x00000000 = .ok (.subF { d := 0x25, a := 0x13, b := 0xB, g := 0x3 }) ∧
  decode 0x3A4A4C5B 0x00000000 = .ok (.mulF { d := 0x25, a := 0x13, b := 0xB, g := 0x3 }) ∧
  decode 0x3B4A4C5B 0x50140000 = .ok (.fmaF { d := 0x25, a := 0x13, b := 0xB, g := 0x3, c := 0x50140000 }) ∧
  decode 0x3C4A4C5B 0x00000000 = .ok (.minF { d := 0x25, a := 0x13, b := 0xB, g := 0x3 }) ∧
  decode 0x3D4A4C5B 0x00000000 = .ok (.maxF { d := 0x25, a := 0x13, b := 0xB, g := 0x3 }) ∧
  decode 0x3E4A4C03 0x00000000 = .ok (.absF { d := 0x25, a := 0x13, b := 0x0, g := 0x3 }) ∧
  decode 0x3F4A4C03 0x00000000 = .ok (.negF { d := 0x25, a := 0x13, b := 0x0, g := 0x3 }) ∧
  decode 0x404A4C5B 0x00000000 = .ok (.divF { d := 0x25, a := 0x13, b := 0xB, g := 0x3 }) ∧
  decode 0x414A4C5B 0x0000000A = .ok (.setpF { d := 0x25, a := 0x13, b := 0xB, g := 0x3, c := 0xA }) := by
  decide

theorem test_decode_packed_float :
  decode 0x424A4C5B 0x00000000 = .ok (.addF16x2 { d := 0x25, a := 0x13, b := 0xB, g := 0x3 }) ∧
  decode 0x434A4C5B 0x00000000 = .ok (.mulF16x2 { d := 0x25, a := 0x13, b := 0xB, g := 0x3 }) ∧
  decode 0x444A4C5B 0x20160000 = .ok (.fmaF16x2 { d := 0x25, a := 0x13, b := 0xB, g := 0x3, c := 0x20160000 }) ∧
  decode 0x454A4C5B 0x00000000 = .ok (.minF16x2 { d := 0x25, a := 0x13, b := 0xB, g := 0x3 }) ∧
  decode 0x464A4C5B 0x00000000 = .ok (.maxF16x2 { d := 0x25, a := 0x13, b := 0xB, g := 0x3 }) ∧
  decode 0x474A4C5B 0x00000044 = .ok (.setpF16x2 { d := 0x25, a := 0x13, b := 0xB, g := 0x3, c := 0x44 }) ∧
  decode 0x484A4C5B 0x00000000 = .ok (.addBf16x2 { d := 0x25, a := 0x13, b := 0xB, g := 0x3 }) ∧
  decode 0x494A4C5B 0x00000000 = .ok (.mulBf16x2 { d := 0x25, a := 0x13, b := 0xB, g := 0x3 }) ∧
  decode 0x4A4A4C5B 0x80000000 = .ok (.fmaBf16x2 { d := 0x25, a := 0x13, b := 0xB, g := 0x3, c := 0x80000000 }) ∧
  decode 0x4B4A4C5B 0x00000000 = .ok (.minBf16x2 { d := 0x25, a := 0x13, b := 0xB, g := 0x3 }) ∧
  decode 0x4C4A4C5B 0x00000000 = .ok (.maxBf16x2 { d := 0x25, a := 0x13, b := 0xB, g := 0x3 }) ∧
  decode 0x4D4A4C5B 0x040000C1 = .ok (.setpBf16x2 { d := 0x25, a := 0x13, b := 0xB, g := 0x3, c := 0x40000C1 }) := by
  decide

theorem test_decode_double_float :
  decode 0x4E4A4C5B 0x00000000 = .ok (.addF64 { d := 0x25, a := 0x13, b := 0xB, g := 0x3 }) ∧
  decode 0x4F4A4C5B 0x00000000 = .ok (.subF64 { d := 0x25, a := 0x13, b := 0xB, g := 0x3 }) ∧
  decode 0x504A4C5B 0x00000000 = .ok (.mulF64 { d := 0x25, a := 0x13, b := 0xB, g := 0x3 }) ∧
  decode 0x514A4C5B 0x04180000 = .ok (.fmaF64 { d := 0x25, a := 0x13, b := 0xB, g := 0x3, c := 0x4180000 }) ∧
  decode 0x524A4C5B 0x00000000 = .ok (.minF64 { d := 0x25, a := 0x13, b := 0xB, g := 0x3 }) ∧
  decode 0x534A4C5B 0x00000000 = .ok (.maxF64 { d := 0x25, a := 0x13, b := 0xB, g := 0x3 }) ∧
  decode 0x544A4C5B 0x00000000 = .ok (.divF64 { d := 0x25, a := 0x13, b := 0xB, g := 0x3 }) ∧
  decode 0x554A4C5B 0x00000006 = .ok (.setpF64 { d := 0x25, a := 0x13, b := 0xB, g := 0x3, c := 0x6 }) := by
  decide

theorem test_decode_rounded_functions :
  decode 0x564A4C03 0x00000000 = .ok (.rcpF { d := 0x25, a := 0x13, b := 0x0, g := 0x3 }) ∧
  decode 0x574A4C03 0x00000000 = .ok (.sqrtF { d := 0x25, a := 0x13, b := 0x0, g := 0x3 }) ∧
  decode 0x584A4C03 0x00000000 = .ok (.rsqrtF { d := 0x25, a := 0x13, b := 0x0, g := 0x3 }) ∧
  decode 0x594A4C03 0x00000000 = .ok (.exp2F { d := 0x25, a := 0x13, b := 0x0, g := 0x3 }) ∧
  decode 0x5A4A4C03 0x00000000 = .ok (.log2F { d := 0x25, a := 0x13, b := 0x0, g := 0x3 }) ∧
  decode 0x5B4A4C03 0x00000000 = .ok (.rcpF64 { d := 0x25, a := 0x13, b := 0x0, g := 0x3 }) ∧
  decode 0x5C4A4C03 0x00000000 = .ok (.sqrtF64 { d := 0x25, a := 0x13, b := 0x0, g := 0x3 }) ∧
  decode 0x5D4A4C03 0x60000000 = .ok (.rintF { d := 0x25, a := 0x13, b := 0x0, g := 0x3, c := 0x60000000 }) ∧
  decode 0x5E4A4C03 0x28000000 = .ok (.rintF64 { d := 0x25, a := 0x13, b := 0x0, g := 0x3, c := 0x28000000 }) ∧
  decode 0x5F4A4C5B 0x08000000 = .ok (.crel { d := 0x25, a := 0x13, b := 0xB, g := 0x3, c := 0x8000000 }) := by
  decide

theorem test_decode_dot_convert_extended_float :
  decode 0x604A4C5B 0x200D20B4 = .ok (.dot4 { d := 0x25, a := 0x13, b := 0xB, g := 0x3, c := 0x200D20B4 }) ∧
  decode 0x614A4C03 0xA001802A = .ok (.cvt { d := 0x25, a := 0x13, b := 0x0, g := 0x3, c := 0xA001802A }) ∧
  decode 0x6F4A4C5B 0x70000038 = .ok (.xflt { d := 0x25, a := 0x13, b := 0xB, g := 0x3, c := 0x70000038 }) := by
  decide

theorem test_decode_loads_stores_atomics :
  decode 0x704A4C5B 0x680CFFF0 = .ok (.ld { d := 0x25, a := 0x13, b := 0xB, g := 0x3, c := 0x680CFFF0 }) ∧
  decode 0x714A4EAB 0x00000000 = .ok (.ldw { d := 0x25, a := 0x13, hint := 0x2, off := 0x15, g := 0x3 }) ∧
  decode 0x724A4C5B 0x8C000010 = .ok (.st { d := 0x25, a := 0x13, b := 0xB, g := 0x3, c := 0x8C000010 }) ∧
  decode 0x734A4EAB 0x00000000 = .ok (.stw { d := 0x25, a := 0x13, hint := 0x2, off := 0x15, g := 0x3 }) ∧
  decode 0x744A4C5B 0x28100004 = .ok (.lds { d := 0x25, a := 0x13, b := 0xB, g := 0x3, c := 0x28100004 }) ∧
  decode 0x754A4C5B 0x0C000100 = .ok (.sts { d := 0x25, a := 0x13, b := 0xB, g := 0x3, c := 0xC000100 }) ∧
  decode 0x764A4C5B 0x08440020 = .ok (.atom { d := 0x25, a := 0x13, b := 0xB, g := 0x3, c := 0x8440020 }) ∧
  decode 0x774A4C5B 0x0CD4FFFC = .ok (.red { d := 0x25, a := 0x13, b := 0xB, g := 0x3, c := 0xCD4FFFC }) ∧
  decode 0x784A4C5B 0x08000000 = .ok (.cas { d := 0x25, a := 0x13, b := 0xB, g := 0x3, c := 0x8000000 }) ∧
  decode 0x794A4C5B 0x29C00008 = .ok (.atoms { d := 0x25, a := 0x13, b := 0xB, g := 0x3, c := 0x29C00008 }) := by
  decide

theorem test_decode_standing_loads_copy_fence :
  decode 0x7A6262CB 0x00000000 = .ok (.standSub { x := 0x6, a := 0x13, b := 0xB, f := 0x1, g := 0x3 }) ∧
  decode 0x7B0262C3 0x00000000 = .ok (.standRead { x := 0x0, a := 0x13, b := 0xB, f := 0x0, g := 0x3 }) ∧
  decode 0x7C0262CB 0x00000000 = .ok (.standSeq { x := 0x0, a := 0x13, b := 0xB, f := 0x1, g := 0x3 }) ∧
  decode 0x7D0262C3 0x00000000 = .ok (.standWait { x := 0x0, a := 0x13, b := 0xB, f := 0x0, g := 0x3 }) ∧
  decode 0x7E626003 0x00000000 = .ok (.standDrop { x := 0x6, a := 0x13, b := 0x0, f := 0x0, g := 0x3 }) ∧
  decode 0x7F6262EB 0x00000000 = .ok (.copy { x := 0x6, a := 0x13, b := 0xB, f := 0x5, g := 0x3 }) ∧
  decode 0x8F4ACC13 0x00000000 = .ok (.fence { d := 0x25, a := 0x33, b := 0x2, g := 0x3 }) := by
  decide

theorem test_decode_control_masks_barriers :
  decode 0x907FFFFD 0x00000000 = .ok (.bra { g := 0x3, off := 0x1FFFFD }) ∧
  decode 0x91600102 0x00000000 = .ok (.call { g := 0x3, off := 0x102 }) ∧
  decode 0x92004C03 0x00000000 = .ok (.brx { d := 0x0, a := 0x13, b := 0x0, g := 0x3 }) ∧
  decode 0x93000003 0x00000000 = .ok (.ret { d := 0x0, a := 0x0, b := 0x0, g := 0x3 }) ∧
  decode 0x94000003 0x00000000 = .ok (.exit { d := 0x0, a := 0x0, b := 0x0, g := 0x3 }) ∧
  decode 0x95600003 0x00000000 = .ok (.mjoin { x := 0x6, a := 0x0, b := 0x0, f := 0x0, g := 0x3 }) ∧
  decode 0x96600003 0x00000000 = .ok (.mleave { x := 0x6, a := 0x0, b := 0x0, f := 0x0, g := 0x3 }) ∧
  decode 0x97600003 0x00000000 = .ok (.mwait { x := 0x6, a := 0x0, b := 0x0, f := 0x0, g := 0x3 }) ∧
  decode 0x98626003 0x00000000 = .ok (.mrd { x := 0x6, a := 0x13, b := 0x0, f := 0x0, g := 0x3 }) ∧
  decode 0x99626013 0x00000000 = .ok (.barArrive { x := 0x6, a := 0x13, b := 0x0, f := 0x2, g := 0x3 }) ∧
  decode 0x9A6262DB 0x00000000 = .ok (.barSync { x := 0x6, a := 0x13, b := 0xB, f := 0x3, g := 0x3 }) ∧
  decode 0x9B6002C3 0x00000000 = .ok (.barWait { x := 0x6, a := 0x0, b := 0xB, f := 0x0, g := 0x3 }) ∧
  decode 0x9C6262CB 0x00000000 = .ok (.signDecl { x := 0x6, a := 0x13, b := 0xB, f := 0x1, g := 0x3 }) ∧
  decode 0x9D000007 0x00FFF020 = .ok (.wait { d := 0x0, a := 0x0, b := 0x0, g := 0x7, c := 0xFFF020 }) ∧
  decode 0x9E0262D3 0x00000000 = .ok (.condArm { x := 0x0, a := 0x13, b := 0xB, f := 0x2, g := 0x3 }) ∧
  decode 0x9F0002DB 0x00000000 = .ok (.condSet { x := 0x0, a := 0x0, b := 0xB, f := 0x3, g := 0x3 }) := by
  decide

theorem test_decode_tiles_accumulators :
  decode 0xA8626003 0x00000000 = .ok (.tileSet { x := 0x6, a := 0x13, b := 0x0, f := 0x0, g := 0x3 }) ∧
  decode 0xA96402C3 0x00000000 = .ok (.accAlloc { x := 0x6, a := 0x20, b := 0xB, f := 0x0, g := 0x3 }) ∧
  decode 0xAA600003 0x00000000 = .ok (.accFree { x := 0x6, a := 0x0, b := 0x0, f := 0x0, g := 0x3 }) ∧
  decode 0xAB63E103 0x00000000 = .ok (.accBand { x := 0x6, a := 0x1F, b := 0x4, f := 0x0, g := 0x3 }) ∧
  decode 0xAC6262CB 0x00000000 = .ok (.accRead { x := 0x6, a := 0x13, b := 0xB, f := 0x1, g := 0x3 }) ∧
  decode 0xAD62602B 0x00000000 = .ok (.accDrain { x := 0x6, a := 0x13, b := 0x0, f := 0x5, g := 0x3 }) ∧
  decode 0xAE697579 0x00000000 = .ok (.mma { tA := 0x6, tB := 0x9, acc := 0x3, k := 0xA, f := 0x5, h := 0x7, flags := 0x1 }) ∧
  decode 0xAF697551 0x00000000 = .ok (.mmaSpec { tA := 0x6, tB := 0x9, acc := 0x3, k := 0xA, f := 0x5, h := 0x2, flags := 0x1 }) ∧
  decode 0xB0697549 0x00000000 = .ok (.mmaIdx { tA := 0x6, tB := 0x9, acc := 0x3, k := 0xA, f := 0x5, h := 0x1, flags := 0x1 }) := by
  decide

theorem test_decode_graphics_traversal_graph :
  decode 0xC8026003 0x00000000 = .ok (.taskAmp { x := 0x0, a := 0x13, b := 0x0, f := 0x0, g := 0x3 }) ∧
  decode 0xC96262C3 0x00000000 = .ok (.primEmit { x := 0x6, a := 0x13, b := 0xB, f := 0x0, g := 0x3 }) ∧
  decode 0xCA4A4C5B 0x0C000040 = .ok (.visMin { d := 0x25, a := 0x13, b := 0xB, g := 0x3, c := 0xC000040 }) ∧
  decode 0xCB026003 0x00000000 = .ok (.occBegin { x := 0x0, a := 0x13, b := 0x0, f := 0x0, g := 0x3 }) ∧
  decode 0xCC026003 0x00000000 = .ok (.occEnd { x := 0x0, a := 0x13, b := 0x0, f := 0x0, g := 0x3 }) ∧
  decode 0xCD000003 0x00000000 = .ok (.pxDiscard { d := 0x0, a := 0x0, b := 0x0, g := 0x3 }) ∧
  decode 0xCE004C03 0x00000000 = .ok (.pxDepth { d := 0x0, a := 0x13, b := 0x0, g := 0x3 }) ∧
  decode 0xCF4A4C5B 0x05000000 = .ok (.tstBox { d := 0x25, a := 0x13, b := 0xB, g := 0x3, c := 0x5000000 }) ∧
  decode 0xD04A4C5B 0x0C000000 = .ok (.tstTri { d := 0x25, a := 0x13, b := 0xB, g := 0x3, c := 0xC000000 }) ∧
  decode 0xD1026003 0x00000000 = .ok (.stkPush { x := 0x0, a := 0x13, b := 0x0, f := 0x0, g := 0x3 }) ∧
  decode 0xD2626003 0x00000000 = .ok (.stkPop { x := 0x6, a := 0x13, b := 0x0, f := 0x0, g := 0x3 }) ∧
  decode 0xD3026003 0x00000000 = .ok (.recPush { x := 0x0, a := 0x13, b := 0x0, f := 0x0, g := 0x3 }) ∧
  decode 0xD462600B 0x00000000 = .ok (.recPop { x := 0x6, a := 0x13, b := 0x0, f := 0x1, g := 0x3 }) := by
  decide

theorem test_decode_mesh_engines :
  decode 0xE8000003 0x00000000 = .ok (.sstep { d := 0x0, a := 0x0, b := 0x0, g := 0x3 }) ∧
  decode 0xE9526003 0x00000000 = .ok (.nbrSend { x := 0x5, a := 0x13, b := 0x0, f := 0x0, g := 0x3 }) ∧
  decode 0xEA4262C3 0x00000000 = .ok (.nbrReduce { x := 0x4, a := 0x13, b := 0xB, f := 0x0, g := 0x3 }) ∧
  decode 0xEB6262EB 0x00000000 = .ok (.bdeGather { x := 0x6, a := 0x13, b := 0xB, f := 0x5, g := 0x3 }) ∧
  decode 0xEC6262D3 0x00000000 = .ok (.bdeReduce { x := 0x6, a := 0x13, b := 0xB, f := 0x2, g := 0x3 }) ∧
  decode 0xED6262C3 0x00000000 = .ok (.bdeCvt { x := 0x6, a := 0x13, b := 0xB, f := 0x0, g := 0x3 }) := by
  decide

theorem test_decode_system :
  decode 0xF4026483 0x00000000 = .ok (.sregRd { x := 0x0, a := 0x13, b := 0x12, f := 0x0, g := 0x3 }) ∧
  decode 0xF502648B 0x00000000 = .ok (.sregWr { x := 0x0, a := 0x13, b := 0x12, f := 0x1, g := 0x3 }) ∧
  decode 0xF60002A5 0x00000000 = .ok (.trap { d := 0x0, a := 0x0, imm := 0x2A5 }) ∧
  decode 0xF7004EA5 0x00000000 = .ok (.sys { d := 0x0, a := 0x13, imm := 0x2A5 }) ∧
  decode 0xF8000003 0x00000000 = .ok (.eret { d := 0x0, a := 0x0, b := 0x0, g := 0x3 }) ∧
  decode 0xF90002A5 0x00000000 = .ok (.brk { d := 0x0, a := 0x0, imm := 0x2A5 }) ∧
  decode 0xFA000003 0x00000000 = .ok (.nop { d := 0x0, a := 0x0, b := 0x0, g := 0x3 }) := by
  decide

/-! ### Ill-formed terms, one for each check -/

/-- Whether the checks of the encoding refuse an instruction. -/
def ill (i : Instr) : Bool := !(i.rsvOk && i.fieldsOk)

theorem ill_iff (i : Instr) : ill i = true ↔ ¬WellFormed i := by
  unfold ill WellFormed
  cases i.rsvOk <;> cases i.fieldsOk <;> simp

/-- An XA instruction's fields with a control word. -/
def xc (c : Word) : XF := { d := 8, a := 4, b := 12, g := 7, c := c }

/-- The same with b zero. -/
def x0 (c : Word) : XF := { d := 8, a := 4, b := 0, g := 7, c := c }

def r0 : RF := { d := 8, a := 4, b := 12, g := 7 }
def k0 : KF := { x := 1, a := 4, b := 8, f := 0, g := 7 }
def i0 : IF := { d := 8, a := 4, imm := 1 }
def t0 : TF := { tA := 0, tB := 2, acc := 1, k := 3, f := 0, h := 7, flags := 0 }

/-- Bits that no form of an opcode uses: b of a unary operation, a of mov, f3 of mjoin, the C field of bfx, control bits
of wait, a field of nop. -/
theorem test_ill_reserved_bits :
    [Instr.absI r0, .mov r0, .movImm i0, .popc r0, .mjoin { k0 with f := 1 }, .bfxN (xc 0x00040000), .wait (xc 0x01000001), .nop r0,
      .exit { r0 with d := 1 }, .issueClock 0 0 0].all ill = true := by
  decide

/-- A uniform destination of a vector source (R191). -/
theorem test_ill_uniform_destination :
    [Instr.madI (xc 0x02000000), .madI (xc 0x0E000000), .bfxI (xc 0x0A000000), .bfi (xc 0x06020000), .lea (xc 0x02000000), .crel (xc 0x06000000),
      .sel (xc 0x02000000), .shfl (xc 0x02000000), .setpI (xc 0x0E000000), .fmaF (xc 0x0E000000), .cvt (x0 0x02000002), .dot4 (xc 0x02012090)].all ill =
      true := by
  decide

/-- CMP 6 and 7 of an integer comparison, U with ne, C without COMB, PK of an unpacked comparison, KC (R209, R221). -/
theorem test_ill_comparisons :
    [Instr.setpI (xc 6), .setpN (xc 7), .setpI (xc 8), .setpF (xc 14), .setpF (xc 0x00040000), .setpI (xc 0x40), .setpF64 (xc 0x40),
      .setpF16x2 (xc 0x20000)].all ill = true := by
  decide

/-- A field that the instruction's own form leaves unused is a reserved bit: C without COMB, b of a unary FUNC (R195). -/
theorem test_unused_field :
    decode 0x2F4A4C5B 0x00040000 = .error .reservedBits ∧ decode 0x374A4C5B 0x00000012 = .error .reservedBits := by
  decide

/-- FUNC outside the lists of R210, SAT or RND where the operation takes none, RND 5 (R191, R209, R210). -/
theorem test_ill_extended_forms :
    [Instr.xint (xc 0x02), .xint (xc 0x38), .xint (xc 0x10000006), .xint (xc 0x20000001), .xint (xc 0x12), .xflt (xc 0x01), .xflt (xc 0x3B),
      .xflt (xc 0xA0000038), .xflt (xc 0x1000003C), .fmaF (xc 0xA0000000), .rintF (x0 0xA0000000), .rintF (x0 0x04000000), .shfl (xc 0x08000000),
      .sel (xc 0x20000)].all ill = true := by
  decide

/-- Tags and kinds of dot4, cvt and mov L (R224, R235, R237). -/
theorem test_ill_tags :
    [Instr.dot4 (xc 0x00012091), .dot4 (xc 0x00010090), .cvt (x0 0x00), .cvt (x0 0x0B), .cvt (x0 0x38), .cvt (x0 0x83), .cvt (x0 0xA000000A),
      .cvt (x0 0xC0000001), .cvt (xc 0x01), .cvt (x0 0x04000001), .cvt (x0 0x00018202), .movLit { d := 1, a := 0, f7 := 0x0C, g := 7, lit := 0 },
      .movLit { d := 1, a := 0, f7 := 0x41, g := 7, lit := 0 }, .movLit { d := 1, a := 1, f7 := 1, g := 7, lit := 0 }].all ill = true := by
  decide

/-- SIZE, tags, operations and types of memory instructions (R192, R246, R251, 11_isa R295). -/
theorem test_ill_memory :
    [Instr.ld (xc 0x14000000), .ld (xc 0x000C0000), .lds (xc 0x083C0000), .ld (xc 0x0C1C0000), .st (xc 0x14000000), .st (xc 0x00040000),
      .atom (xc 0x08000000), .atom (xc 0x0C040000), .red (xc 0x09840000), .atom (xc 0x08280000), .cas (xc 0x08400000), .cas (xc 0x08040000),
      .atoms (xc 0x0C140000), .atoms (xc 0x08240000), .visMin (xc 0x08000000), .visMin (xc 0x0C040000), .fence { r0 with a := 1, d := 1, b := 7 },
      .standSub { k0 with f := 2 }].all ill = true := by
  decide

/-- Functions and fields of the synchronisation, matrix, mesh and system instructions. -/
theorem test_ill_functions :
    [Instr.vote { k0 with x := 0, f := 6 }, .barArrive { k0 with f := 4 }, .barSync { k0 with f := 5 }, .signDecl { k0 with f := 2 }, .signDecl k0,
      .condArm { k0 with x := 0, f := 4 }, .condSet { k0 with x := 0, a := 0, f := 7 }, .accAlloc { k0 with a := 0 }, .accAlloc { k0 with a := 33 },
      .accBand { k0 with a := 32 }, .mma { t0 with h := 0 }, .mmaSpec { t0 with h := 4 }, .mmaIdx { t0 with h := 5 }, .nbrSend { k0 with x := 6, b := 0 },
      .nbrReduce { k0 with b := 12 }, .bdeReduce { k0 with f := 3 }, .sregRd { k0 with x := 0, b := 0x0C }, .sregRd { k0 with x := 0, b := 0x12, f := 1 },
      .sregWr { k0 with x := 0, b := 0x10 }, .sregWr { k0 with x := 0, b := 0x18, f := 1 }].all ill = true := by
  decide

/-! ### States in which an instruction is selected -/

/-- The workgroup of the probe, with more of its parts set. -/
def tw : Wg := { probeWg with asid := 0, scrSize := 65536, cores := true, meshl := true, nwg := 1, handler := 0x10000 }

/-- A changed first lane of the group. -/
def lane0 (f : Lane → Lane) (w : Wg) : Wg :=
  { w with groups := w.groups.map (fun g => { g with lanes := g.lanes.map (fun t => if t.st = .live then f t else t) }) }

/-- A changed group. -/
def grp0 (f : Group → Group) (w : Wg) : Wg := { w with groups := w.groups.map f }

/-- Uniform registers from s4 on. -/
def uni4 (l : List Word) : Wg → Wg := grp0 (fun g => { g with s := List.replicate 4 0 ++ l ++ List.replicate (60 - l.length) 0 })

/-- Vector registers v4, and v4 and v5, of the first lane. -/
def regs4 (a : Word) : Wg → Wg := lane0 (fun t => { t with v := t.v.set 4 { val := a } })
def vec4 (a b : Word) : Wg → Wg := lane0 (fun t => { t with v := (t.v.set 4 { val := a }).set 5 { val := b } })

/-- A state whose scheduler has selected the first lane of the probe's group at address 4. -/
def sel0 (fw : Wg → Wg) (fs : State → State) : State :=
  fs { State.reset with x := { wgs := [fw (lane0 (fun t => { t with pc := 4 }) tw)], cur := some { wg := 0, grp := 0, lanes := 1, pc := 4 } } }

/-- Instruction i is selected in s, and what it finds satisfies P. -/
def selects (s : State) (i : Instr) (P : Cx → Bool) : Bool :=
  match s.pick i with
  | some (c, _) => (s.checks i).isNone && !(s.ctx c.w.asid).step && P c
  | none => false

theorem selects_selected {s : State} {i : Instr} {P : Cx → Bool} (h : selects s i P = true) :
    ∃ c y, s.Selected i c y ∧ P c = true := by
  unfold selects at h
  split at h
  · rename_i c y hp
    simp only [Bool.and_eq_true, Option.isNone_iff_eq_none, Bool.not_eq_true'] at h
    exact ⟨c, y, ⟨hp, h.1.1, h.1.2⟩, h.2⟩
  · cases h

/-- The group stands at its place, a lane executes, and no exception is enabled. -/
def ready (s : State) (c : Cx) : Bool := decide ((s.base c).grpOf c = some c.g ∧ c.ex ≠ [] ∧ enables c.fmode = 0)

theorem ready_iff (s : State) (c : Cx) : ready s c = true ↔ s.Placed c ∧ c.ex ≠ [] ∧ enables c.fmode = 0 := by
  unfold ready State.Placed
  exact decide_eq_true_iff

/-- Every instruction of the list is selected in s, ready. -/
def allReady (s : State) (l : List Instr) : Bool := l.all (fun i => selects s i (ready s))

theorem allReady_selected {s : State} {l : List Instr} (h : allReady s l = true) :
    ∀ i ∈ l, ∃ c y, s.Selected i c y ∧ s.Placed c ∧ c.ex ≠ [] ∧ enables c.fmode = 0 := by
  intro i hi
  obtain ⟨c, y, hs, hr⟩ := selects_selected (List.all_eq_true.1 h i hi)
  exact ⟨c, y, hs, (ready_iff s c).1 hr⟩

def s0 : State := sel0 id id

/-- An XA instruction that writes p2. -/
def xp (c : Word) : XF := { xc c with d := 2 }

/-- The instructions of the register-only statements. -/
theorem test_wit_scalar_integer :
    allReady s0 [.addI r0, .addIImm i0, .subI r0, .addcN r0, .subbN r0, .mulI r0, .mulhiI r0, .mulhiN r0, .minI r0, .maxI r0, .minN r0, .maxN r0,
      .absI { r0 with b := 0 }, .divI r0, .divN r0, .remI r0, .remN r0, .madI (xc 0x10140000)] = true := by
  decide

theorem test_wit_packed_logic_shift :
    allReady s0 [.addI16x2 r0, .subI16x2 r0, .addN16x2 r0, .subN16x2 r0, .addI8x4 r0, .subI8x4 r0, .addN8x4 r0, .subN8x4 r0, .xint (xc 0x13), .xint (xc 0x1000001A),
      .and r0, .or r0, .xor r0, .andn r0, .andImm i0, .orImm i0, .xorImm i0, .popc { r0 with b := 0 }, .clz { r0 with b := 0 }, .brev { r0 with b := 0 },
      .shl r0, .shrN r0, .shrI r0, .shlImm i0, .shrNImm i0, .shrIImm i0, .bfxN (xc 0), .bfxI (xc 0), .bfi (xc 0x00140000), .lea (xc 11)] = true := by
  decide

theorem test_wit_select_move_exchange :
    allReady s0 [.sel (xc 0x00140000), .mov { r0 with b := 0 }, .movImm { i0 with a := 0 }, .movLit { d := 8, a := 0, f7 := 3, g := 7, lit := 0x3FC00000 },
      .movLit { d := 8, a := 0, f7 := 0x40, g := 7, lit := 1 }, .xint (x0 0x32), .shfl (xc 3), .vote { k0 with x := 0, b := 2, f := 0 }, .vote { k0 with x := 0, b := 2, f := 1 },
      .vote { k0 with x := 0, b := 2, f := 2 }, .vote { k0 with x := 0, b := 2, f := 3 }, .vote { k0 with x := 0, f := 4 }, .vote { k0 with x := 0, f := 5 }] = true := by
  decide

theorem test_wit_extended_integer :
    xintFuncs.all (fun n => allReady s0 [.xint (x0 (BitVec.ofNat 32 n)), .xint (x0 (BitVec.ofNat 32 (0x0E000000 + n)))]) = true ∧
      allReady s0 [.xint (xc 0x10000001), .xint (xc 0x10000003), .xint (x0 0x10000012)] = true := by
  decide

theorem test_wit_single_and_packed_float :
    allReady s0 [.addF r0, .subF r0, .mulF r0, .divF r0, .minF r0, .maxF r0, .absF { r0 with b := 0 }, .negF { r0 with b := 0 }, .fmaF (xc 0x00140000),
      .addF16x2 r0, .mulF16x2 r0, .minF16x2 r0, .maxF16x2 r0, .addBf16x2 r0, .mulBf16x2 r0, .minBf16x2 r0, .maxBf16x2 r0, .fmaF16x2 (xc 0x90140000),
      .fmaBf16x2 (xc 0x00140000)] = true := by
  decide

theorem test_wit_double_and_functions :
    allReady s0 [.addF64 r0, .subF64 r0, .mulF64 r0, .divF64 r0, .minF64 r0, .maxF64 r0, .fmaF64 (xc 0x00180000), .crel (xc 0), .rcpF { r0 with b := 0 },
      .sqrtF { r0 with b := 0 }, .rsqrtF { r0 with b := 0 }, .exp2F { r0 with b := 0 }, .log2F { r0 with b := 0 }, .rcpF64 { r0 with b := 0 },
      .sqrtF64 { r0 with b := 0 }, .rintF (x0 0x80000000), .rintF64 (x0 0)] = true := by
  decide

theorem test_wit_dot_convert_compare :
    allReady s0 [.dot4 (xc 0x00132090), .cvt (x0 0x02), .cvt (x0 0xA0000012), .cvt (x0 0x23), .cvt (x0 0xA001802A), .setpI (xp 0x00000000), .setpN (xp 5), .setpF (xp 13),
      .setpF64 (xp 7), .setpF16x2 (xp 0x44), .setpBf16x2 (xp 0x00040093)] = true := by
  decide

theorem test_wit_extended_float :
    xfltFuncs.all (fun n => allReady s0 [.xflt (x0 (BitVec.ofNat 32 n)), .xflt (x0 (BitVec.ofNat 32 (0x0E000000 + n)))]) = true := by
  decide

/-- Every instruction of the frame statement's classes is among those above; with a false guard no lane executes. -/
theorem test_wit_no_lane :
    [Instr.addI { r0 with g := 0 }, .vote { k0 with x := 0, b := 2, g := 0 }, .ld { xc 0x08000000 with g := 0 }, .atom { xc 0x08040000 with g := 0 }, .standSub { k0 with g := 0 },
      .copy { k0 with g := 0 }, .mwait { k0 with a := 0, b := 0, g := 0 }, .barSync { k0 with g := 0 }, .barWait { k0 with a := 0, g := 0 }, .signDecl { k0 with b := 0, g := 0 },
      .condArm { k0 with x := 0, g := 0 }, .condSet { k0 with x := 0, a := 0, g := 0 }, .accDrain { k0 with b := 0, g := 0 }, .sstep { r0 with d := 0, a := 0, b := 0, g := 0 },
      .nbrSend { k0 with b := 0, g := 0 }, .bdeGather { k0 with g := 0 }, .tstBox { xc 0 with g := 0 }].all (fun i => selects s0 i (fun c => c.ex == [])) = true := by
  decide

/-- Instruction i is selected in s, ready, and meets P. -/
def meets (s : State) (i : Instr) (P : Cx → Bool) : Bool := selects s i (fun c => ready s c && P c)

theorem meets_selected {s : State} {i : Instr} {P : Cx → Bool} (h : meets s i P = true) :
    ∃ c y, s.Selected i c y ∧ s.Placed c ∧ c.ex ≠ [] ∧ enables c.fmode = 0 ∧ P c = true := by
  obtain ⟨c, y, hs, hr⟩ := selects_selected h
  simp only [Bool.and_eq_true] at hr
  obtain ⟨h1, h2, h3⟩ := (ready_iff s c).1 hr.1
  exact ⟨c, y, hs, h1, h2, h3, hr.2⟩

def m0 : MF := { d := 8, a := 4, hint := 0, off := 1, g := 7 }

/-- The last word below 2^56, and one byte above it, where the range is no longer canonical. -/
theorem test_wit_loads_and_stores :
    meets (sel0 (uni4 [0xFFFFFFFC, 0x00FFFFFF]) id) (.ld (xc 0x08000000)) (fun c => c.ex.all (fun l => canonicalRange (globalAddr (xc 0x08000000) c l) 4)) = true ∧
    meets (sel0 (uni4 [0xFFFFFFFD, 0x00FFFFFF]) id) (.ld (xc 0x08000000)) (fun c => c.ex.find? (fun l => !canonicalRange (globalAddr (xc 0x08000000) c l) 4) == some 0) = true ∧
    meets (sel0 (uni4 [0xFFFFFFF0, 0x00FFFFFF]) id) (.st (xc 0x10000000)) (fun c => c.ex.all (fun l => canonicalRange (globalAddr (xc 0x10000000) c l) 16)) = true ∧
    meets (sel0 (uni4 [0xFFFFFFF1, 0x00FFFFFF]) id) (.st (xc 0x10000000)) (fun c => c.ex.find? (fun l => !canonicalRange (globalAddr (xc 0x10000000) c l) 16) == some 0) = true ∧
    meets (sel0 (vec4 0xFFFFFFF8 0x00FFFFFF) id) (.ldw m0) (fun c => c.ex.all (fun l => canonicalRange (pairAddr m0 c l) 4)) = true ∧
    meets (sel0 (vec4 0xFFFFFFF9 0x00FFFFFF) id) (.ldw m0) (fun c => c.ex.find? (fun l => !canonicalRange (pairAddr m0 c l) 4) == some 0) = true ∧
    meets (sel0 (vec4 0xFFFFFFF8 0x00FFFFFF) id) (.stw m0) (fun c => c.ex.all (fun l => canonicalRange (pairAddr m0 c l) 4)) = true ∧
    meets (sel0 (vec4 0xFFFFFFF9 0x00FFFFFF) id) (.stw m0) (fun c => c.ex.find? (fun l => !canonicalRange (pairAddr m0 c l) 4) == some 0) = true := by
  decide

/-- A canonical and aligned unit, one that is not aligned, and one that is not canonical. -/
def unit (a : Word) (f : XF) (n : Nat) (i : Instr) : Bool × Bool × Bool :=
  (meets (sel0 (uni4 [a, 0]) id) i (fun c => c.ex.all (fun l => canonicalRange (globalAddr f c l) n && (globalAddr f c l).toNat % n == 0)),
    meets (sel0 (uni4 [a + 1, 0]) id) i (fun c => c.ex.all (fun l => canonicalRange (globalAddr f c l) n) && c.ex.find? (fun l => (globalAddr f c l).toNat % n != 0) == some 0),
    meets (sel0 (uni4 [a, 0x01000000]) id) i (fun c => c.ex.find? (fun l => !canonicalRange (globalAddr f c l) n) == some 0))

theorem test_wit_atomics :
    unit 8 (xc 0x08040000) 4 (.atom (xc 0x08040000)) = (true, true, true) ∧ unit 8 (xc 0x0C180000) 8 (.atom (xc 0x0C180000)) = (true, true, true) ∧
      unit 8 (xc 0x0C180000) 8 (.red (xc 0x0C180000)) = (true, true, true) ∧ unit 8 (xc 0x0C140000) 8 (.cas (xc 0x0C140000)) = (true, true, true) ∧
      unit 8 (xc 0x08000000) 4 (.cas (xc 0x08000000)) = (true, true, true) ∧ unit 8 (xc 0x0C000000) 8 (.visMin (xc 0x0C000000)) = (true, true, true) := by
  decide

/-- A partition of 64 KiB: an access up to its end, one byte past it, and an atomic off a word. -/
theorem test_wit_scratchpad :
    meets (sel0 (uni4 [65532]) id) (.sts (xc 0x08000000)) (fun c => c.ex.all (fun l => scratchAddr (xc 0x08000000) c l + 4 ≤ c.w.scrSize) && decide (c.g.fences = [] ∧ s0.x.scratchHeld c.w.id c.g.idx = false)) = true ∧
    meets (sel0 (uni4 [65533]) id) (.sts (xc 0x08000000)) (fun c => c.ex.find? (fun l => c.w.scrSize < scratchAddr (xc 0x08000000) c l + 4) == some 0) = true ∧
    meets (sel0 (uni4 [65520]) id) (.lds (xc 0x10000000)) (fun c => c.ex.all (fun l => scratchAddr (xc 0x10000000) c l + 16 ≤ c.w.scrSize)) = true ∧
    meets (sel0 (uni4 [65521]) id) (.lds (xc 0x10000000)) (fun c => c.ex.find? (fun l => c.w.scrSize < scratchAddr (xc 0x10000000) c l + 16) == some 0) = true ∧
    meets (sel0 (uni4 [65532]) id) (.atoms (xc 0x08040000)) (fun c => c.ex == [0] && scratchAddr (xc 0x08040000) c 0 % 4 == 0 && decide (scratchAddr (xc 0x08040000) c 0 + 4 ≤ c.w.scrSize)) = true ∧
    meets (sel0 (uni4 [65534]) id) (.atoms (xc 0x08040000)) (fun c => c.ex.find? (fun l => scratchAddr (xc 0x08040000) c l % 4 != 0) == some 0) = true ∧
    meets (sel0 (uni4 [65536]) id) (.atoms (xc 0x08040000)) (fun c => c.ex.find? (fun l => c.w.scrSize < scratchAddr (xc 0x08040000) c l + 4) == some 0) = true := by
  decide

/-- An active standing slot at address 128 of the workgroup, whose SEQ is 5. -/
def stood (s : State) : State :=
  { s with x := s.x.setCore 0 0 { s.x.core 0 0 with stand := [(0, { wg := 0, slot := 128, st := .active, every := false, va := 0, line := 0, seq := 5 })] } }

/-- Good and bad slots; a free, a busy and an uncovered slot; an inactive and an active one with another and the same
SEQ. -/
theorem test_wit_standing_loads :
    [Instr.standSub k0, .standRead k0, .standSeq k0, .standWait k0, .standDrop k0].all (fun i =>
        meets (sel0 (uni4 [65408]) id) i (fun c => (uniAt c.uni 4).toNat % 128 == 0 && decide ((uniAt c.uni 4).toNat + 128 ≤ c.w.scrSize)) &&
        meets (sel0 (uni4 [64]) id) i (fun c => (uniAt c.uni 4).toNat % 128 != 0) &&
        meets (sel0 (uni4 [65536]) id) i (fun c => (uniAt c.uni 4).toNat % 128 == 0 && decide (c.w.scrSize < (uniAt c.uni 4).toNat + 128))) = true ∧
    meets (sel0 (uni4 [128, 0, 0, 0, 0, 0]) id) (.standSub k0) (fun c => canonicalVa (uniAt c.uni 9 ++ uniAt c.uni 8)) = true ∧
    meets (sel0 (uni4 [128, 0, 0, 0, 0, 0x01000000]) id) (.standSub k0) (fun c => !canonicalVa (uniAt c.uni 9 ++ uniAt c.uni 8)) = true ∧
    meets (sel0 (uni4 [128]) stood) (.standSub k0) (fun c => (((stood s0).x.core c.w.die c.w.core).standOf c.w.id 128).isSome) = true ∧
    meets (sel0 (uni4 [128]) id) (.standWait k0) (fun c => ((s0.x.core c.w.die c.w.core).standOf c.w.id 128).isNone) = true ∧
    meets (sel0 (uni4 [128, 0, 0, 0, 4]) stood) (.standWait k0) (fun c => (((stood s0).x.core c.w.die c.w.core).standOf c.w.id 128).any (fun v => v.2.st == .active && v.2.seq != uniAt c.uni 8)) = true ∧
    meets (sel0 (uni4 [128, 0, 0, 0, 5]) stood) (.standWait k0) (fun c => (((stood s0).x.core c.w.die c.w.core).standOf c.w.id 128).any (fun v => v.2.st == .active && v.2.seq == uniAt c.uni 8)) = true ∧
    meets (sel0 (uni4 [128]) id) (.standDrop k0) (fun c => ((s0.x.core c.w.die c.w.core).standOf c.w.id 128).isNone) = true ∧
    meets (sel0 (uni4 [128]) stood) (.standDrop k0) (fun c => (((stood s0).x.core c.w.die c.w.core).standOf c.w.id 128).any (fun v => v.2.st == .active)) = true := by
  decide

/-- copy outside the producer group; from memory with a good and an ill range; to memory with an ill range; in and
beyond the partition; and a fence. -/
theorem test_wit_copy_and_fence :
    meets (sel0 (fun w => { w with producer := 1 }) id) (.copy k0) (fun c => c.g.idx != c.w.producer) = true ∧
    meets (sel0 (uni4 [0, 0, 0, 0, 65536]) id) (.copy k0) (fun c => c.g.idx == c.w.producer && decide ((uniAt c.uni 6).toNat + (uniAt c.uni 8).toNat = c.w.scrSize)) = true ∧
    meets (sel0 (uni4 [0, 0x01000000, 0, 0, 0]) id) (.copy k0) (fun c => !canonicalVa (uniAt c.uni 5 ++ uniAt c.uni 4)) = true ∧
    meets (sel0 (uni4 [0xFFFFFFFF, 0x00FFFFFF, 0, 0, 2]) id) (.copy k0) (fun c => canonicalVa (uniAt c.uni 5 ++ uniAt c.uni 4) && !canonicalVa ((uniAt c.uni 5 ++ uniAt c.uni 4) + 1#64)) = true ∧
    meets (sel0 (uni4 [0, 0, 0, 0x01000000, 4]) id) (.copy { k0 with f := 1 }) (fun c => !canonicalVa (uniAt c.uni 7 ++ uniAt c.uni 6)) = true ∧
    meets (sel0 (uni4 [65533, 0, 0, 0, 4]) id) (.copy { k0 with f := 1 }) (fun c => decide (c.w.scrSize < (uniAt c.uni 4).toNat + 4)) = true ∧
    meets (sel0 (uni4 [0, 0, 65533, 0, 4]) id) (.copy k0) (fun c => decide (c.w.scrSize < (uniAt c.uni 6).toNat + 4)) = true ∧
    meets s0 (.fence { d := 3, a := 1, b := 2, g := 7 }) (fun _ => true) = true := by
  decide

/-- Transfers, with a target on a word and off it. -/
theorem test_wit_transfers :
    allReady s0 [.bra { g := 7, off := 3 }, .call { g := 7, off := 0x1FFFFF }, .exit { d := 0, a := 0, b := 0, g := 7 }] = true ∧
    meets (sel0 (vec4 0x1000 1) id) (.brx { d := 0, a := 4, b := 0, g := 7 }) (fun c => c.ex.all (fun l => (((c.g.lane l).reg 5).val ++ ((c.g.lane l).reg 4).val).toNat % 4 == 0)) = true ∧
    meets (sel0 (vec4 0x1002 1) id) (.brx { d := 0, a := 4, b := 0, g := 7 }) (fun c => c.ex.any (fun l => (((c.g.lane l).reg 5).val ++ ((c.g.lane l).reg 4).val).toNat % 4 != 0)) = true ∧
    meets (sel0 (lane0 (fun t => { t with link := 8 })) id) (.ret { d := 0, a := 0, b := 0, g := 7 }) (fun c => c.ex.all (fun l => (c.g.lane l).link.toNat % 4 == 0)) = true ∧
    meets (sel0 (lane0 (fun t => { t with link := 9 })) id) (.ret { d := 0, a := 0, b := 0, g := 7 }) (fun c => c.ex.any (fun l => (c.g.lane l).link.toNat % 4 != 0)) = true := by
  decide

/-- Masks: a member of m0, and no member of m1. -/
theorem test_wit_masks :
    allReady s0 [.mjoin { x := 1, a := 0, b := 0, f := 0, g := 7 }, .mleave { x := 0, a := 0, b := 0, f := 0, g := 7 }, .mrd { x := 0, a := 4, b := 0, f := 0, g := 7 }] = true ∧
    meets s0 (.mwait { x := 0, a := 0, b := 0, f := 0, g := 7 }) (fun c => maskOf c.ex &&& ~~~((c.g.m[0]?).getD 0) == 0) = true ∧
    meets s0 (.mwait { x := 1, a := 0, b := 0, f := 0, g := 7 }) (fun c => maskOf c.ex &&& ~~~((c.g.m[1]?).getD 0) != 0) = true := by
  decide

/-- Barrier b1 with an arrival, a collected result, another operation under way, and the machine's check of a barrier
that is complete and of one that is not. -/
def barW (b : Barrier) (w : Wg) : Wg := { w with bs := w.bs.set 1 b }

/-- Every live thread has arrived at b1, whose operation is add, and the first is held there for v9. -/
def barDone (w : Wg) : Bool :=
  (w.bar 1).op == some 2 && w.liveThreads == [0] && w.liveThreads.all (fun t => cfind t (w.bar 1).who == some .arrived) && Nat.blt 1 w.bs.length &&
    (w.groups[0]?).any (fun g => (g.lane 0).hold == .barrier 1 9)
/-- A live thread has not arrived at b1. -/
def barOpen (w : Wg) : Bool := (w.bar 1).op == some 2 && w.liveThreads.any (fun t => cfind t (w.bar 1).who != some .arrived)

theorem test_wit_barriers :
    allReady s0 [.barArrive { k0 with b := 0 }, .barSync k0] = true ∧
    meets (sel0 (barW { op := some 2 }) id) (.barSync k0) (fun c => (c.w.bs[1]?).any (fun r => r.op == some 2)) = true ∧
    meets (sel0 (barW { op := some 2 }) id) (.barSync { k0 with f := 2 }) (fun c => (c.w.bs[1]?).any (fun r => r.op == some 2)) = true ∧
    meets s0 (.barWait { k0 with a := 0 }) (fun c => c.ex.any (fun l => (cfind (32 * c.g.idx + l) (c.w.bar 1).who).isNone)) = true ∧
    meets (sel0 (barW { op := some 2, who := [(0, .arrived)] }) id) (.barWait { k0 with a := 0 }) (fun c => c.ex == [0] && cfind (32 * c.g.idx) (c.w.bar 1).who == some .arrived) = true ∧
    meets (sel0 (barW { who := [(0, .ready 7 3 [])] }) id) (.barWait { k0 with a := 0 }) (fun c => c.ex == [0] && cfind (32 * c.g.idx) (c.w.bar 1).who == some (.ready 7 3 [])) = true ∧
    barDone (barW { op := some 2, who := [(0, .arrived)] } (lane0 (fun t => { t with hold := .barrier 1 9 }) tw)) = true ∧
    barOpen (barW { op := some 2 } tw) = true := by
  decide

/-- A declaration of an idle register, of one declared in the same clock and of one being signed; wait; counters at, below and
above a threshold; a lane whose guard is false. -/
theorem test_wit_declarations_and_waits :
    meets s0 (.signDecl { k0 with f := 1 }) (fun c => (c.w.sign 1).st == .idle && (c.w.sign 1).declAt != s0.x.clk + 1) = true ∧
    meets (sel0 (fun w => { w with ks := w.ks.set 1 { declAt := 1 } }) id) (.signDecl { k0 with f := 1 }) (fun c => (c.w.sign 1).st == .idle && (c.w.sign 1).declAt == s0.x.clk + 1) = true ∧
    meets s0 (.signDecl { k0 with b := 0 }) (fun c => (c.w.sign 1).st == .idle) = true ∧
    meets (sel0 (fun w => { w with ks := w.ks.set 1 { st := .signing } }) id) (.signDecl { k0 with f := 1 }) (fun c => (c.w.sign 1).st == .signing) = true ∧
    meets (sel0 (fun w => { w with ks := w.ks.set 1 { st := .issuing } }) id) (.signDecl { k0 with f := 1 }) (fun c => (c.w.sign 1).st == .issuing) = true ∧
    allReady s0 [.wait { d := 0, a := 0, b := 0, g := 7, c := 0x00FFF020 }] = true ∧
    waitsMet tw { ld := 2 } none (.ok none 0 (.wait { d := 0, a := 0, b := 0, g := 7, c := 0x02FFF000 })) 0 = true ∧
    waitsMet tw { ld := 3 } none (.ok none 0 (.wait { d := 0, a := 0, b := 0, g := 7, c := 0x02FFF000 })) 0 = false ∧
    waitsMet { tw with qs := [0, 1] } {} none (.ok none 0 (.wait { d := 0, a := 0, b := 0, g := 7, c := 0x3FFFF020 })) 0 = false ∧
    waitsMet tw { ld := 3 } none (.ok none 0 (.wait { d := 0, a := 0, b := 0, g := 0, c := 0x02FFF000 })) 0 = true := by
  decide

/-- A handle a1 with one band that the group owns. -/
def handle (w : Wg) : Wg := { w with hs := w.hs.set 1 [{ bank := 5, owner := 0 }] }
/-- Condition 0 armed on handle a1, with a written shadow. -/
def armed (w : Wg) : Wg := { handle w with cs := w.cs.set 0 { armed := true, handle := 1, shadows := [(6, true)] } }
/-- A core whose banks of context 0 are all held. -/
def full (s : State) : State := { s with x := s.x.setCore 0 0 { s.x.core 0 0 with banks := (List.range 32).map (fun b => (b, .held)) } }

/-- Whether condition n is armed. -/
def cnd (w : Wg) (n : Nat) : Bool := ((w.cs[n]?).getD ({} : Cond)).armed

def condI (n : BitVec 3) : Instr := .condArm { x := 0, a := 1, b := 8, f := n, g := 7 }
def setI (n : BitVec 3) : Instr := .condSet { x := 0, a := 0, b := 8, f := n, g := 7 }

theorem test_wit_conditions :
    meets (sel0 handle id) (condI 1) (fun c => ((c.w.hs[1]?).getD []).length == 1 && !c.w.cs.any (fun k => k.armed)) = true ∧
    meets (sel0 handle full) (condI 1) (fun _ => (((List.range 32)).filter (fun b => (cfind b ((full s0).x.core 0 0).banks).isNone)).length == 0) = true ∧
    meets s0 (condI 1) (fun c => (c.w.hs[1]?).getD [] == []) = true ∧
    meets (sel0 armed id) (condI 0) (fun c => cnd c.w 0) = true ∧
    meets (sel0 armed id) (condI 1) (fun c => c.w.cs.any (fun k => k.armed && k.handle == 1) && !cnd c.w 1) = true ∧
    meets s0 (setI 0) (fun c => !cnd c.w 0) = true ∧
    meets (sel0 armed id) (setI 0) (fun c => cnd c.w 0 && uniAt c.uni 8 == 0) = true ∧
    meets (sel0 (fun w => uni4 [0, 0, 0, 0, 1] (armed w)) id) (setI 0) (fun c => cnd c.w 0 && uniAt c.uni 8 != 0) = true := by
  decide

def kx (x a b : Nat) (f : BitVec 3) : KF := { x := BitVec.ofNat 4 x, a := BitVec.ofNat 7 a, b := BitVec.ofNat 7 b, f := f, g := 7 }

/-- Accumulators: an allocation that has room, a handle in use, a demand over the declaration, no free bank; a free
and a bound handle; a band that the group owns, and one that it does not; a row inside and outside the handle. -/
theorem test_wit_accumulators :
    meets s0 (.accAlloc (kx 1 32 8 0)) (fun c => (c.w.hs[1]?).getD [] == [] && decide (32 ≤ c.w.accMax ∧ 8 < c.g.s.length)) = true ∧
    meets (sel0 handle id) (.accAlloc (kx 1 1 8 0)) (fun c => (c.w.hs[1]?).getD [] != []) = true ∧
    meets (sel0 handle id) (.accAlloc (kx 0 32 8 0)) (fun c => c.w.accMax < 1 + 32) = true ∧
    meets (sel0 id full) (.accAlloc (kx 1 1 8 0)) (fun c => (c.w.hs[1]?).getD [] == []) = true ∧
    meets (sel0 handle id) (.accFree (kx 1 0 0 0)) (fun c => !c.w.cs.any (fun k => k.armed)) = true ∧
    meets (sel0 armed id) (.accFree (kx 1 0 0 0)) (fun c => c.w.cs.any (fun k => k.armed && k.handle == 1)) = true ∧
    meets (sel0 handle id) (.accBand (kx 1 0 0 0)) (fun c => ((c.w.hs[1]?).getD []).all (fun b => b.since == 0 && b.prev == c.g.idx) && c.w.groups[0]? != none) = true ∧
    meets (sel0 handle id) (.accBand (kx 1 1 0 0)) (fun c => ((c.w.hs[1]?).getD [])[1]?.isNone) = true ∧
    meets (sel0 handle id) (.accBand (kx 1 0 1 0)) (fun c => c.w.groups[1]? == none) = true ∧
    meets (sel0 armed id) (.accBand (kx 1 0 0 0)) (fun c => c.w.cs.any (fun k => k.armed && k.handle == 1)) = true ∧
    meets (sel0 (fun w => uni4 [0, 0, 0, 0, 31] (handle w)) id) (.accRead (kx 1 4 8 3)) (fun c => c.g.fences == [] && ((c.w.hs[1]?).getD [])[(uniAt c.uni 8).toNat / 32]?.isSome) = true ∧
    meets (sel0 (fun w => uni4 [0, 0, 0, 0, 32] (handle w)) id) (.accRead (kx 1 4 8 3)) (fun c => ((c.w.hs[1]?).getD [])[(uniAt c.uni 8).toNat / 32]?.isNone) = true ∧
    allReady s0 [.tileSet (kx 3 4 0 0)] = true := by
  decide

/-- A drain: reserved control, a bound handle, a missing band, a band of another owner, a misaligned base, ranges that
end at the partition's end and one past it, in memory and not canonical. -/
def drainI (mode : BitVec 3) : Instr := .accDrain (kx 1 4 0 mode)

theorem test_wit_drains :
    meets (sel0 (fun w => uni4 [0, 0, 0xC0000000, 512] (handle w)) id) (drainI 0) (fun c => 5 < bits (uniAt c.uni 6) 29 3) = true ∧
    meets (sel0 (fun w => uni4 [0, 0, 0x04000000, 512] (armed w)) id) (drainI 0) (fun c => c.w.cs.any (fun k => k.armed && k.handle == 1)) = true ∧
    meets (sel0 (fun w => uni4 [0, 0, 1, 512] (handle w)) id) (drainI 0) (fun c => ((c.w.hs[1]?).getD [])[1]? == none) = true ∧
    meets (sel0 (fun w => uni4 [0, 0, 0, 512] { w with hs := w.hs.set 1 [{ bank := 5, owner := 1, prev := 1 }] }) id) (drainI 0) (fun c => ((c.w.hs[1]?).getD []).all (fun b => b.prev != c.g.idx)) = true ∧
    meets (sel0 (fun w => uni4 [2, 0, 0, 512] (handle w)) id) (drainI 0) (fun c => (uniAt c.uni 4).toNat % 4 != 0) = true ∧
    meets (sel0 (fun w => uni4 [49152, 0, 0, 512] (handle w)) id) (drainI 0) (fun c => 49152 + 31 * 512 + 512 == c.w.scrSize) = true ∧
    meets (sel0 (fun w => uni4 [49156, 0, 0, 512] (handle w)) id) (drainI 0) (fun c => decide (c.w.scrSize < 49156 + 31 * 512 + 512)) = true ∧
    meets (sel0 (fun w => uni4 [0, 1, 0, 512] (handle w)) id) (drainI 1) (fun c => rangeOk (uniAt c.uni 5 ++ uniAt c.uni 4) 16384) = true ∧
    meets (sel0 (fun w => uni4 [0, 0x01000000, 0, 512] (handle w)) id) (drainI 1) (fun c => !rangeOk (uniAt c.uni 5 ++ uniAt c.uni 4) 16384) = true := by
  decide

/-- A started operation with n steps. -/
def mop (n : Nat) : MOp :=
  { id := 9, wg := 0, ins := .mma t0, dA := 0, dB := 0, dI := 0, z := false, cond := none, handle := 1, banks := [0], shadows := [], dest := .primary, signers := [0], started := true, steps := List.replicate n (0, 0, 0, 0) }

/-- Signing: IDLE, a lane outside the declaration, another instruction of the round, a check that fails, the last
signature with room in the queue and with none, one that leaves lanes to come. -/
def signW (k : Sign) (w : Wg) : Wg := { handle w with ks := w.ks.set 3 k }
def decl (m : Word) : Sign := { st := .declared, decl := m :: List.replicate 31 0, signed := List.replicate 32 0 }

theorem test_wit_signing :
    meets s0 (.mma t0) (fun c => (c.w.sign 3).st == .idle) = true ∧
    meets (sel0 (signW (decl 2)) id) (.mma t0) (fun c => maskOf c.ex &&& ~~~(((c.w.sign 3).decl[0]?).getD 0) != 0) = true ∧
    meets (sel0 (signW { decl 1 with st := .signing, ins := some (.mma { t0 with acc := 2 }) }) id) (.mma t0) (fun c => (c.w.sign 3).ins != some (.mma t0)) = true ∧
    meets (sel0 (signW { decl 3 with st := .signing, ins := some (.mma t0) }) id) (.mma t0) (fun c => (c.w.sign 3).ins == some (.mma t0)) = true ∧
    meets (sel0 (signW { decl 1 with st := .signing, ins := some (.mma t0) }) id) (.mma t0) (fun c => decide (3 < c.w.ks.length)) = true ∧
    meets (sel0 (signW (decl 1)) id) (.mma t0) (fun c => tileCheck (.mma t0) t0 c.w 0 0 0 != none) = true ∧
    meets (sel0 (signW { decl 1 with st := .signing, ins := some (.mma t0) }) (fun s => { s with x := s.x.setCore 0 0 { s.x.core 0 0 with mq := List.replicate 8 (mop 1) } })) (.mma t0)
      (fun c => (c.w.sign 3).ins == some (.mma t0) && c.w.mctx == some 0) = true ∧
    allReady s0 [.mmaSpec { t0 with h := 0 }, .mmaIdx t0] = true := by
  decide

/-- Supersteps and sends: in a cores launch and outside; no mesh launch; a launch with one node, which has no
neighbour; a pair of nodes with good operands, a misaligned one, and one past the partition. -/
def meshed (s : State) : State := { s with sch := { s.sch with launches := [{ id := 0, queue := 0, pidx := 0, asid := 0, pkt := 0, ring := [0, 1] }] } }

theorem test_wit_mesh :
    meets s0 (.sstep { d := 0, a := 0, b := 0, g := 7 }) (fun c => c.w.cores) = true ∧
    meets (sel0 (fun w => { w with cores := false }) id) (.sstep { d := 0, a := 0, b := 0, g := 7 }) (fun c => !c.w.cores) = true ∧
    meets s0 (.nbrSend (kx 0 4 0 0)) (fun c => (s0.launch? c.w.launch).isNone) = true ∧
    (let s := sel0 (uni4 [0, 65408, 128]) meshed
     [Instr.nbrSend (kx 4 4 0 0), .nbrReduce (kx 4 4 8 0)].all (fun i => meets s i (fun c => match s.launch? c.w.launch with
       | some l => (nbrPos l.ring c.w.ring 4).isSome && decide (65408 + 128 ≤ c.w.scrSize)
       | none => false)) = true ∧
     meets s (.nbrSend (kx 0 4 0 0)) (fun c => match s.launch? c.w.launch with
       | some l => (nbrPos l.ring c.w.ring 0).isNone
       | none => false) = true) ∧
    meets (sel0 (uni4 [64, 0, 128]) meshed) (.nbrSend (kx 4 4 0 0)) (fun c => (uniAt c.uni 4).toNat % 128 != 0) = true ∧
    meets (sel0 (uni4 [0, 65408, 256]) meshed) (.nbrSend (kx 4 4 0 0)) (fun c => decide (c.w.scrSize < (uniAt c.uni 5).toNat + (uniAt c.uni 6).toNat)) = true ∧
    meets (sel0 (uni4 [65408, 0, 256]) meshed) (.nbrSend (kx 4 4 0 0)) (fun c => decide (c.w.scrSize < (uniAt c.uni 4).toNat + (uniAt c.uni 6).toNat)) = true := by
  decide
/-- A base-die request: outside the producer group; reserved, misaligned, not canonical, and good operands. -/
def opsOf (c : Cx) (f : KF) : List Word := (List.range 4).map (fun j => uniAt c.uni (f.a.toNat + j)) ++ (List.range 4).map (fun j => uniAt c.uni (f.b.toNat + j))

def bde (i : Instr) (l : List Word) (fields align : List Word → Bool) (ranges : List Word → List MRange) (f a r : Bool) : Bool :=
  meets (sel0 (uni4 l) id) i (fun c => c.g.idx == c.w.producer && fields (opsOf c k0) == f && align (opsOf c k0) == a &&
    (ranges (opsOf c k0)).all (fun r => rangeOk r.1 r.2.1) == r)

/-- A context whose tables map virtual page 0 of 2 MiB to frame 0x200000 of die 0. -/
def mapped (s : State) : State :=
  { s with mem := probeMem s.mem, sch := { s.sch with ctxs := [(0, { live := true, rootTab := [0x1000] })] }, pkg := { s.pkg with dmap := [(0, 1)] } }
/-- The same with virtual page 1 at frame 0x400000, whose home is die h. -/
def homed (h : Nat) (s : State) : State :=
  { mapped s with mem := (probeMem s.mem).putNum 0x4008 8 (pteData 0x400000 + 128 + h * 2 ^ 53 + h * 2 ^ 40), pkg := { s.pkg with dmap := [(0, 1), (1, 1)] } }

theorem test_wit_engine_homes :
    [(0, true), (1, false)].all (fun p => let s := sel0 (uni4 [0, 0, 0x200000, 0, 128, 2, 128, 3]) (homed p.1)
      meets s (.bdeReduce k0) (fun c => ((s.base c).homesOf c.w.die c.w.asid (reduceRanges (opsOf c k0))).2 == [(0, 0), (0, p.1)] &&
        oneHome ((s.base c).homesOf c.w.die c.w.asid (reduceRanges (opsOf c k0))).2 == p.2)) = true := by
  decide +kernel

theorem test_wit_engine_requests :
    [Instr.bdeGather k0, .bdeReduce k0, .bdeCvt k0].all (fun i => meets (sel0 (fun w => { w with producer := 1 }) id) i (fun c => c.g.idx != c.w.producer)) = true ∧
    bde (.bdeGather k0) [0, 0, 128, 0, 256, 0, 2, 1] (fun _ => true) gatherAlign (gatherRanges k0) true true true = true ∧
    bde (.bdeGather k0) [1, 0, 128, 0, 256, 0, 2, 1] (fun _ => true) gatherAlign (gatherRanges k0) true false true = true ∧
    bde (.bdeGather k0) [0, 0x01000000, 128, 0, 256, 0, 2, 1] (fun _ => true) gatherAlign (gatherRanges k0) true true false = true ∧
    bde (.bdeReduce k0) [0, 0, 128, 0, 128, 2, 128, 3] (fun o => decide (reduceTy o ≤ 3)) reduceAlign reduceRanges true true true = true ∧
    bde (.bdeReduce k0) [0, 0, 128, 0, 128, 2, 128, 4] (fun o => decide (reduceTy o ≤ 3)) reduceAlign reduceRanges false true true = true ∧
    bde (.bdeReduce k0) [0, 0, 128, 0, 128, 0, 128, 3] (fun o => decide (reduceTy o ≤ 3)) reduceAlign reduceRanges true false true = true ∧
    bde (.bdeCvt k0) [0, 0, 128, 0, 32, 32, 0x02400000, 128] cvtFields cvtAlign cvtRanges true true true = true ∧
    bde (.bdeCvt k0) [0, 0, 128, 0, 32, 32, 0x02200000, 128] cvtFields cvtAlign cvtRanges false true true = true ∧
    bde (.bdeCvt k0) [0, 0, 128, 0, 0, 32, 0x02400000, 128] cvtFields cvtAlign cvtRanges true false true = true := by
  decide

/-- Every special register read to vector registers, those of the group to uniform ones too; the three that may be
written, and one that may not. -/
theorem test_wit_special_registers :
    ((List.range 12) ++ [16, 18, 19, 20, 21, 22, 23]).all (fun n => allReady s0 [.sregRd (kx 0 4 n 0)]) = true ∧
    [2, 3, 16, 19, 22].all (fun n => allReady s0 [.sregRd (kx 0 4 n 1)]) = true ∧
    allReady s0 [.sregWr (kx 0 4 16 1), .sregWr (kx 0 4 17 1), .sregWr (kx 0 4 18 0), .sregWr (kx 0 4 18 1), .sregWr (kx 0 4 2 1)] = true := by
  decide

/-- System instructions, inside and outside a handler. -/
theorem test_wit_system :
    allReady s0 [.trap { d := 0, a := 0, imm := 5 }, .brk { d := 0, a := 0, imm := 5 }, .sys { d := 0, a := 4, imm := 5 }, .nop { d := 0, a := 0, b := 0, g := 7 }] = true ∧
    meets s0 (.eret { d := 0, a := 0, b := 0, g := 7 }) (fun c => !c.g.handler) = true ∧
    meets (sel0 (grp0 (fun g => { g with handler := true })) id) (.eret { d := 0, a := 0, b := 0, g := 7 }) (fun c => c.g.handler) = true := by
  decide

/-- A workgroup of a stage. -/
def staged (n : Nat) (w : Wg) : Wg := { w with stage := n, passId := some 1, vmax := 1, pmax := 1, ampMax := 1 }
/-- A pass on two dies, and a launch. -/
def passed (s : State) : State :=
  { s with gfx := { s.gfx with passes := [{ id := 1, desc := 0, asid := 0, bytes := 0, active := [0, 1] }] }, sch := { s.sch with launches := [{ id := 0, queue := 0, pidx := 0, asid := 0, pkt := 0 }] } }
/-- The same pass with the cell at address 8 open. -/
def opened (s : State) : State :=
  { passed s with gfx := { s.gfx with passes := [{ id := 1, desc := 0, asid := 0, bytes := 0, active := [0, 1], opened := [(0, 8, 0)] }] } }
/-- The same pass with as many queries open as a stream may have. -/
def crowded (s : State) : State :=
  { passed s with gfx := { s.gfx with passes := [{ id := 1, desc := 0, asid := 0, bytes := 0, active := [0, 1], opened := (List.range 256).map (fun i => (0, 4 * i + 8, 0)) }] } }
/-- A mesh workgroup that shows one triangle, and a pass whose owner's store and area of one packet are full. -/
def shows (w : Wg) : Wg :=
  regs4 0x00020100 { uni4 [] { staged 2 w with vmax := 3 } with scratch := Mem.putNum (Mem.putNum [] 16 4 0x41800000) 36 4 0x41800000 }
def stuffed (s : State) : State :=
  { passed s with gfx := { s.gfx with
      passes := [{ id := 1, desc := 0, asid := 0, bytes := 0, active := [0] }]
      dies := [(0, { store := { pass := 1, stream := 0, token := 0, k := .prim 0, slot := some 0 } :: List.replicate 4096 { pass := 1, stream := 0, token := 0, k := .prim 0 } })] } }

theorem test_wit_full_store :
    meets (sel0 shows stuffed) (.primEmit (kx 0 4 5 0)) (fun c => (c.w.passId.bind (stuffed s0).pass?).any (fun p => (stuffed s0).storeRoom p 0 == 0 &&
      p.route ((bits (((c.g.lane 0).reg 4).val) 0 8 :: [bits (((c.g.lane 0).reg 4).val) 8 8, bits (((c.g.lane 0).reg 4).val) 16 8]).flatMap (fun i => (List.range 3).map (fun j => BitVec.ofNat 32 (c.w.scratch.num (16 * i + 4 * j) 4)))) false false == [0])) = true := by
  decide +kernel

theorem test_wit_graphics :
    meets s0 (.taskAmp (kx 0 4 0 0)) (fun c => c.w.stage != 1) = true ∧
    meets (sel0 (fun w => { staged 1 w with emits := 1 }) passed) (.taskAmp (kx 0 4 0 0)) (fun c => c.w.stage == 1 && c.w.ampMax == c.w.emits) = true ∧
    meets (sel0 (staged 1) passed) (.taskAmp (kx 0 4 0 0)) (fun c => c.w.stage == 1 && Nat.blt c.w.emits c.w.ampMax && ((passed s0).gdie 0).amp.length == 0) = true ∧
    meets s0 (.primEmit (kx 0 4 5 0)) (fun c => c.w.stage != 1 && c.w.stage != 2) = true ∧
    meets (sel0 (fun w => { staged 2 w with vmax := 0 }) passed) (.primEmit (kx 0 4 5 0)) (fun c => c.w.stage == 2 && c.w.vmax == 0) = true ∧
    meets (sel0 (fun w => { staged 2 w with prims := 1 }) passed) (.primEmit (kx 0 4 5 0)) (fun c => Nat.blt c.w.pmax (c.w.prims + c.ex.length)) = true ∧
    meets (sel0 (staged 2) passed) (.primEmit (kx 0 4 5 0)) (fun c => (c.w.passId.bind (passed s0).pass?).isSome && c.w.prims + c.ex.length == c.w.pmax) = true ∧
    [Instr.occBegin (kx 0 4 0 0), .occEnd (kx 0 4 0 0)].all (fun i => meets s0 i (fun c => c.w.stage != 1 && c.w.stage != 2) &&
      meets (sel0 (fun w => uni4 [2] (staged 2 w)) passed) i (fun c => (uniAt c.uni 4).toNat % 4 != 0) &&
      meets (sel0 (fun w => uni4 [8] (staged 2 w)) passed) i (fun c => (uniAt c.uni 4).toNat % 4 == 0 && (c.w.passId.bind (passed s0).pass?).isSome)) = true ∧
    meets (sel0 (fun w => uni4 [8] (staged 2 w)) opened) (.occBegin (kx 0 4 0 0)) (fun c => (opened s0).gfx.passes.any (fun r => r.asid == 0 && !r.ended && r.opened.any (fun q => q.2.1 == 8))) = true ∧
    meets (sel0 (fun w => uni4 [8] (staged 2 w)) crowded) (.occBegin (kx 0 4 0 0)) (fun c => (c.w.passId.bind (crowded s0).pass?).any (fun p => (p.opened.filter (fun q => q.1 == c.w.stream)).length == 256)) = true ∧
    meets (sel0 (staged 3) passed) (.pxDiscard { d := 0, a := 0, b := 0, g := 7 }) (fun c => c.w.stage == 3 && !c.w.nd) = true ∧
    meets (sel0 (fun w => { staged 3 w with nd := true, dw := true }) passed) (.pxDiscard { d := 0, a := 0, b := 0, g := 7 }) (fun c => c.w.nd) = true ∧
    meets (sel0 (fun w => { staged 3 w with nd := true, dw := true }) passed) (.pxDepth { d := 0, a := 4, b := 0, g := 7 }) (fun c => c.w.dw) = true ∧
    meets (sel0 (staged 3) passed) (.pxDepth { d := 0, a := 4, b := 0, g := 7 }) (fun c => !c.w.dw) = true ∧
    allReady s0 [.pxDepth { d := 0, a := 4, b := 0, g := 7 }, .pxDiscard { d := 0, a := 0, b := 0, g := 7 }] = true := by
  decide +kernel

/-- The amplification queue full: room in the ring, and none. -/
def ampFull (s : State) : State := (passed s).setGdie 0 { ring := [{ launch := 0, task := 0, emit := 0, words := [] }] }

theorem test_wit_amplification :
    meets (sel0 (staged 1) (fun s => let t := ampFull s
        { t with sch := { t.sch with launches := [{ id := 0, queue := 0, pidx := 0, asid := 0, pkt := 1#1024 <<< (8 * 88 + 9) }] } })) (.taskAmp (kx 0 4 0 0))
      (fun _ => ((ampFull s0).gdie 0).ring.length == 1) = true ∧
    meets (sel0 (staged 1) ampFull) (.taskAmp (kx 0 4 0 0)) (fun _ => ((ampFull s0).gdie 0).ring.length == 1) = true := by
  decide

/-- A workgroup of a graph node, and a record of its graph on its core. -/
def noded (w : Wg) : Wg := { w with stage := 4 }
def recd (s : State) : State := { passed s with x := s.x.setCore 0 0 { s.x.core 0 0 with deque := [{ graph := 0, words := [] }] } }

/-- Testers with a node that is canonical and one that is not; a stack in the partition and beyond it, empty, partly
filled and full; records inside and outside a graph. -/
theorem test_wit_traversal_and_graphs :
    [(Instr.tstBox (xc 0x08000000)), .tstTri (xc 0x08000000)].all (fun i =>
      meets (sel0 (vec4 0x1000 0) id) i (fun c => c.ex.all (fun l => canonicalRange (((c.g.lane l).reg 5).val ++ ((c.g.lane l).reg 4).val) 128)) &&
      meets (sel0 (vec4 0 0x01000000) id) i (fun c => c.ex.any (fun l => !canonicalRange (((c.g.lane l).reg 5).val ++ ((c.g.lane l).reg 4).val) 64))) = true ∧
    meets (sel0 (fun w => { w with stkBase := 49152 }) id) (.stkPush (kx 0 4 0 0)) (fun c => c.w.stkBase + 16384 == c.w.scrSize && c.ex.all (fun l => Nat.blt (c.g.lane l).stk 64)) = true ∧
    meets (sel0 (fun w => { w with stkBase := 49280 }) id) (.stkPush (kx 0 4 0 0)) (fun c => Nat.blt c.w.scrSize (c.w.stkBase + 16384)) = true ∧
    meets (sel0 (lane0 (fun t => { t with stk := 64 })) id) (.stkPush (kx 0 4 0 0)) (fun c => c.ex.any (fun l => (c.g.lane l).stk == 64 && Nat.blt c.w.spillN ((c.g.lane l).spilled + 32))) = true ∧
    (let s := sel0 id (fun s => { s with x := { s.x with accs := [{ id := 7, wg := 0, grp := 0, ins := .sts (xc 0x08000000), kind := .store, after := [(5, 0)] }] } })
     meets s (.stkPush (kx 0 4 0 0)) (fun c => (s.base c).x.scratchHeld c.w.id c.g.idx && c.ex.all (fun l => Nat.blt (c.g.lane l).stk 64))) = true ∧
    meets (sel0 (lane0 (fun t => { t with stk := 1, top := 1 })) id) (.stkPop (kx 0 4 0 0)) (fun c => c.ex.all (fun l => (c.g.lane l).stk != 0)) = true ∧
    meets (sel0 (fun w => { w with stkBase := 49280 }) id) (.stkPop (kx 0 4 0 0)) (fun c => Nat.blt c.w.scrSize (c.w.stkBase + 16384)) = true ∧
    [Instr.recPush (kx 0 4 0 0), .recPop (kx 0 4 0 0)].all (fun i => meets s0 i (fun c => s0.graphOf c.w == none) &&
      meets (sel0 noded passed) i (fun c => (passed s0).graphOf c.w == some 0 && (passed s0).recs 0 0 0 == [])) = true ∧
    meets (sel0 noded recd) (.recPop (kx 0 4 0 0)) (fun c => (recd s0).graphOf c.w == some 0 && ((recd s0).recs 0 0 0).head?.any (fun r => !bit ((r.words[1]?).getD 0) 0)) = true := by
  decide
/-! ### States in which an event finds its work -/

/-- A state with the probe's workgroup and a changed execution state. -/
def withX (f : Exec → Exec) : State := { State.reset with x := f { wgs := [tw], nextId := 100 } }

/-- A held superstep, a round in ISSUING, a started operation with one step left and with two, a bank whose clock has
come. -/
def sst : State := withX (fun x => { x with wgs := [lane0 (fun t => { t with hold := .superstep, sstN := 1 }) { tw with sstArr := 1 }] })
def issuing : State := withX (fun x => { x with wgs := [{ tw with ks := tw.ks.set 3 { st := .issuing, ins := some (.mma t0) } }] })
def queued (n : Nat) : State := withX (fun x => x.setCore 0 0 { x.core 0 0 with mq := [mop n] })
def zeroing : State := withX (fun x => { x.setCore 0 0 { x.core 0 0 with banks := [(5, .zeroing 32)] } with clk := 32 })

/-- The probe's workgroup on a core whose island grants every clock. -/
def granting : State :=
  { State.reset.withFetchWord 32 0xFA000007 with slots := [], pkg := { (State.reset.withFetchWord 32 0xFA000007).pkg with islands := [(0, { slots := 7 })] } }

theorem test_wit_core_clock :
    (let s := granting
     let s0 := ({ s with x := { s.x with clk := (s.x.core 0 0).nextClk s.x.clk 0 } }).clockWork
     let ks := s0.x.schedGroups 0 0 0
     let s1 := s0.fetchHolds ks
     s.granted 0 0 ((s.x.core 0 0).nextClk s.x.clk 0) && s1.x.chooseGroup (ks.filter (fun g => s1.readySpots g.1 g.2 != [])) == some (0, 0) &&
       (s1.readySpots 0 0).all (fun e => e.lanes.all (fun i => (((s1.x.wg? 0).bind (fun w => w.grp? 0)).getD {}).lane i |>.pass.blt 32))) = true ∧
    ((sst.x.wgs.filter (fun w => w.launch == 0)).length == 1 && sst.sstReady 0 0) = true ∧
    ((issuing.x.wg? 0).any (fun g => (g.sign 3).st == .issuing && Nat.blt ((issuing.x.core g.die g.core).queueOf (g.mctx.getD 0)).length 8)) = true ∧
    ((queued 1).mopReady 0 0 0).isSome = true ∧ ((queued 2).mopReady 0 0 ((queued 2).x.core 0 0).turn).isSome = true ∧
    (cfind 5 (zeroing.x.core 0 0).banks == some (.zeroing 32) && Nat.ble 32 zeroing.x.clk) = true := by
  decide

/-- An access of the probe's group with one lane. -/
def acc1 (i : Instr) (k : AccKind) (l : LaneAcc) : Access := { id := 7, wg := 0, grp := 0, ins := i, kind := k, width := 4, lanes := [l] }
def la : LaneAcc := { lane := 0, va := 0x1000, ops := [5], st := .ok, pa := [0x1000, 0x1001, 0x1002, 0x1003] }
/-- A line of the die's cache that holds the access's bytes. -/
def cached (st : LineSt) (s : State) : State := { s with fab := { s.fab with dies := [(0, { llc := [(0x20, { st := st, data := 0x12345678 })] })] } }
def loads : State := cached .E (withX (fun x => { x with accs := [acc1 (.ld (xc 0x080C0000)) .load la] }))
def stores : State := cached .M (withX (fun x => { x with accs := [acc1 (.st (xc 0x08000000)) .store la] }))
def replies : State := withX (fun x => { x with accs := [{ id := 7, wg := 0, grp := 0, ins := .lds (xc 0x08000000), kind := .reply, res := [{ kind := 0, lane := 0, idx := 8, val := 3 }] }] })

theorem test_wit_accesses :
    ((replies.x.acc? 7).any (fun a => a.kind == .reply && a.lanes == [] && (replies.x.wg? a.wg).any (fun w => (w.grp? a.grp).any (fun g => g.idx == a.grp && (g.lane 0).hold == .free)))) = true ∧
    ((loads.x.acc? 7).any (fun a => a.kind == .load && a.lanes == [la] && a.res == [] && la.part == [] && la.pa.all (fun p => p / 128 == 0x20) && loads.x.notQueued 0 0 == [] &&
      loads.mayBind tw a la 0x20 && loads.lineFor 0 0x20 == some 0x12345678 && loads.x.ahead (loads.x.core 0 0) 0 0 0x20 == [])) = true ∧
    ((stores.x.enqueue 0 0).storeNext 0 0).any (fun a => a.lanes == [{ la with inq := true }] && a.lanes.all (fun l => !l.pa.any stores.pchBad)) = true := by
  decide +kernel

/-- Requests: a drain, a send to a peer, and one whose peer has
gone. -/
def asks (i : Instr) (ops : List Word) (tok peer : Option Nat) (more : List Wg) : State :=
  withX (fun x => { x with wgs := tw :: more, reqs := [{ id := 7, wg := 0, grp := 0, asid := 0, die := 0, ins := i, ops := ops, tok := tok, peer := peer }] })
def asked (s : State) (p : Req → Wg → Bool) : Bool :=
  (s.x.req? 7).any (fun q => q.id == 7 && q.fault == none && s.x.waits q.after == [] && q.done == 0 && q.parts == [] && q.out == [] && !q.dead && s.sel == 0 && (s.x.wg? q.wg).any (fun w => (w.grp? q.grp).any (fun g => g.idx == q.grp) && p q w))

theorem test_wit_requests :
    asked (asks (.accDrain (kx 1 4 0 0)) [0, 0, 0, 512] none none []) (fun q _ => q.tok == none) = true ∧
    [Instr.nbrSend (kx 4 4 0 0), .nbrReduce (kx 4 4 8 0)].all (fun i =>
      asked (asks i [0, 128, 128] none (some 1) [{ tw with id := 1 }]) (fun q w => let s := asks i [0, 128, 128] none (some 1) [{ tw with id := 1 }]
        q.peer == some 1 && (s.x.wg? 1).any (fun p => p.st == .running && !s.netBefore q.id w.die p.die && !s.gfxBefore q.id w.die p.die && s.x.reqs.length == 1)) &&
      asked (asks i [0, 128, 128] none (some 1) []) (fun q _ => q.peer == some 1 && ((asks i [0, 128, 128] none (some 1) []).x.wg? 1).isNone)) = true := by
  decide

theorem test_wit_copies :
    (let s := { mapped (asks (.copy k0) [0, 0, 64, 0, 4] (some 1) none []) with fab := { dies := [(0, { llc := [(0x4000, { st := .E, data := 7 })] })] } }
     asked s (fun q w => q.tok == some 1 && decide (0 < (opW q.ops 4).toNat) && match s.reqRanges q w [(opP q.ops 0, 4, false)] with
       | .ok s1 => let rd := (List.range 4).flatMap (fun i => s1.mapRange w (opP q.ops 0 + BitVec.ofNat 64 i, 1, false))
         (s1.reqBad q rd).isNone && (match s1.copySrc w 0 rd with
           | .ok bs => bs.length == 4
           | .error _ => false)
       | .error _ => false)) = true ∧
    (let s := mapped (asks (.copy { k0 with f := 1 }) [64, 0, 0, 0, 4] (some 1) none [])
     asked s (fun q w => match s.reqRanges q w [(opP q.ops 2, 4, true)] with
       | .ok s1 => s1.lineWrs w (opP q.ops 2) ((List.range 4).map (fun i => (i, w.scratch.get (64 + i)))) != []
       | .error _ => false)) = true := by
  decide +kernel
/-! ### Messages of the fabric -/

/-- A state with one message in flight, a changed die 0, and line 0x20 of memory. -/
def flying (src dst : Agent) (k : MsgK) (d : Die) : State :=
  { withX id with fab := { dies := [(0, d)], net := [{ id := 0, src := src, dst := dst, line := 0x20, k := k }] } }

/-- The message is the next of its agents, and the state without it meets P. -/
def arrives (s : State) (P : Msg → State → Bool) : Bool :=
  match deliverable s.sel s.fab.net with
  | some m => !s.gfxBefore m.id (agKey m.src) (agKey m.dst) && !s.nbrBefore m.id (agKey m.src) (agKey m.dst) && P m (s.take m.id)
  | none => false

theorem arrives_arrives {s : State} {P : Msg → State → Bool} (h : arrives s P = true) : ∃ m u, s.Arrives m u ∧ P m u = true := by
  unfold arrives at h
  split at h
  · rename_i m hm
    simp only [Bool.and_eq_true, Bool.not_eq_true'] at h
    exact ⟨m, s.take m.id, ⟨hm, h.1.1, h.1.2, rfl⟩, h.2⟩
  · cases h

/-- Served at once by die 0. -/
def served (u : State) (l : Nat) : Bool :=
  u.tue.hold != some (l / 32) && !u.isLost 0 l && u.bias 0 l == 0 && !(u.die 0).snoops.contains (2 * l + 1) && (u.die 0).evb.all (fun e => e.line != l)

theorem served_iff (u : State) (l : Nat) : served u l = true ↔ u.Served 0 l := by
  unfold served State.Served
  simp [and_assoc]

def dirOf (st : DirSt) (owner : Nat) (sh : BitVec 48) : Die := { dir := [(0x20, { st := st, owner := owner, sharers := sh })] }

/-- Requests of die 1 at the home, die 0: no entry, a shared one, and one that die 2 owns; a line that is LOST. -/
theorem test_wit_home_requests :
    [MsgK.getS, .getM, .upg].all (fun k =>
      arrives (flying (.die 1) (.die 0) k {}) (fun m u => m.k == k && served u m.line && (u.dir? 0 m.line).isNone && decide (((u.die 0).dir.filter (fun e => e.1 % 2 ^ 17 == m.line % 2 ^ 17)).length < Config.dirWays) && !u.subbed 0 m.line) &&
      arrives (flying (.die 1) (.die 0) k (dirOf .S 0 6)) (fun m u => served u m.line && (u.dir? 0 m.line).any (fun e => e.st == .S)) &&
      arrives (flying (.die 1) (.die 0) k (dirOf .X 2 0)) (fun m u => served u m.line && (u.dir? 0 m.line).any (fun e => e.st == .X && e.owner != ownerCode 0 m.src)) &&
      arrives (flying (.die 1) (.die 0) k (dirOf .O 1 4)) (fun m u => served u m.line && (u.dir? 0 m.line).any (fun e => e.st == .O && e.owner == ownerCode 0 m.src)) &&
      arrives (flying (.die 1) (.die 0) k (dirOf .lost 0 0)) (fun m u => u.isLost 0 m.line) &&
      arrives (flying (.die 1) (.die 0) k { subs := [(0x20, { subs := [some { die := 2, core := 0, idx := 0 }] })] }) (fun m u => served u m.line && u.subbed 0 m.line && m.src != .die 0)) = true := by
  decide +kernel

/-- Puts of the owner, with and without other holders, and of another; Mod of the owner. -/
theorem test_wit_home_puts :
    [MsgK.putM 5, .putO 5, .putE].all (fun k =>
      arrives (flying (.die 1) (.die 0) k (dirOf .X 1 0)) (fun m u => (u.dir? 0 m.line).any (fun e => e.st == .X && e.owner == ownerCode 0 m.src)) &&
      arrives (flying (.die 1) (.die 0) k (dirOf .O 1 6)) (fun m u => (u.dir? 0 m.line).any (fun e => e.st == .O && e.owner == ownerCode 0 m.src && (e.holders 0 m.line).any (fun a => a != m.src))) &&
      arrives (flying (.die 1) (.die 0) k (dirOf .X 2 0)) (fun m u => (u.dir? 0 m.line).any (fun e => e.owner != ownerCode 0 m.src))) = true ∧
    arrives (flying (.die 1) (.die 0) .mod (dirOf .X 1 0)) (fun m u => (u.dir? 0 m.line).any (fun e => e.st == .X && e.owner == ownerCode 0 m.src)) = true := by
  decide +kernel

/-- The home's own line in M, with nothing that waits. -/
def homeM (d : Die) : Die := { d with llc := [(0x20, { st := .M, data := 7 })] }
def noneWait (u : State) (l : Nat) : Bool := (u.die 0).waitq.all (fun m => m.line != l) && (u.x.wtOf 0).all (fun e => e.2.line != l)
def sub1 (p : Bool) (n : Nat) : Die := { subs := [(0x20, { seq := 3, subs := [some { die := 1, core := 2, idx := 4, p := p, n := n }] })] }

theorem test_wit_home_operations :
    [MsgK.wrThru 15 9 3 {}, .atom 3 [{ lane := 0, pa := 0x1000, width := 4, op := 0, ty := 1, a := 2 }] {}, .sub 2 4 3 true false].all (fun k =>
      arrives (flying (.die 1) (.die 0) k (homeM {})) (fun m u => m.k == k && served u m.line && !u.retried m && noneWait u m.line && (u.llc? 0 m.line).any (fun v => v.st == .M) && (u.die 0).subRoom m.line)) = true ∧
    arrives (flying (.die 1) (.die 0) (.sub 2 4 3 true false) { subs := (List.range 2048).map (fun i => (i + 64, { subs := List.replicate 64 none })) }) (fun m u => served u m.line && !u.retried m && !(u.die 0).subRoom m.line) = true ∧
    arrives (flying (.die 1) (.die 0) (.unsub 2 4 9) (sub1 true 0)) (fun m u => m.dst == .die 0 && (cfind m.line (u.die 0).subs).isSome) = true ∧
    [0, 2].all (fun n => arrives (flying (.die 1) (.die 0) (.pushAck 2 4) (sub1 true n)) (fun m u => (cfind m.line (u.die 0).subs).any (fun v =>
      (v.subs.findSome? (fun o => o.bind (fun (q : Subscr) => if q.is ((u.devOf m.src).getD 0) (agKey m.src % 64) 2 4 then some q else none))).any (fun r => r.n == n)))) = true ∧
    [1, 2].all (fun n => arrives (flying (.die 1) (.die 0) (.backInvAck (some 5)) { evb := [{ line := 0x20, acks := n }] }) (fun m u => ((u.die 0).evb.find? (fun e => e.line == m.line)).any (fun v => v.acks == n))) = true := by
  decide +kernel

def holds (st : LineSt) : Die := { llc := [(0x20, { st := st, data := 7 })] }
def held (k : MsgK) (st : LineSt) (s : State) : Bool :=
  arrives s (fun m u => m.k == k && noneWait u m.line && (u.llc? 0 m.line).any (fun v => v.st == st && v.fwds == []))

/-- Messages at a holder: owners, sharers, no copy, and every transient state that the statement names. -/
theorem test_wit_holder :
    [LineSt.M, .E, .O].all (fun st => [MsgK.fwdGetS (.die 2), .fwdGetM (.die 2) 1, .backInv].all (fun k => held k st (flying (.die 1) (.die 0) k (holds st)))) = true ∧
    [LineSt.S, .SWT].all (fun st => [MsgK.inv (.die 2), .backInv].all (fun k => held k st (flying (.die 1) (.die 0) k (holds st)))) = true ∧
    arrives (flying (.die 1) (.die 0) (.inv (.die 2)) {}) (fun m u => (u.llc? 0 m.line).isNone) = true ∧
    [0, 1, 2].all (fun n => held (.data n 9 0) .ISD (flying (.die 1) (.die 0) (.data n 9 0) (holds .ISD)) && (holds .ISD).llc.all (fun e => e.2.way != 99)) = true ∧
    (let s := { flying (.die 1) (.die 0) (.data 2 9 0) (holds .ISD) with x := { State.reset.x with wgs := [tw], accs := [acc1 (.ld (xc 0x080C0000)) .load la] } }
     arrives s (fun m u => u.binders 0 m.line == [(7, 0)])) = true ∧
    [LineSt.IMA, .SMA].all (fun st => [1, 2].all (fun n =>
      arrives (flying (.die 1) (.die 0) .invAck { llc := [(0x20, { st := st, acks := n })] }) (fun m u => noneWait u m.line && (u.llc? 0 m.line).any (fun v => v.st == st && v.fwds == [] && v.acks == n && v.got == 0)))) = true ∧
    [LineSt.MIA, .EIA, .OIA, .IIA].all (fun st => held .putAck st (flying (.die 1) (.die 0) .putAck (holds st))) = true ∧
    arrives (flying (.die 1) (.die 0) (.retry 0) (holds .ISD)) (fun m u => (u.llc? 0 m.line).isSome && (u.die 0).again == []) = true ∧
    arrives (flying (.die 1) (.die 0) (.retry 5) { again := [(none, { id := 3, src := .die 0, dst := .die 1, line := 0x20, k := .wrThru 1 9 5 {} })] }) (fun m u =>
      (u.die 0).again.all (fun p => p.1 == none && p.2.line == m.line && msgAcc p.2.k == some 5)) = true ∧
    held .nackWT .S (flying (.die 1) (.die 0) .nackWT (holds .S)) = true ∧
    (let s := mapped (flying (.die 1) (.die 0) (.retry 0) { llc := [(0x20, { st := .ISD, retryAt := some 0 })] })
     arrives s (fun m u => (u.die 0).again == [] && (u.llc? 0 m.line).any (fun v => v.retryAt == some 0 && v.st == .ISD) && m.line / 2 ^ 39 == s.pkg.dev && u.working (m.line / 2 ^ 33 % 64))) = true ∧
    (let s := flying (.die 1) (.die 0) (.nackLost 7) {}
     arrives { s with x := { s.x with accs := [acc1 (.red (xc 0x08040000)) .reduce la] } } (fun m u => (u.x.acc? 7).any (fun a =>
       a.lanes == [la] && !la.over && la.pa.any (fun p => lineOf p == m.line) && (u.x.wg? a.wg).any (fun w => w.handler != 0 && (w.grp? a.grp).any (fun g => g.idx == a.grp && !g.handler && g.live.contains la.lane))))) = true := by
  decide +kernel

/-- Messages at a core: the acknowledgement of its one write-through, the results of an atomic, pushes, and the
answers of subscriptions. -/
def withCore (k : Core) (a : List Access) (r : List Req) (s : State) : State := { s with x := { s.x with cores := [(0, k)], accs := a, reqs := r } }

theorem test_wit_core_messages :
    arrives (withCore { wt := [{ id := 7, lanes := 1, line := 0x20, sent := true }] } [acc1 (.st (xc 0x08000000)) .store { la with l1 := true }] [] (flying (.die 1) (.die 0) (.wtAck 7) {})) (fun m u =>
      ((u.x.wtOf 0).filter (fun e => e.2.line == m.line)).map (fun e => (e.1, e.2.id, e.2.sent)) == [(0, 7, true)] && (u.x.req? 7).isNone && (u.x.acc? 7).any (fun a => a.kind == .store && a.lanes == [{ la with l1 := true }])) = true ∧
    arrives (withCore {} [acc1 (.atom (xc 0x08040000)) .atomic la] [] (flying (.die 1) (.die 0) (.atomRsp 7 [(0, 4)]) {})) (fun m u => (u.x.acc? 7).any (fun a => a.kind == .atomic && a.lanes.all (fun l => l.pa.any (fun p => lineOf p == m.line)))) = true ∧
    arrives (withCore { stand := [(4, { wg := 0, slot := 128, st := .active, every := true, va := 0, line := 0x20 })] } [] [] (flying (.die 1) (.core 0 0) (.push 4 9 1 2) {})) (fun m u => (cfind 4 (u.x.core 0 0).stand).any (fun e => !e.lost && e.line == m.line && e.st == .active && (u.x.wg? e.wg).isSome)) = true ∧
    arrives (withCore {} [] [{ id := 8, wg := 0, grp := 0, asid := 0, die := 0, ins := .standDrop k0, tok := some 1 }] (flying (.die 1) (.core 0 0) (.unsubAck 4 8) {})) (fun _ u => (u.x.req? 8).any (fun r => r.tok == some 1 && (u.x.wg? r.wg).isSome)) = true ∧
    [0, 1].all (fun st => arrives (withCore { stand := [(4, { wg := 0, slot := 128, st := .pending, every := true, va := 0, line := 0x20, acc := 7 })] } [acc1 (.standSub k0) .sub la] [] (flying (.die 1) (.core 0 0) (.subRsp 4 7 st) {}))
      (fun _ u => (u.x.acc? 7).any (fun a => a.kind == .sub && (u.x.wg? a.wg).any (fun w => (w.grp? a.grp).any (fun g => g.idx == a.grp))) && (u.x.core 0 0).stand.any (fun e => e.2.acc == 7 && e.2.st == .pending))) = true ∧
    arrives (flying (.die 1) (.core 0 0) (.pushLost 4) {}) (fun m _ => m.dst == .core 0 0) = true := by
  decide +kernel
/-! ### Graphics, graphs, launches, registers, translation, commands, package -/

/-- The probe's context and die, with 16 working cores. -/
def device (s : State) : State := { mapped s with pkg := { s.pkg with ready := true, power := true, dmap := [(0, 0xFFFF000000000001)], coreMask := [(0, 0xFFFF)] } }
def dev0 : State := device (withX (fun x => { x with wgs := [] }))

/-- A launch of a stage, and a pass of number 1. -/
def launch (stage : Nat) : Launch := { id := 3, queue := 2, pidx := 0, asid := 0, pkt := BitVec.ofNat 1024 (16 * stage + 1 + 2 ^ 32), pass := some 1, rcbs := [{ addr := 64 }] }
def pass1 : Pass := { id := 1, desc := 0, asid := 0, bytes := 0, active := [0] }
def launched (l : Launch) (s : State) : State := { s with sch := { s.sch with launches := [l] }, gfx := { s.gfx with passes := [pass1] } }
def child : Child := { launch := 3, task := 0, emit := 0, words := [] }

theorem test_wit_amp_units :
    (let s := (launched (launch 1) dev0).setGdie 0 { amp := [child], ring := [child] }
     (s.gdie 0).amp == [child] && (s.gdie 0).ring == [child] && (s.launch? 3).any (fun l => l.open && !s.dealStopped l && s.roomFor l 1 && s.preload l.asid l.tmpl == some [] &&
       (s.pickCore (l.childJob child 0) 0).isSome) && s.x.wgs.all (fun w => w.stage != 1)) = true ∧
    (let s := launched (launch 3) dev0
     (s.pass? 1).any (fun p => !p.ended) && s.working 0 && (s.frontier 0 1 0).isSome && (s.gdie 0).sent == []) = true ∧
    (let s := { (launched (launch 3) dev0).setGdie 0 { sent := [{ pass := 1, stream := 0, value := 0, at_ := 0 }] } with x := { dev0.x with clk := 64 } }
     (s.frontier 0 1 0).any (fun v => (s.gdie 0).sent.any (fun e => Nat.blt e.value v && Nat.ble (e.at_ + 64) s.x.clk))) = true := by
  decide +kernel

/-- Packets, frontiers and contributions that arrive. -/
def gnet (k : GMsgK) (s : State) : State := { s with gfx := { s.gfx with net := [{ src := 0, dst := 0, k := k }] } }
/-- A pass whose depth test always passes. -/
def always : Pass := { pass1 with bytes := BitVec.ofNat 512 (5 * 2 ^ 197) }
def pkt (k : PktK) : Pkt := { pass := 1, stream := 0, token := 0, k := k }
/-- A triangle over pixel (0, 0), in 512 bits of a packet. -/
def tri : BitVec 512 :=
  BitVec.ofNat 512 ((0 + 2 ^ 32 * 0 + 2 ^ 64 * 0x3F000000 + 2 ^ 96 * 0x41800000 + 2 ^ 128 * 0 + 2 ^ 160 * 0x3F000000 + 2 ^ 192 * 0 + 2 ^ 224 * 0x41800000 + 2 ^ 256 * 0x3F000000) * 2 ^ 64)
def stored (k : PktK) : State := (launched (launch 3) dev0).setGdie 0 { store := [pkt k], fronts := [(1, 0, 0, 5)] }
def fragd (st : FragSt) : State := (launched (launch 3) dev0).setGdie 0 { frags := [{ id := 9, pass := 1, stream := 0, token := 0, x := 0, y := 0, smp := 0, depth := 0, primid := 0, attr := 0, st := st }] }

theorem test_wit_graphics_units :
    (let s := gnet (.pkt (pkt (.prim 0))) (launched (launch 3) dev0)
     s.gmsg.isSome && s.working 0 && (s.pass? 1).any (fun p => !p.ended && Nat.blt ((s.gdie 0).onDie + s.gtake.pktsTo 0 1 false) 4096) && (gnet (.frontier 1 0 5) dev0).gmsg.isSome) = true ∧
    (let s := gnet (.pkt (pkt (.prim 0))) ((launched (launch 3) dev0).setGdie 0 { store := List.replicate 4096 (pkt (.prim 0)) })
     s.gmsg.isSome && (s.pass? 1).any (fun p => Nat.ble 4096 ((s.gdie 0).onDie + s.gtake.pktsTo 0 1 false) && Nat.blt ((s.gdie 0).area 1).length (2 ^ p.l))) = true ∧
    [PktK.prim tri, .occBegin 8].all (fun k => let s := stored k
      (s.pass? 1).any (fun p => s.storeGet 0 p (pkt k) == k) && s.releasable 0 1 == some (pkt k) && s.passRuns 1 && (s.passLaunches 1).any (fun l => l.st != .recorded)) = true ∧
    (triSetup tri).isSome = true ∧
    [(pass1, false), (always, true)].all (fun p => let s := { fragd .wait with gfx := { (fragd .wait).gfx with passes := [p.1] } }
      s.passRuns 1 && s.sealed 1 && (s.gdie 0).frags.any (fun fr => fr.id == 9 && fr.pass == 1 && fr.fault == none && fr.st == .wait && !(s.pixFlags 1).dw && !(s.pixFlags 1).nd &&
        !earlierHolds (s.pixFlags 1) fr (s.gdie 0).frags && (match s.fragPage p.1 0 fr false with
          | .ok (s0, pa) => (s0.passLaunches 1).any (fun l => l.st != .recorded) && p.1.test fr.depth (s0.depthGet pa) == p.2
          | .error _ => false))) = true ∧
    (let s := { fragd .wait with sch := { (fragd .wait).sch with launches := [{ launch 3 with pkt := (launch 3).pkt ||| (1#1024 <<< 577) }] } }
     s.passRuns 1 && s.sealed 1 && (s.pixFlags 1).dw) = true ∧
    (let s := (launched (launch 3) dev0).setGdie 0 { frags := [{ id := 9, pass := 1, stream := 0, token := 0, x := 0, y := 0, smp := 0, depth := 0, primid := 0, attr := 0, st := .left, trapped := true }] }
     s.passRuns 1 && (s.passLaunches 1).any (fun l => l.st != .recorded) && !(s.pixFlags 1).dw) = true ∧
    (let s := (launched (launch 3) dev0).setGdie 0 { queries := [{ pass := 1, stream := 0, cell := 8, first := 0, last := some 1 }] }
     ((s.gdie 0).queries[0]?).any (fun q => q.last == some 1 && q.pass == 1) && (match s.walk 0 0 8 with
       | .bind _ _ => false
       | _ => true)) = true ∧
    [0, 1].all (fun n => let s := gnet (.contrib 1 8 2 n 0 0) (launched (launch 3) dev0)
      s.gmsg.isSome && s.working 0 && s.sel == 0 && !s.gtake.zeroAhead 0 8 && match s.gtake.unitX 0 0 8 true s.x.nextId with
        | (s1, .ok pa) => !s1.pchBad pa && (s1.lostAmong [pa]).isNone && s1.readable [pa] && s1.quietAll ((regsFrom pa 4).zip (natLe 4 2))
        | _ => false) = true ∧
    (let s := gnet (.contrib 1 8 2 1 0 0) ((launched (launch 3) dev0).setGdie 0 { cells := [{ id := 4, pass := 1, cell := 8, zero := true, asid := 0 }] })
     s.gmsg.isSome && s.gtake.zeroAhead 0 8 && ({ s with sel := 2 ^ 32 + 4 }).cellOp? 4 == some (0, { id := 4, pass := 1, cell := 8, zero := true, asid := 0 })) = true := by
  decide +kernel

/-- A graph launch with one node, a record of that node and one without a node. -/
def graph (r : List GRec) (k : Core) : State :=
  launched { launch 4 with nodes := [1], pass := none } { dev0 with x := (withX (fun x => { x with wgs := [] })).x.setCore 0 0 { k with deque := r } }
def grec (n : Nat) : GRec := { graph := 3, words := [BitVec.ofNat 32 n] }

theorem test_wit_graph_agents :
    [0, 5].all (fun n => let s := graph [grec n] {}
      (s.launch? 3).any (fun g => g.open && !s.dealStopped g && s.recs 0 0 3 == [grec n] && !(grec n).cond &&
        (if n = 5 then (g.nodes[(grec n).node]?).isNone && (grec n).pass.isNone && (grec n).graph == 3
         else (g.nodes[(grec n).node]?).any (fun t => (s.jobFits (g.nodeJob (grec n) t 0) 0 0).isSome && s.preload g.asid t == some [] && s.roomFor g 1)))) = true ∧
    [0x80000000, 0x80000005].all (fun v => let s := (graph [] {}).setGdie 0 { waits := [(4, 0, grec 0)] }
      let s := { s with mem := s.mem.putNum 0x200000 4 v }
      (s.gdie 0).waits.any (fun w => w.1 == 4) && (s.cellVal 0 0 (grec 0).cell).any (fun x => bit x 31 && (if v = 0x80000000 then Nat.ble (bits x 0 31) (grec 0).thresh else Nat.blt (grec 0).thresh (bits x 0 31)))) = true ∧
    (let s := withX (fun x => { x with wgs := [grp0 (fun g => { g with park := .recPush [1] 3 }) tw] })
     (s.x.wg? 0).any (fun w => (w.grp? 0).any (fun g => g.park == .recPush [1] 3) && Nat.blt (s.x.core w.die w.core).deque.length 512)) = true ∧
    (let s := graph [] {}
     (s.launch? 3).any (fun g => g.open && pkStage g.pkt == 4 && !s.dealStopped g && s.idleFor 0 0 3 && bits g.pkt (8 * 88) 32 == g.fed && s.graphEmpty 3 && g.skipped == 0) && (List.range 16).all (fun j => (s.x.core 0 j).recs 3 == [])) = true ∧
    (let s := { graph [] {} with x := (graph [] {}).x.setCore 0 1 { ({} : Core) with deque := [grec 0] } }
     ((stealOrder 0 ((s.x.core 0 0).steal 3).attempt).filter (fun j => s.coreWorks 0 j)).head? == some 1 && s.recs 0 1 3 == [grec 0] && !(grec 0).cond && s.idleFor 0 0 3) = true ∧
    (let s := graph [] { steals := [{ graph := 3, pos := 1 }] }
     ((s.x.core 0 0).steal 3).pos == 1 && (s.successors 0)[0]?.isNone) = true ∧
    (let s := graph [] { steals := [{ graph := 3, waitTo := some 0 }] }
     ((s.x.core 0 0).steal 3).waitTo == some 0 && ((s.x.core 0 0).steal 3).pos == 0) = true := by
  decide +kernel

/-- The host's requests, flips, reclaims, ways, failures. -/
theorem test_wit_host_and_home :
    (dev0.paExists 0x1000 && decide (0x1000 % 128 + 64 ≤ 128) && dev0.homeUp 0x1000 && dev0.fab.net.isEmpty && dev0.bias (dev0.homeKey 0x20) 0x20 != 2) = true ∧
    (let s := { dev0 with fab := { dies := [(0, { snoops := [0x40] })] } }
     (s.die 0).snoops.contains (2 * 0x20) && s.bias 0 0x20 != 2 && (s.die 0).held.isEmpty) = true ∧
    [MsgK.getS, .atom 7 [] {}, .wrThru 15 9 7 {}].all (fun k => let s := { dev0 with fab := { hostReqs := [{ id := 6, src := .die 0, dst := .host, line := 2 ^ 45 + 1, k := k }] } }
      (s.fab.hostReqs.find? (fun m => m.id == 6)).any (fun m => m.k == k && (s.fab.hostReqs.takeWhile (fun n => n.id != 6)).isEmpty)) = true ∧
    (let s := { dev0 with fab := { dies := [(0, { biasBusy := true, biasPage := 1 })] } }
     s.pkg.ready && s.working 0 && (s.die 0).biasBusy) = true ∧
    (dev0.pkg.ready && dev0.working 0 && !(dev0.die 0).biasBusy && dev0.bias 0 ((dev0.pageLines 0 1).headD 0) == 0) = true ∧
    [false, true].all (fun h => let s := { dev0 with fab := { dies := [(0, { biasBusy := true, biasPage := 1, flipPage := 1, flipHost := h })] } }
     (s.die 0).biasBusy && (s.pageLines 0 (s.die 0).flipPage).all (fun l => !(s.die 0).snoops.contains (2 * l) && !s.lineMoves l) && (s.die 0).held.isEmpty) = true ∧
    (let s := { dev0 with fab := { dies := [(0, dirOf .lost 0 0)] } }
     s.isLost 0 (s.pkg.dev * 2 ^ 39 + 0x20) && !dev0.isLost 0 0x20) = true ∧
    (let s := { dev0 with fab := { dies := [(0, { rtBusy := true, rtNew := 4 })] } }
     (s.die 0).rtBusy && (s.die 0).llc.isEmpty && !(dev0.die 0).rtBusy) = true ∧
    ((loads.x.acc? 7).any (fun a => a.kind == .load && a.lanes == [la] && !la.over && (loads.x.wg? a.wg).any (fun w => w.handler != 0 && (w.grp? a.grp).any (fun g => g.idx == a.grp && !g.handler && g.live.contains la.lane)))) = true ∧
    (!isHost 0x1000 && paDie 0x1000 == 0 && (dev0.pchOf 0x1000).any (fun p => Nat.blt p 64)) = true := by
  decide +kernel
/-- A queue with a packet of zero bytes published, whose type is bad. -/
def fetches : State :=
  { dev0 with sch := { dev0.sch with queues := [(2, { run := true, base := 0, log2n := 4, asid := 0, rptra := 0x800, rd := 0, wr := 2 })] } }

/-- A compute launch that the last round chose, ready to be dealt. -/
def deals : State :=
  { dev0 with sch := { dev0.sch with launches := [{ launch 0 with id := 3, pkt := BitVec.ofNat 1024 (1 + 2 ^ 32 * 2 + 2 ^ 192 * 32), chosen := true, rcbs := [], pass := none }] } }
def ended (w : Wg) : Wg := grp0 (fun g => { g with lanes := g.lanes.map (fun t => { t with st := .ended }) }) w

theorem test_wit_launches :
    (dev0.pkg.ready && Nat.blt (dev0.queue 2).wr 1 && !(dev0.queue 2).run && (fetches.queue 2).run && Nat.ble 2 (fetches.queue 2).wr && Nat.blt (2 ^ (fetches.queue 2).log2n) (17 - (fetches.queue 2).rd)) = true ∧
    (let k := fetches.queue 2
     k.run && Nat.ble (k.rd + 2) k.wr && !fetches.hostWrites && (fetches.packetAt k).any (fun p => !packetOk p .queued && (fetches.accept 2 k p).any (fun s1 => (s1.ctlPut k.asid k.rptra (natLe 8 2)).2))) = true ∧
    (deals.sch.launches.any deals.ready && (deals.launch? 3).any (fun k => k.id == 3 && k.chosen && deals.ready k && !pkCores k.pkt && !pkMeshl k.pkt && pkStage k.pkt == 0 && deals.preload k.asid k.pkt == some [] &&
      (deals.cursorDie (k.job k.next) (fun e => (k.job k.next).stage != 1 || deals.taskRoom e) deals.pkgRing deals.pkgRing.length deals.sch.cursor).any (fun p => p.1 == 0 && (deals.pickCore (k.job k.next) 0).isSome))) = true ∧
    (let s := withX (fun x => { x with wgs := [ended tw] })
     (s.x.wg? 0).any (fun w => w.st == .running && w.finished && (s.x.core w.die w.core).stand.isEmpty)) = true ∧
    (let s := withX (fun x => { x with wgs := [{ ended tw with st := .dropping }] })
     (s.x.wg? 0).any (fun w => w.st == .dropping && (s.x.core w.die w.core).stand.isEmpty)) = true ∧
    (let s := { deals with sch := { deals.sch with launches := [{ launch 0 with st := .dealt, pass := none }] } }
     (s.launch? 3).any (fun k => k.id == 3 && k.st == .dealt && Nat.ble (pkStage k.pkt) 2 && s.launchIdle 3 && (k.pass.bind s.pass?).isNone)) = true := by
  decide +kernel

/-- A fault ring with one record pending, and one whose oldest record is of age T. -/
def ringed (since : Option Nat) : State :=
  { dev0 with x := { dev0.x with clk := 100000 }, sel := faultRing, sch := { dev0.sch with fltBase := 0x300000, fltCtl := 4 + 2 ^ 32, fltOldest := since, pend := [{ ring := faultRing, body := 5 }] } }

theorem test_wit_rings :
    (let s := ringed none
     (s.sch.pend.find? (fun r => r.ring == s.sel)).any (fun r => r.wake.isNone && r.launch.isNone && r.after.isEmpty) && (s.ringV s.sel).any (fun v => v.asid.isNone && v.room &&
       s.paExists (v.base + BitVec.ofNat 64 (32 * (v.wp % 2 ^ v.log2n))).toNat && (s.paPut (v.base + BitVec.ofNat 64 (32 * (v.wp % 2 ^ v.log2n))).toNat (natLe 32 5)).2)) = true := by
  decide +kernel

/-- Registers: a context that is live and one that is not, a queue with a descriptor of zeros, an event ring, an open
Rime entry whose time has come, with a full log and an empty one. -/
def rimed (cur : DWord) : State :=
  { dev0 with x := { dev0.x with clk := 1024 }, sch := { dev0.sch with ctxs := [(0, { live := true, rings := [{}], rimeLog2 := 4, rimeCur := cur, rimeOpen := [(7, 1, 1, 0)] })] } }

theorem test_wit_registers :
    (dev0.pkg.ready && !State.reset.pkg.ready && dev0.working 0 && (dev0.ctx 0).live && !(dev0.ctx 1).live && !(dev0.ctx 1).rimeEn && !(dev0.queue 2).run && dev0.paExists (bits (dev0.queue 2).desc 6 46 * 64)) = true ∧
    (device (withX id)).x.wgs.any (fun w => w.asid == 0) = true ∧ (device (withX id)).pkg.ready = true ∧
    (readQDesc (BitVec.ofNat 512 (dev0.freshNum 0 64))).rsv = true ∧ (readQDesc (BitVec.ofNat 512 (4 * 2 ^ 64))).rsv = false ∧ dev0.enabledOf 0 = 0 ∧
    (let s := { dev0 with sch := { dev0.sch with ctxs := [(1, { roots := 0x400000, evt := 0x500001 })] }, mem := (dev0.mem.putNum 0x400000 8 0x1000).putNum 0x500000 32 (4 * 2 ^ 64) }
     !(s.ctx 1).live && bits (s.ctx 1).evt 0 11 == 1 && s.paExists 0x400000 && s.paExists 0x500000 && s.dieOrder == [0] && s.freshNum 0x400000 8 == 0x1000) = true ∧
    (((rimed 0).ctx 0).rings.length == 1 && ((rimed 0).ctx 0).rimeOpen.any (fun e => e.1 == 7 && Nat.ble (e.2.2.2 + 1024) (rimed 0).x.clk) && !((rimed 0).ctx 0).rimeOvf &&
      (rimed 0).paExists (bits ((rimed 0).ctx 0).rimeBase 12 40 * 4096) && Nat.ble (2 ^ 4) (((rimed 16).ctx 0).rimeCur - ((rimed 16).ctx 0).rimeRd).toNat) = true := by
  decide +kernel

/-- Accesses that wait for a walk: of a mapped page, of no page, of a replicated one; held ones; commands. -/
def walks (va : DWord) (root : DWord) : State :=
  { device (withX (fun x => { x with accs := [acc1 (.ld (xc 0x08000000)) .load { lane := 0, va := va }] })) with sel := 7, sch := { State.reset.sch with ctxs := [(0, { live := true, rootTab := [root] })] } }
def faulted : State := device (withX (fun x => { x with accs := [acc1 (.ld (xc 0x08000000)) .load { la with st := .fault 1 40 0x1000, va := 0x1000 }] }))
def commands (c : Nat) : State :=
  { dev0 with mem := dev0.mem.putNum 0x300000 32 c, tue := { base := 0x300000, log2n := 4, wr := 1 } }

theorem test_wit_translation :
    (let s := walks 0x1000 0x1000
     (s.x.acc? s.sel).any (fun a => a.kind == .load && a.lanes.length == 1 && s.walkLane a tw == some (0, .walk 0x1000) && match s.walk 0 0 0x1000 with
       | .ok e => (match xlateLeaf e 0x1000 a.kind.writes false with
         | .ok _ _ => true
         | _ => false)
       | _ => false)) = true ∧
    (let s := walks 0x1000 0x8000
     (s.x.acc? s.sel).any (fun a => s.walkLane a tw == some (0, .walk 0x1000) && match s.walk 0 0 0x1000 with
       | .notMapped => true
       | _ => false)) = true ∧
    (dev0.pkg.ready && (dev0.faultAcc 9).isNone && (dev0.faultReq 9).isNone && (dev0.faultFrag 9).isNone && (dev0.faultCell 9).isNone) = true ∧
    ((faulted.faultAcc 40).any (fun p => p.2.1 == [0] && p.2.2.1 == 1) && (faulted.x.acc? 7).any (fun a => (faulted.x.wg? a.wg).any (fun w => w.handler != 0 && (w.grp? a.grp).any (fun g => g.idx == a.grp && !g.handler && g.live.contains 0) &&
      faulted.rangeX w false false 0x1000 4 == .walk 0x1000))) = true ∧
    (let s := { faulted with sch := { faulted.sch with launches := [{ launch 0 with id := 0 }] } }
     (s.faultAcc 40).isSome && (s.launch? 0).any (fun k => k.open && k.id == 0 && k.rcbs != [])) = true ∧
    [1, 2, 4].all (fun k => let s := commands k
      s.tuePa == some 0x300000 && s.paExists 0x300000 && !tcReserved (BitVec.ofNat 256 (s.freshNum 0x300000 32)) && bits (BitVec.ofNat 256 (s.freshNum 0x300000 32)) 0 4 == k) = true ∧
    (let s := commands 5
     tcReserved (BitVec.ofNat 256 (s.freshNum 0x300000 32)) && s.paExists 0 && (s.paPut 0 (natLe 8 (2 ^ 63))).2) = true ∧
    (let s := { dev0 with tue := { doing := some (0, 1) } }
     s.tue.doing == some (0, 1) && s.tue.wait.isEmpty && (s.paPut 0 (natLe 8 0)).2) = true := by
  decide +kernel

/-- Context commands: one under way, none, a deadline that has come, an image that is none, contexts with nothing
left. -/
def cmds (n : Nat) : State := { dev0 with sch := { dev0.sch with cmd := some { cmd := n, asid := 0, due := 0 }, imgPages := 16, imgBase := 0x300000 } }

theorem test_wit_commands :
    ((cmds 1).pkg.ready && (cmds 1).sch.cmd.isSome && dev0.sch.cmd.isNone && dev0.paExists dev0.imgPa && dev0.imageRead.isNone) = true ∧
    [1, 2, 4].all (fun n => (cmds n).sch.cmd.any (fun c => c.cmd == n && Nat.ble c.due (cmds n).time) && (cmds n).sch.resuming.isEmpty && (cmds n).x.reqs.isEmpty && (cmds n).gfx.passes.isEmpty) = true ∧
    (let s := cmds 1
     let m := s.imageNow 0 [] [] []
     s.x.wgs.isEmpty && s.sch.launches.isEmpty && Nat.ble m.size (4096 * s.sch.imgPages) && (regsFrom s.imgPa (m.bytes s.time s.x.free).length).all s.paExists &&
       s.quietAll ((regsFrom s.imgPa (m.bytes s.time s.x.free).length).zip (m.bytes s.time s.x.free))) = true ∧
    (let s := cmds 2
     let m := s.imageNow 0 [] [] (s.heldOf [])
     s.frozenQuiet 0 [] (s.heldOf []) && s.copiesDone [] (s.heldOf []) 0 && Nat.ble m.size (4096 * s.sch.imgPages) && (regsFrom s.imgPa (m.bytes s.time s.x.free).length).all s.paExists &&
       s.quietAll ((regsFrom s.imgPa (m.bytes s.time s.x.free).length).zip (m.bytes s.time s.x.free))) = true := by
  decide +kernel

/-- The package: no power; power with everything sound; a die, a link and islands that change; a report and an update
asked for; links that run, with a NAK, a bad flit, and a training. -/
def linked (l : Link) : State := { dev0 with links := [(0, l)], pkg := { dev0.pkg with dmap := [(0, 0xFFFF000000000001), (1, 0xFFFF000000000001)] } }

theorem test_wit_package :
    (!State.reset.pkg.power && State.reset.pkg.fwSlots == [[], []] && State.reset.pkg.fwBoot == 0 && dev0.pkg.power && dev0.pkg.ready && dev0.coreMask 0 != 0 && dev0.linkUp 0) = true ∧
    (let s := { dev0 with pkg := { dev0.pkg with dmap := [(0, 0xFFFF000000000001), (1, 0xFFFF000000000001)] } }
     (meshLink 0 1).isSome && s.working (linkEnds 0).1 && s.working (linkEnds 0).2) = true ∧
    (dev0.coreIslands (dieRegion 0)).contains 0 = true ∧ (dev0.island 0).asked = none ∧ (dev0.island 0).on = false ∧ islandRegion 0 = some (dieRegion 0) ∧
    (let s := { dev0 with pkg := { dev0.pkg with islands := [(0, { asked := some 0 }), (3, { on := true }), (4, { on := true, fails := 1 }), (1010, { fails := 2 })] } }
     s.nextAsk (dieRegion 0) == some 0 && Nat.blt (s.island 0).waits 64 && (s.island 3).on && (s.island 3).fails == 0 && (s.island 4).fails == 1 && (s.island 1010).fails == 2 && !(s.island 1010).gated) = true ∧
    (let s := { dev0 with pkg := { dev0.pkg with attBusy := true, attAt := 0x4000 } }
     s.pkg.attBusy && (regsFrom (128 * s.pkg.attAt) 384).all s.paExists && (s.paPut (128 * s.pkg.attAt) (s.report (s.freshBytes (128 * s.pkg.attAt + 16) 32))).2) = true ∧
    (let s := { dev0 with pkg := { dev0.pkg with fwBusy := true, fwAt := 0x300 }, mem := dev0.mem.putNum 0x300008 4 128 }
     s.pkg.fwBusy && s.freshNum 0x300008 4 == 128 && s.paExists 0x300000 && s.paExists 0x30007F && s.pkg.fwSlots.length == 2 && Nat.ble s.pkg.fwSlot 1) = true ∧
    ((linked {}).linkRuns 0 && ((linked {}).link 0).transmit 0 == some ((0, newFlit 0), { tx := 1, replay := [(0, newFlit 0)] }) && Nat.blt (flitKind (newFlit 1)) 2) = true ∧
    ((linked { nakIn := some 3, tx := 4 }).linkRuns 0 && (linked { bad := true, sinceNak := 64, naks := 7 }).linkRuns 0 && (linked { bad := true, sinceNak := 64, naks := 8 }).linkRuns 0 &&
      ((linked { training := true, fails := 1 }).link 0).training && !((linked { training := true, fails := 2 }).link 0).out) = true := by
  decide +kernel

/-- The invariant holds at reset, and of a state with memory. -/
theorem test_wit_invariant : (State.reset.mem.wf && State.reset.host.wf && dev0.mem.wf && dev0.host.wf) = true := by
  decide +kernel

/-- A step that fetches: a header and the instruction behind it. -/
theorem test_wit_step :
    (let s := State.reset.withFetchWord 32 0xFA000007
     match s.slots with
     | [sl] => (s.x.wg? sl.wg).any (fun w => (w.grp? sl.grp).any (fun g => (lanesOf sl.lanes).filter (fun l => (g.lane l).st == .live) == [0] && (g.lane 0).cl.left == 0)) &&
         s.codeWord probeWg sl.pc == some 0xFFFF0000 && headerOk 0xFFFF0000 && s.codeWord probeWg (sl.pc + 4) == some 0xFA000007
     | _ => false) = true := by
  decide +kernel

/-- Checks that fail: a register out of range, an odd one of a pair, a tag of another class, and a group with a handler
that it has not entered. -/
theorem test_wit_checks :
    ((sel0 (fun w => { w with regs := 8 }) id).checks (.addI r0) == some { cls := 1, code := 7 } && s0.checks (.addF64 { r0 with a := 5 }) == some { cls := 1, code := 8 } &&
      ((sel0 (lane0 (fun t => { t with v := t.v.set 4 { val := 0, tag := tF32 } })) id).checks (.addI r0)).isSome && (s0.pick (.addI r0)).any (fun p => p.1.w.handler != 0 && !p.1.g.handler && ready s0 p.1)) = true := by
  decide +kernel
/-! ### Single steps, with results from the manual's tables, its worked examples and hand calculation -/

/-- Vector registers of the first lane, as RAW words. -/
def regs (l : List (Nat × Word)) : Wg → Wg := lane0 (fun t => { t with v := l.foldl (fun v p => v.set p.1 { val := p.2 }) t.v })

/-- The state that an instruction answers. -/
def run (i : Instr) (s : State) : State := match exec i s with
  | .next t => t
  | _ => State.reset
/-- The first lane of the first group, its registers, and the group. -/
def group1 (t : State) : Group := ((t.x.wgs[0]?).bind (fun w => w.groups[0]?)).getD {}
def lane1 (t : State) : Lane := (group1 t).lane 0
def vr (t : State) (r : Nat) : Word × Byte := (((lane1 t).reg r).val, ((lane1 t).reg r).tag)
def ur (t : State) (r : Nat) : Word := uniAt (group1 t).s r

/-- The register that an R-format instruction writes, from its operands. -/
def rr (mk : RF → Instr) (a b : Word) : Word × Byte := vr (run (mk r0) (sel0 (regs [(4, a), (12, b)]) id)) 8
/-- The same for a unary one, for an immediate and for an XA instruction with three operands (C in v5). -/
def r1 (mk : RF → Instr) (a : Word) : Word × Byte := vr (run (mk { r0 with b := 0 }) (sel0 (regs [(4, a)]) id)) 8
def ri (mk : IF → Instr) (a : Word) (n : BitVec 10) : Word × Byte := vr (run (mk { i0 with imm := n }) (sel0 (regs [(4, a)]) id)) 8
def rx (mk : XF → Instr) (ctl a b c : Word) : Word × Byte := vr (run (mk (xc ctl)) (sel0 (regs [(4, a), (12, b), (5, c)]) id)) 8

/-- 09_isa R211. -/
theorem test_add_sub : rr .addI 0x7FFFFFFF 1 = (0x80000000, tI32) ∧ ri .addIImm 5 0x3FF = (4, tI32) ∧ rr .subI 0 1 = (0xFFFFFFFF, tI32) := by
  decide +kernel
theorem test_carry_borrow : rr .addcN 0xFFFFFFFF 1 = (1, tN32) ∧ rr .addcN 0xFFFFFFFE 1 = (0, tN32) ∧ rr .subbN 1 2 = (1, tN32) ∧ rr .subbN 2 2 = (0, tN32) := by
  decide +kernel
theorem test_multiply : rr .mulI 0xFFFFFFFF 5 = (0xFFFFFFFB, tI32) ∧ rr .mulhiI 0xFFFFFFFF 0xFFFFFFFF = (0, tI32) ∧ rr .mulhiN 0xFFFFFFFF 0xFFFFFFFF = (0xFFFFFFFE, tN32) := by
  decide +kernel
theorem test_divide : rr .divI 0xFFFFFFF9 2 = (0xFFFFFFFD, tI32) ∧ rr .remI 0xFFFFFFF9 2 = (0xFFFFFFFF, tI32) ∧ rr .divN 0xFFFFFFF9 2 = (0x7FFFFFFC, tN32) ∧ rr .remN 7 4 = (3, tN32) := by
  decide +kernel
theorem test_divide_corners : rr .divI 5 0 = (0xFFFFFFFF, tI32) ∧ rr .remI 5 0 = (5, tI32) ∧ rr .divI 0x80000000 0xFFFFFFFF = (0x80000000, tI32) ∧ rr .remI 0x80000000 0xFFFFFFFF = (0, tI32) := by
  decide +kernel
theorem test_min_max_abs : rr .minI 0xFFFFFFFF 1 = (0xFFFFFFFF, tI32) ∧ rr .maxI 0xFFFFFFFF 1 = (1, tI32) ∧ rr .minN 0xFFFFFFFF 1 = (1, tN32) ∧ rr .maxN 0xFFFFFFFF 1 = (0xFFFFFFFF, tN32) ∧
    r1 .absI 0x80000000 = (0x80000000, tI32) := by
  decide +kernel
/-- 09_isa R213, R214. -/
theorem test_saturation : rx .madI 0x10140000 0x7FFFFFFF 2 1 = (0x7FFFFFFF, tI32) ∧ rx .madI 0x00140000 0x7FFFFFFF 2 1 = (0xFFFFFFFF, tI32) ∧ rx .xint 0x10000003 0x80000000 1 0 = (0x80000000, tI32) ∧
    vr (run (.xint (x0 0x10000012)) (sel0 (regs [(4, 0x80000000)]) id)) 8 = (0x7FFFFFFF, tI32) := by
  decide +kernel
/-- The worked sum of R214: v4 and v6 from v0 = 0xFFFF_FFFF and v2 = 1. -/
theorem test_worked_sum :
    vr (run (.addI { d := 4, a := 0, b := 2, g := 7 }) (sel0 (regs [(0, 0xFFFFFFFF), (2, 1)]) id)) 4 = (0, tI32) ∧
    vr (run (.addcN { d := 6, a := 0, b := 2, g := 7 }) (sel0 (regs [(0, 0xFFFFFFFF), (2, 1)]) id)) 6 = (1, tN32) := by
  decide +kernel
/-- 09_isa R215. -/
theorem test_packed : rr .addI16x2 0x7FFF0001 0x00010002 = (0x80000003, tI16) ∧ rr .subN16x2 0x00000001 0x00010001 = (0xFFFF0000, tN16) ∧ rr .addI8x4 0x7F01FF80 0x01010180 = (0x80020000, tI8) ∧
    rx .xint 0x10000013 0x7FFF8000 0x0001FFFF 0 = (0x7FFF8000, tI16) := by
  decide +kernel
/-- 09_isa R216 to R219. -/
theorem test_logic : rr .andn 0xFF00FF00 0x0F0F0F0F = (0xF000F000, tRAW) ∧ ri .xorImm 0xFFFFFFFF 0x3FF = (0xFFFFFC00, tRAW) ∧ ri .andImm 0xFFFFFFFF 0x3FF = (0x3FF, tRAW) := by
  decide +kernel
theorem test_shifts : rr .shl 1 31 = (0x80000000, tRAW) ∧ rr .shl 1 32 = (0, tRAW) ∧ rr .shrI 0x80000000 40 = (0xFFFFFFFF, tRAW) ∧ rr .shrN 0x80000000 31 = (1, tRAW) ∧ ri .shlImm 1 0x3FF = (0, tRAW) := by
  decide +kernel
theorem test_fields : rx .bfxN 0 0xABCD1234 0x0808 0 = (0x12, tRAW) ∧ rx .bfxI 0 0x0000F000 0x040C 0 = (0xFFFFFFFF, tRAW) ∧ rx .bfi 0x00140000 0xFFFFFFFF 0 0x0808 = (0xFFFF00FF, tRAW) := by
  decide +kernel
theorem test_counts : r1 .popc 0xF0F00001 = (9, tRAW) ∧ r1 .clz 0 = (32, tRAW) ∧ r1 .clz 1 = (31, tRAW) ∧ r1 .brev 1 = (0x80000000, tRAW) := by
  decide +kernel
/-- 09_isa R220: a 64-bit base and a sign-extended index times 8. -/
theorem test_lea : (let t := run (.lea (xc 11)) (sel0 (regs [(4, 0), (5, 1), (12, 0xFFFFFFFF)]) id)
    (vr t 8, vr t 9)) = ((0xFFFFFFF8, tN32), (0, tN32)) := by
  decide +kernel
/-- 09_isa R222 to R226. -/
theorem test_select_move : vr (run (.movImm { d := 8, a := 0, imm := 0x200 }) s0) 8 = (0xFFFFFE00, tRAW) ∧ vr (run (.movLit { d := 8, a := 0, f7 := 3, g := 7, lit := 0x3FC00000 }) s0) 8 = (0x3FC00000, 3) ∧
    ur (run (.movLit { d := 8, a := 0, f7 := 0x40, g := 7, lit := 9 }) s0) 8 = 9 ∧ rx .sel 0x000C0000 1 2 0 = (2, tRAW) := by
  decide +kernel
theorem test_compare : (lane1 (run (.setpI (xp 2)) (sel0 (regs [(4, 0xFFFFFFFF), (12, 1)]) id))).p = 0b100 ∧ (lane1 (run (.setpN (xp 2)) (sel0 (regs [(4, 0xFFFFFFFF), (12, 1)]) id))).p = 0 ∧
    (lane1 (run (.setpF (xp 6)) (sel0 (regs [(4, 0x7FC00000)]) id))).p = 0 ∧ (lane1 (run (.setpF (xp 7)) (sel0 (regs [(4, 0x7FC00000)]) id))).p = 0b100 := by
  decide +kernel
theorem test_vote : ur (run (.vote (kx 0 4 2 2)) (sel0 (lane0 (fun t => { t with p := 4 })) id)) 4 = 1 ∧ ur (run (.vote (kx 0 4 12 4)) (sel0 (regs [(12, 77)]) id)) 4 = 77 := by
  decide +kernel
/-- 09_isa R227 to R233, in IEEE 754 encodings. -/
theorem test_single : rr .addF 0x3F800000 0x40000000 = (0x40400000, tF32) ∧ rr .divF 0x3F800000 0x40400000 = (0x3EAAAAAB, tF32) ∧ rr .minF 0x80000000 0 = (0x80000000, tF32) ∧
    rr .subF 0x3F800000 0x3F800000 = (0, tF32) ∧ r1 .negF 0x3F800000 = (0xBF800000, tF32) := by
  decide +kernel
theorem test_single_flags : ((group1 (run (.divF r0) (sel0 (regs [(4, 0x3F800000)]) id))).fmode != 0) = true ∧ rr .divF 0x3F800000 0 = (0x7F800000, tF32) ∧ rr .mulF 0 0x7F800000 = (0x7FC00000, tF32) ∧
    rx .fmaF 0x00140000 0x3F800001 0x3F800001 0xBF800002 = (0x28800000, tF32) := by
  decide +kernel
theorem test_packed_float : rr .addF16x2 0x3C003C00 0x40003C00 = (0x42004000, tF16) ∧ rr .mulBf16x2 0x40003F80 0x40004000 = (0x40804000, tBF16) := by
  decide +kernel
theorem test_double : (let t := run (.addF64 r0) (sel0 (regs [(5, 0x3FF00000), (13, 0x40000000)]) id)
    (vr t 8, vr t 9)) = ((0, tF64L), (0x40080000, tF64H)) := by
  decide +kernel
theorem test_rounded_functions : r1 .rcpF 0x40000000 = (0x3F000000, tF32) ∧ r1 .sqrtF 0x40000000 = (0x3FB504F3, tF32) ∧ r1 .rsqrtF 0x40800000 = (0x3F000000, tF32) := by
  decide +kernel
theorem test_exponential : r1 .exp2F 0x40400000 = (0x41000000, tF32) ∧ r1 .log2F 0x41000000 = (0x40400000, tF32) ∧ r1 .exp2F 0x3F000000 = (0x3FB504F3, tF32) := by
  decide +kernel
theorem test_rint : vr (run (.rintF (x0 0)) (sel0 (regs [(4, 0x40200000)]) id)) 8 = (0x40000000, tF32) := by
  decide +kernel
/-- The worked conversion of R242: v12, the flags OF and NX, and the dither phase. -/
theorem test_worked_conversion :
    (let t := run (.cvt { d := 12, a := 8, b := 0, g := 7, c := 0xA001802A }) (sel0 (regs [(8, 0x3E99999A), (9, 0x43960000), (10, 0x80000000), (11, 0x3F800000)]) id)
     (vr t 12, (group1 t).phase)) = ((0x40008032, 0xC0), 1) ∧
    vr (run (.cvt { d := 12, a := 8, b := 0, g := 7, c := 0xB001802A }) (sel0 (regs [(8, 0x3E99999A), (9, 0x43960000), (10, 0x80000000), (11, 0x3F800000)]) id)) 12 = (0x40007F32, 0xC0) := by
  decide +kernel
/-- 06_numbers R156: −0.3 and −5 to an unsigned integer. -/
theorem test_convert_integer : vr (run (.cvt (x0 0x21)) (sel0 (regs [(4, 0xBE99999A)]) id)) 8 = (0, tN32) ∧ vr (run (.cvt (x0 0x21)) (sel0 (regs [(4, 0xC0A00000)]) id)) 8 = (0, tN32) ∧
    vr (run (.cvt (x0 0x20)) (sel0 (regs [(4, 0xC0A00000)]) id)) 8 = (0xFFFFFFFB, tI32) := by
  decide +kernel
/-- Scratchpad: a store, a load of what stands there, an atomic add and its new value (10_isa R247, R248, R253). -/
theorem test_scratchpad : (((run (.sts (xc 0x08000000)) (sel0 (fun w => uni4 [256] (regs [(8, 0x01020304)] w)) id)).x.wgs[0]?).map (fun w => w.scratch.bytes 256 4)) = some [4, 3, 2, 1] ∧
    ((run (.lds (xc 0x00080000)) (sel0 (fun w => { uni4 [256] w with scratch := [(256, 0x80)] }) id)).x.accs.map (fun a => a.res.map (fun r => r.val))) = [[0x80]] ∧
    (((run (.atoms (xc 0x08040000)) (sel0 (fun w => { uni4 [256] (regs [(8, 3)] w) with scratch := [(256, 4)] }) id)).x.wgs[0]?).map (fun w => w.scratch.num 256 4)) = some 7 := by
  decide +kernel
/-- LOAD_REPLY: the bytes 78 56 34 12 of a line in F32 (10_isa R246, R247). -/
theorem test_load_reply : vr (run (.loadReply 7) loads) 8 = (0x12345678, 3) := by
  decide +kernel
/-- Control: a backward branch, the link of a call, a trap's registers and handler (10_isa R263, R264, 19_traps R406). -/
theorem test_control : (lane1 (run (.bra { g := 7, off := 0x1FFFFF }) s0)).pc = 0 ∧ (lane1 (run (.call { g := 7, off := 3 }) s0)).link = 8 ∧
    (let g := group1 (run (.trap { d := 0, a := 0, imm := 5 }) s0)
     (g.handler, g.ecause, (g.lane 0).pc, (g.lane 0).epc)) = (true, 0x0005A805, 0x10000, 4) := by
  decide +kernel
theorem test_masks : (group1 (run (.mjoin (kx 1 0 0 0)) s0)).m[1]? = some 1 ∧ (group1 (run (.mleave (kx 0 0 0 0)) s0)).m[0]? = some 0 ∧ ur (run (.mrd (kx 0 4 0 0)) s0) 4 = 1 := by
  decide +kernel
/-- A barrier whose only thread arrives delivers the sum at once (02_execution R44, R45). -/
theorem test_barrier : vr (run (.barSync (kx 1 4 8 2)) (sel0 (regs [(4, 41)]) id)) 8 = (41, tI32) := by
  decide +kernel
theorem test_special_registers : vr (run (.sregRd (kx 0 4 2 0)) s0) 4 = (0, tN32) ∧ ur (run (.sregRd (kx 0 4 5 1)) s0) 4 = 1 ∧ (group1 (run (.sregWr (kx 0 4 16 1)) (sel0 (uni4 [0xFFFFFFFF]) id))).fmode = 0x1F1F := by
  decide +kernel
theorem test_accumulators : ur (run (.accAlloc (kx 1 2 8 0)) s0) 8 = 0 ∧ ur (run (.accAlloc (kx 1 2 8 0)) (sel0 handle id)) 8 = 2 ∧ ur (run (.accAlloc (kx 1 2 8 0)) (sel0 id full)) 8 = 1 := by
  decide +kernel
/-- Checks: a register out of range traps ILLEGAL (REG_RANGE), and nothing is written (08_encoding R189, R195). -/
theorem test_check : (let t := run (.addI r0) (sel0 (fun w => { w with regs := 8 }) id)
    ((group1 t).ecause, vr t 8)) = (0x1007, (0, tRAW)) := by
  decide +kernel

/-- A first touch of a page with a frame in the pool, a write to a replicated page, a collapse, and a page of 4 KiB at
0x200000. -/
def touches : State :=
  let s := walks 0x1000 0x1000
  { s with mem := s.mem.putNum 0x4000 8 0x280, fab := { s.fab with dies := [(0, { fpq2 := 0x8004, fpq2Tail := 1 })] } }
def replicated : State :=
  let s := walks 0x1000 0x1000
  { s with
    mem := s.mem.putNum 0x4000 8 0x200C85
    x := { s.x.setCore 0 0 { s.x.core 0 0 with tlb := [{ asid := 0, vpn := 0, size := 21, pte := 0x200C85 }] } with accs := [acc1 (.st (xc 0x08000000)) .store { lane := 0, va := 0x1000 }] } }
def collapses : State :=
  { replicated with x := { replicated.x with accs := [] }, tue := { collapse := [{ asid := 0, va := 0, home := 0, acc := 7 }] } }
def small (c : Nat) : State :=
  let s := commands c
  { s with mem := (s.mem.putNum 0x4000 8 0x5001).putNum 0x5000 8 0x200085, sch := { s.sch with ctxs := [(0, { live := true, rootTab := [0x1000] })] } }

theorem test_wit_binds :
    (let s := touches
     (s.x.acc? s.sel).any (fun a => s.walkLane a tw == some (0, .walk 0x1000) && match s.walk 0 0 0x1000 with
       | .bind size x => let p := (s.die (s.bindDie 0 0x1000 x)).pool size
         size == 21 && s.working (s.bindDie 0 0x1000 x) && p.2.1 == 4 && p.2.2.1 == 0 && p.2.2.2 == 1
       | _ => false)) = true ∧
    ((replicated.x.acc? replicated.sel).any (fun a => replicated.walkLane a tw == some (0, .collapse 0x1000)) && replicated.tue.collapse.isEmpty) = true ∧
    (collapses.collapsePage 0 0 21).isSome = true ∧
    (let s := touches
     let s := { s with fab := { s.fab with dies := [(0, { fpq2 := 0x8004, fpq2Tail := 0 })] } }
     (s.x.acc? s.sel).any (fun a => s.walkLane a tw == some (0, .walk 0x1000) && match s.walk 0 0 0x1000 with
       | .bind size x => (s.bindPage 0 0 0x1000 size x).isNone
       | _ => false)) = true ∧
    [0x0000_0000_0000_0000_0000_0001_0000_0004, 0x0040_0085_0000_0000_0000_0000_0000_0001_0000_0003].all (fun c =>
      let s := small c
      !tcReserved (BitVec.ofNat 256 (s.freshNum 0x300000 32)) && s.tueFrame 0 0 == some 0x200000 && s.fab.dies.isEmpty && s.fab.slices.isEmpty && s.paExists 0x400000 &&
        (pageOn 0x200000 ++ pageOn 0x400000).all (fun l => !s.isLost (s.homeKey l) l && !s.lineMoves l && !s.lineBusy l) && s.homeDie 0x4000 == .die 0 && s.working 0 &&
        ({ s with fab := { s.fab with net := [{ id := 0, src := .die 1, dst := .die 0, line := 0x4000, k := .getS }] } }).lineMoves 0x4000) = true := by
  decide +kernel

/-- A base-die request that sums one word of its stack into another. -/
def sums : State := mapped (asks (.bdeReduce (kx 0 0 0 0)) [0, 0, 64, 0, 0, 1, 4, 0] (some 1) none [])

theorem test_wit_bde :
    asked sums (fun q w => q.tok == some 1 && sums.x.reqs.length == 1 && match ({ sums with x := sums.x.setReq { q with done := 1 } }).reqRanges { q with done := 1 } w (reduceRanges q.ops) with
      | .ok s1 => let o := s1.reduceOut q w (kx 0 0 0 0)
          oneHome (s1.homesOf w.die w.asid (reduceRanges q.ops)).2 && (s1.reqBlocked { q with done := 1 } (o.2.flatMap (s1.mapRange w))).isNone && o.1 != [] &&
          s1.lineWrs w (opP q.ops 2) ((List.range ((o.1.length + 3) / 4)).flatMap (fun j => (o.1.drop (4 * j)).take 4)) != []
      | .error _ => false) = true := by
  decide +kernel

/-- A driver fault ring whose oldest record is of age T. -/
def aged : State :=
  let s := ringed (some 0)
  { s with sch := { s.sch with fltCtl := 4 + 2 ^ 32 + 2 ^ 48 } }

theorem test_wit_ages :
    (aged.ringV aged.sel).any (fun v => v.oldest == some 0 && v.t == 1 && Nat.ble 1000 aged.time) = true := by
  decide +kernel

/-- KIND of a flit with any CRC field, and a flit of a reserved KIND, which no receiver takes (17_coherence R392). -/
theorem test_flit_kind (x : BitVec 32) (p : BitVec 1984) (h : BitVec 32) : flitKind (x ++ (p ++ h)) = flitKind (h.setWidth 2048) := by
  show bits _ 30 2 = bits _ 30 2
  have e : ∀ w : BitVec 2048, bits w 30 2 = (w.extractLsb' 30 2).toNat := fun w => by simp [bits]
  rw [e, e]
  congr 1
  apply BitVec.eq_of_getLsbD_eq
  intro i hi
  simp only [BitVec.getLsbD_extractLsb', BitVec.getLsbD_append, BitVec.getLsbD_setWidth]
  have h1 : 30 + i < 2016 := by omega
  have h2 : 30 + i < 32 := by omega
  have h3 : 30 + i < 2048 := by omega
  simp [h1, h2, h3, hi]
theorem test_wit_flit : flitOk (sealFlit (BitVec.ofNat 2048 (2 ^ 31)) 0 false 0) 0 = false := by
  have k : flitKind (sealFlit (BitVec.ofNat 2048 (2 ^ 31)) 0 false 0) = 2 := by
    unfold sealFlit
    rw [test_flit_kind]
    decide +kernel
  unfold flitOk
  rw [k]
  simp

/-- An image with no record but END, and a saved workgroup that waits for a core. -/
def savedBytes : List Byte :=
  natLe 4 0x4E524946 ++ natLe 2 1 ++ natLe 2 1 ++ natLe 8 80 ++ natLe 16 0 ++ natLe 4 0 ++ natLe 4 1 ++ List.replicate 24 0 ++ [8, 0, 0, 0, 16] ++ List.replicate 11 0
def drained : State :=
  { dev0 with mem := dev0.mem.putBytes 0x300000 savedBytes, sch := { dev0.sch with imgPages := 1, imgBase := 0x300000, images := [(savedBytes, { launches := [{ launch 0 with pass := none }] })] } }
def resumes : State :=
  { dev0 with sch := { dev0.sch with cmd := some { cmd := 4, asid := 0, due := 0 }, resuming := [(0, { wgs := [{ tw with meshl := false }] })] } }

theorem test_wit_resume :
    (drained.pkg.ready && drained.sch.cmd.isNone && drained.paExists drained.imgPa && drained.imageRead == some savedBytes &&
      (drained.imageFor savedBytes).wgs.isEmpty && (drained.imageFor savedBytes).launches.all (fun l => !pkMeshl l.pkt && l.pass.isNone)) = true ∧
    (resumes.sch.resuming.length == 1 && resumes.x.wgs.isEmpty && resumes.x.reqs.isEmpty && !(resumes.resumeCores { wgs := [{ tw with meshl := false }] }).isEmpty) = true := by
  decide +kernel

/-- A partition kept for a request takes its granules, until the request's completion (19_traps R419). -/
theorem test_kept :
    fitsCore [] [(5, 0, 512)] 1 16 16 = none ∧ fitsCore [] [(5, 0, 16)] 1 16 16 = some 16 ∧
    ((run (.copyComplete 5 0) (withX (fun x => x.setCore 0 3 { kept := [(5, 0, 512), (6, 0, 1)] }))).x.core 0 3).kept = [(6, 0, 1)] := by
  decide +kernel

end Sys2Proof.Tests
end

namespace Sys2Proof.Machine

/-! ### The canonical form of the memories along a step (O56) -/

/-- The instructions and hardware steps that may change a byte of the pod's memory or of the host's memory: the seven
instructions that put a record into a ring or bind a page, and the events of the homes, the engines and the package. -/
def mayWriteMemory : Instr → Bool
  | .drainPerform .. | .copyComplete .. | .bdeRequestComplete .. | .ampQueueDequeue .. | .overflowRingRefill ..
  | .rasterisePrimitive .. | .depthTest .. | .occContribution .. | .graphRecordRun .. | .waitListResolve ..
  | .recPushParkRelease .. | .stealAttempt .. | .stealRequest .. | .stealRetryExpiry .. | .graphLaunchComplete ..
  | .packetFetch .. | .workgroupPlacement .. | .launchComplete .. | .registerWrite .. | .lineReclaim .. | .biasFlip ..
  | .biasFlipComplete .. | .attestationReport .. | .resume .. | .rimeEntryExpiry .. | .birsp .. | .hostMemrd ..
  | .dieMapChange .. | .powerOn .. | .islandGate .. | .taskAmp .. | .occBegin .. | .recPush .. | .recPop ..
  | .bdeGather .. | .bdeReduce .. | .bdeCvt .. | .hostCacheCompletion .. | .linkTrainingEnd .. | .packetArrival
  | .occCellUpdate | .eventRecordWrite | .write | .migrate | .flush | .tueReservedCommand | .tueDone | .drainComplete
  | .freezeImageWrite | .resumePlacement | .firstTouchBind | .replCollapseComplete | .gets | .getm | .upg | .putm
  | .puto | .pute | .mod | .wrthru | .atomMsg | .sub | .unsub | .backinvack | .pushack | .powerRemoved => true
  | _ => false

/-- Every other instruction and hardware step leaves both memories as they are. -/
theorem exec_mh {i : Instr} {s t : State} (hi : mayWriteMemory i = false) (h : exec i s = .next t) : t.mh = s.mh := by
  cases i with
  | issueClock _ _ _ => exact execIssueClock_mh h
  | loadReply _ => exact execLoadReply_mh h
  | storeReachesL1 _ _ => exact execStoreReachesL1_mh h
  | superstepBarrierComplete _ => exact execSuperstepBarrierComplete_mh h
  | signedOperationEnqueue _ _ => exact execSignedOperationEnqueue_mh h
  | tileStep _ _ => exact execTileStep_mh h
  | bankZeroed _ _ _ => exact execBankZeroed_mh h
  | nbrWritePerformed _ => exact execNbrWritePerformed_mh h
  | workgroupComplete _ => exact execWorkgroupComplete_mh h
  | resourceRelease _ => exact execResourceRelease_mh h
  | frontierSend _ _ _ => exact execFrontierSend_mh h
  | frontierHoldExpiry _ _ _ => exact execFrontierHoldExpiry_mh h
  | queueDoorbell _ _ => exact execQueueDoorbell_mh h
  | queueEnable _ => exact execQueueEnable_mh h
  | queueDisable _ => exact execQueueDisable_mh h
  | contextRegister _ => exact execContextRegister_mh h
  | contextUnregister _ => exact execContextUnregister_mh h
  | eventReadPointer _ _ => exact execEventReadPointer_mh h
  | rimeEnable _ _ => exact execRimeEnable_mh h
  | rimeRearm _ => exact execRimeRearm_mh h
  | rtWaysChange _ _ => exact execRtWaysChange_mh h
  | rtCarve _ => exact execRtCarve_mh h
  | tueDoorbell _ => exact execTueDoorbell_mh h
  | tueCtlWrite _ => exact execTueCtlWrite_mh h
  | lostCntRead _ => exact execLostCntRead_mh h
  | firmwareUpdate _ => exact execFirmwareUpdate_mh h
  | drain _ => exact execDrain_mh h
  | freeze _ => exact execFreeze_mh h
  | kill _ => exact execKill_mh h
  | replay _ => exact execReplay_mh h
  | deliver _ => exact execDeliver_mh h
  | faultKill _ => exact execFaultKill_mh h
  | islVminRead _ => exact execIslVminRead_mh h
  | retryReissue _ _ => exact execRetryReissue_mh h
  | hostMemwr _ _ _ => exact execHostMemwr_mh h
  | flitReceive _ => exact execFlitReceive_mh h
  | nakReceive _ => exact execNakReceive_mh h
  | nakRepeatExpiry _ => exact execNakRepeatExpiry_mh h
  | boraGrant _ _ => exact execBoraGrant_mh h
  | islandPowerOn _ => exact execIslandPowerOn_mh h
  | phaseFailure _ => exact execPhaseFailure_mh h
  | pseudoChannelFailure _ _ => exact execPseudoChannelFailure_mh h
  | uncorrectableError _ _ => exact execUncorrectableError_mh h
  | addI _ => exact execAddI_mh h
  | addIImm _ => exact execAddIImm_mh h
  | subI _ => exact execSubI_mh h
  | addcN _ => exact execAddcN_mh h
  | subbN _ => exact execSubbN_mh h
  | mulI _ => exact execMulI_mh h
  | mulhiI _ => exact execMulhiI_mh h
  | mulhiN _ => exact execMulhiN_mh h
  | madI _ => exact execMadI_mh h
  | divI _ => exact execDivI_mh h
  | divN _ => exact execDivN_mh h
  | remI _ => exact execRemI_mh h
  | remN _ => exact execRemN_mh h
  | minI _ => exact execMinI_mh h
  | maxI _ => exact execMaxI_mh h
  | minN _ => exact execMinN_mh h
  | maxN _ => exact execMaxN_mh h
  | absI _ => exact execAbsI_mh h
  | addI16x2 _ => exact execAddI16x2_mh h
  | subI16x2 _ => exact execSubI16x2_mh h
  | addN16x2 _ => exact execAddN16x2_mh h
  | subN16x2 _ => exact execSubN16x2_mh h
  | addI8x4 _ => exact execAddI8x4_mh h
  | subI8x4 _ => exact execSubI8x4_mh h
  | addN8x4 _ => exact execAddN8x4_mh h
  | subN8x4 _ => exact execSubN8x4_mh h
  | and _ => exact execAnd_mh h
  | or _ => exact execOr_mh h
  | xor _ => exact execXor_mh h
  | andn _ => exact execAndn_mh h
  | andImm _ => exact execAndImm_mh h
  | orImm _ => exact execOrImm_mh h
  | xorImm _ => exact execXorImm_mh h
  | shl _ => exact execShl_mh h
  | shrN _ => exact execShrN_mh h
  | shrI _ => exact execShrI_mh h
  | shlImm _ => exact execShlImm_mh h
  | shrNImm _ => exact execShrNImm_mh h
  | shrIImm _ => exact execShrIImm_mh h
  | bfxN _ => exact execBfxN_mh h
  | bfxI _ => exact execBfxI_mh h
  | bfi _ => exact execBfi_mh h
  | popc _ => exact execPopc_mh h
  | clz _ => exact execClz_mh h
  | brev _ => exact execBrev_mh h
  | lea _ => exact execLea_mh h
  | setpI _ => exact execSetpI_mh h
  | setpN _ => exact execSetpN_mh h
  | sel _ => exact execSel_mh h
  | mov _ => exact execMov_mh h
  | movImm _ => exact execMovImm_mh h
  | movLit _ => exact execMovLit_mh h
  | shfl _ => exact execShfl_mh h
  | vote _ => exact execVote_mh h
  | xint _ => exact execXint_mh h
  | addF _ => exact execAddF_mh h
  | subF _ => exact execSubF_mh h
  | mulF _ => exact execMulF_mh h
  | fmaF _ => exact execFmaF_mh h
  | minF _ => exact execMinF_mh h
  | maxF _ => exact execMaxF_mh h
  | absF _ => exact execAbsF_mh h
  | negF _ => exact execNegF_mh h
  | divF _ => exact execDivF_mh h
  | setpF _ => exact execSetpF_mh h
  | addF16x2 _ => exact execAddF16x2_mh h
  | mulF16x2 _ => exact execMulF16x2_mh h
  | fmaF16x2 _ => exact execFmaF16x2_mh h
  | minF16x2 _ => exact execMinF16x2_mh h
  | maxF16x2 _ => exact execMaxF16x2_mh h
  | setpF16x2 _ => exact execSetpF16x2_mh h
  | addBf16x2 _ => exact execAddBf16x2_mh h
  | mulBf16x2 _ => exact execMulBf16x2_mh h
  | fmaBf16x2 _ => exact execFmaBf16x2_mh h
  | minBf16x2 _ => exact execMinBf16x2_mh h
  | maxBf16x2 _ => exact execMaxBf16x2_mh h
  | setpBf16x2 _ => exact execSetpBf16x2_mh h
  | addF64 _ => exact execAddF64_mh h
  | subF64 _ => exact execSubF64_mh h
  | mulF64 _ => exact execMulF64_mh h
  | fmaF64 _ => exact execFmaF64_mh h
  | minF64 _ => exact execMinF64_mh h
  | maxF64 _ => exact execMaxF64_mh h
  | divF64 _ => exact execDivF64_mh h
  | setpF64 _ => exact execSetpF64_mh h
  | rcpF _ => exact execRcpF_mh h
  | sqrtF _ => exact execSqrtF_mh h
  | rsqrtF _ => exact execRsqrtF_mh h
  | exp2F _ => exact execExp2F_mh h
  | log2F _ => exact execLog2F_mh h
  | rcpF64 _ => exact execRcpF64_mh h
  | sqrtF64 _ => exact execSqrtF64_mh h
  | rintF _ => exact execRintF_mh h
  | rintF64 _ => exact execRintF64_mh h
  | crel _ => exact execCrel_mh h
  | dot4 _ => exact execDot4_mh h
  | cvt _ => exact execCvt_mh h
  | xflt _ => exact execXflt_mh h
  | ld _ => exact execLd_mh h
  | ldw _ => exact execLdw_mh h
  | st _ => exact execSt_mh h
  | stw _ => exact execStw_mh h
  | lds _ => exact execLds_mh h
  | sts _ => exact execSts_mh h
  | atom _ => exact execAtom_mh h
  | red _ => exact execRed_mh h
  | cas _ => exact execCas_mh h
  | atoms _ => exact execAtoms_mh h
  | standSub _ => exact execStandSub_mh h
  | standRead _ => exact execStandRead_mh h
  | standSeq _ => exact execStandSeq_mh h
  | standWait _ => exact execStandWait_mh h
  | standDrop _ => exact execStandDrop_mh h
  | copy _ => exact execCopy_mh h
  | fence _ => exact execFence_mh h
  | bra _ => exact execBra_mh h
  | call _ => exact execCall_mh h
  | brx _ => exact execBrx_mh h
  | ret _ => exact execRet_mh h
  | exit _ => exact execExit_mh h
  | mjoin _ => exact execMjoin_mh h
  | mleave _ => exact execMleave_mh h
  | mwait _ => exact execMwait_mh h
  | mrd _ => exact execMrd_mh h
  | barArrive _ => exact execBarArrive_mh h
  | barSync _ => exact execBarSync_mh h
  | barWait _ => exact execBarWait_mh h
  | signDecl _ => exact execSignDecl_mh h
  | wait _ => exact execWait_mh h
  | condArm _ => exact execCondArm_mh h
  | condSet _ => exact execCondSet_mh h
  | tileSet _ => exact execTileSet_mh h
  | accAlloc _ => exact execAccAlloc_mh h
  | accFree _ => exact execAccFree_mh h
  | accBand _ => exact execAccBand_mh h
  | accRead _ => exact execAccRead_mh h
  | accDrain _ => exact execAccDrain_mh h
  | mma _ => exact execMma_mh h
  | mmaSpec _ => exact execMmaSpec_mh h
  | mmaIdx _ => exact execMmaIdx_mh h
  | primEmit _ => exact execPrimEmit_mh h
  | visMin _ => exact execVisMin_mh h
  | occEnd _ => exact execOccEnd_mh h
  | pxDiscard _ => exact execPxDiscard_mh h
  | pxDepth _ => exact execPxDepth_mh h
  | tstBox _ => exact execTstBox_mh h
  | tstTri _ => exact execTstTri_mh h
  | stkPush _ => exact execStkPush_mh h
  | stkPop _ => exact execStkPop_mh h
  | sstep _ => exact execSstep_mh h
  | nbrSend _ => exact execNbrSend_mh h
  | nbrReduce _ => exact execNbrReduce_mh h
  | sregRd _ => exact execSregRd_mh h
  | sregWr _ => exact execSregWr_mh h
  | trap _ => exact execTrap_mh h
  | sys _ => exact execSys_mh h
  | eret _ => exact execEret_mh h
  | brk _ => exact execBrk_mh h
  | nop _ => exact execNop_mh h
  | railVoltageMinimum _ _ => exact execRailVoltageMinimum_mh h
  | frontierArrival => exact execFrontierArrival_mh h
  | schedulingRound => exact execSchedulingRound_mh h
  | interruptTimeExpiry => exact execInterruptTimeExpiry_mh h
  | shoot => exact execShoot_mh h
  | drainDeadlineExpiry => exact execDrainDeadlineExpiry_mh h
  | freezeDeadlineExpiry => exact execFreezeDeadlineExpiry_mh h
  | pageWalk => exact execPageWalk_mh h
  | replCollapse => exact execReplCollapse_mh h
  | fwdGets => exact execFwdGets_mh h
  | fwdGetm => exact execFwdGetm_mh h
  | inv => exact execInv_mh h
  | backinv => exact execBackinv_mh h
  | data => exact execData_mh h
  | invack => exact execInvack_mh h
  | putack => exact execPutack_mh h
  | wtack => exact execWtack_mh h
  | atomrsp => exact execAtomrsp_mh h
  | retry => exact execRetry_mh h
  | nackwt => exact execNackwt_mh h
  | nacklost => exact execNacklost_mh h
  | push => exact execPush_mh h
  | unsuback => exact execUnsuback_mh h
  | subrsp => exact execSubrsp_mh h
  | pushlost => exact execPushlost_mh h
  | _ => cases hi

/-- Those that may write memory keep its canonical form. -/
theorem exec_mhOk_of_mayWriteMemory {i : Instr} {s t : State} (hi : mayWriteMemory i = true) (hs : MhOk s.mh)
    (h : exec i s = .next t) : MhOk t.mh := by
  cases i with
  | drainPerform _ => exact execDrainPerform_ok hs h
  | copyComplete _ _ => exact execCopyComplete_ok hs h
  | bdeRequestComplete _ => exact execBdeRequestComplete_ok hs h
  | ampQueueDequeue _ => exact execAmpQueueDequeue_ok hs h
  | overflowRingRefill _ => exact execOverflowRingRefill_ok hs h
  | rasterisePrimitive _ _ => exact execRasterisePrimitive_ok hs h
  | depthTest _ _ _ => exact execDepthTest_ok hs h
  | occContribution _ _ _ => exact execOccContribution_ok hs h
  | graphRecordRun _ _ _ => exact execGraphRecordRun_ok hs h
  | waitListResolve _ _ => exact execWaitListResolve_ok hs h
  | recPushParkRelease _ _ => exact execRecPushParkRelease_ok hs h
  | stealAttempt _ _ _ => exact execStealAttempt_ok hs h
  | stealRequest _ _ _ => exact execStealRequest_ok hs h
  | stealRetryExpiry _ _ _ => exact execStealRetryExpiry_ok hs h
  | graphLaunchComplete _ => exact execGraphLaunchComplete_ok hs h
  | packetFetch _ => exact execPacketFetch_ok hs h
  | workgroupPlacement _ => exact execWorkgroupPlacement_ok hs h
  | launchComplete _ => exact execLaunchComplete_ok hs h
  | registerWrite _ _ => exact execRegisterWrite_ok hs h
  | lineReclaim _ _ => exact execLineReclaim_ok hs h
  | biasFlip _ _ => exact execBiasFlip_ok hs h
  | biasFlipComplete _ => exact execBiasFlipComplete_ok hs h
  | attestationReport _ => exact execAttestationReport_ok hs h
  | resume _ => exact execResume_ok hs h
  | rimeEntryExpiry _ _ => exact execRimeEntryExpiry_ok hs h
  | birsp _ _ _ => exact execBirsp_ok hs h
  | hostMemrd _ => exact execHostMemrd_ok hs h
  | dieMapChange _ _ => exact execDieMapChange_ok hs h
  | powerOn _ _ _ => exact execPowerOn_ok hs h
  | islandGate _ => exact execIslandGate_ok hs h
  | taskAmp _ => exact execTaskAmp_ok hs h
  | occBegin _ => exact execOccBegin_ok hs h
  | recPush _ => exact execRecPush_ok hs h
  | recPop _ => exact execRecPop_ok hs h
  | bdeGather _ => exact execBdeGather_ok hs h
  | bdeReduce _ => exact execBdeReduce_ok hs h
  | bdeCvt _ => exact execBdeCvt_ok hs h
  | hostCacheCompletion _ _ => exact execHostCacheCompletion_ok hs h
  | linkTrainingEnd _ _ => exact execLinkTrainingEnd_ok hs h
  | packetArrival => exact execPacketArrival_ok hs h
  | occCellUpdate => exact execOccCellUpdate_ok hs h
  | eventRecordWrite => exact execEventRecordWrite_ok hs h
  | write => exact execWrite_ok hs h
  | migrate => exact execMigrate_ok hs h
  | flush => exact execFlush_ok hs h
  | tueReservedCommand => exact execTueReservedCommand_ok hs h
  | tueDone => exact execTueDone_ok hs h
  | drainComplete => exact execDrainComplete_ok hs h
  | freezeImageWrite => exact execFreezeImageWrite_ok hs h
  | resumePlacement => exact execResumePlacement_ok hs h
  | firstTouchBind => exact execFirstTouchBind_ok hs h
  | replCollapseComplete => exact execReplCollapseComplete_ok hs h
  | gets => exact execGets_ok hs h
  | getm => exact execGetm_ok hs h
  | upg => exact execUpg_ok hs h
  | putm => exact execPutm_ok hs h
  | puto => exact execPuto_ok hs h
  | pute => exact execPute_ok hs h
  | mod => exact execMod_ok hs h
  | wrthru => exact execWrthru_ok hs h
  | atomMsg => exact execAtomMsg_ok hs h
  | sub => exact execSub_ok hs h
  | unsub => exact execUnsub_ok hs h
  | backinvack => exact execBackinvack_ok hs h
  | pushack => exact execPushack_ok hs h
  | powerRemoved => exact execPowerRemoved_ok hs h
  | _ => cases hi

theorem exec_mhOk {i : Instr} {s t : State} (hs : MhOk s.mh) (h : exec i s = .next t) : MhOk t.mh := by
  cases hi : mayWriteMemory i with
  | false => exact mhOk_of (exec_mh hi h) hs
  | true => exact exec_mhOk_of_mayWriteMemory hi hs h

/-- The state in which fetching and checking a slot leaves the machine. -/
def Ran.state : Ran → State
  | .done s => s
  | .run _ s => s

/-- Fetching, checking and a trap of the checks write neither memory (19_traps R404). -/
theorem State.runSlot_mh (s : State) (sl : Slot) : (s.runSlot sl).state.mh = s.mh := by
  unfold State.runSlot
  split
  · rfl
  · split
    · rfl
    · dsimp only
      split
      · rfl
      · split
        · rfl
        · exact State.trapAt_mh _ _ _ _ _ _ _ _ _
        · rfl

/-- What a step can do, for the memories: it ends before an instruction runs and leaves them as they are, or it runs one
instruction or event from a state with the same memories. -/
theorem step_cases {s t : State} (h : step s = .next t) :
    t.mh = s.mh ∨ ∃ i u, u.mh = s.mh ∧ exec i u = .next t := by
  unfold step at h
  split at h
  · rename_i sl rest _
    have hr := State.runSlot_mh { s with slots := rest } sl
    split at h
    · rename_i u hu
      cases h
      rw [hu] at hr
      exact .inl hr
    · rename_i i u hu
      rw [hu] at hr
      exact .inr ⟨i, u, hr, h⟩
  · split at h
    · rename_i e rest _
      exact .inr ⟨e.2, { s with agenda := rest, sel := e.1 }, rfl, h⟩
    · exact .inr ⟨s.nextEvent.2, { s with x := { s.x with free := s.x.free + 1 }, sel := s.nextEvent.1 }, rfl, h⟩

/-- Settles O56: a step writes memory only through the one instruction or event that it runs, and each of these keeps the
canonical form. -/
theorem invariantKept : Obligations.InvariantKept := by
  intro s t hs h
  rw [State.inv_iff] at hs ⊢
  obtain heq | ⟨i, u, hu, hx⟩ := step_cases h
  · exact mhOk_of heq hs
  · exact exec_mhOk (mhOk_of hu hs) hx

end Sys2Proof.Machine

namespace Sys2Proof.Machine

/-! ### What a selected slot runs (O54) -/

theorem opcode_lt (w : Word) : opcode w < 256 := Nat.mod_lt _ (by decide)

/-- Whether an opcode is assigned does not depend on the second word: a look through the 256 opcodes of R196. -/
theorem instrOfOp_isNone {op : Nat} (h : op < 256) (w v2 w2 : Word) :
    (instrOfOp op w v2).isNone = (instrOfOp op w w2).isNone := by
  interval_cases op <;> rfl

theorem instrOfOp_isNone_of_decode {w1 w2 : Word} {i : Instr} (h : decode w1 w2 = .ok i) (v2 : Word) :
    (instrOfOp (opcode w1) w1 v2).isNone = false := by
  rw [instrOfOp_isNone (opcode_lt w1) w1 v2 w2]
  unfold decode at h
  split at h
  · cases h
  · rename_i j hj
    rw [hj]; rfl

theorem State.freshBytes_slots (s : State) (r : List Slot) (pa n : Nat) :
    ({ s with slots := r } : State).freshBytes pa n = s.freshBytes pa n := by
  induction n generalizing pa with
  | zero => rfl
  | succ n ih => exact congrArg (s.freshByte pa :: ·) (ih (pa + 1))

theorem State.freshNum_slots (s : State) (r : List Slot) (pa n : Nat) :
    ({ s with slots := r } : State).freshNum pa n = s.freshNum pa n :=
  congrArg leNat (s.freshBytes_slots r pa n)

theorem walkLeaf_slots (s : State) (r : List Slot) (asid va size : Nat) (e : DWord) :
    walkLeaf { s with slots := r } asid va size e = walkLeaf s asid va size e := rfl

theorem walkFrom_slots (s : State) (r : List Slot) (asid va level table : Nat) :
    walkFrom { s with slots := r } asid va level table = walkFrom s asid va level table := by
  induction level generalizing table with
  | zero => simp only [walkFrom, State.freshNum_slots, walkLeaf_slots]
  | succ level ih => simp only [walkFrom, State.freshNum_slots, walkLeaf_slots, ih]; rfl

theorem State.walk_slots (s : State) (r : List Slot) (d asid : Nat) (va : DWord) :
    ({ s with slots := r } : State).walk d asid va = s.walk d asid va := by
  unfold State.walk
  simp only [walkFrom_slots]; rfl

theorem State.codeWord_slots (s : State) (r : List Slot) (w : Wg) (pc : DWord) :
    ({ s with slots := r } : State).codeWord w pc = s.codeWord w pc := by
  have hx : (({ s with slots := r } : State).xlate w.die w.core w.asid pc false true).1 =
      (s.xlate w.die w.core w.asid pc false true).1 := by
    unfold State.xlate
    rw [State.walk_slots]
    have hc : ({ s with slots := r } : State).cached w.die w.core w.asid pc = s.cached w.die w.core w.asid pc := rfl
    rw [hc]
    cases canonicalVa pc with
    | false => rfl
    | true =>
      cases s.cached w.die w.core w.asid pc with
      | some e => rfl
      | none =>
        cases s.walk w.die w.asid pc with
        | notMapped => rfl
        | bind size e => rfl
        | ok e =>
          dsimp only
          cases xlateLeaf e pc false true <;> rfl
  unfold State.codeWord
  rw [hx]
  simp only [State.freshNum_slots]

theorem State.parse_slots (s : State) (r : List Slot) (w : Wg) (pc : DWord) (cl : Clause) :
    ({ s with slots := r } : State).parse w pc cl = s.parse w pc cl := by
  simp only [State.parse, State.parseAt, State.codeWord_slots]


/-- The instruction that stands at an address of a clause, as the claim of O54 says it. -/
def State.fitsAt (s : State) (w : Wg) (cl : Clause) (pc : DWord) (i : Instr) : Prop :=
  ∃ w1 w2, s.codeWord w pc = some w1 ∧ decode w1 w2 = .ok i ∧
    (if twoWords (opcode w1) then s.codeWord w (pc + 4) = some w2 ∧ 2 ≤ cl.left else w2 = 0) ∧
    (cl.ec = 7 ∨ eclassOf (opcode w1) = cl.ec)

theorem State.parseAt_of_fitsAt {s : State} {w : Wg} {cl : Clause} {pc : DWord} {i : Instr} (hdr : Option Clause)
    (h : s.fitsAt w cl pc i) : s.parseAt w hdr cl pc = .ok hdr pc i := by
  obtain ⟨w1, w2, hw1, hd, h2, hcl⟩ := h
  have hclass : ¬(cl.ec ≠ 7 ∧ eclassOf (opcode w1) ≠ cl.ec) := by tauto
  simp only [State.parseAt, hw1, instrOfOp_isNone_of_decode hd 0, Bool.false_eq_true, if_false, if_neg hclass]
  cases ht : twoWords (opcode w1) with
  | false =>
    rw [ht, if_neg Bool.false_ne_true] at h2
    simp [← h2, hd]
  | true =>
    rw [ht, if_pos rfl] at h2
    obtain ⟨hw2, hleft⟩ := h2
    simp only [if_true, hw2, hd, Bool.true_and, decide_eq_true_iff, if_neg (Nat.not_lt.2 hleft)]

section
variable {s : State} {sl : Slot} {rest : List Slot} {w : Wg} {g : Group} {l0 : Nat} {r : List Nat}
  (hs : s.slots = sl :: rest) (hw : s.x.wg? sl.wg = some w) (hg : w.grp? sl.grp = some g)
  (hl : (lanesOf sl.lanes).filter (fun l => (g.lane l).st == .live) = l0 :: r)
include hs hw hg hl

/-- A slot at whose PC an instruction stands runs it, with the header of its clause (08_encoding R184). -/
theorem step_of_parse_ok {hdr : Option Clause} {pc : DWord} {i : Instr} (hp : (s.parse w sl.pc (g.lane l0).cl).2 = .ok hdr pc i) :
    step s = exec i { s with slots := rest, x := { s.x with cur := some { sl with hdr := hdr } } } := by
  simp only [step, hs, State.runSlot, hw, hg, hl, State.parse_slots, hp]

/-- A slot at whose PC a word fails a check of 08_encoding R195 takes the trap of that check. -/
theorem step_of_parse_bad {hdr : Option Clause} {pc : DWord} {guard code : Nat}
    (hp : (s.parse w sl.pc (g.lane l0).cl).2 = .bad hdr pc guard code) :
    let gh := g.onLanes (l0 :: r) (fun _ t => t.open_ hdr)
    let ex := (l0 :: r).filter (fun l => (gh.lane l).pred guard)
    step s = .next (({ s with slots := rest } : State).trapAt sl w.id g gh l0 (if ex = [] then l0 :: r else ex) pc
      { cls := 1, code := code }) := by
  simp only [step, hs, State.runSlot, hw, hg, hl, State.parse_slots, hp]

end

/-- Settles O54: what stands at the PC of a slot decides its step, by the reading of a clause (`parseAt_of_fitsAt`); the
other two cases are the definition of the step. -/
theorem stepRunsDecodedInstruction : Obligations.StepRunsDecodedInstruction := by
  refine ⟨fun s sl rest w g l0 r hs hw hg hl => ?_, fun s n i rest hs ha => ?_, fun s hs ha => ?_⟩
  · have hhead (h : Word) (hcl : (g.lane l0).cl.left = 0) (hh : s.codeWord w sl.pc = some h) :
        (s.parse w sl.pc (g.lane l0).cl).2 =
          if headerOk h then s.parseAt w (some (clauseOf h)) (clauseOf h) (sl.pc + 4) else .bad none sl.pc 7 2 := by
      simp only [State.parse, hcl, hh, ne_eq, not_true_eq_false, if_false]
      split <;> rfl
    refine ⟨fun i hcl hf => ?_, fun i h hcl hh hok hf => ?_, fun hdr pc guard code hp => ?_, fun h hcl hh hbad => ?_⟩
    · refine step_of_parse_ok (pc := sl.pc) hs hw hg hl ?_
      simp only [State.parse, if_pos hcl, State.parseAt_of_fitsAt none hf]
    · refine step_of_parse_ok (pc := sl.pc + 4) hs hw hg hl ?_
      rw [hhead h hcl hh, if_pos hok, State.parseAt_of_fitsAt _ hf]
    · exact step_of_parse_bad hs hw hg hl hp
    · rw [hhead h hcl hh, hbad, if_neg Bool.false_ne_true]
  · simp only [step, hs, ha, State.event]
  · simp only [step, hs, ha, State.event]

end Sys2Proof.Machine

namespace Sys2Proof.Machine

/-! ### Signatures and the queues of the matrix contexts (O31) -/

@[simp] theorem Core.queueOf_setQueueOf (k : Core) (c : Nat) (q : List MOp) : (k.setQueueOf c q).queueOf c = q := by
  unfold Core.queueOf Core.setQueueOf
  by_cases h : c = 0
  · simp only [if_pos h]
  · simp only [if_neg h]

theorem Wg.sign_of_getElem? {w : Wg} {n : Nat} {k : Sign} (h : w.ks[n]? = some k) : w.sign n = k := by
  rw [Wg.sign, h, Option.getD_some]

/-- A fully signed round stands at the end of its queue where that has a free entry. -/
theorem Exec.signTry_of_room {x : Exec} {w : Wg} {n : Nat} (hf : (w.sign n).full = true)
    (hq : ((x.core w.die w.core).queueOf (w.mctx.getD 0)).length < 8) :
    x.signTry w n = (x.setCore w.die w.core ((x.core w.die w.core).setQueueOf (w.mctx.getD 0)
      ((x.core w.die w.core).queueOf (w.mctx.getD 0) ++ [(w.sign n).op w])), { w with ks := w.ks.set n (w.sign n).next }) := by
  simp only [Exec.signTry, hf, Bool.true_or, if_true, if_pos hq]

/-- A fully signed round waits where its queue has none. -/
theorem Exec.signTry_of_no_room {x : Exec} {w : Wg} {n : Nat} (hf : (w.sign n).full = true)
    (hq : 8 ≤ ((x.core w.die w.core).queueOf (w.mctx.getD 0)).length) :
    x.signTry w n = (x, { w with ks := w.ks.set n { w.sign n with st := .issuing } }) := by
  simp only [Exec.signTry, hf, Bool.true_or, if_true, if_neg (Nat.not_lt.2 hq)]

theorem Sign.full_iff {k : Sign} (h : k.st = .signing) :
    k.full = true ↔ ∀ j, j < 32 → (k.decl[j]?).getD 0 &&& ~~~((k.signed[j]?).getD 0) = 0 := by
  simp only [Sign.full, h, BEq.rfl, Bool.true_and, List.all_eq_true, List.mem_range, beq_iff_eq]

theorem Sign.next_st (k : Sign) : k.next.st = .declared ∨ k.next.st = .idle := by
  unfold Sign.next
  dsimp only
  split
  · exact .inr rfl
  · exact .inl rfl

/-- The operation of a round is its first signer's instruction, on the handle of its word. -/
theorem Sign.op_of_ins {k : Sign} {i : Instr} {f : TF} (hi : k.ins = some i) (hf : tileWord i = some f) (w : Wg) :
    (k.op w).ins = i ∧ (k.op w).wg = w.id ∧ (k.op w).handle = f.acc.toNat := by
  simp only [Sign.op, hi, hf, Option.getD_some, and_self]

/-- The signatures of a round before the present one: none where the present one is its first. -/
def Sign.before (k : Sign) : List Word := if k.st = .declared then List.replicate 32 0 else k.signed

/-- The workgroup of a signature: register n is k1, and the group's TL is raised by its first signature of the round. -/
def Cx.signWg (c : Cx) (n : Nat) (k1 : Sign) : Wg :=
  { c.w.setGrp { c.g with tl := if (((c.w.sign n).before)[c.g.idx]?).getD 0 = 0 then c.g.tl + 1 else c.g.tl } with ks := c.w.ks.set n k1 }

/-- The execution state after a signature that leaves register n as k1: a full round goes on to its queue. -/
def Exec.signUp (x : Exec) (c : Cx) (n : Nat) (k1 : Sign) : Exec :=
  let w := c.signWg n k1
  let r := if k1.full then (x.setWg w).signTry w n else (x, w)
  r.1.setWg r.2

/-- A round that this signature may join: declared with no failing check, or begun by the same instruction (R41, R281). -/
def Cx.joins (c : Cx) (i : Instr) (f : TF) : Prop :=
  let t (j : Nat) : BitVec 128 := (c.w.ts[j]?).getD 0
  ((c.w.sign f.k.toNat).st = .declared ∧ tileCheck i f c.w (t f.tA.toNat) (t f.tB.toNat) (t (f.tA.toNat + 1)) = none) ∨
    ((c.w.sign f.k.toNat).st = .signing ∧ (c.w.sign f.k.toNat).ins = some i)

section
variable {i : Instr} {f : TF} {s : State} {c : Cx}

theorem signBody_idle (h : (c.w.sign f.k.toNat).st = .idle) : signBody i f s c = .error (trapSync 3) := by
  unfold signBody
  exact if_pos h

theorem signBody_not_member (h : (c.w.sign f.k.toNat).st ≠ .idle)
    (hm : ¬maskOf c.ex &&& ~~~(((c.w.sign f.k.toNat).decl[c.g.idx]?).getD 0) = 0) :
    signBody i f s c = .error (trapSync 4) := by
  unfold signBody
  exact (if_neg h).trans (if_pos hm)

section
variable (hm : maskOf c.ex &&& ~~~(((c.w.sign f.k.toNat).decl[c.g.idx]?).getD 0) = 0)
include hm

theorem signBody_mismatch (h : (c.w.sign f.k.toNat).st = .signing) (hi : (c.w.sign f.k.toNat).ins ≠ some i) :
    signBody i f s c = .error (trapMatrix 1) := by
  unfold signBody
  dsimp only
  rw [if_neg (by rw [h]; decide), if_neg (not_not.2 hm), if_pos ⟨h, hi⟩]

theorem signBody_check {e : Trap} (h : (c.w.sign f.k.toNat).st = .declared)
    (he : tileCheck i f c.w ((c.w.ts[f.tA.toNat]?).getD 0) ((c.w.ts[f.tB.toNat]?).getD 0) ((c.w.ts[f.tA.toNat + 1]?).getD 0) = some e) :
    signBody i f s c = .error e := by
  unfold signBody
  dsimp only
  rw [if_neg (by rw [h]; decide), if_neg (not_not.2 hm), if_neg (by rw [h]; simp)]
  simp only [h, BEq.rfl, if_true, he]

/-- A signature that joins its round signs for the executing threads. -/
theorem signBody_joins (hj : c.joins i f) :
    ∃ (x0 : Exec) (k1 : Sign), signBody i f s c = .ok { s with x := x0.signUp c f.k.toNat k1 } ∧
      x0.wgs = s.x.wgs ∧ x0.cores = s.x.cores ∧ k1.st = .signing ∧ k1.ins = some i ∧
      k1.decl = (c.w.sign f.k.toNat).decl ∧
      k1.signed = (c.w.sign f.k.toNat).before.set c.g.idx
        ((((c.w.sign f.k.toNat).before)[c.g.idx]?).getD 0 ||| maskOf c.ex) := by
  unfold signBody
  dsimp only
  rcases hj with ⟨hst, hchk⟩ | ⟨hst, hins⟩
  · have hb : (c.w.sign f.k.toNat).before = List.replicate 32 0 := if_pos hst
    rw [if_neg (by rw [hst]; decide), if_neg (not_not.2 hm), if_neg (by rw [hst]; simp)]
    simp only [hst, BEq.rfl, if_true, hchk, hb, Exec.signUp, Cx.signWg]
    exact ⟨_, _, rfl, rfl, rfl, rfl, rfl, rfl, rfl⟩
  · have hb : (c.w.sign f.k.toNat).before = (c.w.sign f.k.toNat).signed := if_neg (by rw [hst]; decide)
    have hd : ((c.w.sign f.k.toNat).st == SignSt.declared) = false := by rw [hst]; rfl
    rw [if_neg (by rw [hst]; decide), if_neg (not_not.2 hm), if_neg (by rw [hins]; simp)]
    simp only [hd, Bool.false_eq_true, if_false, hb, Exec.signUp, Cx.signWg]
    exact ⟨_, _, rfl, rfl, rfl, rfl, hins, rfl, rfl⟩
end

end

section
variable {x : Exec} {c : Cx} {n : Nat} (k1 : Sign)

theorem Cx.signWg_sign (hn : n < c.w.ks.length) : (c.signWg n k1).sign n = k1 :=
  Wg.sign_of_getElem? (List.getElem?_set_self hn)

theorem Cx.signWg_grp? (hg : c.w.grp? c.g.idx = some c.g) :
    (c.signWg n k1).grp? c.g.idx =
      some { c.g with tl := if (((c.w.sign n).before)[c.g.idx]?).getD 0 = 0 then c.g.tl + 1 else c.g.tl } :=
  Wg.grp?_setGrp_self
    (g := { c.g with tl := if (((c.w.sign n).before)[c.g.idx]?).getD 0 = 0 then c.g.tl + 1 else c.g.tl }) hg

/-- While members of its round are still to sign, the register is left as it is. -/
theorem Exec.signUp_of_open (hw : x.wg? c.w.id = some c.w) (hf : k1.full = false) :
    (x.signUp c n k1).wg? c.w.id = some (c.signWg n k1) := by
  simp only [Exec.signUp, hf, Bool.false_eq_true, if_false]
  exact Exec.wg?_setWg_self (w := c.signWg n k1) hw

/-- The last signature of a round puts it into its queue where that has a free entry. -/
theorem Exec.signUp_of_room (hw : x.wg? c.w.id = some c.w) (hn : n < c.w.ks.length) (hf : k1.full = true)
    (hq : ((x.core c.w.die c.w.core).queueOf (c.w.mctx.getD 0)).length < 8) :
    (x.signUp c n k1).wg? c.w.id = some { c.signWg n k1 with ks := (c.signWg n k1).ks.set n k1.next } ∧
      ((x.signUp c n k1).core c.w.die c.w.core).queueOf (c.w.mctx.getD 0) =
        (x.core c.w.die c.w.core).queueOf (c.w.mctx.getD 0) ++ [k1.op (c.signWg n k1)] := by
  have hs := Cx.signWg_sign k1 hn
  simp only [Exec.signUp, hf, if_true]
  rw [Exec.signTry_of_room (x := x.setWg (c.signWg n k1)) (w := c.signWg n k1) (by rw [hs]; exact hf) hq, hs]
  constructor
  · refine Exec.wg?_setWg_self (w := { c.signWg n k1 with ks := (c.signWg n k1).ks.set n k1.next }) (u := c.signWg n k1) ?_
    rw [Exec.wg?_setCore]
    exact Exec.wg?_setWg_self (w := c.signWg n k1) hw
  · show ((((x.setWg (c.signWg n k1)).setCore c.w.die c.w.core _).setWg _).core c.w.die c.w.core).queueOf (c.w.mctx.getD 0) = _
    rw [Exec.core_setWg, Exec.core_setCore_self]
    exact Core.queueOf_setQueueOf _ _ _

/-- It leaves the round in ISSUING where its queue is full. -/
theorem Exec.signUp_of_no_room (hw : x.wg? c.w.id = some c.w) (hn : n < c.w.ks.length) (hf : k1.full = true)
    (hq : 8 ≤ ((x.core c.w.die c.w.core).queueOf (c.w.mctx.getD 0)).length) :
    (x.signUp c n k1).wg? c.w.id = some { c.signWg n k1 with ks := (c.signWg n k1).ks.set n { k1 with st := .issuing } } ∧
      (x.signUp c n k1).core c.w.die c.w.core = x.core c.w.die c.w.core := by
  have hs := Cx.signWg_sign k1 hn
  simp only [Exec.signUp, hf, if_true]
  rw [Exec.signTry_of_no_room (x := x.setWg (c.signWg n k1)) (w := c.signWg n k1) (by rw [hs]; exact hf) hq, hs]
  constructor
  · refine Exec.wg?_setWg_self (w := { c.signWg n k1 with ks := (c.signWg n k1).ks.set n { k1 with st := .issuing } })
      (u := c.signWg n k1) ?_
    exact Exec.wg?_setWg_self (w := c.signWg n k1) hw
  · rw [Exec.core_setWg, Exec.core_setWg]

end

theorem exec_tileWord {i : Instr} {f : TF} (hi : i = .mma f ∨ i = .mmaSpec f ∨ i = .mmaIdx f) (s : State) :
    exec i s = s.issue i (onceBody (signBody i f)) := by
  rcases hi with rfl | rfl | rfl <;> rfl

theorem tileWord_eq {i : Instr} {f : TF} (hi : i = .mma f ∨ i = .mmaSpec f ∨ i = .mmaIdx f) : tileWord i = some f := by
  rcases hi with rfl | rfl | rfl <;> rfl

section
variable {i : Instr} {body : State → Cx → Except Trap State} (hx : ∀ s, exec i s = s.issue i (onceBody body))
  {s : State} {c : Cx} {y : Bool} (hs : s.Selected i c y)
include hx hs

/-- An instruction with one effect per issue takes the trap of its body if a lane executes it. -/
theorem traps_of_body {t : Trap} (he : c.ex ≠ []) (hb : body (s.base c) c = .error t) : s.Traps i c t := by
  unfold State.Traps
  rw [hx]
  exact State.issue_err hs.1 hs.2.1 ((if_neg he).trans hb)

/-- It completes with the effect of its body if a lane executes it. -/
theorem issues_of_body {t : State} (he : c.ex ≠ []) (hb : body (s.base c) c = .ok t) : s.Issues i c y t := by
  unfold State.Issues
  rw [hx]
  exact State.issue_ok hs ((if_neg he).trans hb)

/-- It completes with no effect of its own if no lane does. -/
theorem issues_base (he : c.ex = []) : s.Issues i c y (s.base c) := by
  unfold State.Issues
  rw [hx]
  exact State.issue_ok hs (if_pos he)

end

/-- The group at its place in the workgroup that the instruction found. -/
theorem State.Placed.grp? {s : State} {i : Instr} {c : Cx} {y : Bool} (hp : s.Placed c) (hs : s.Selected i c y) :
    c.w.grp? c.g.idx = some c.g := by
  unfold State.Placed State.grpOf at hp
  rwa [(State.pick_wg hs.1).1, Option.bind_some] at hp

/-- A workgroup in whose group TL alone has changed, after its instruction has issued: the sign registers and the group's
registers are as they were. -/
theorem State.issued_signed {u : State} {c : Cx} {w : Wg} {tl : Nat} (i : Instr) (y : Bool) (hw : u.x.wg? c.w.id = some w)
    (hg : w.grp? c.g.idx = some { c.g with tl := tl }) :
    ∃ v g, (u.issued i c y false).x.wg? c.w.id = some v ∧ v.ks = w.ks ∧ (u.issued i c y false).grpOf c = some g ∧
      SameRegs g c.g ∧ g.tl = tl := by
  obtain ⟨gs, hv⟩ := State.issued_wg (s := u) i y hw
  exact ⟨_, _, hv, rfl, State.issued_grp i y hw hg rfl, ⟨rfl, rfl, rfl, fun _ => ⟨rfl, rfl, rfl⟩⟩, rfl⟩

/-- The queues of the matrix contexts do not change as an instruction issues. -/
theorem State.issued_queueOf (u : State) (i : Instr) (c : Cx) (y : Bool) (d k q : Nat) :
    ((u.issued i c y false).x.core d k).queueOf q = (u.x.core d k).queueOf q := by
  obtain ⟨b, hb⟩ := State.issued_core u i c y d k
  rw [hb]; rfl

/-- Settles O31: the checks of a signature are those of `signBody`, and what a signature leaves is `Exec.signUp`, by the
members that are still to sign and the room in the queue. -/
theorem signingResults : Obligations.SigningResults := by
  intro i f hi s c y hs n k m t chk old new done member
  have hx := exec_tileWord hi
  refine ⟨issues_base hx hs, fun he hk => traps_of_body hx hs he (signBody_idle hk),
    fun he hk hm => traps_of_body hx hs he (signBody_not_member hk hm),
    fun he hk hm hins => traps_of_body hx hs he (signBody_mismatch hm hk hins),
    fun e he hk hm hchk => traps_of_body hx hs he (signBody_check hm hk hchk), fun he hm hj hp hn => ?_⟩
  obtain ⟨x0, k1, hb, hwgs, hcores, hst, hins, hdecl, hsigned⟩ := signBody_joins (s := s.base c) hm hj
  have hcore : x0.core c.w.die c.w.core = s.x.core c.w.die c.w.core := by
    unfold Exec.core; rw [hcores]; rfl
  have hw0 : x0.wg? c.w.id = some c.w := by
    unfold Exec.wg?; rw [hwgs]; exact (State.pick_wg hs.1).1
  have hgrp := Cx.signWg_grp? (n := n) k1 (hp.grp? hs)
  have hfull : k1.full = true ↔ done := by rw [Sign.full_iff hst, hdecl, hsigned]; exact Iff.rfl
  have hn1 : n < (c.signWg n k1).ks.length := by simpa [Cx.signWg] using hn
  let u : State := { s.base c with x := x0.signUp c n k1 }
  have hexec : exec i s = .next (u.issued i c y false) := issues_of_body hx hs he hb
  have hout : SameOutside s (u.issued i c y false) := (State.issued_outside u i c y).1
  have hq := State.issued_queueOf u i c y c.w.die c.w.core (c.w.mctx.getD 0)
  by_cases hd : done
  · have hf := hfull.2 hd
    by_cases hroom : ((s.x.core c.w.die c.w.core).queueOf (c.w.mctx.getD 0)).length < 8
    · obtain ⟨hw, hqueue⟩ := Exec.signUp_of_room k1 hw0 hn hf (hcore ▸ hroom)
      obtain ⟨v, g, hv, hks, hg, hregs, htl⟩ := State.issued_signed (u := u) i y hw hgrp
      have hk : v.ks[n]? = some k1.next := by rw [hks]; exact List.getElem?_set_self hn1
      refine ⟨_, v, g, hexec, hout, hv, hg, hregs, htl, fun h => absurd hd h, fun _ => ⟨fun _ => ?_, fun h => absurd hroom (Nat.not_lt.2 h)⟩⟩
      exact ⟨⟨_, hk, k1.next_st, hdecl⟩, k1.op (c.signWg n k1), by rw [hq, hqueue, hcore], Sign.op_of_ins hins (tileWord_eq hi) _⟩
    · obtain ⟨hw, hkept⟩ := Exec.signUp_of_no_room k1 hw0 hn hf (hcore ▸ Nat.not_lt.1 hroom)
      obtain ⟨v, g, hv, hks, hg, hregs, htl⟩ := State.issued_signed (u := u) i y hw hgrp
      have hk : v.ks[n]? = some { k1 with st := .issuing } := by rw [hks]; exact List.getElem?_set_self hn1
      refine ⟨_, v, g, hexec, hout, hv, hg, hregs, htl, fun h => absurd hd h, fun _ => ⟨fun h => absurd h hroom, fun _ => ?_⟩⟩
      exact ⟨⟨_, hk, rfl⟩, by rw [hq, hkept, hcore]⟩
  · have hw := Exec.signUp_of_open (n := n) k1 hw0 (Bool.eq_false_iff.2 (fun h => hd (hfull.1 h)))
    obtain ⟨v, g, hv, hks, hg, hregs, htl⟩ := State.issued_signed (u := u) i y hw hgrp
    have hk : v.ks[n]? = some k1 := by rw [hks]; exact List.getElem?_set_self hn
    exact ⟨_, v, g, hexec, hout, hv, hg, hregs, htl, fun _ => ⟨k1, hk, hst, hins, hsigned, hdecl⟩, fun h => absurd h hd⟩

end Sys2Proof.Machine

namespace Sys2Proof.Machine

/-! ### A term outside the encoding: shfl with KD set (O57) -/

/-- shfl v1, v0 with KD set: `WellFormed` excludes it and no word decodes to it. -/
def shflKd : XF := { d := 1, a := 0, b := 0, g := 7, c := 0x02000000 }

theorem shflKd_not_wellFormed : ¬WellFormed (.shfl shflKd) := by
  unfold WellFormed
  decide

/-- Under KD the destination of an XA word counts as uniform, shfl's too. -/
theorem dests_shflKd : dests (.shfl shflKd) = [(1, 1)] := by decide

/-- A thread whose register v0 holds 1 and whose v1 holds 0. -/
def kdLane : Lane := { st := .live, v := [{ val := 1 }, {}] }

def kdSlot : Slot := { wg := 0, grp := 0, lanes := 1, pc := 0 }

/-- A state whose scheduler has selected that thread, alone in its workgroup. -/
def kdState : State :=
  { State.reset with x := { wgs := [{ regs := 2, groups := [{ lanes := [kdLane] }] }], cur := some kdSlot } }

/-- What the instruction finds: the thread stands behind it. -/
def kdCx : Cx :=
  let g : Group := { lanes := [kdLane.advance 2] }
  { sl := kdSlot, w := { regs := 2, groups := [g] }, g := g, iss := [0], ex := [0], pc := 0, clk := 0, yld := false }

theorem kdState_selected : kdState.Selected (.shfl shflKd) kdCx false := ⟨by decide, by decide, by decide⟩

theorem kdState_placed : kdState.Placed kdCx := by
  unfold State.Placed
  decide

/-- The value of register v1 of the thread in a later state. -/
def kdV1 (t : State) : Option Word := ((t.x.wg? 0).bind (fun w => w.grp? 0)).map (fun g => ((g.lane 0).reg 1).val)

/-- The instruction completes and writes the vector register v1, KD or not. -/
theorem exec_shflKd : ∃ t, exec (.shfl shflKd) kdState = .next t ∧ kdV1 t = some 1 := by
  have hx : exec (.shfl shflKd) kdState = execShfl shflKd kdState := rfl
  unfold execShfl at hx
  exact ⟨_, hx.trans (State.issue_ok kdState_selected (computeBody_ok (by decide))), by decide⟩

/-- Refutes O57: the claim is stated of every instruction term, well-formed or not. Of shfl with KD set, which no word decodes
to (`shflKd_not_wellFormed`), the destination is the uniform register s1 (`dests_shflKd`), and the instruction writes v1. -/
theorem not_frames : ¬Obligations.Frames := by
  rintro ⟨-, hframe⟩
  obtain ⟨t, ht, hv⟩ := exec_shflKd
  obtain ⟨-, -, -, -, -, -, w, g, hw, hg, -, -, -, -, -, -, -, -, -, -, -, -, -, -, -, hreg, -⟩ :=
    hframe (.shfl shflKd) 0x35 (.x shflKd) kdState t kdCx false rfl (by decide) kdState_selected kdState_placed
      (by decide) ht
  have hsame : (g.lane 0).reg 1 = (kdCx.g.lane 0).reg 1 := hreg 0 1 (by rw [dests_shflKd]; decide)
  have hone : kdV1 t = some ((g.lane 0).reg 1).val := by
    unfold kdV1
    rw [show t.x.wg? 0 = some w from hw, Option.bind_some, show w.grp? 0 = some g from hg, Option.map_some]
  rw [hsame, hv] at hone
  exact absurd hone (by decide)

end Sys2Proof.Machine

namespace Sys2Proof.Machine

/-! ### An identifier used twice (O38) -/

/-- A subscription in flight that bears the next identifier to be given, 1, with the status 1 decided at issue. -/
def staleSub : Access :=
  { id := 1, wg := 0, grp := 0, ins := .nop default, kind := .sub, lanes := [{ lane := 1, va := 0, st := .ok }], aux := 1 }

/-- A workgroup without a handler: its first thread is open at a PC without a translation, its second waits for the
watched access 1. -/
def watchedWg : Wg := { groups := [{ lanes := [{ st := .live }, { st := .live, hold := .watch 1 }] }] }

/-- The launch of that workgroup, in a fault domain of its own. -/
def watchedLaunch : Launch := { id := 0, queue := 0, pidx := 0, asid := 0, pkt := 0, rcbs := [{ addr := 0 }] }

/-- A state that has selected an instruction of the workgroup. -/
def staleState : State :=
  { State.reset with
    x := { wgs := [watchedWg], accs := [staleSub], nextId := 1 }
    sch := { State.reset.sch with launches := [watchedLaunch] }
    slots := [{ wg := 0, grp := 0, lanes := 1, pc := 0 }] }

/-- The fetch of the first thread takes identifier 1; what it tries is the subscription, whose end raises the watch trap of
the second thread, and this ends the launch with its selected instructions. -/
theorem issueClock_staleState : (staleState.issueClock 0 0 0).slots = [] := by decide

/-- Refutes O38 in its first sentence: where an access bears the identifier that the next fetch takes, an issue clock can drop
an instruction that was selected before it. The claim assumes no freshness of `nextId`. -/
theorem not_coreClockEvents : ¬Obligations.CoreClockEvents := by
  rintro ⟨hclock, -⟩
  obtain ⟨t, l, ht, -, -, hslots, -⟩ := hclock 0 0 0 staleState
  obtain rfl := Host.Outcome.next.inj ht
  rw [issueClock_staleState] at hslots
  cases hslots

end Sys2Proof.Machine

namespace Sys2Proof.Machine

/-! ### A core table out of order (O44) -/

/-- The answer of die 0 to its own write of line 0, which store 1 has sent. -/
def ackMsg : Msg := { id := 1, src := .die 0, dst := .die 0, line := 0, k := .wtAck 1 }

/-- That store in its core's buffer. -/
def ackEnt : WtEnt := { id := 1, lanes := 1, line := 0, sent := true }

/-- The only lane of the store has reached the L1. -/
def ackLane : LaneAcc := { lane := 0, va := 0, st := .ok, l1 := true }

/-- The store in flight. -/
def ackStore : Access := { id := 1, wg := 0, grp := 0, ins := .st default, kind := .store, lanes := [ackLane] }

/-- The answer is next, and the table of cores lists core 0, whose buffer holds the store, behind core 1. -/
def unsortedState : State :=
  { State.reset with
    sel := 1
    x := { wgs := [{ groups := [{}] }], cores := [(1, {}), (0, { wt := [ackEnt] })], accs := [ackStore] }
    fab := { net := [ackMsg] } }

theorem execWtack_unsortedState : exec .wtack unsortedState = .next ((unsortedState.take 1).wtAck 0 0 1) := rfl

/-- The entry of core 0 without the store is written in front of core 1, and the old entry stays behind it: the store is not
performed. -/
theorem wtAck_unsortedState : ((unsortedState.take 1).wtAck 0 0 1).x.accs = [ackStore] := by decide

/-- Refutes O44 in its first clause: where the table of cores is not in rising order, the WtAck takes its store out of no
buffer, and the store stays in flight. The claim does not assume that order. -/
theorem not_coreMessages : ¬Obligations.CoreMessages := by
  intro h
  obtain ⟨hack, -⟩ := h unsortedState _ ackMsg ⟨by decide, by decide, by decide, rfl⟩
  obtain ⟨t, w, g, ht, -, -, -, -, -, hlen⟩ := hack 0 1 (0, ackEnt) { groups := [{}] } {} ackStore ackLane
    rfl rfl (by decide) rfl rfl rfl (by decide) (by decide) (by decide) rfl rfl rfl rfl rfl rfl rfl rfl
    (fun l => by simp [Group.lane])
  rw [execWtack_unsortedState] at ht
  rw [← Host.Outcome.next.inj ht, wtAck_unsortedState] at hlen
  exact absurd hlen (by decide)

end Sys2Proof.Machine

namespace Sys2Proof.Machine

/-! ### Translating and writing for a request leave the workgroups and the other requests alone (O40) -/

/-- The workgroups, the requests and the number that names the part to move: what translations, caches and messages under a
request leave as they are. -/
def State.jobs (s : State) : List Wg × List Req × Nat := (s.x.wgs, s.x.reqs, s.sel)

theorem State.jobs_eq_iff {s t : State} : t.jobs = s.jobs ↔ t.x.wgs = s.x.wgs ∧ t.x.reqs = s.x.reqs ∧ t.sel = s.sel := by
  simp only [State.jobs, Prod.mk.injEq]

theorem State.wg?_of_jobs {s t : State} (h : t.jobs = s.jobs) (i : Nat) : t.x.wg? i = s.x.wg? i := by
  unfold Exec.wg?
  rw [(State.jobs_eq_iff.1 h).1]

theorem State.req?_of_jobs {s t : State} (h : t.jobs = s.jobs) (i : Nat) : t.x.req? i = s.x.req? i := by
  unfold Exec.req?
  rw [(State.jobs_eq_iff.1 h).2.1]

theorem foldl_jobs {α : Type} {f : State → α → State} (h : ∀ s a, (f s a).jobs = s.jobs) (l : List α) (s : State) :
    (l.foldl f s).jobs = s.jobs := by
  induction l generalizing s with
  | nil => rfl
  | cons a r ih => rw [List.foldl_cons, ih, h]

theorem State.sendPush_jobs (s : State) (h line : Nat) (u : Subscr) (img : BitVec 1024) : (s.sendPush h line u img).jobs = s.jobs := by
  unfold State.sendPush
  split <;> rfl

theorem State.pushStore_jobs (s : State) (h line : Nat) (img : BitVec 1024) : (s.pushStore h line img).jobs = s.jobs := by
  unfold State.pushStore
  split
  · rfl
  · refine (foldl_jobs (fun s o => ?_) _ _).trans rfl
    split
    · split
      · rfl
      · exact State.sendPush_jobs ..
    · rfl

theorem State.pokeLine_jobs (s : State) (bs : List (Nat × Byte)) (line : Nat) : (s.pokeLine bs line).jobs = s.jobs := by
  unfold State.pokeLine
  exact (State.pushStore_jobs ..).trans rfl

theorem State.poke_jobs (s : State) (pa : Nat) (bs : List Byte) : (s.poke pa bs).jobs = s.jobs :=
  foldl_jobs (fun s l => State.pokeLine_jobs s _ l) _ _

theorem State.setLeaf_jobs (s : State) (asid : Nat) (va : DWord) (f : Nat → DWord → DWord) : (s.setLeaf asid va f).jobs = s.jobs := by
  refine foldl_jobs (fun s d => ?_) _ _
  split
  · exact State.poke_jobs ..
  · rfl

theorem State.bindPage_jobs {s t : State} {d asid : Nat} {va : DWord} {size : Nat} {e : DWord}
    (h : s.bindPage d asid va size e = some t) : t.jobs = s.jobs := by
  unfold State.bindPage at h
  dsimp only at h
  split at h
  · cases h
  · rw [← Option.some.inj h]
    exact (State.setLeaf_jobs ..).trans rfl

theorem State.reqPage_jobs {s t : State} {r : Req} {w : Wg} {write : Bool} {va : DWord} (h : s.reqPage r w write va = .ok t) :
    t.jobs = s.jobs := by
  have go : ∀ u : State, (match u.pageX w write va with
    | .ok _ _ => Except.ok (match u.walk w.die w.asid va with
      | .ok e => if (u.cached w.die w.core w.asid va).isSome then u else u.cache w.die w.core e
      | _ => u)
    | .fault c => .error (u.reqFault r c va write)
    | .bind _ _ => .error u
    | .collapse => .error (u.collapseFor w.asid va r.id)) = .ok t → t.jobs = u.jobs := by
    intro u hu
    split at hu <;> cases hu
    split
    · split <;> rfl
    · rfl
  unfold State.reqPage at h
  dsimp only at h
  split at h
  · split at h
    · rename_i hb
      exact (go _ h).trans (State.bindPage_jobs hb)
    · cases h
  · exact go s h

/-- Translating every page of some ranges, where it meets no fault. -/
theorem State.reqRanges_jobs {s t : State} {r : Req} {w : Wg} {rs : List MRange} (h : s.reqRanges r w rs = .ok t) :
    t.jobs = s.jobs := by
  unfold State.reqRanges at h
  generalize rs.flatMap (fun g => (pieceList g).map (fun p => (p.1, g.2.2))) = l at h
  induction l generalizing s with
  | nil => cases h; rfl
  | cons p l ih =>
    rw [List.foldl_cons] at h
    dsimp only at h
    cases hp : s.reqPage r w p.2 p.1 with
    | ok u => rw [hp] at h; exact (ih h).trans (State.reqPage_jobs hp)
    | error u =>
      rw [hp] at h
      clear * - h
      induction l with
      | nil => cases h
      | cons _ _ ih => exact ih h

theorem State.l1Drop_jobs (s : State) (d line : Nat) (keep : Option Nat) : (s.l1Drop d line keep).jobs = s.jobs := by
  unfold State.l1Drop
  dsimp only
  split <;> rfl

theorem State.swtDrop_jobs (s : State) (d line : Nat) : (s.swtDrop d line).jobs = s.jobs := by
  unfold State.swtDrop
  split
  · exact State.l1Drop_jobs s d line none
  · rfl

theorem State.request_jobs (s : State) (k line : Nat) (q : MsgK) : (s.request k line q).jobs = s.jobs := by
  unfold State.request
  dsimp only
  split
  · split <;> rfl
  · rfl

theorem State.writeOut_jobs (s : State) (d line : Nat) (q : MsgK) : (s.writeOut d line q).jobs = s.jobs := by
  unfold State.writeOut
  split
  · rfl
  · exact (State.request_jobs ..).trans (State.swtDrop_jobs ..)

/-! ### Requests replaced and taken out -/

theorem delFirst_updFirst {α : Type} {p : α → Bool} {v : α} (hv : p v = true) (l : List α) :
    delFirst p (updFirst p (fun _ => v) l) = delFirst p l := by
  induction l with
  | nil => rfl
  | cons x r ih => by_cases hx : p x = true <;> simp [updFirst, delFirst, hx, hv, ih]

theorem Exec.req?_id {x : Exec} {i : Nat} {r : Req} (h : x.req? i = some r) : r.id = i := by
  simpa using List.find?_some h

theorem Exec.req?_setReq_self {x : Exec} {r q : Req} (h : x.req? r.id = some q) : (x.setReq r).req? r.id = some r := by
  unfold Exec.req? at h ⊢
  exact find?_updFirst_self (fun u => u.id == r.id) r (by simp) h

theorem Exec.delReq_setReq (x : Exec) (r : Req) : (x.setReq r).delReq r.id = x.delReq r.id := by
  unfold Exec.delReq Exec.setReq
  dsimp only
  rw [delFirst_updFirst (by simp)]

@[simp] theorem Exec.core_delReq (x : Exec) (i d c : Nat) : (x.delReq i).core d c = x.core d c := rfl

/-- A workgroup with another content of its scratchpad. -/
def Wg.stored (w : Wg) (m : Mem) : Wg := { w with scratch := m }

@[simp] theorem Wg.stored_id (w : Wg) (m : Mem) : (w.stored m).id = w.id := rfl
@[simp] theorem Wg.stored_die (w : Wg) (m : Mem) : (w.stored m).die = w.die := rfl
@[simp] theorem Wg.stored_core (w : Wg) (m : Mem) : (w.stored m).core = w.core := rfl

/-! ### A request that has been moved whole -/

/-- A request that is moved whole in one event of n places. -/
def Req.whole (r : Req) (n : Nat) : Req := { r with parts := if 0 < n then [(0, n)] else [], done := 2 }

/-- Request q of workgroup w has not started, and may act: no fault of it waits, what it follows is performed, and the event
names the whole of it. -/
structure State.Starts (s : State) (q : Req) (w : Wg) : Prop where
  req : s.x.req? q.id = some q
  wg : s.x.wg? q.wg = some w
  fault : q.fault = none
  waits : s.x.waits q.after = []
  done : q.done = 0
  parts : q.parts = []
  out : q.out = []
  dead : q.dead = false
  sel : s.sel = 0

theorem State.Starts.reqGo {s : State} {q : Req} {w : Wg} (h : s.Starts q w) (f : Req → Wg → State) :
    s.reqGo q.id f = .next (f q w) := by
  unfold State.reqGo
  rw [h.req]
  dsimp only
  rw [h.wg]
  dsimp only
  rw [h.fault, h.dead, h.done, h.waits]
  rfl

theorem State.span_whole {s : State} (hs : s.sel = 0) {k n : Nat} (hk : k = 0 ∨ n ≤ k) : s.span k n = (0, n) := by
  unfold State.span
  rw [hs, Nat.zero_mod, Nat.zero_min]
  dsimp only
  rw [Nat.zero_add]
  rcases hk with rfl | hk
  · rw [if_pos rfl]
  · rw [Nat.min_eq_left hk, ite_self]

theorem State.span2_whole {s : State} (hs : s.sel = 0) (n : Nat) : s.span2 n = (0, n) :=
  State.span_whole hs (.inl (by rw [hs, Nat.zero_div]))

theorem Req.todo_whole {q : Req} (h : q.parts = []) (n : Nat) : q.todo (0, n) = List.range n := by
  unfold Req.todo
  simp [h]

section
variable {s : State} {q : Req} {w : Wg}

theorem Exec.req?_setReq_whole {x : Exec} (h : x.req? q.id = some q) (n : Nat) : (x.setReq (q.whole n)).req? q.id = some (q.whole n) :=
  Exec.req?_setReq_self (r := q.whole n) h

theorem State.reqMoved_whole (h : s.x.req? q.id = some q) (hp : q.parts = []) (n : Nat) :
    s.reqMoved q.id (0, n) n = ({ s with x := s.x.setReq (q.whole n) }).reqSettle q.id := by
  unfold State.reqMoved Req.whole
  rw [h]
  dsimp only
  rw [hp]
  rcases Nat.eq_zero_or_pos n with rfl | hn
  · rfl
  · simp [hn, addPart]

/-- While a write of it is under way, the request waits for the answer (03_kernel_memory R79). -/
theorem State.reqMoved_out (h : s.x.req? q.id = some q) (hp : q.parts = []) (ho : q.out ≠ []) (n : Nat) :
    s.reqMoved q.id (0, n) n = { s with x := s.x.setReq (q.whole n) } := by
  rw [State.reqMoved_whole h hp]
  unfold State.reqSettle
  rw [Exec.req?_setReq_whole h]
  exact if_neg (fun hd => ho hd.2)

/-- A request other than a drain with nothing under way leaves. -/
theorem State.reqMoved_reqEnd (h : s.x.req? q.id = some q) (hp : q.parts = []) (ho : q.out = []) (hi : ∀ f, q.ins ≠ .accDrain f)
    (n : Nat) : s.reqMoved q.id (0, n) n = ({ s with x := s.x.setReq (q.whole n) }).reqEnd (q.whole n) := by
  rw [State.reqMoved_whole h hp]
  unfold State.reqSettle
  rw [Exec.req?_setReq_whole h]
  dsimp only
  rw [if_pos ⟨.inl rfl, ho⟩]
  split
  · rename_i f _ hf _
    exact absurd hf (hi f)
  · rfl

/-- The workgroup of a request that leaves: its token falls, or its group's ST does (02_execution R48). -/
def Req.leave (q : Req) (w : Wg) : Wg :=
  match q.tok with
  | some k => w.tokDown k
  | none => match w.grp? q.grp with
    | some g => w.setGrp { g with stc := g.stc - 1 }
    | none => w

theorem Req.leave_token {k : Nat} (ht : q.tok = some k) (u : Wg) : q.leave u = u.tokDown k := by
  unfold Req.leave
  rw [ht]

theorem Req.leave_group {g : Group} (ht : q.tok = none) {u : Wg} (hg : u.grp? q.grp = some g) :
    q.leave u = u.setGrp { g with stc := g.stc - 1 } := by
  unfold Req.leave
  rw [ht]
  dsimp only
  rw [hg]

theorem State.reqEnd_whole (hw : s.x.wg? q.wg = some w) (n : Nat) :
    ({ s with x := s.x.setReq (q.whole n) }).reqEnd (q.whole n) = { s with x := (s.x.delReq q.id).setWg (q.leave w) } := by
  unfold State.reqEnd
  rw [show (s.x.setReq (q.whole n)).wg? (q.whole n).wg = some w from hw]
  dsimp only
  rw [Exec.delReq_setReq]
  unfold Req.leave
  cases ht : q.tok with
  | some k =>
    rw [show (q.whole n).tok = some k from ht]
    rfl
  | none =>
    rw [show (q.whole n).tok = none from ht]
    cases hg : w.grp? q.grp with
    | some g =>
      rw [show w.grp? (q.whole n).grp = some g from hg]
      rfl
    | none =>
      rw [show w.grp? (q.whole n).grp = none from hg]
      rfl

theorem State.reqMoved_leave (h : s.x.req? q.id = some q) (hw : s.x.wg? q.wg = some w) (hp : q.parts = []) (ho : q.out = [])
    (hi : ∀ f, q.ins ≠ .accDrain f) (n : Nat) :
    s.reqMoved q.id (0, n) n = { s with x := (s.x.delReq q.id).setWg (q.leave w) } :=
  (State.reqMoved_reqEnd h hp ho hi n).trans (State.reqEnd_whole hw n)

/-- With a drain that leaves, the banks that waited for it go on (03_kernel_memory R74). -/
theorem State.reqMoved_drain {f : KF} (h : s.x.req? q.id = some q) (hw : s.x.wg? q.wg = some w) (hp : q.parts = []) (ho : q.out = [])
    (hi : q.ins = .accDrain f) (n : Nat) :
    s.reqMoved q.id (0, n) n = { s with
      x := ((s.x.setCore w.die w.core ((s.x.core w.die w.core).bankDone s.x.clk q.id)).delReq q.id).setWg (q.leave w) } := by
  rw [State.reqMoved_whole h hp]
  unfold State.reqSettle
  rw [Exec.req?_setReq_whole h]
  dsimp only
  rw [if_pos ⟨.inl rfl, ho⟩, show (q.whole n).ins = .accDrain f from hi, show (s.x.setReq (q.whole n)).wg? (q.whole n).wg = some w from hw]
  exact State.reqEnd_whole (s := { s with x := s.x.setCore w.die w.core ((s.x.core w.die w.core).bankDone s.x.clk q.id) }) hw n

end

/-! ### Writes sent for a request (03_kernel_memory R79) -/

/-- A request with the writes of some lines under way. -/
def Req.sent (r : Req) (ls : List LineWr) : Req := { r with out := r.out ++ ls.map (fun g => (g.line, g.va)) }

theorem State.reqSend_jobs {s : State} {i : Nat} {r : Req} (h : s.x.req? i = some r) (d line : Nat) (va : DWord) (m : MsgK) :
    (s.reqSend i d line va m).jobs = ({ s with x := s.x.setReq { r with out := r.out ++ [(line, va)] } } : State).jobs := by
  unfold State.reqSend
  rw [h]
  exact (State.writeOut_jobs ..).trans (State.l1Drop_jobs ..)

theorem State.reqWrite_req {s : State} {q r : Req} (h : s.x.req? q.id = some r) (d : Nat) (ls : List LineWr) (cls hint : Nat) :
    (s.reqWrite q d ls cls hint).x.wgs = s.x.wgs ∧ (s.reqWrite q d ls cls hint).x.req? q.id = some (r.sent ls) := by
  induction ls generalizing s r with
  | nil => exact ⟨rfl, by rw [show r.sent [] = r by simp [Req.sent]]; exact h⟩
  | cons g ls ih =>
    have hj := State.reqSend_jobs h d g.line g.va (.wrThru (maskData g.bs).1 (maskData g.bs).2 q.id
      { asid := some q.asid, vpages := [pageOf g.va], cls := cls, hint := hint, rt := g.rt })
    have hid := Exec.req?_id h
    obtain ⟨hw, hr⟩ := ih ((State.req?_of_jobs hj q.id).trans
      (by rw [← hid]; exact Exec.req?_setReq_self (r := { r with out := r.out ++ [(g.line, g.va)] }) (hid ▸ h)))
    refine ⟨hw.trans (State.jobs_eq_iff.1 hj).1, hr.trans ?_⟩
    simp [Req.sent]

/-- Each line of a list of writes has a byte to write. -/
theorem State.lineWrs_bs (s : State) (w : Wg) (base : DWord) (bs : List (Nat × Byte)) : ∀ g ∈ s.lineWrs w base bs, g.bs ≠ [] := by
  unfold State.lineWrs
  refine List.foldlRecOn bs _ (motive := fun (l : List LineWr) => ∀ g ∈ l, g.bs ≠ []) (by simp) (fun l hl b _ => ?_)
  dsimp only
  split
  · split
    · intro g hg
      obtain ⟨g0, h0, rfl⟩ := List.mem_map.1 hg
      split
      · simp
      · exact hl g0 h0
    · intro g hg
      rcases List.mem_append.1 hg with h0 | h0
      · exact hl g h0
      · rw [List.mem_singleton.1 h0]; simp
  · exact hl

/-- A part of a base-die request's writes leaves in two portions, and with a byte to write one of them is not empty. -/
theorem State.splitWrite_req {s : State} {q : Req} (h : s.x.req? q.id = some q) (ho : q.out = []) (d : Nat) {ls : List LineWr}
    (hl : ls ≠ []) (hb : ∀ g ∈ ls, g.bs ≠ []) :
    (s.splitWrite q d ls).x.wgs = s.x.wgs ∧ ∃ l, l ≠ [] ∧ (s.splitWrite q d ls).x.req? q.id = some { q with out := l } := by
  unfold State.splitWrite
  extract_lets u part
  obtain ⟨hw1, hr1⟩ := State.reqWrite_req (s := u.2) (q := q) h d (part true) 2 0
  obtain ⟨hw2, hr2⟩ := State.reqWrite_req hr1 d (part false) 2 0
  refine ⟨hw2.trans hw1, _, ?_, hr2⟩
  obtain ⟨g, hg⟩ := List.exists_mem_of_ne_nil ls hl
  obtain ⟨e, he⟩ := List.exists_mem_of_ne_nil g.bs (hb g hg)
  have hp : { g with bs := g.bs.filter (fun c => u.1.getLsbD (c.1 % 64) == u.1.getLsbD (e.1 % 64)) } ∈ part (u.1.getLsbD (e.1 % 64)) := by
    refine List.mem_filter.2 ⟨List.mem_map.2 ⟨g, hg, rfl⟩, ?_⟩
    simp only [bne_iff_ne]
    exact List.ne_nil_of_mem (List.mem_filter.2 ⟨he, by simp⟩)
  have hne := List.ne_nil_of_mem hp
  simp only [Req.sent, ho, List.nil_append, ne_eq, List.append_eq_nil_iff, List.map_eq_nil_iff]
  rintro ⟨ht, hf⟩
  cases hx : u.1.getLsbD (e.1 % 64) with
  | true => rw [hx] at hne; exact hne ht
  | false => rw [hx] at hne; exact hne hf

/-! ### Copies (03_kernel_memory R79, R80) -/

section
variable {n : Nat} {f : KF} {s s1 : State} {q : Req} {w : Wg}

/-- The length of a copy. -/
def Req.copyLen (q : Req) : Nat := (opW q.ops 4).toNat

/-- The bytes of memory that a whole copy reads. -/
def State.copyRead (s : State) (q : Req) (w : Wg) : List (DWord × Nat) :=
  (List.range q.copyLen).flatMap (fun i => s.mapRange w (opP q.ops 0 + BitVec.ofNat 64 i, 1, false))

/-- The retention hint of a copy. -/
def copyHint (f : KF) : Nat := if bit f.f 2 then 1 else 0

/-- The bytes of the scratchpad that a whole copy sends, by line of memory. -/
def State.copyLines (s : State) (q : Req) (w : Wg) : List LineWr :=
  s.lineWrs w (opP q.ops 2) ((List.range q.copyLen).map (fun i => (i, w.scratch.get ((opP q.ops 0).toNat + i))))

/-- The scratchpad with some bytes copied into it. -/
def Mem.copied (m : Mem) (dst n : Nat) (bs : List Byte) : Mem :=
  ((List.range n).zip bs).foldl (fun (m : Mem) b => m.set (dst + b.1) b.2) m

/-- A whole copy from global memory. -/
theorem State.copyStep_load (h : s.Starts q w) (hn : n = 0 ∨ q.copyLen ≤ n) (hk : bits f.f 0 2 = 0)
    (hr : s.reqRanges q w [(opP q.ops 0, q.copyLen, false)] = .ok s1) (hb : s1.reqBad q (s1.copyRead q w) = none) {bs : List Byte}
    (hc : s1.copySrc w (copyHint f) (s1.copyRead q w) = .ok bs) :
    s.copyStep q w f n = (s1.putWg (w.stored (w.scratch.copied (opP q.ops 2).toNat q.copyLen bs))).reqMoved q.id (0, q.copyLen) q.copyLen := by
  unfold State.copyRead copyHint at *
  unfold State.copyStep Wg.stored Mem.copied
  unfold Req.copyLen at *
  simp [hk, State.span_whole h.sel hn, Req.todo_whole h.parts, hr, hb, hc]

/-- A whole copy to global memory. -/
theorem State.copyStep_store (h : s.Starts q w) (hn : n = 0 ∨ q.copyLen ≤ n) (hk : bits f.f 0 2 = 1)
    (hr : s.reqRanges q w [(opP q.ops 2, q.copyLen, true)] = .ok s1) :
    s.copyStep q w f n = (s1.reqWrite q w.die (s1.copyLines q w) 2 (copyHint f)).reqMoved q.id (0, q.copyLen) q.copyLen := by
  have hz : ∀ g : Nat → Byte, (List.range q.copyLen).zip ((List.range q.copyLen).map g) = (List.range q.copyLen).map (fun i => (i, g i)) := by
    intro g
    exact (List.map_prod_left_eq_zip ..).symm
  have hb : s1.reqBad q [] = none := rfl
  unfold State.copyLines copyHint
  unfold State.copyStep
  unfold Req.copyLen at *
  simp [hk, State.span_whole h.sel hn, Req.todo_whole h.parts, hr, hb, hz]
end

section
variable {n k : Nat} {f : KF} {s s1 : State} {q : Req} {w : Wg}

theorem exec_copyComplete (h : s.Starts q w) (hi : q.ins = .copy f) (n : Nat) :
    exec (.copyComplete q.id n) s = .next (s.copyStep q w f n) := by
  refine (h.reqGo _).trans ?_
  rw [hi]

/-- A whole copy from global memory leaves with its bytes in the scratchpad. -/
theorem copyComplete_load (h : s.Starts q w) (hi : q.ins = .copy f) (ht : q.tok = some k) (hn : n = 0 ∨ q.copyLen ≤ n)
    (hk : bits f.f 0 2 = 0) (hr : s.reqRanges q w [(opP q.ops 0, q.copyLen, false)] = .ok s1)
    (hb : s1.reqBad q (s1.copyRead q w) = none) {bs : List Byte} (hc : s1.copySrc w (copyHint f) (s1.copyRead q w) = .ok bs) :
    ∃ t w', exec (.copyComplete q.id n) s = .next t ∧ t.mem = s1.mem ∧ t.x.reqs = delFirst (fun r => r.id == q.id) s.x.reqs ∧
      t.x.wg? q.wg = some w' ∧ w'.qs = w.qs.set k ((w.qs[k]?).getD 0 - 1) ∧
      w'.scratch = w.scratch.copied (opP q.ops 2).toNat q.copyLen bs := by
  have hj := State.reqRanges_jobs hr
  have hwid := Exec.wg?_id h.wg
  have hw1 : s1.x.wg? q.wg = some w := (State.wg?_of_jobs hj _).trans h.wg
  have hstep := State.copyStep_load h hn hk hr hb hc
  generalize w.scratch.copied (opP q.ops 2).toNat q.copyLen bs = m at hstep ⊢
  have hq : (s1.putWg (w.stored m)).x.req? q.id = some q := (State.req?_of_jobs hj _).trans h.req
  have hw : (s1.putWg (w.stored m)).x.wg? q.wg = some (w.stored m) := Exec.wg?_setWg_self' hwid hw1
  have he := State.reqMoved_leave hq hw h.parts h.out (fun g hg => by rw [hi] at hg; cases hg) q.copyLen
  rw [Req.leave_token ht] at he
  exact ⟨_, _, (exec_copyComplete h hi n).trans (congrArg _ (hstep.trans he)), rfl,
    congrArg (delFirst (fun (r : Req) => r.id == q.id)) (State.jobs_eq_iff.1 hj).2.1, Exec.wg?_setWg_self' hwid hw, rfl, rfl⟩

/-- A whole copy to global memory waits with its lines under way. -/
theorem copyComplete_store (h : s.Starts q w) (hi : q.ins = .copy f) (hn : n = 0 ∨ q.copyLen ≤ n) (hp : 0 < q.copyLen)
    (hk : bits f.f 0 2 = 1) (hr : s.reqRanges q w [(opP q.ops 2, q.copyLen, true)] = .ok s1) (hl : s1.copyLines q w ≠ []) :
    ∃ t r, exec (.copyComplete q.id n) s = .next t ∧ t.mem = s1.mem ∧ t.host = s1.host ∧
      t.fab = (s1.reqWrite q w.die (s1.copyLines q w) 2 (copyHint f)).fab ∧ t.x.req? q.id = some r ∧ r.done = 2 ∧
      r.parts = [(0, q.copyLen)] ∧ r.out = (s1.copyLines q w).map (fun g => (g.line, g.va)) := by
  have hq : s1.x.req? q.id = some q := (State.req?_of_jobs (State.reqRanges_jobs hr) _).trans h.req
  obtain ⟨-, hs⟩ := State.reqWrite_req hq w.die (s1.copyLines q w) 2 (copyHint f)
  have ho : (q.sent (s1.copyLines q w)).out = (s1.copyLines q w).map (fun g => (g.line, g.va)) := by
    simp only [Req.sent, h.out, List.nil_append]
  have he := State.reqMoved_out (q := q.sent (s1.copyLines q w)) hs h.parts (by rw [ho]; simpa using hl) q.copyLen
  have hm := Prod.mk.inj (State.reqWrite_mh s1 q w.die (s1.copyLines q w) 2 (copyHint f))
  exact ⟨_, _, (exec_copyComplete h hi n).trans (congrArg _ ((State.copyStep_store h hn hk hr).trans he)), hm.1, hm.2, rfl,
    Exec.req?_setReq_self (r := (q.sent (s1.copyLines q w)).whole q.copyLen) hs, rfl, if_pos hp, ho⟩

end

/-! ### Drains (03_kernel_memory R73, 11_isa R286 to R288) -/

/-- A bank with every element written as zero. -/
def Core.cleared (k : Core) (bank : Nat) : Core :=
  (List.range 32).foldl (fun k row => k.accFill bank row 0 (List.replicate 128 0)) k

theorem Core.accGet_accPut_zero (k : Core) (bank row col b r c : Nat) :
    (k.accPut bank row col 0).accGet b r c = if accIdx b r c = accIdx bank row col then 0 else k.accGet b r c := by
  unfold Core.accGet Core.accPut cput cget
  dsimp only
  rw [if_pos rfl]
  split
  · rename_i h
    rw [h, cfind_cdel_self]; rfl
  · rename_i h
    rw [cfind_cdel_ne h]

/-- A fill with zeros leaves an element that is zero. -/
theorem Core.accFill_zero_keeps {k : Core} {b r c : Nat} (h : k.accGet b r c = 0) (bank row col n : Nat) :
    (k.accFill bank row col (List.replicate n 0)).accGet b r c = 0 := by
  induction n generalizing k col with
  | zero => exact h
  | succ n ih =>
    rw [List.replicate_succ]
    exact ih (by rw [Core.accGet_accPut_zero, h, ite_self]) (col + 1)

theorem Core.accFill_zero_get (k : Core) (bank row : Nat) {col c n : Nat} (hc : col ≤ c) (hn : c < col + n) :
    (k.accFill bank row col (List.replicate n 0)).accGet bank row c = 0 := by
  induction n generalizing k col with
  | zero => omega
  | succ n ih =>
    rw [List.replicate_succ]
    rcases Nat.eq_or_lt_of_le hc with rfl | hlt
    · exact Core.accFill_zero_keeps (by rw [Core.accGet_accPut_zero, if_pos rfl]) ..
    · exact ih (k.accPut bank row col 0) hlt (by omega)

theorem Core.accGet_fillRows (k : Core) (bank : Nat) {rows : List Nat} {row col n : Nat} (hr : row ∈ rows) (hc : col < n) :
    (rows.foldl (fun k r => k.accFill bank r 0 (List.replicate n 0)) k).accGet bank row col = 0 := by
  have keeps : ∀ (l : List Nat) (k : Core), k.accGet bank row col = 0 →
      (l.foldl (fun k r => k.accFill bank r 0 (List.replicate n 0)) k).accGet bank row col = 0 := by
    intro l
    induction l with
    | nil => exact fun _ h => h
    | cons r l ih => exact fun k h => ih _ (Core.accFill_zero_keeps h ..)
  induction rows generalizing k with
  | nil => cases hr
  | cons r rows ih =>
    rcases List.mem_cons.1 hr with rfl | hm
    · exact keeps rows _ (Core.accFill_zero_get k bank row (Nat.zero_le _) (by omega))
    · exact ih _ hm

theorem Core.cleared_accGet (k : Core) (bank : Nat) {row col : Nat} (hr : row < 32) (hc : col < 128) :
    (k.cleared bank).accGet bank row col = 0 := Core.accGet_fillRows k bank (List.mem_range.2 hr) hc

section
variable {f : KF} {s : State} {q : Req} {w : Wg} {g : Group}

/-- A drain that has read its band. -/
def Req.band (q : Req) (k : Core) : Req := { q with buf := k.drElems q.bank, done := 1 }

@[simp] theorem Req.band_id (q : Req) (k : Core) : (q.band k).id = q.id := rfl
@[simp] theorem Req.band_phase (q : Req) (k : Core) : (q.band k).phase = q.phase := rfl
@[simp] theorem Req.band_buf (q : Req) (k : Core) : (q.band k).buf = k.drElems q.bank := rfl

/-- The core after its band has been read, with Z or without. -/
def Core.afterRead (k : Core) (q : Req) (z : Bool) : Core := if z then k.cleared q.bank else k

/-- The scratchpad with a band stored in it, or added to what stands there. -/
def Wg.drained (w : Wg) (q : Req) (f : KF) (k : Core) : Mem :=
  (drBytes (decide (bits f.f 0 2 = 2)) (opW q.ops 2) q.phase (opW q.ops 3).toNat
    (fun o => if bits f.f 0 2 = 2 then w.scratch.get ((opP q.ops 0).toNat + o) else 0)
    ((List.range 4096).map (fun i => (i, opW (k.drElems q.bank) i)))).foldl (fun (m : Mem) b => m.set ((opP q.ops 0).toNat + b.1) b.2) w.scratch

@[simp] theorem Core.afterRead_false (k : Core) (q : Req) : k.afterRead q false = k := rfl

@[simp] theorem Core.bankDone_acc (k : Core) (clk id : Nat) : (k.bankDone clk id).acc = k.acc := rfl
theorem Core.bankDone_accGet (k : Core) (clk id b r c : Nat) : (k.bankDone clk id).accGet b r c = k.accGet b r c := rfl

/-- With Z the band reads zero. -/
theorem Core.afterRead_accGet (k : Core) (q : Req) (clk id : Nat) {row col : Nat} (hr : row < 32) (hc : col < 128) :
    ((k.afterRead q true).bankDone clk id).accGet q.bank row col = 0 := by
  unfold Core.afterRead
  rw [if_pos rfl, Core.bankDone_accGet]
  exact Core.cleared_accGet k q.bank hr hc

theorem State.drainRead_start (hd : q.done = 0) (z : Bool) : s.drainRead q w z =
    ({ s with x := (s.x.setCore w.die w.core ((s.x.core w.die w.core).afterRead q z)).setReq (q.band (s.x.core w.die w.core)) },
      q.band (s.x.core w.die w.core)) := by
  unfold State.drainRead
  rw [if_neg (fun hn => hn hd)]
  rfl

/-- A whole drain to the scratchpad. -/
theorem State.drainStep_scratch (h : s.Starts q w) (hm : bits f.f 0 2 % 2 = 0) :
    s.drainStep q w f = ((s.drainRead q w (bit f.f 2)).1.putWg (w.stored (w.drained q f (s.x.core w.die w.core)))).reqMoved q.id (0, 4096) 4096 := by
  have hlt : bits f.f 0 2 < 4 := Nat.mod_lt _ (by decide)
  have hr : s.reqRanges q w [] = .ok s := rfl
  have hb : s.reqBad q [] = none := rfl
  have hd : (s.drainRead q w (bit f.f 2)).2 = q.band (s.x.core w.die w.core) := by rw [State.drainRead_start h.done]
  have hsp : (s.drainRead q w (bit f.f 2)).1.drainSpan (q.band (s.x.core w.die w.core)) = (0, 4096) := by
    unfold State.drainSpan Req.band
    rw [State.drainRead_start h.done]
    simp [h.sel, h.parts]
  have ht : (q.band (s.x.core w.die w.core)).todo (0, 4096) = List.range 4096 := Req.todo_whole (q := q.band _) h.parts 4096
  unfold State.drainStep Wg.drained Wg.stored
  rcases (by omega : bits f.f 0 2 = 0 ∨ bits f.f 0 2 = 2) with h0 | h2
  · simp [h0, hr, hb, State.drainStore, hd, hsp, ht]
  · simp [h2, hr, hb, hd]
end

section
variable {f : KF} {s s1 : State} {q : Req} {w p : Wg} {g : Group} {pi : Nat}

theorem exec_drainPerform (h : s.Starts q w) (hi : q.ins = .accDrain f) : exec (.drainPerform q.id) s = .next (s.drainStep q w f) := by
  refine (h.reqGo _).trans ?_
  rw [hi]

/-- A whole drain to the scratchpad leaves with its band stored, and with Z the band reads zero. -/
theorem drainPerform_scratch (h : s.Starts q w) (hi : q.ins = .accDrain f) (ht : q.tok = none) (hg : w.grp? q.grp = some g)
    (hgi : g.idx = q.grp) (hm : bits f.f 0 2 % 2 = 0) :
    ∃ t w' g', exec (.drainPerform q.id) s = .next t ∧ t.mem = s.mem ∧ t.fab = s.fab ∧
      t.x.reqs = delFirst (fun r => r.id == q.id) s.x.reqs ∧ t.x.wg? q.wg = some w' ∧ w'.grp? q.grp = some g' ∧
      g'.stc = g.stc - 1 ∧ g'.s = g.s ∧ g'.lanes = g.lanes ∧ w'.scratch = w.drained q f (s.x.core w.die w.core) ∧
      (bit f.f 2 = false → (t.x.core w.die w.core).acc = (s.x.core w.die w.core).acc) ∧
      (bit f.f 2 = true → ∀ row col, row < 32 → col < 128 → (t.x.core w.die w.core).accGet q.bank row col = 0) := by
  have he := State.drainStep_scratch h hm
  rw [State.drainRead_start h.done] at he
  generalize s.x.core w.die w.core = k at he ⊢
  generalize 4096 = n at he
  generalize w.drained q f k = m at he ⊢
  generalize hu : State.putWg _ (w.stored m) = u at he
  have hwid : w.id = q.wg := Exec.wg?_id h.wg
  have hw : u.x.wg? q.wg = some (w.stored m) := by rw [← hu]; exact Exec.wg?_setWg_self' hwid h.wg
  have hq : u.x.req? q.id = some (q.band k) := by rw [← hu]; exact Exec.req?_setReq_self (r := q.band k) h.req
  have hc : u.x.core w.die w.core = k.afterRead q (bit f.f 2) := by rw [← hu]; exact Exec.core_setCore_self ..
  have hreqs : (u.x.delReq q.id).reqs = delFirst (fun r => r.id == q.id) s.x.reqs := by
    rw [← hu]; exact congrArg Exec.reqs (Exec.delReq_setReq s.x (q.band k))
  have hd := State.reqMoved_drain (q := q.band k) hq hw h.parts h.out hi n
  rw [Req.leave_group (q := q.band k) ht (u := w.stored m) hg, Wg.stored_die, Wg.stored_core, hc, Req.band_id] at hd
  refine ⟨_, _, { g with stc := g.stc - 1 }, (exec_drainPerform h hi).trans (congrArg _ (he.trans hd)), by rw [← hu]; rfl,
    by rw [← hu]; rfl, hreqs, Exec.wg?_setWg_self' hwid hw,
    hgi ▸ Wg.grp?_setGrp_self (g := { g with stc := g.stc - 1 }) (hgi.symm ▸ hg), rfl, rfl, rfl, rfl, ?_, ?_⟩
  · intro hz
    simp [hz]
  · intro hz row col hrow hcol
    rw [hz, Exec.core_setWg, Exec.core_delReq, Exec.core_setCore_self]
    exact k.afterRead_accGet q _ _ hrow hcol

/-! ### Base-die requests (03_kernel_memory R81, 11_isa R306) -/

/-- A base-die request that has started. -/
def Req.begun (q : Req) : Req := { q with done := 1 }

/-- The writes of a whole base-die request, by line of memory. -/
def State.bdeLines (s : State) (q : Req) (w : Wg) (bs : List (Nat × Byte)) : List LineWr :=
  s.lineWrs w (opP q.ops 2) ((List.range ((bs.length + 3) / 4)).flatMap (fun j => (bs.drop (4 * j)).take 4))

/-- A whole base-die request behind the started ones of its workgroup. -/
theorem State.bdeStep_whole {rs : List MRange} {out : State → List (Nat × Byte) × List MRange} (h : s.Starts q w)
    (hf : ∀ r ∈ s.x.reqs, r.wg = q.wg → r.id < q.id → r.isBde = true → r.done ≠ 0)
    (hr : ({ s with x := s.x.setReq q.begun } : State).reqRanges q.begun w rs = .ok s1)
    (ho : oneHome (s1.homesOf w.die w.asid rs).2 = true) (hb : s1.reqBlocked q.begun ((out s1).2.flatMap (s1.mapRange w)) = none) :
    s.bdeStep q w rs out = (s1.splitWrite q.begun (s1.bdeHome w rs) (s1.bdeLines q w (out s1).1)).reqMoved q.id
      (0, ((out s1).1.length + 3) / 4) (((out s1).1.length + 3) / 4) := by
  have hsel : s1.sel = 0 := (State.jobs_eq_iff.1 (State.reqRanges_jobs hr)).2.2.trans h.sel
  have hany : (s.x.reqs.any (fun r => r.wg == q.wg && decide (r.id < q.id) && r.isBde && r.done == 0)) = false := by
    rw [List.any_eq_false]
    intro r hm
    simp only [Bool.and_eq_true, beq_iff_eq, decide_eq_true_eq, not_and, and_imp]
    exact hf r hm
  have ht := fun n => Req.todo_whole (q := q.begun) h.parts n
  unfold State.bdeStep State.bdeLines
  unfold Req.begun at *
  rw [hany]
  simp [hr, ho, hb, State.span2_whole hsel, ht]

/-- A whole base-die request waits with its writes under way to the home of its pages. -/
theorem bdeRequestComplete_whole {rs : List MRange} {out : State → List (Nat × Byte) × List MRange} (h : s.Starts q w)
    (hi : exec (.bdeRequestComplete q.id) s = .next (s.bdeStep q w rs out))
    (hf : ∀ r ∈ s.x.reqs, r.wg = q.wg → r.id < q.id → r.isBde = true → r.done ≠ 0)
    (hr : ({ s with x := s.x.setReq q.begun } : State).reqRanges q.begun w rs = .ok s1)
    (ho : oneHome (s1.homesOf w.die w.asid rs).2 = true) (hb : s1.reqBlocked q.begun ((out s1).2.flatMap (s1.mapRange w)) = none)
    (hl : s1.bdeLines q w (out s1).1 ≠ []) (hn : 0 < ((out s1).1.length + 3) / 4) :
    ∃ t r w', exec (.bdeRequestComplete q.id) s = .next t ∧ t.mem = s1.mem ∧ t.host = s1.host ∧
      t.fab = (s1.splitWrite q.begun (s1.bdeHome w rs) (s1.bdeLines q w (out s1).1)).fab ∧ t.x.req? q.id = some r ∧ r.done = 2 ∧
      r.parts = [(0, ((out s1).1.length + 3) / 4)] ∧ r.out ≠ [] ∧ t.x.wg? q.wg = some w' ∧ w'.scratch = w.scratch ∧ w'.qs = w.qs := by
  have hj := State.reqRanges_jobs hr
  have hq : s1.x.req? q.begun.id = some q.begun := (State.req?_of_jobs hj _).trans (Exec.req?_setReq_self (r := q.begun) h.req)
  have hw : s1.x.wg? q.wg = some w := (State.wg?_of_jobs hj _).trans h.wg
  obtain ⟨hws, l, hlne, hs⟩ := State.splitWrite_req hq h.out (s1.bdeHome w rs) hl (State.lineWrs_bs s1 w _ _)
  have he := State.reqMoved_out (q := { q.begun with out := l }) hs h.parts hlne (((out s1).1.length + 3) / 4)
  have hm := Prod.mk.inj (State.splitWrite_mh s1 q.begun (s1.bdeHome w rs) (s1.bdeLines q w (out s1).1))
  refine ⟨_, _, w, hi.trans (congrArg _ ((State.bdeStep_whole h hf hr ho hb).trans he)), hm.1, hm.2, rfl,
    Exec.req?_setReq_self (r := Req.whole { q.begun with out := l } _) hs, rfl, if_pos hn, hlne, ?_, rfl, rfl⟩
  unfold Exec.wg? at hw ⊢
  rw [Exec.setReq_wgs, hws]
  exact hw

/-! ### Neighbour sends (05_tensor_mesh R132 to R135) -/

/-- The scratchpad of the peer after word j of a send or a reduction. -/
def Req.put (q : Req) (w : Wg) (m : Mem) (j : Nat) : Mem :=
  m.putBytes ((opW q.ops 1).toNat + 4 * j) (nbrBytes q.ins (m.bytes ((opW q.ops 1).toNat + 4 * j) 4)
    (w.scratch.bytes ((opW q.ops 0).toNat + 4 * j) 4))

/-- A word that meets no other sender's. -/
theorem State.nbrWord_alone (hm : ∀ b, s.x.nbrMixed q b = false) (dst i : Nat) (old new : List Byte) :
    s.nbrWord q dst i old new = (s, nbrBytes q.ins old new) := by
  unfold State.nbrWord
  split
  · rename_i f hf
    rw [if_neg (by simp [hm]), hf]
    rfl
  · rfl

theorem State.nbrPut_running (hp : s.x.wg? pi = some p) (hq : q.peer = some pi) (hst : p.st ≠ .dropping)
    (hm : ∀ b, s.x.nbrMixed q b = false) (j : Nat) : s.nbrPut q w j = s.putWg (p.stored (q.put w p.scratch j)) := by
  unfold State.nbrPut
  rw [hq, Option.bind_some, hp]
  dsimp only
  rw [if_neg hst, State.nbrWord_alone hm]
  rfl

/-- Some words written in the banks of a running peer, and nothing else. -/
theorem State.nbrPuts_running (l : List Nat) (hp : s.x.wg? pi = some p) (hq : q.peer = some pi) (hst : p.st ≠ .dropping)
    (hm : ∀ b, s.x.nbrMixed q b = false) {i : Nat} (hi : i ≠ pi) :
    let t := l.foldl (fun s j => s.nbrPut q w j) s
    t.x.wg? pi = some (p.stored (l.foldl (q.put w) p.scratch)) ∧ t.x.wg? i = s.x.wg? i ∧ t.x.reqs = s.x.reqs ∧ t.mem = s.mem := by
  induction l generalizing s p with
  | nil => exact ⟨hp, rfl, rfl, rfl⟩
  | cons j l ih =>
    have hid := Exec.wg?_id hp
    rw [List.foldl_cons, State.nbrPut_running hp hq hst hm]
    obtain ⟨h1, h2, h3, h4⟩ := ih (s := s.putWg (p.stored (q.put w p.scratch j))) (Exec.wg?_setWg_self' hid hp) hst hm
    exact ⟨h1, h2.trans (Exec.wg?_setWg_ne (by rw [Wg.stored_id, hid]; exact hi)), h3, h4⟩

theorem State.nbrPuts_gone (l : List Nat) (hp : s.x.wg? pi = none) (hq : q.peer = some pi) :
    l.foldl (fun s j => s.nbrPut q w j) s = s := by
  induction l with
  | nil => rfl
  | cons j l ih =>
    rw [List.foldl_cons, show s.nbrPut q w j = s by unfold State.nbrPut; rw [hq, Option.bind_some, hp]]
    exact ih

/-- A whole send, behind what its route and its workgroup sent before it. -/
theorem State.nbrStep_whole (h : s.Starts q w) (hl : ∀ d, s.peerDie q = some d → (s.netBefore q.id w.die d || s.gfxBefore q.id w.die d) = false)
    (hf : ∀ r ∈ s.x.reqs, r.wg = q.wg → r.peer = q.peer → q.id ≤ r.id ∨ ∀ h, r.ins ≠ .nbrSend h ∧ r.ins ≠ .nbrReduce h) :
    s.nbrStep q w = ((List.range ((opW q.ops 2).toNat / 4)).foldl (fun s j => s.nbrPut q w j) s).reqMoved q.id
      (0, (opW q.ops 2).toNat / 4) ((opW q.ops 2).toNat / 4) := by
  have hany : (s.x.reqs.any (fun r => r.isNbr && r.wg == q.wg && r.peer == q.peer && decide (r.id < q.id))) = false := by
    rw [List.any_eq_false]
    intro r hm
    simp only [Bool.and_eq_true, beq_iff_eq, decide_eq_true_eq, not_and, and_imp]
    intro hn hw hp hlt
    rcases hf r hm hw hp with hge | hne
    · omega
    · unfold Req.isNbr at hn
      split at hn
      · rename_i f hi
        exact (hne f).1 hi
      · rename_i f hi
        exact (hne f).2 hi
      · cases hn
  unfold State.nbrStep
  dsimp only
  rw [State.span2_whole h.sel, hany, Req.todo_whole h.parts, if_pos h.sel, Bool.or_false]
  refine if_neg ?_
  split
  · rw [hl _ ‹_›]; decide
  · decide

theorem exec_nbrWritePerformed (h : s.Starts q w) (hi : q.isNbr = true) : exec (.nbrWritePerformed q.id) s = .next (s.nbrStep q w) := by
  refine (h.reqGo _).trans ?_
  rw [if_pos hi]

end

section
variable {s : State} {q : Req} {w p : Wg} {g : Group} {pi : Nat}

/-- A send that leaves: its group's ST falls, and the workgroup is otherwise as it was. -/
theorem State.nbrLeave (hq : s.x.req? q.id = some q) (hw : s.x.wg? q.wg = some w) (hp : q.parts = []) (ho : q.out = [])
    (hi : q.isNbr = true) (ht : q.tok = none) (hg : w.grp? q.grp = some g) (n : Nat) :
    s.reqMoved q.id (0, n) n = { s with x := (s.x.delReq q.id).setWg (w.setGrp { g with stc := g.stc - 1 }) } := by
  rw [← Req.leave_group ht hg]
  refine State.reqMoved_leave hq hw hp ho (fun f hf => ?_) n
  rw [Req.isNbr, hf] at hi
  cases hi

/-- A whole send to a running peer writes its words there and leaves. -/
theorem nbrWritePerformed_running (h : s.Starts q w) (hi : q.isNbr = true) (hg : w.grp? q.grp = some g) (hgi : g.idx = q.grp)
    (ht : q.tok = none) (hpe : q.peer = some pi) (hne : pi ≠ q.wg)
    (hf : ∀ r ∈ s.x.reqs, r.wg = q.wg → r.peer = q.peer → q.id ≤ r.id ∨ ∀ h, r.ins ≠ .nbrSend h ∧ r.ins ≠ .nbrReduce h)
    (hp : s.x.wg? pi = some p) (hst : p.st ≠ .dropping) (hn : s.netBefore q.id w.die p.die = false)
    (hx : s.gfxBefore q.id w.die p.die = false) (hm : ∀ b, s.x.nbrMixed q b = false) :
    ∃ t p' w' g', exec (.nbrWritePerformed q.id) s = .next t ∧ t.mem = s.mem ∧ t.x.reqs = delFirst (fun r => r.id == q.id) s.x.reqs ∧
      t.x.wg? pi = some p' ∧ p' = p.stored ((List.range ((opW q.ops 2).toNat / 4)).foldl (q.put w) p.scratch) ∧
      t.x.wg? q.wg = some w' ∧ w'.scratch = w.scratch ∧ w'.grp? q.grp = some g' ∧ g' = { g with stc := g.stc - 1 } := by
  have hwid := Exec.wg?_id h.wg
  have hl : ∀ d, s.peerDie q = some d → (s.netBefore q.id w.die d || s.gfxBefore q.id w.die d) = false := by
    intro d hd
    unfold State.peerDie at hd
    rw [hpe, Option.bind_some, hp, Option.map_some, Option.some.injEq] at hd
    rw [← hd, hn, hx]; rfl
  have he := State.nbrStep_whole h hl hf
  obtain ⟨hpeer, hown, hreqs, hmem⟩ := State.nbrPuts_running (w := w) (List.range ((opW q.ops 2).toNat / 4)) hp hpe hst hm (Ne.symm hne)
  generalize (List.range ((opW q.ops 2).toNat / 4)).foldl (fun s j => s.nbrPut q w j) s = u at he hpeer hown hreqs hmem
  have hq : u.x.req? q.id = some q := by unfold Exec.req?; rw [hreqs]; exact h.req
  have hw : u.x.wg? q.wg = some w := hown.trans h.wg
  refine ⟨_, _, _, _, (exec_nbrWritePerformed h hi).trans (congrArg _ (he.trans (State.nbrLeave hq hw h.parts h.out hi ht hg _))), hmem,
    congrArg (delFirst (fun (r : Req) => r.id == q.id)) hreqs,
    (Exec.wg?_setWg_ne (by rw [Wg.setGrp_id, hwid]; exact hne)).trans hpeer, rfl,
    Exec.wg?_setWg_self' hwid hw, rfl, hgi ▸ Wg.grp?_setGrp_self (g := { g with stc := g.stc - 1 }) (hgi.symm ▸ hg), rfl⟩

/-- A send whose peer has gone is discarded and leaves (05_tensor_mesh R134). -/
theorem nbrWritePerformed_gone (h : s.Starts q w) (hi : q.isNbr = true) (hg : w.grp? q.grp = some g) (ht : q.tok = none)
    (hpe : q.peer = some pi)
    (hf : ∀ r ∈ s.x.reqs, r.wg = q.wg → r.peer = q.peer → q.id ≤ r.id ∨ ∀ h, r.ins ≠ .nbrSend h ∧ r.ins ≠ .nbrReduce h)
    (hp : s.x.wg? pi = none) :
    ∃ t w', exec (.nbrWritePerformed q.id) s = .next t ∧ t.mem = s.mem ∧ t.x.reqs = delFirst (fun r => r.id == q.id) s.x.reqs ∧
      t.x.wg? q.wg = some w' ∧ w' = w.setGrp { g with stc := g.stc - 1 } := by
  have he := State.nbrStep_whole h (fun d hd => by
    unfold State.peerDie at hd
    rw [hpe, Option.bind_some, hp] at hd
    cases hd) hf
  rw [State.nbrPuts_gone _ hp hpe] at he
  have hwid : w.id = q.wg := Exec.wg?_id h.wg
  exact ⟨_, _, (exec_nbrWritePerformed h hi).trans (congrArg _ (he.trans (State.nbrLeave h.req h.wg h.parts h.out hi ht hg _))), rfl, rfl,
    Exec.wg?_setWg_self' hwid h.wg, rfl⟩

/-- What a base-die request reads and writes. -/
theorem exec_bdeRequestComplete {f : KF} {i : Instr} {rs : List MRange} {out : State → List (Nat × Byte) × List MRange} (h : s.Starts q w)
    (hi : i = .bdeGather f ∧ rs = gatherRanges f q.ops ∧ out = (fun u => u.gatherOut q w f) ∨
      i = .bdeReduce f ∧ rs = reduceRanges q.ops ∧ out = (fun u => u.reduceOut q w f) ∨
      i = .bdeCvt f ∧ rs = cvtRanges q.ops ∧ out = (fun u => u.cvtOut q w)) (hq : q.ins = i) :
    exec (.bdeRequestComplete q.id) s = .next (s.bdeStep q w rs out) := by
  refine (h.reqGo _).trans ?_
  rcases hi with ⟨rfl, rfl, rfl⟩ | ⟨rfl, rfl, rfl⟩ | ⟨rfl, rfl, rfl⟩ <;> rw [hq]

end

/-- Settles O40: a request that may act is one that `State.Starts`; the event moves the whole of it, which each unit's `…Step` lemma
says, and `State.reqMoved_leave`, `State.reqMoved_drain` and `State.reqMoved_out` say whether it then leaves or waits. -/
theorem requestsPerformed : Obligations.RequestsPerformed := by
  unfold Obligations.RequestsPerformed
  refine ⟨?copy, ?drain, ?bde, ?nbr⟩
  case copy =>
    intro n f s s1 q w k hq hw hf ha hi ht hd hp ho hde hs hlen hn
    have h : s.Starts q w := ⟨hq, hw, hf, ha, hd, hp, ho, hde, hs⟩
    exact ⟨fun hk hr hb bs hc => copyComplete_load h hi ht hn hk hr hb hc,
      fun hk hr hl => copyComplete_store h hi hn hlen hk hr hl⟩
  case drain =>
    intro f s q w g hq hw hg hgi hf ha hi ht hd hp ho hde hs hm
    have hx := drainPerform_scratch ⟨hq, hw, hf, ha, hd, hp, ho, hde, hs⟩ hi ht hg hgi hm
    unfold Wg.drained at hx
    exact hx
  case bde =>
    intro f i s s1 q w k rs out hi hq hw hf ha hqi ht hd hp ho hde hs hbefore q1 hr hh hb n ls s2 hl hn
    have h : s.Starts q w := ⟨hq, hw, hf, ha, hd, hp, ho, hde, hs⟩
    exact bdeRequestComplete_whole h (exec_bdeRequestComplete h hi hqi) hbefore hr hh hb hl hn
  case nbr =>
    intro f i s q w p g pi hi hqi hq hw hg hgi hf ha ht hd hp ho hde hs hpe hne hbefore
    have h : s.Starts q w := ⟨hq, hw, hf, ha, hd, hp, ho, hde, hs⟩
    have hnbr : q.isNbr = true := by
      unfold Req.isNbr
      rcases hi with rfl | rfl <;> rw [hqi]
    subst hqi
    exact ⟨fun hpp hst hnet hgfx hm => nbrWritePerformed_running h hnbr hg hgi ht hpe hne hbefore hpp hst hnet hgfx hm,
      fun hpp => nbrWritePerformed_gone h hnbr hg ht hpe hbefore hpp⟩

end Sys2Proof.Machine

namespace Sys2Proof.Machine

/-! ### Putting a record into a ring leaves the graphics units alone (O45) -/

theorem foldl_gfx {α : Type} {f : State → α → State} (h : ∀ s a, (f s a).gfx = s.gfx) (l : List α) (s : State) :
    (l.foldl f s).gfx = s.gfx := by
  induction l generalizing s with
  | nil => rfl
  | cons a r ih => rw [List.foldl_cons, ih, h]

theorem State.sendPush_gfx (s : State) (h line : Nat) (u : Subscr) (img : BitVec 1024) : (s.sendPush h line u img).gfx = s.gfx := by
  unfold State.sendPush
  split <;> rfl

theorem State.pokeLine_gfx (s : State) (bs : List (Nat × Byte)) (line : Nat) : (s.pokeLine bs line).gfx = s.gfx := by
  unfold State.pokeLine State.pushStore
  dsimp only
  split
  · rfl
  · refine (foldl_gfx (fun s o => ?_) _ _).trans rfl
    split
    · split
      · rfl
      · exact State.sendPush_gfx ..
    · rfl

theorem State.bindPage_gfx {s t : State} {d asid : Nat} {va : DWord} {size : Nat} {e : DWord}
    (h : s.bindPage d asid va size e = some t) : t.gfx = s.gfx := by
  unfold State.bindPage at h
  dsimp only at h
  split at h
  · cases h
  · rw [← Option.some.inj h]
    refine (foldl_gfx (fun s k => ?_) _ _).trans rfl
    split
    · exact foldl_gfx (fun s l => State.pokeLine_gfx s _ l) _ _
    · rfl

theorem State.touch_gfx (s : State) (d asid : Nat) (va : DWord) : (s.touch d asid va).gfx = s.gfx := by
  unfold State.touch
  split
  · rfl
  · split
    · cases hb : s.bindPage d asid va _ _ with
      | none => rfl
      | some t => exact State.bindPage_gfx hb
    · rfl

theorem State.touchAll_gfx (s : State) (d asid : Nat) (va : DWord) (n : Nat) : (s.touchAll d asid va n).gfx = s.gfx := by
  unfold State.touchAll
  split
  · rfl
  · exact foldl_gfx (fun s i => State.touch_gfx s d asid _) _ _

theorem State.ringPut_gfx (s : State) (d asid : Nat) (va : DWord) (bs : List Byte) : (s.ringPut d asid va bs).gfx = s.gfx := by
  unfold State.ringPut State.pokeAll
  dsimp only
  split
  · exact (foldl_gfx (fun s l => State.pokeLine_gfx s _ l) _ _).trans (State.touchAll_gfx ..)
  · exact State.touchAll_gfx ..

/-! ### Walks see no graphics units -/

theorem State.freshBytes_setGdie (s : State) (k : Nat) (g : GDie) (pa n : Nat) :
    (s.setGdie k g).freshBytes pa n = s.freshBytes pa n := by
  induction n generalizing pa with
  | zero => rfl
  | succ n ih => exact congrArg (s.freshByte pa :: ·) (ih (pa + 1))

theorem State.freshNum_setGdie (s : State) (k : Nat) (g : GDie) (pa n : Nat) :
    (s.setGdie k g).freshNum pa n = s.freshNum pa n :=
  congrArg leNat (s.freshBytes_setGdie k g pa n)

theorem walkLeaf_setGdie (s : State) (k : Nat) (g : GDie) (asid va size : Nat) (e : DWord) :
    walkLeaf (s.setGdie k g) asid va size e = walkLeaf s asid va size e := rfl

theorem walkFrom_setGdie (s : State) (k : Nat) (g : GDie) (asid va level table : Nat) :
    walkFrom (s.setGdie k g) asid va level table = walkFrom s asid va level table := by
  induction level generalizing table with
  | zero => simp only [walkFrom, State.freshNum_setGdie, walkLeaf_setGdie]
  | succ level ih => simp only [walkFrom, State.freshNum_setGdie, walkLeaf_setGdie, State.setGdie_paExists, ih]

theorem State.walk_setGdie (s : State) (k : Nat) (g : GDie) (d asid : Nat) (va : DWord) :
    (s.setGdie k g).walk d asid va = s.walk d asid va := by
  have hroot : (s.setGdie k g).root asid d = s.root asid d := rfl
  simp only [State.walk, hroot, walkFrom_setGdie, State.setGdie_paExists]

/-! ### An entry replaced behind the others -/

theorem find?_filter_not_append {α : Type} {p : α → Bool} {v : α} (hv : p v = true) (l : List α) :
    (l.filter (fun x => !p x) ++ [v]).find? p = some v := by
  have hnone : (l.filter (fun x => !p x)).find? p = none := by
    rw [List.find?_eq_none]
    intro x hx
    simpa using (List.mem_filter.1 hx).2
  rw [List.find?_append, hnone, Option.none_or, List.find?_cons_of_pos hv]

theorem find?_filter_not_append_ne {α : Type} {p q : α → Bool} {v : α} (hv : q v = false) (hd : ∀ x, q x = true → p x = false) (l : List α) :
    (l.filter (fun x => !p x) ++ [v]).find? q = l.find? q := by
  have hpq : (fun x => decide ((!p x) = true ∧ q x = true)) = q := by
    funext x
    cases hq : q x with
    | false => simp
    | true => simp [hd x hq]
  rw [List.find?_append, List.find?_filter, hpq, List.find?_cons_of_neg (by simp [hv]), List.find?_nil, Option.or_none]

/-! ### A pass that still has a launch to be recorded -/

/-- Its end is not checked further, also after changes that leave the launches alone. -/
theorem State.passCheck_of_unrecorded {s t : State} {p : Nat} (hs : t.sch = s.sch) (h : ∃ l ∈ s.passLaunches p, l.st ≠ .recorded) :
    t.passCheck p = t := by
  obtain ⟨l, hl, hst⟩ := h
  have hl' : l ∈ t.passLaunches p := by
    unfold State.passLaunches at hl ⊢
    rwa [hs]
  have hall : (t.passLaunches p).all (fun l => l.st == .recorded) = false := by
    rw [List.all_eq_false]
    exact ⟨l, hl', by simpa using hst⟩
  unfold State.passCheck
  split
  · rfl
  · rw [hall]; simp

/-! ### Placing a workgroup -/

/-- The groups of a placed workgroup start with the preloaded words in their uniform registers (15_launch R333). -/
theorem Job.wg_groups_s {j : Job} {id age d c lcore base : Nat} {mctx : Option Nat} {words : List Word} {g : Group}
    (h : g ∈ (j.wg id age d c lcore base mctx words).groups) : g.s = (words ++ List.replicate 64 0).take 64 := by
  obtain ⟨i, -, rfl⟩ := List.mem_map.1 h
  rfl

/-- A core that fits a workgroup takes it behind the resident ones. -/
theorem State.placeOn_of_fits {s : State} {j : Job} {d c : Nat} (h : (s.jobFits j d c).isSome = true) (pre : List Word) :
    ∃ t id age lcore base mctx, s.placeOn j d c pre = some t ∧ t.mem = s.mem ∧ t.gfx = s.gfx ∧
      t.x.wgs = s.x.wgs ++ [j.wg id age d c lcore base mctx (j.head ++ pre)] := by
  obtain ⟨base, hb⟩ := Option.isSome_iff_exists.1 h
  unfold State.placeOn
  rw [hb]
  exact ⟨_, _, _, _, _, _, rfl, rfl, rfl, rfl⟩

theorem State.pickCore_fits {s : State} {j : Job} {d c : Nat} (h : s.pickCore j d = some c) : (s.jobFits j d c).isSome = true :=
  (List.mem_filter.1 (maxBy_mem h)).2

/-- A die that has a core for a workgroup takes it. -/
theorem State.placeIn_of_core {s : State} {j : Job} {d : Nat} (h : (s.pickCore j d).isSome = true) (pre : List Word) :
    ∃ t id age c lcore base mctx, s.placeIn j d pre = some t ∧ t.mem = s.mem ∧ t.gfx = s.gfx ∧
      t.x.wgs = s.x.wgs ++ [j.wg id age d c lcore base mctx (j.head ++ pre)] := by
  obtain ⟨c, hc⟩ := Option.isSome_iff_exists.1 h
  obtain ⟨t, id, age, lcore, base, mctx, ht⟩ := State.placeOn_of_fits (State.pickCore_fits hc) pre
  unfold State.placeIn
  rw [hc]
  exact ⟨t, id, age, c, lcore, base, mctx, ht⟩

/-! ### Children (04_render_mesh R99, 15_launch R454) -/

/-- On a die without task workgroups no group is parked on task.amp. -/
theorem State.ampWake_of_no_task {s : State} {d : Nat} (h : ∀ w ∈ s.x.wgs, w.die = d → w.stage ≠ 1) : s.ampWake d = s := by
  have hnone : s.x.wgs.filter (fun w => w.die == d && w.stage == 1) = [] := by
    rw [List.filter_eq_nil_iff]
    intro w hw
    simpa using h w hw
  unfold State.ampWake State.ampParked
  rw [hnone]; rfl

theorem ampQueueDequeue_starts {d : Nat} {s : State} {ch : Child} {rest : List Child} {l : Launch} {pre : List Word}
    (hamp : (s.gdie d).amp = ch :: rest) (hl : s.launch? ch.launch = some l) (hopen : l.open = true) (hdeal : s.dealStopped l = false)
    (hroom : s.roomFor l 1 = true) (hpre : s.preload l.asid l.tmpl = some pre) (hcore : ∀ n, (s.pickCore (l.childJob ch n) d).isSome = true)
    (htask : ∀ w ∈ s.x.wgs, w.die = d → w.stage ≠ 1) :
    ∃ t w, exec (.ampQueueDequeue d) s = .next t ∧ t.mem = s.mem ∧ t.gdie d = { s.gdie d with amp := rest } ∧ t.x.wgs = s.x.wgs ++ [w] ∧
      w.launch = l.id ∧ w.stage = 2 ∧ w.die = d ∧ w.task = ch.task ∧ w.mesh = ch.emit ∧
      ∀ g ∈ w.groups, g.s = (ch.words ++ pre ++ List.replicate 64 0).take 64 := by
  obtain ⟨t, id, age, c, lcore, base, mctx, ht, hmem, hgfx, hwgs⟩ :=
    State.placeIn_of_core (s := (s.assignIndex l.id).2) (hcore (s.assignIndex l.id).1) pre
  have hg : t.gdie d = s.gdie d := by unfold State.gdie; rw [hgfx]; rfl
  have hwake : (t.setGdie d { t.gdie d with amp := rest }).ampWake d = t.setGdie d { t.gdie d with amp := rest } := by
    refine State.ampWake_of_no_task fun w hw hd => ?_
    rcases List.mem_append.1 (hwgs ▸ hw) with hw | hw
    · exact htask w hw hd
    · rw [List.mem_singleton.1 hw]
      exact (by decide : (2 : Nat) ≠ 1)
  have hexec : exec (.ampQueueDequeue d) s = .next ((t.setGdie d { t.gdie d with amp := rest }).ampWake d) := by
    show execAmpQueueDequeue d s = _
    unfold execAmpQueueDequeue
    simp only [hamp, hl, hopen, hdeal, hroom, hpre, ht, Bool.not_true, Bool.or_self, Bool.false_eq_true, if_false]
  exact ⟨_, _, hexec.trans (congrArg _ hwake), hmem, by rw [State.setGdie_gdie_self, hg], hwgs, rfl, rfl, rfl, rfl, rfl,
    fun g hgr => Job.wg_groups_s hgr⟩

theorem overflowRingRefill_refills {d : Nat} {s : State} {ch : Child} {rest : List Child} (hring : (s.gdie d).ring = ch :: rest)
    (hcap : (s.gdie d).amp.length < 8192) (htask : ∀ w ∈ s.x.wgs, w.die = d → w.stage ≠ 1) :
    ∃ t, exec (.overflowRingRefill d) s = .next t ∧ t.mem = s.mem ∧ t.x = s.x ∧
      t.gdie d = { s.gdie d with amp := (s.gdie d).amp ++ [s.ampGet d ch], ring := rest } := by
  refine ⟨s.setGdie d { s.gdie d with amp := (s.gdie d).amp ++ [s.ampGet d ch], ring := rest }, ?_, rfl, rfl, State.setGdie_gdie_self ..⟩
  show execOverflowRingRefill d s = _
  unfold execOverflowRingRefill
  simp only [hring]
  exact (if_neg (Nat.not_le.2 hcap)).trans (congrArg _ (State.ampWake_of_no_task htask))

/-! ### Frontiers (04_render_mesh R104) -/

/-- One message to each of some dies: they follow those on their way, under consecutive numbers. -/
theorem State.foldl_gsend (s : State) (d : Nat) (k : GMsgK) (os : List Nat) :
    os.foldl (fun s o => s.gsend d o k) s =
      { s with
        gfx := { s.gfx with net := s.gfx.net ++ os.mapIdx (fun j o => { id := s.x.nextId + j, src := d, dst := o, k := k }) }
        x := { s.x with nextId := s.x.nextId + os.length } } := by
  induction os generalizing s with
  | nil => simp
  | cons o r ih =>
    rw [List.foldl_cons, ih]
    simp [State.gsend, List.mapIdx_cons, Nat.add_assoc, Nat.add_comm 1]

/-- A frontier that is due goes to every owner of its pass and is remembered. -/
theorem State.frontierGo_due {d p k v : Nat} {s : State} {ps : Pass} (hp : s.pass? p = some ps) (he : ps.ended = false)
    (hw : s.working d = true) (hf : s.frontier d p k = some v)
    (hdue : ∀ e, (s.gdie d).sent.find? (fun e => e.pass == p && e.stream == k) = some e → e.value < v ∧ e.at_ + 64 ≤ s.x.clk) :
    (s.frontierGo d p k).mem = s.mem ∧ (s.frontierGo d p k).x = { s.x with nextId := s.x.nextId + ps.active.length } ∧
      (s.frontierGo d p k).gfx.net = s.gfx.net ++ ps.active.mapIdx (fun j o => { id := s.x.nextId + j, src := d, dst := o, k := .frontier p k v }) ∧
      ((s.frontierGo d p k).gdie d).sent.find? (fun e => e.pass == p && e.stream == k) =
        some { pass := p, stream := k, value := v, at_ := s.x.clk } := by
  let sent := (s.gdie d).sent.filter (fun e => !(e.pass == p && e.stream == k)) ++ [{ pass := p, stream := k, value := v, at_ := s.x.clk }]
  have hgo : s.frontierGo d p k = ps.active.foldl (fun s o => s.gsend d o (.frontier p k v)) (s.setGdie d { s.gdie d with sent := sent }) := by
    unfold State.frontierGo
    simp only [hp, hf]
    refine if_neg ?_
    rw [he, hw]
    cases hs : (s.gdie d).sent.find? (fun e => e.pass == p && e.stream == k) with
    | none => simp
    | some e => simp [hdue e hs]
  rw [hgo, State.foldl_gsend]
  refine ⟨rfl, rfl, rfl, ?_⟩
  have hg : ((s.setGdie d { s.gdie d with sent := sent }).gdie d).sent = sent := by rw [State.setGdie_gdie_self]
  exact (congrArg (List.find? _) hg).trans (find?_filter_not_append (by simp) _)

theorem frontier_sends {i : Instr} {d p k v : Nat} {s : State} {ps : Pass} (hp : s.pass? p = some ps) (he : ps.ended = false)
    (hw : s.working d = true) (hf : s.frontier d p k = some v)
    (hi : i = .frontierSend d p k ∧ (s.gdie d).sent.find? (fun e => e.pass == p && e.stream == k) = none ∨
      ∃ e, (s.gdie d).sent.find? (fun e => e.pass == p && e.stream == k) = some e ∧ e.value < v ∧ e.at_ + 64 ≤ s.x.clk ∧
        (i = .frontierSend d p k ∨ i = .frontierHoldExpiry d p k)) :
    ∃ t, exec i s = .next t ∧ t.mem = s.mem ∧ t.x = { s.x with nextId := s.x.nextId + ps.active.length } ∧
      t.gfx.net = s.gfx.net ++ ps.active.mapIdx (fun j o => { id := s.x.nextId + j, src := d, dst := o, k := .frontier p k v }) ∧
      (t.gdie d).sent.find? (fun e => e.pass == p && e.stream == k) = some { pass := p, stream := k, value := v, at_ := s.x.clk } := by
  have hexec : exec i s = .next (s.frontierGo d p k) := by
    rcases hi with ⟨rfl, -⟩ | ⟨e, hs, -, -, rfl | rfl⟩
    · rfl
    · rfl
    · show execFrontierHoldExpiry d p k s = _
      unfold execFrontierHoldExpiry
      rw [hs]
  refine ⟨_, hexec, State.frontierGo_due hp he hw hf fun e hs => ?_⟩
  rcases hi with ⟨-, hn⟩ | ⟨e', hs', hv, ha, -⟩
  · rw [hn] at hs; cases hs
  · obtain rfl := Option.some.inj (hs'.symm.trans hs)
    exact ⟨hv, ha⟩

/-- With the entry of a source for a stream replaced, its frontier is the new value, and every other one is as before. -/
theorem GDie.front_replaced (g : GDie) (p k c v q j e : Nat) :
    GDie.front { g with fronts := g.fronts.filter (fun f => !(f.1 == p && f.2.1 == k && f.2.2.1 == c)) ++ [(p, k, c, v)] } q j e =
      if (q, j, e) = (p, k, c) then v else g.front q j e := by
  unfold GDie.front
  by_cases h : (q, j, e) = (p, k, c)
  · simp only [Prod.mk.injEq] at h
    obtain ⟨rfl, rfl, rfl⟩ := h
    simp only [if_true]
    rw [find?_filter_not_append (p := fun f : Nat × Nat × Nat × Nat => f.1 == q && f.2.1 == j && f.2.2.1 == e) (by simp)]
    rfl
  · rw [if_neg h, find?_filter_not_append_ne (p := fun f : Nat × Nat × Nat × Nat => f.1 == p && f.2.1 == k && f.2.2.1 == c)]
    · refine Bool.eq_false_iff.2 fun hx => ?_
      simp only [Bool.and_eq_true, beq_iff_eq, and_assoc] at hx
      obtain ⟨rfl, rfl, rfl⟩ := hx
      exact h rfl
    · rintro ⟨q', j', e', w⟩ hx
      refine Bool.eq_false_iff.2 fun hy => ?_
      simp only [Bool.and_eq_true, beq_iff_eq, and_assoc] at hx hy
      obtain ⟨rfl, rfl, rfl⟩ := hx
      obtain ⟨rfl, rfl, rfl⟩ := hy
      exact h rfl

theorem frontierArrival_enters {s : State} {n c d p k v : Nat} (h : s.gmsg = some { id := n, src := c, dst := d, k := .frontier p k v }) :
    ∃ t, exec .frontierArrival s = .next t ∧ t.mem = s.mem ∧ t.gfx.net = s.gfx.net.eraseIdx s.sel ∧ (t.gdie d).front p k c = v ∧
      ∀ q j e, (q, j, e) ≠ (p, k, c) → (t.gdie d).front q j e = (s.gdie d).front q j e := by
  have hexec : exec .frontierArrival s = .next (s.gtake.setGdie d { s.gdie d with
      fronts := (s.gdie d).fronts.filter (fun f => !(f.1 == p && f.2.1 == k && f.2.2.1 == c)) ++ [(p, k, c, v)] }) := by
    show execFrontierArrival s = _
    unfold execFrontierArrival
    rw [h]; rfl
  refine ⟨_, hexec, rfl, rfl, ?_, fun q j e hne => ?_⟩
  · rw [State.setGdie_gdie_self, GDie.front_replaced, if_pos rfl]
  · rw [State.setGdie_gdie_self, GDie.front_replaced, if_neg hne]

/-! ### Packets (04_render_mesh R105) -/

/-- Among one more places than there are packets in an area, one is free. -/
theorem exists_free_slot (area : List Pkt) : ∃ m, (List.range (area.length + 1)).find? (fun i => area.all (fun r => r.slot != some i)) = some m := by
  cases hf : (List.range (area.length + 1)).find? (fun i => area.all (fun r => r.slot != some i)) with
  | some m => exact ⟨m, rfl⟩
  | none =>
    have hsub : List.range (area.length + 1) ⊆ area.filterMap Pkt.slot := by
      intro i hi
      have htaken := List.find?_eq_none.1 hf i hi
      simp only [List.all_eq_true, bne_iff_ne, ne_eq, not_forall, not_not, exists_prop] at htaken
      exact List.mem_filterMap.2 htaken
    have hle := (List.nodup_range.subperm hsub).length_le
    have hfm := List.length_filterMap_le Pkt.slot area
    rw [List.length_range] at hle
    omega

/-- A packet or marker that finds a place on die, or no place in the area, stands on die. -/
theorem State.storePut_onDie {s : State} {d : Nat} {p : Pass} {q : Pkt}
    (h : (s.gdie d).onDie + s.pktsTo d p.id false < 4096 ∨ 2 ^ p.l ≤ ((s.gdie d).area p.id).length) :
    s.storePut d p q = s.setGdie d { s.gdie d with store := (s.gdie d).store ++ [{ q with slot := none }] } :=
  if_pos h

/-- Otherwise it takes a place of the area that no other packet has, and a packet's bytes go there. -/
theorem State.storePut_area {s : State} {d : Nat} {p : Pass} {q : Pkt}
    (hdie : 4096 ≤ (s.gdie d).onDie + s.pktsTo d p.id false) (harea : ((s.gdie d).area p.id).length < 2 ^ p.l) :
    ∃ m, m ≤ ((s.gdie d).area p.id).length ∧ (∀ r ∈ (s.gdie d).area p.id, r.slot ≠ some m) ∧
      (s.storePut d p q).gdie d = { s.gdie d with store := (s.gdie d).store ++ [{ q with slot := some m }] } ∧
      (∀ b, q.k = .prim b → (s.storePut d p q).mem = (s.ringPut d p.asid (p.roaVa d m) (natLe 64 b.toNat)).mem) ∧
      ((∀ b, q.k ≠ .prim b) → (s.storePut d p q).mem = s.mem) := by
  obtain ⟨m, hm⟩ := exists_free_slot ((s.gdie d).area p.id)
  have hfree := List.find?_some hm
  simp only [List.all_eq_true, bne_iff_ne] at hfree
  have hlt := List.mem_range.1 (List.mem_of_find?_eq_some hm)
  have hfull : ¬((s.gdie d).onDie + s.pktsTo d p.id false < onDieCap ∨ 2 ^ p.l ≤ ((s.gdie d).area p.id).length) := by
    have hcap : onDieCap = 4096 := rfl
    omega
  refine ⟨m, Nat.lt_succ_iff.1 hlt, hfree, ?_⟩
  unfold State.storePut
  rw [if_neg hfull, hm, Option.getD_some]
  refine ⟨State.setGdie_gdie_self .., fun b hb => ?_, fun hb => ?_⟩
  · rw [hb]; rfl
  · cases hk : q.k with
    | prim b => exact absurd hk (hb b)
    | occBegin cell => rfl
    | occEnd cell => rfl

theorem State.pass?_id {s : State} {p : Nat} {ps : Pass} (h : s.pass? p = some ps) : ps.id = p := by
  simpa using List.find?_some h

theorem exec_packetArrival {s : State} {n c d : Nat} {q : Pkt} {ps : Pass} (h : s.gmsg = some { id := n, src := c, dst := d, k := .pkt q })
    (hw : s.working d = true) (hp : s.pass? q.pass = some ps) (he : ps.ended = false) :
    exec .packetArrival s = .next (s.gtake.storePut d ps q) := by
  have hp' : s.gtake.pass? q.pass = some ps := hp
  show execPacketArrival s = _
  unfold execPacketArrival
  simp only [h, hp', hw, he, Bool.not_false, Bool.and_self, if_true]

/-! ### Released primitives and markers (04_render_mesh R107, R108, R115) -/

/-- Whether hierarchical depth rejects the block of a sample, given the covered samples of the primitive. -/
def State.sampleHidden (s : State) (p : Pass) (d : Nat) (all : List (Nat × Nat × Nat × Word)) (o : Nat × Nat × Nat × Word) : Bool :=
  (s.pixelOf p.id).isSome && !(s.pixFlags p.id).dw &&
    s.hzRejects p d (8 * (o.1 / 8)) (8 * (o.2.1 / 8)) ((all.filter (fun e => e.1 / 8 == o.1 / 8 && e.2.1 / 8 == o.2.1 / 8)).map (fun e => e.2.2.2))

/-- A released primitive adds its covered samples in order, without those of rejected blocks, as waiting fragments. -/
theorem State.addFrags_samples {s : State} {d : Nat} {p : Pass} {q : Pkt} {b : BitVec 512} {tri : Tri} (htri : triSetup b = some tri) :
    ∃ fs n, s.addFrags d p q b = ({ s with x := { s.x with nextId := n } }).setGdie d { s.gdie d with frags := (s.gdie d).frags ++ fs } ∧
      (∀ f ∈ fs, f.st = .wait ∧ f.pass = p.id ∧ f.token = q.token) ∧
      fs.map (fun f => (f.x, f.y, f.smp, f.depth)) = (p.samples d tri).filter (fun o => !s.sampleHidden p d (p.samples d tri) o) := by
  unfold State.addFrags
  rw [htri]
  dsimp only
  refine ⟨_, _, rfl, ?_, ?_⟩
  · intro f hf
    obtain ⟨i, hi, rfl⟩ := List.mem_mapIdx.1 hf
    exact ⟨rfl, rfl, rfl⟩
  · rw [List.mapIdx_eq_zipIdx_map, List.map_map]
    refine (List.zipIdx_map_fst 0 _).trans (List.filter_congr fun o ho => congrArg (!·) ?_)
    have hblock : (o.1 / 8, o.2.1 / 8) ∈ ((p.samples d tri).map (fun o => (o.1 / 8, o.2.1 / 8))).eraseDups :=
      List.mem_eraseDups.2 (List.mem_map.2 ⟨o, ho, rfl⟩)
    unfold State.sampleHidden
    split
    · rename_i hoff
      rcases Bool.or_eq_true_iff.1 hoff with hnone | hdw
      · simp [Option.isNone_iff_eq_none.1 hnone]
      · simp [hdw]
    · rename_i hon
      simp only [Bool.or_eq_true, not_or, Bool.not_eq_true, Option.isNone_eq_false_iff] at hon
      obtain ⟨hsome, hdw⟩ := hon
      rw [hsome, hdw, Bool.eq_iff_iff, List.contains_iff_mem, List.mem_filter]
      simp [hblock]

/-- The state in which a packet has left the store of its owner. -/
def State.unstored (s : State) (d : Nat) (q : Pkt) : State :=
  s.setGdie d { s.gdie d with store := delFirst (fun r => r == q) (s.gdie d).store }

section
variable {d p : Nat} {s : State} {ps : Pass} {q : Pkt} (hp : s.pass? p = some ps) (hq : s.releasable d p = some q) (hr : s.passRuns p = true)
include hp hq hr

theorem rasterisePrimitive_prim (hl : ∃ l ∈ s.passLaunches p, l.st ≠ .recorded) {b : BitVec 512} {tri : Tri}
    (hk : s.storeGet d ps q = .prim b) (htri : triSetup b = some tri) :
    ∃ t fs, exec (.rasterisePrimitive d p) s = .next t ∧ t.mem = s.mem ∧ (t.gdie d).store = delFirst (fun r => r == q) (s.gdie d).store ∧
      (t.gdie d).frags = (s.gdie d).frags ++ fs ∧ (∀ f ∈ fs, f.st = .wait ∧ f.pass = ps.id ∧ f.token = q.token) ∧
      fs.map (fun f => (f.x, f.y, f.smp, f.depth)) =
        (ps.samples d tri).filter (fun o => !(s.unstored d q).sampleHidden ps d (ps.samples d tri) o) := by
  obtain ⟨fs, n, hadd, hfs, hmap⟩ := (s.unstored d q).addFrags_samples (d := d) (p := ps) (q := q) htri
  have hsch : ((s.unstored d q).addFrags d ps q b).sch = s.sch := by rw [hadd]; rfl
  have hexec : exec (.rasterisePrimitive d p) s = .next (((s.unstored d q).addFrags d ps q b).passCheck p) := by
    show execRasterisePrimitive d p s = _
    unfold execRasterisePrimitive
    simp only [hp, hq, hr, hk, Bool.not_true, Bool.false_eq_true, if_false]
    rfl
  rw [State.passCheck_of_unrecorded hsch hl, hadd] at hexec
  refine ⟨_, fs, hexec, rfl, ?_, ?_, hfs, hmap⟩ <;> simp [State.unstored]

theorem rasterisePrimitive_occBegin {cell : Nat} (hk : s.storeGet d ps q = .occBegin cell) :
    ∃ t, exec (.rasterisePrimitive d p) s = .next t ∧ t.mem = s.mem ∧
      (t.gdie d).queries = (s.gdie d).queries ++ [{ pass := p, stream := q.stream, cell := cell, first := q.token }] := by
  have hexec : exec (.rasterisePrimitive d p) s = .next ((s.unstored d q).setGdie d { (s.unstored d q).gdie d with
      queries := ((s.unstored d q).gdie d).queries ++ [{ pass := p, stream := q.stream, cell := cell, first := q.token }] }) := by
    show execRasterisePrimitive d p s = _
    unfold execRasterisePrimitive
    simp only [hp, hq, hr, hk, Bool.not_true, Bool.false_eq_true, if_false]
    rfl
  exact ⟨_, hexec, rfl, by simp [State.unstored]⟩

end

/-! ### Depth tests (04_render_mesh R108, R113) -/

theorem State.fragDone_frags {s : State} {d : Nat} {f : Frag} {b : Bool} : ∀ e ∈ ((s.fragDone d f b).gdie d).frags, e.id ≠ f.id := by
  intro e he
  simp only [State.fragDone, State.setGdie_gdie_self] at he
  have hid := (List.mem_filter.1 he).2
  simp only [Bool.and_eq_true, bne_iff_ne] at hid
  exact hid.1

/-- A fragment that ends without a count changes no query. -/
theorem State.fragDone_queries (s : State) (d : Nat) (f : Frag) : ((s.fragDone d f false).gdie d).queries = (s.gdie d).queries := by
  simp [State.fragDone]

theorem State.setFrag_frags (s : State) (d : Nat) (f : Frag) :
    ((s.setFrag d f).gdie d).frags = updFirst (fun e => e.id == f.id) (fun _ => f) (s.gdie d).frags := by
  simp [State.setFrag]

theorem State.earlyTest_fails {s s0 : State} {p : Pass} {fl : PixFlags} {d pa : Nat} {f : Frag} (h : s.fragPage p d f false = .ok (s0, pa))
    (ht : p.test f.depth (s0.depthGet pa) = false) : s.earlyTest p fl d f = s0.fragDone d f false := by
  unfold State.earlyTest
  simp only [h, ht, Bool.not_false, if_true]

theorem State.earlyTest_passes {s s0 : State} {p : Pass} {fl : PixFlags} {d pa : Nat} {f : Frag} (h : s.fragPage p d f false = .ok (s0, pa))
    (ht : p.test f.depth (s0.depthGet pa) = true) (hnd : fl.nd = false) : s.earlyTest p fl d f = s0.setFrag d { f with st := .ready } := by
  unfold State.earlyTest
  simp only [h, ht, hnd, Bool.not_true, Bool.false_eq_true, if_false]

section
variable {d p f : Nat} {s : State} {ps : Pass} {fr : Frag} (hp : s.pass? p = some ps) (hr : s.passRuns p = true) (hfault : fr.fault = none)
  (hf : (s.gdie d).frags.find? (fun e => e.id == f && e.pass == p) = some fr)
include hp hr hfault hf

/-- Under DW every fragment is ready without an early test. -/
theorem depthTest_dw (hst : fr.st = .wait) (hs : s.sealed p = true) (hdw : (s.pixFlags p).dw = true) :
    exec (.depthTest d p f) s = .next (s.setFrag d { fr with st := .ready }) := by
  show execDepthTest d p f s = _
  unfold execDepthTest
  simp only [hp, hf, hr, hfault, hst, hs, hdw, Option.isSome_none, Bool.not_true, Bool.false_eq_true, if_false, if_true]

theorem depthTest_early (hst : fr.st = .wait) (hs : s.sealed p = true) (hdw : (s.pixFlags p).dw = false)
    (hheld : earlierHolds (s.pixFlags p) fr (s.gdie d).frags = false) :
    exec (.depthTest d p f) s = .next ((s.earlyTest ps (s.pixFlags p) d fr).passCheck p) := by
  show execDepthTest d p f s = _
  unfold execDepthTest
  simp only [hp, hf, hr, hfault, hst, hs, hdw, hheld, Option.isSome_none, Bool.not_true, Bool.false_eq_true, if_false]

theorem depthTest_trapped (hst : fr.st = .left) (htr : fr.trapped = true)
    (hheld : ((s.pixFlags p).dw && earlierHolds (s.pixFlags p) fr (s.gdie d).frags) = false) :
    exec (.depthTest d p f) s = .next ((s.fragDone d fr false).passCheck p) := by
  show execDepthTest d p f s = _
  unfold execDepthTest State.lateTest
  simp only [hp, hf, hr, hfault, hst, htr, hheld, Option.isSome_none, Bool.not_true, Bool.false_eq_true, if_false, if_true]

end

/-! ### Occlusion queries (04_render_mesh R117, R118) -/

/-- Where a walk meets no leaf to bind, finding the home of a page changes nothing. -/
theorem State.homeOf_of_not_bind {s : State} {d asid : Nat} {va : DWord} (h : ∀ size e, s.walk d asid va ≠ .bind size e) :
    (s.homeOf d asid va).1 = s := by
  unfold State.homeOf
  cases hw : s.walk d asid va with
  | notMapped => rfl
  | ok e => rfl
  | bind size e => exact absurd hw (h size e)

theorem occContribution_sends {d p i last : Nat} {s : State} {ps : Pass} {q : Query} (hp : s.pass? p = some ps)
    (hq : (s.gdie d).queries[i]? = some q) (hqp : q.pass = p) (hlast : q.last = some last)
    (hdone : ∀ e ∈ (s.gdie d).frags, e.pass = p → e.stream = q.stream → q.first ≤ e.token → e.token < last → e.st = .done) :
    let h := (s.setGdie d { s.gdie d with queries := (s.gdie d).queries.eraseIdx i }).cellHome d ps.asid q.cell
    exec (.occContribution d p i) s =
      .next (h.1.gsend d h.2 (.contrib p q.cell q.count 1 ps.asid (pageOf (BitVec.ofNat 64 q.cell)))) := by
  have hany : ¬(q.pass ≠ p ∨ (s.gdie d).frags.any (fun f => f.pass == p && f.stream == q.stream &&
      decide (q.first ≤ f.token ∧ f.token < last) && f.st != .done) = true) := by
    rintro (hne | hany)
    · exact hne hqp
    · obtain ⟨e, he, hpend⟩ := List.any_eq_true.1 hany
      simp only [Bool.and_eq_true, beq_iff_eq, decide_eq_true_eq, bne_iff_ne] at hpend
      obtain ⟨⟨⟨hpass, hstream⟩, hfirst, hlt⟩, hst⟩ := hpend
      exact hst (hdone e he hpass hstream hfirst hlt)
  show execOccContribution d p i s = _
  unfold execOccContribution
  simp only [hp, hq, hlast]
  exact if_neg hany

/-- The state in which a contribution or a zero has arrived at the home of its cell and waits there. -/
def State.cellArrived (s : State) (d : Nat) (o : CellOp) : State :=
  let r : State := { s.gtake with x := { s.x with nextId := s.x.nextId + 1 } }
  r.setGdie d { r.gdie d with cells := (r.gdie d).cells ++ [o] }

theorem exec_occCellUpdate_arrives {s : State} {m c d p cell count n asid vpage : Nat} (hsel : s.sel < 2 ^ 32)
    (h : s.gmsg = some { id := m, src := c, dst := d, k := .contrib p cell count n asid vpage }) (hw : s.working d = true) :
    let o : CellOp := { id := s.x.nextId, pass := p, cell := cell, count := count, zero := n == 0, asid := asid }
    exec .occCellUpdate s = .next ((s.cellArrived d o).cellGo d o) := by
  show execOccCellUpdate s = _
  unfold execOccCellUpdate
  rw [if_neg (Nat.not_le.2 hsel), h]
  exact if_neg (by rw [hw]; decide)

theorem exec_occCellUpdate_retries {s : State} {d : Nat} {o : CellOp} (hsel : 2 ^ 32 ≤ s.sel) (h : s.cellOp? (s.sel - 2 ^ 32) = some (d, o)) :
    exec .occCellUpdate s = .next (s.cellGo d o) := by
  show execOccCellUpdate s = _
  unfold execOccCellUpdate
  rw [if_pos hsel, h]

/-- A contribution waits for the zero of its cell. -/
theorem State.cellGo_waits {s : State} {d : Nat} {o : CellOp} (hz : o.zero = false) (h : s.zeroAhead o.asid o.cell = true) :
    s.cellGo d o = s := by
  unfold State.cellGo
  simp only [hz, h, Bool.not_false, Bool.and_self, Bool.or_true, if_true]

theorem State.cellGo_performs {s s1 : State} {d pa : Nat} {o : CellOp} (hfault : o.fault = none)
    (hahead : o.zero = false → s.zeroAhead o.asid o.cell = false)
    (hx : s.unitX d o.asid (BitVec.ofNat 64 o.cell) true o.id = (s1, .ok pa)) (hbad : s1.pchBad pa = false)
    (hlost : s1.lostAmong [pa] = none) (hread : s1.readable [pa] = true) :
    let ps := (s1.pass? o.pass).getD default
    let k := if o.zero then 0 else ((ps.contribs.find? (fun c => c.1 == o.cell)).map (fun c => c.2)).getD 0 + 1
    let new := if o.zero then 0 else cellAdd (s1.depthGet pa) o.count (k == ps.active.length)
    let w := (regsFrom pa 4).zip (natLe 4 new.toNat)
    s1.quietAll w = true →
    s.cellGo d o = (s1.engineWrite w { asid := some o.asid, vpages := [pageOf (BitVec.ofNat 64 o.cell)], cls := 1 }).cellDone d o k := by
  intro ps k new w hquiet
  have hgo : (o.fault.isSome || (!o.zero && s.zeroAhead o.asid o.cell)) = false := by
    cases hz : o.zero with
    | true => simp [hfault]
    | false => simp [hfault, hahead hz]
  unfold State.cellGo
  simp only [hgo, hx, hbad, hlost, hread, Option.isSome_none, Bool.or_self, Bool.not_true, Bool.false_eq_true, if_false]
  exact if_neg (by rw [hquiet]; decide)

theorem State.pass?_setPass_self {s : State} {p q : Pass} {i : Nat} (hi : p.id = i) (h : s.pass? i = some q) : (s.setPass p).pass? i = some p := by
  subst hi
  unfold State.pass? at h ⊢
  unfold State.setPass
  exact find?_updFirst_self (fun k => k.id == p.id) p (by simp) h

/-- A contribution performed counts for its cell in the pass, and the last one closes the cell's query. -/
theorem State.cellDone_counts {s : State} {d k : Nat} {o : CellOp} {ps : Pass} (hz : o.zero = false) (hp : s.pass? o.pass = some ps)
    (hl : ∃ l ∈ s.passLaunches o.pass, l.st ≠ .recorded) :
    (s.cellDone d o k).mem = s.mem ∧ ∃ q, (s.cellDone d o k).pass? o.pass = some q ∧ q.contribs.find? (fun c => c.1 == o.cell) = some (o.cell, k) ∧
      (k = ps.active.length → ∀ e ∈ q.opened, e.2.1 ≠ o.cell) := by
  let q : Pass := { ps with
    contribs := ps.contribs.filter (fun c => !(c.1 == o.cell)) ++ [(o.cell, k)]
    opened := if k == ps.active.length then ps.opened.filter (fun q => q.2.1 != o.cell) else ps.opened }
  have hp' : (s.delCell d o.id).pass? o.pass = some ps := hp
  have hdone : s.cellDone d o k = (s.delCell d o.id).setPass q := by
    refine Eq.trans ?_ (State.passCheck_of_unrecorded (s := s) (p := o.pass) rfl hl)
    unfold State.cellDone
    simp only [hp', hz]
    rfl
  rw [hdone]
  refine ⟨rfl, q, State.pass?_setPass_self (p := q) (State.pass?_id (ps := ps) hp) hp', find?_filter_not_append (by simp) _, fun hk e he => ?_⟩
  have hopen : q.opened = ps.opened.filter (fun q => q.2.1 != o.cell) := if_pos (by simpa using hk)
  rw [hopen] at he
  simpa using (List.mem_filter.1 he).2

/-- Settles O45: each event is one lemma of the parts above, from the state in which it finds its work. -/
theorem graphicsUnits : Obligations.GraphicsUnits := by
  unfold Obligations.GraphicsUnits
  refine ⟨?dequeue, ?refill, ?frontier, ?packet, ?frontArrival, ?raster, ?depth, ?contribution, ?update, ?retry, ?done⟩
  case dequeue =>
    intro d s ch rest l pre hamp hl hopen hdeal hroom hpre hcore htask
    exact ampQueueDequeue_starts hamp hl hopen hdeal hroom hpre hcore htask
  case refill =>
    intro d s ch rest hring hcap htask
    exact overflowRingRefill_refills hring hcap htask
  case frontier =>
    intro i d p k v s ps hp he hw hf hi
    exact frontier_sends hp he hw hf hi
  case packet =>
    intro s n c d q ps hm hw hp he g u
    have hexec := exec_packetArrival hm hw hp he
    refine ⟨fun h => ⟨_, hexec, ?_⟩, fun hdie harea => ?_⟩
    · rw [State.storePut_onDie (s := s.gtake) h]
      exact ⟨rfl, rfl, State.setGdie_gdie_self ..⟩
    · obtain ⟨m, hle, hfree, hg, hprim, hmark⟩ := State.storePut_area (s := s.gtake) (q := q) hdie harea
      exact ⟨_, m, hexec, hg, hle, hfree, hprim, hmark⟩
  case frontArrival =>
    intro s n c d p k v h
    exact frontierArrival_enters h
  case raster =>
    intro d p s ps q hp hq hr hl
    exact ⟨fun b tri hk htri => rasterisePrimitive_prim hp hq hr hl hk htri, fun cell hk => rasterisePrimitive_occBegin hp hq hr hk⟩
  case depth =>
    intro d p f s ps fr hp hr hfault hf
    refine ⟨fun hst hs hdw => ?_, fun hst htr hheld hl => ?_, fun s0 pa hst hs hdw hheld hpage hl => ⟨fun ht => ?_, fun ht hnd => ?_⟩⟩
    · exact ⟨_, depthTest_dw hp hr hfault hf hst hs hdw, rfl, State.setFrag_frags ..⟩
    · have hexec := depthTest_trapped hp hr hfault hf hst htr hheld
      rw [State.passCheck_of_unrecorded (t := s.fragDone d fr false) rfl hl] at hexec
      exact ⟨_, hexec, rfl, State.fragDone_queries .., State.fragDone_frags⟩
    · have hexec := depthTest_early hp hr hfault hf hst hs hdw hheld
      rw [State.earlyTest_fails hpage ht, State.passCheck_of_unrecorded (t := s0.fragDone d fr false) rfl hl] at hexec
      exact ⟨_, hexec, rfl, State.fragDone_queries .., State.fragDone_frags⟩
    · have hexec := depthTest_early hp hr hfault hf hst hs hdw hheld
      rw [State.earlyTest_passes hpage ht hnd, State.passCheck_of_unrecorded (t := s0.setFrag d { fr with st := .ready }) rfl hl] at hexec
      exact ⟨_, hexec, rfl, State.setFrag_frags ..⟩
  case contribution =>
    intro d p i last s ps q hp hq hqp hlast hdone h m
    refine ⟨_, occContribution_sends hp hq hqp hlast hdone, rfl, rfl, fun hwalk => ?_⟩
    have hsame : h.1 = s.setGdie d { s.gdie d with queries := (s.gdie d).queries.eraseIdx i } :=
      State.homeOf_of_not_bind fun size e => by rw [State.walk_setGdie]; exact hwalk size e
    show h.1.mem = s.mem ∧ (h.1.gdie d).queries = _ ∧ h.1.gfx.net ++ [m] = s.gfx.net ++ [m]
    rw [hsame, State.setGdie_gdie_self]
    exact ⟨rfl, rfl, rfl⟩
  case update =>
    intro s m c d p cell count n asid vpage hsel hm hw o r u
    have hexec : exec .occCellUpdate s = .next (u.cellGo d o) := exec_occCellUpdate_arrives hsel hm hw
    refine ⟨fun hn hz => ?_, ?_⟩
    · rw [hexec, State.cellGo_waits (by simpa [o] using hn) hz]
    · intro s1 pa hahead hx hbad hlost hread ps k new w hquiet
      have hperf := State.cellGo_performs (s := u) (o := o) rfl (fun hz => hahead (by simpa [o] using hz)) hx hbad hlost hread
      simp only [o, beq_iff_eq] at hperf
      rw [hexec]
      exact congrArg _ (hperf hquiet)
  case retry =>
    intro s i d o hsel hi ho
    rw [hi] at ho
    exact exec_occCellUpdate_retries hsel ho
  case done =>
    intro s d k o ps hz hp hl
    exact State.cellDone_counts hz hp hl

end Sys2Proof.Machine

namespace Sys2Proof.Machine

/-! ### A workgroup number used twice (O46) -/

/-- A record of graph launch 0 on core 0 of die 1, whose node the launch does not have. -/
def strayRec : GRec := { id := 1, graph := 0, words := [] }

/-- A workgroup on a core that die 0 does not have, whose number in the table of cores is that of core 0 of die 1. Its group
is parked on rec.push. -/
def strayWg : Wg := { die := 0, core := 16, groups := [{ park := .recPush [] 0 }] }

/-- The record is next on core 0 of die 1, where a workgroup with the number of the first one, 0, is not parked. -/
def strayState : State :=
  { State.reset with
    x := { wgs := [strayWg, { die := 1, groups := [{}] }], cores := [(coreNo 1 0, { deque := [strayRec] })], nextId := 2 }
    sch := { State.reset.sch with launches := [{ id := 0, queue := 0, pidx := 0, asid := 0, pkt := 0 }] } }

theorem exec_graphRecordRun_strayState :
    exec (.graphRecordRun 1 0 0) strayState = .next (((strayState.recDel 1 0 strayRec).skipRec strayRec).recWake 1 0) := rfl

/-- As the core's parked groups are tried again, the number leads to the other workgroup, whose record enters the deque. -/
theorem deque_strayState :
    ((((strayState.recDel 1 0 strayRec).skipRec strayRec).recWake 1 0).x.core 1 0).deque = [{ id := 2, graph := 0, words := [] }] := by
  decide

/-- Refutes O46 in its first clause: where two workgroups bear one number, retiring a record releases a group of the other
one, whose push may reach the deque of the record's core. The claim assumes neither that the numbers of workgroups differ
nor that a workgroup's core is one of its die's 16. -/
theorem not_graphAgents : ¬Obligations.GraphAgents := by
  rintro ⟨hrun, -⟩
  obtain ⟨hskip, -⟩ := hrun 1 0 0 strayState _ strayRec [] rfl rfl rfl rfl rfl
  obtain ⟨t, g, ht, -, hcore, -⟩ := hskip rfl rfl rfl (by decide)
  have hdeque := congrArg Core.deque hcore
  rw [← Host.Outcome.next.inj (exec_graphRecordRun_strayState.symm.trans ht), deque_strayState] at hdeque
  exact absurd hdeque (by decide)

end Sys2Proof.Machine

namespace Sys2Proof.Machine

/-! ### Walks and the translations that they cache (O50) -/

theorem walkLeaf_leaf {s : State} {asid va size : Nat} {e : DWord} {t : Tlb} (h : walkLeaf s asid va size e = .ok t) :
    t.asid = asid ∧ t.vpn = va / 2 ^ t.size := by
  unfold walkLeaf at h
  dsimp only at h
  repeat' split at h
  all_goals cases h
  exact ⟨rfl, rfl⟩

theorem walkFrom_leaf {s : State} {asid va level table : Nat} {t : Tlb} (h : walkFrom s asid va level table = .ok t) :
    t.asid = asid ∧ t.vpn = va / 2 ^ t.size := by
  induction level generalizing table with
  | zero =>
    unfold walkFrom at h
    dsimp only at h
    repeat' split at h
    · exact walkLeaf_leaf h
    · cases h
    · exact walkLeaf_leaf h
  | succ n ih =>
    unfold walkFrom at h
    dsimp only at h
    repeat' split at h
    · cases h
    · exact walkLeaf_leaf h
    · cases h
    · cases h
    · exact ih h

theorem State.walk_leaf {s : State} {d asid : Nat} {va : DWord} {t : Tlb} (h : s.walk d asid va = .ok t) :
    t.asid = asid ∧ t.vpn = va57 va / 2 ^ t.size := by
  unfold State.walk at h
  repeat' split at h
  · cases h
  · exact walkFrom_leaf h
  · cases h

/-- The newest entry of a TLB is the one found. -/
theorem tlbFind_tlbAdd {cap asid : Nat} {va : DWord} {e : Tlb} (hcap : 0 < cap) (he : e.asid = asid ∧ e.vpn = va57 va / 2 ^ e.size)
    (l : List Tlb) : tlbFind asid va (tlbAdd cap e l) = some e := by
  obtain ⟨n, rfl⟩ : ∃ n, cap = n + 1 := ⟨cap - 1, by omega⟩
  unfold tlbFind tlbAdd
  rw [List.take_succ_cons, List.find?_cons_of_pos (by simp [he])]

theorem State.cached_cache {s : State} {d asid : Nat} {va : DWord} {e : Tlb} (h : s.walk d asid va = .ok e) (c : Nat) :
    (s.cache d c e).cached d c asid va = some e := by
  unfold State.cached State.cache
  dsimp only
  rw [State.setDie_x, Exec.core_setCore_self, tlbFind_tlbAdd (by decide) (State.walk_leaf h)]

/-! ### What trying an access again leaves as it is (O50) -/

/-- What the translation of a global access does not touch: the memories, the fabric, the table-update engine, the cores. -/
def State.surround (s : State) : Mem × Mem × Fabric × Tue × Cells Core := (s.mem, s.host, s.fab, s.tue, s.x.cores)

theorem State.surround_eq_iff {s t : State} : t.surround = s.surround ↔
    t.mem = s.mem ∧ t.host = s.host ∧ t.fab = s.fab ∧ t.tue = s.tue ∧ t.x.cores = s.x.cores := by
  simp only [State.surround, Prod.mk.injEq]

theorem State.cached_of_surround {s t : State} (h : t.surround = s.surround) (d c asid : Nat) (va : DWord) :
    t.cached d c asid va = s.cached d c asid va := by
  obtain ⟨-, -, hfab, -, hcores⟩ := State.surround_eq_iff.1 h
  unfold State.cached Exec.core State.die
  rw [hfab, hcores]

/-- A part of the state that every step of a fold leaves as it is. -/
theorem foldl_keeps {α β : Type} {π : State → β} {f : State → α → State} (h : ∀ s a, π (f s a) = π s) (l : List α) (s : State) :
    π (l.foldl f s) = π s := by
  induction l generalizing s with
  | nil => rfl
  | cons a r ih => rw [List.foldl_cons, ih, h]

/-- A property of the state that every step of a fold keeps. -/
theorem foldl_holds {α : Type} {Q : State → Prop} {f : State → α → State} {s : State} (hf : ∀ s a, Q s → Q (f s a)) (l : List α) (hs : Q s) :
    Q (l.foldl f s) := by
  induction l generalizing s with
  | nil => exact hs
  | cons a r ih => exact ih (hf s a hs)

/-- An access of the number is a load or a store of the program. -/
def State.HasGlobal (s : State) (id : Nat) : Prop := ∃ a, s.x.acc? id = some a ∧ (a.kind = .load ∨ a.kind = .store)

theorem Exec.acc?_id {x : Exec} {i : Nat} {a : Access} (h : x.acc? i = some a) : a.id = i := by
  simpa using List.find?_some h

theorem Exec.acc?_setAcc_self {x : Exec} {a b : Access} {i : Nat} (h : x.acc? i = some b) (ha : a.id = i) : (x.setAcc a).acc? i = some a := by
  subst ha
  unfold Exec.acc? at h ⊢
  exact find?_updFirst_self (fun u => u.id == a.id) a (by simp) h

theorem State.accFault_surround (s : State) (w : Wg) (a : Access) (k code : Nat) (va : DWord) :
    (s.accFault w a k code va).surround = s.surround := by
  unfold State.accFault
  dsimp only
  split <;> rfl

theorem State.accLane_surround (s : State) (id k : Nat) : (s.accLane id k).surround = s.surround := by
  unfold State.accLane
  repeat' split
  · rfl
  · rfl
  · rfl
  · exact State.accFault_surround ..
  · rfl
  · rfl

theorem State.accPark_surround (s : State) (id : Nat) : (s.accPark id).surround = s.surround := by
  unfold State.accPark
  repeat' split
  all_goals rfl

theorem State.accMove_surround (s : State) (id : Nat) : (s.accMove id).surround = s.surround :=
  (State.accPark_surround ..).trans (foldl_keeps (fun s k => State.accLane_surround s id k) _ _)

/-- A fault met by a lane leaves the access where it is, of the same kind. -/
theorem State.accFault_acc {s : State} {w : Wg} {a : Access} {id : Nat} (h : s.x.acc? id = some a) (k code : Nat) (va : DWord) :
    ∃ b, (s.accFault w a k code va).x.acc? id = some b ∧ b.kind = a.kind := by
  have hid := Exec.acc?_id h
  unfold State.accFault
  dsimp only
  split
  · exact ⟨_, Exec.acc?_setAcc_self h hid, rfl⟩
  · exact ⟨_, Exec.acc?_setAcc_self (x := { s.x with nextId := s.x.nextId + 1 }) h hid, rfl⟩

theorem State.HasGlobal.accLane {s : State} {id : Nat} (h : s.HasGlobal id) (k : Nat) : (s.accLane id k).HasGlobal id := by
  obtain ⟨a, ha, hk⟩ := h
  have hid := Exec.acc?_id ha
  unfold State.accLane
  rw [ha]
  dsimp only
  repeat' split
  · exact ⟨a, ha, hk⟩
  · exact ⟨_, Exec.acc?_setAcc_self ha hid, hk⟩
  · obtain ⟨b, hb, hbk⟩ := State.accFault_acc (w := ‹Wg›) ha k ‹Nat› ‹DWord›
    exact ⟨b, hb, by rwa [hbk]⟩
  · exact ⟨a, ha, hk⟩
  · exact ⟨a, ha, hk⟩

theorem State.accPark_accs (s : State) (id : Nat) : (s.accPark id).x.accs = s.x.accs ∧ (s.accPark id).sch = s.sch := by
  unfold State.accPark
  repeat' split
  all_goals exact ⟨rfl, rfl⟩

theorem State.HasGlobal.accMove {s : State} {id : Nat} (h : s.HasGlobal id) : (s.accMove id).HasGlobal id := by
  obtain ⟨a, ha, hk⟩ := foldl_holds (Q := fun u => u.HasGlobal id) (fun u k hu => hu.accLane k)
    (List.range (((s.x.acc? id).map (fun a => a.lanes.length)).getD 0)) h
  refine ⟨a, ?_, hk⟩
  unfold State.accMove Exec.acc?
  rw [(State.accPark_accs ..).1]
  exact ha

/-- A load or a store has no status to take and no fetch to release. -/
theorem State.HasGlobal.retry {s : State} {id : Nat} (h : s.HasGlobal id) : s.retry id = s.accMove id := by
  obtain ⟨a, ha, hk⟩ := h.accMove
  have hsub : (s.accMove id).subGo id = s.accMove id := by
    unfold State.subGo
    rw [ha]
    rcases hk with hk | hk <;> simp [hk]
  have hfetch : (s.accMove id).fetchSettle id = s.accMove id := by
    unfold State.fetchSettle
    rw [ha]
    rcases hk with hk | hk <;> simp [hk]
  unfold State.retry State.accTry
  rw [hsub, hfetch]

theorem State.HasGlobal.retry_surround {s : State} {id : Nat} (h : s.HasGlobal id) : (s.retry id).surround = s.surround := by
  rw [h.retry]
  exact State.accMove_surround s id

/-- The lane of an access does not move: it does not wait, or it waits for a walk. -/
def State.Still (s : State) (a : Access) (l : LaneAcc) : Prop :=
  l.st ≠ .wait ∨ ∃ w va, s.x.wg? a.wg = some w ∧ s.rangeX w a.kind.writes (a.kind == .fetch) l.va a.width = .walk va

theorem State.Still.accLane {s : State} {a : Access} {l : LaneAcc} {id : Nat} (h : s.Still a l) (ha : s.x.acc? id = some a)
    (hl : a.lanes = [l]) : s.accLane id 0 = s := by
  unfold State.accLane
  rw [ha]
  simp only [hl]
  rcases h with hst | ⟨w, va, hw, hx⟩
  · cases s.x.wg? a.wg <;> simp [hst]
  · simp only [hw, List.getElem?_cons_zero, hx]
    split <;> rfl

/-- An access whose only lane does not move is as it was when it has been tried again. -/
theorem State.Still.retry {s : State} {a : Access} {l : LaneAcc} {id : Nat} (h : s.Still a l) (ha : s.x.acc? id = some a)
    (hk : a.kind = .load ∨ a.kind = .store) (hl : a.lanes = [l]) : (s.retry id).x.acc? id = some a ∧ (s.retry id).sch = s.sch := by
  have hmove : s.accMove id = s.accPark id := by
    unfold State.accMove
    rw [ha]
    simp only [hl, Option.map_some, Option.getD_some, List.length_singleton, List.range_one, List.foldl_cons, List.foldl_nil]
    rw [h.accLane ha hl]
  obtain ⟨haccs, hsch⟩ := State.accPark_accs s id
  rw [State.HasGlobal.retry ⟨a, ha, hk⟩, hmove]
  refine ⟨?_, hsch⟩
  unfold Exec.acc?
  rw [haccs]
  exact ha

/-! ### Walks and binds that wait for a page (O50) -/

section
variable {s : State} {a : Access} {l : LaneAcc} {w : Wg} {va : DWord}

theorem State.walkLane_single (hl : a.lanes = [l]) (h : s.walkLane a w = some (0, .walk va)) :
    l.st = .wait ∧ s.x.blocked a l = false ∧ s.rangeX w a.kind.writes (a.kind == .fetch) l.va a.width = .walk va := by
  unfold State.walkLane at h
  simp only [hl, List.length_singleton, List.range_one, List.findSome?_cons, List.findSome?_nil, List.getElem?_cons_zero] at h
  by_cases hst : l.st ≠ .wait ∨ s.x.blocked a l = true
  · simp [hst] at h
  · obtain ⟨hwait, hfree⟩ := not_or.1 hst
    rw [if_neg hst] at h
    cases hx : s.rangeX w a.kind.writes (a.kind == .fetch) l.va a.width <;> simp [hx] at h
    exact ⟨not_not.1 hwait, by simpa using hfree, by rw [h]⟩

/-- The access with its only lane held for a fault under the next identifier. -/
def Access.heldFor (a : Access) (l : LaneAcc) (w : Wg) (code i : Nat) (va : DWord) : Access :=
  { a with lanes := [{ l with st := .fault code i va }], skid := min 65535 (((w.grp? a.grp).getD {}).issued - a.skid0) }

theorem State.accFault_single (hl : a.lanes = [l]) (hst : l.st = .wait) (ha : s.x.acc? a.id = some a) (code : Nat) :
    (s.accFault w a 0 code va).x.acc? a.id = some (a.heldFor l w code s.x.nextId va) ∧
      ∃ n, (s.accFault w a 0 code va).sch.pend =
        s.sch.pend ++ [{ ring := faultRing, body := faultBody (0x4000 + code) w.asid w.die s.x.nextId va n w.lcore 0 }] := by
  unfold State.accFault
  simp only [hl, List.findSome?_cons, List.findSome?_nil, hst, List.getElem?_cons_zero, Option.getD_some]
  exact ⟨Exec.acc?_setAcc_self (x := { s.x with nextId := s.x.nextId + 1 }) ha rfl, _, rfl⟩

theorem State.pageFault_single (ha : s.x.acc? a.id = some a) (hl : a.lanes = [l]) (hwalk : s.walkLane a w = some (0, .walk va))
    (code : Nat) : s.pageFault w a.id code va = s.accFault w a 0 code va := by
  obtain ⟨hst, hfree, hx⟩ := State.walkLane_single hl hwalk
  unfold State.pageFault
  simp [ha, hl, hst, hfree, hx]

/-- An access whose page has met a fault is held with it, and the driver is told once (19_traps R411, R413). -/
theorem State.pageFault_retry (ha : s.x.acc? s.sel = some a) (hk : a.kind = .load ∨ a.kind = .store) (hl : a.lanes = [l])
    (hwalk : s.walkLane a w = some (0, .walk va)) (code : Nat) :
    ((s.pageFault w a.id code va).retry a.id).x.acc? s.sel = some (a.heldFor l w code s.x.nextId va) ∧
      ∃ n, ((s.pageFault w a.id code va).retry a.id).sch.pend =
        s.sch.pend ++ [{ ring := faultRing, body := faultBody (0x4000 + code) w.asid w.die s.x.nextId va n w.lcore 0 }] := by
  have hid := Exec.acc?_id ha
  rw [← hid] at ha ⊢
  rw [State.pageFault_single ha hl hwalk]
  obtain ⟨hst, -, -⟩ := State.walkLane_single hl hwalk
  obtain ⟨hacc, n, hpend⟩ := State.accFault_single (w := w) (va := va) hl hst ha code
  have hstill : (s.accFault w a 0 code va).Still (a.heldFor l w code s.x.nextId va) { l with st := .fault code s.x.nextId va } := .inl (by simp)
  obtain ⟨haft, hsch⟩ := hstill.retry hacc hk rfl
  exact ⟨haft, n, by rw [hsch, hpend]⟩

theorem State.retry_mem (s : State) (id : Nat) : (s.retry id).mem = s.mem := congrArg Prod.fst (State.retry_mh s id)

theorem State.pageFault_mem (s : State) (w : Wg) (id code : Nat) (va : DWord) : (s.pageFault w id code va).mem = s.mem :=
  congrArg Prod.fst (State.pageFault_mh s w id code va)

theorem State.cache_hasGlobal (ha : s.x.acc? s.sel = some a) (hk : a.kind = .load ∨ a.kind = .store) (d c : Nat) (e : Tlb) :
    (s.cache d c e).HasGlobal a.id := by
  rw [← Exec.acc?_id ha] at ha
  exact ⟨a, ha, hk⟩

/-- A leaf that permits the access is cached, and the lane that waited is tried. -/
theorem exec_pageWalk_leaf (ha : s.x.acc? s.sel = some a) (hk : a.kind = .load ∨ a.kind = .store) (hw : s.x.wg? a.wg = some w)
    (hwalk : s.walkLane a w = some (0, .walk va)) {e : Tlb} (he : s.walk w.die w.asid va = .ok e)
    (hok : ∃ e' pa, xlateLeaf e va a.kind.writes false = .ok e' pa) :
    ∃ t, exec .pageWalk s = .next t ∧ t.mem = s.mem ∧ t.cached w.die w.core w.asid va = some e := by
  obtain ⟨e', pa, hok⟩ := hok
  have hfetch : (a.kind == AccKind.fetch) = false := by rcases hk with hk | hk <;> simp [hk]
  refine ⟨(s.cache w.die w.core e).retry a.id, ?_, ?_, ?_⟩
  · show execPageWalk s = _
    unfold execPageWalk
    simp only [ha, hw, hwalk, he, hfetch, hok]
  · exact (State.retry_mem ..).trans rfl
  · rw [State.cached_of_surround (State.cache_hasGlobal ha hk ..).retry_surround, State.cached_cache he]

theorem exec_pageWalk_notMapped (ha : s.x.acc? s.sel = some a) (hw : s.x.wg? a.wg = some w)
    (hwalk : s.walkLane a w = some (0, .walk va)) (hn : s.walk w.die w.asid va = .notMapped) :
    exec .pageWalk s = .next ((s.pageFault w a.id 1 va).retry a.id) := by
  show execPageWalk s = _
  unfold execPageWalk
  simp only [ha, hw, hwalk, hn]

theorem exec_firstTouchBind_empty (ha : s.x.acc? s.sel = some a) (hw : s.x.wg? a.wg = some w)
    (hwalk : s.walkLane a w = some (0, .walk va)) {size : Nat} {x : DWord} (hb : s.walk w.die w.asid va = .bind size x)
    (hn : s.bindPage w.die w.asid va size x = none) : exec .firstTouchBind s = .next ((s.pageFault w a.id 12 va).retry a.id) := by
  show execFirstTouchBind s = _
  unfold execFirstTouchBind
  simp only [ha, hw, hwalk, hb, hn]

end

/-! ### The writes of the tables leave the accesses as they are (O50) -/

theorem State.sendPush_accs (s : State) (h line : Nat) (u : Subscr) (img : BitVec 1024) : (s.sendPush h line u img).x.accs = s.x.accs := by
  unfold State.sendPush
  split <;> rfl

theorem State.pushStore_accs (s : State) (h line : Nat) (img : BitVec 1024) : (s.pushStore h line img).x.accs = s.x.accs := by
  unfold State.pushStore
  split
  · rfl
  · refine (foldl_keeps (π := fun s => s.x.accs) (fun s o => ?_) _ _).trans rfl
    split
    · split
      · rfl
      · exact State.sendPush_accs ..
    · rfl

theorem State.pokeLine_accs (s : State) (bs : List (Nat × Byte)) (line : Nat) : (s.pokeLine bs line).x.accs = s.x.accs := by
  unfold State.pokeLine
  exact (State.pushStore_accs ..).trans rfl

theorem State.poke_accs (s : State) (pa : Nat) (bs : List Byte) : (s.poke pa bs).x.accs = s.x.accs :=
  foldl_keeps (π := fun s => s.x.accs) (fun s l => State.pokeLine_accs s _ l) _ _

theorem State.setLeaf_accs (s : State) (asid : Nat) (va : DWord) (f : Nat → DWord → DWord) : (s.setLeaf asid va f).x.accs = s.x.accs := by
  unfold State.setLeaf
  refine foldl_keeps (π := fun s => s.x.accs) (fun s d => ?_) _ _
  split
  · exact State.poke_accs ..
  · rfl

/-! ### First touches (O50) -/

theorem Die.pool_poolHead (k : Die) (size n : Nat) : ((k.poolHead size n).pool size).2.2.1 = n := by
  unfold Die.pool Die.poolHead
  by_cases h : size = 12
  · simp [h]
  · simp [h]

theorem Mem.get_filter_out (m : Mem) (p : Nat → Bool) {k : Nat} (h : p k = false) : Mem.get (List.filter (fun c => p c.1) m) k = 0 := by
  have hnone : cfind k (List.filter (fun c => p c.1) m) = none := by
    induction m with
    | nil => rfl
    | cons c r ih =>
      rw [List.filter_cons]
      split
      · rename_i hc
        obtain ⟨j, v⟩ := c
        have hne : j ≠ k := by rintro rfl; simp [h] at hc
        simp only [cfind, if_neg hne]
        exact ih
      · exact ih
  unfold Mem.get cget
  rw [hnone]
  rfl

theorem State.zeroRange_zero (s : State) {pa n k : Nat} (hlo : pa ≤ k) (hhi : k < pa + n) : (s.zeroRange pa n).mem.get k = 0 :=
  Mem.get_filter_out s.mem (fun c => !(decide (pa ≤ c ∧ c < pa + n))) (by simp [hlo, hhi])

theorem State.HasGlobal.of_accs {s t : State} {id : Nat} (h : s.HasGlobal id) (ht : t.x.accs = s.x.accs) : t.HasGlobal id := by
  obtain ⟨a, ha, hk⟩ := h
  exact ⟨a, by unfold Exec.acc?; rw [ht]; exact ha, hk⟩

/-- A touch of a page takes the frame at the head of the pool of the die that the bind names. -/
theorem State.bindPage_takes {s : State} {d asid size : Nat} {va x : DWord} (hd : s.working (s.bindDie d va x) = true)
    (hon : ((s.die (s.bindDie d va x)).pool size).2.1 ≠ 0)
    (hfull : ((s.die (s.bindDie d va x)).pool size).2.2.1 ≠ ((s.die (s.bindDie d va x)).pool size).2.2.2) :
    let t := s.bindDie d va x
    let p := (s.die t).pool size
    let dev := s.pkg.dev * 2 ^ 46
    let frame := dev + s.freshNum (dev + p.1 % 2 ^ 46 + 8 * (p.2.2.1 % 2 ^ p.2.1)) 8 % 2 ^ 46 / 4096 * 4096
    s.bindPage d asid va size x = some (((s.setDie t ((s.die t).poolHead size ((p.2.2.1 + 1) % 2 ^ 32))).zeroRange frame (2 ^ size)).setLeaf
      asid va (fun _ old => ptePlace old t frame (ptePlc x))) := by
  intro t p dev frame
  unfold State.bindPage
  dsimp only
  rw [if_neg]
  simp only [hd, Bool.not_true, Bool.false_or, Bool.or_eq_true, decide_eq_true_eq, beq_iff_eq, not_or]
  exact ⟨hon, hfull⟩

theorem exec_firstTouchBind_takes {s u : State} {a : Access} {w : Wg} {va x : DWord} {size : Nat} (ha : s.x.acc? s.sel = some a)
    (hk : a.kind = .load ∨ a.kind = .store) (hw : s.x.wg? a.wg = some w) (hwalk : s.walkLane a w = some (0, .walk va))
    (hb : s.walk w.die w.asid va = .bind size x) (hu : s.bindPage w.die w.asid va size x = some u) (haccs : u.x.accs = s.x.accs) :
    ∃ t, exec .firstTouchBind s = .next t ∧ t.mem = u.mem ∧ t.fab = u.fab ∧ t.tue = u.tue := by
  have hg : s.HasGlobal a.id := ⟨a, by rw [Exec.acc?_id ha]; exact ha, hk⟩
  obtain ⟨hmem, -, hfab, htue, -⟩ := State.surround_eq_iff.1 (hg.of_accs haccs).retry_surround
  refine ⟨u.retry a.id, ?_, hmem, hfab, htue⟩
  show execFirstTouchBind s = _
  unfold execFirstTouchBind
  simp only [ha, hw, hwalk, hb, hu]

/-! ### Collapses (O50) -/

theorem exec_replCollapse_starts {s : State} {a : Access} {w : Wg} {k : Nat} {va : DWord} (ha : s.x.acc? s.sel = some a)
    (hw : s.x.wg? a.wg = some w) (hwalk : s.walkLane a w = some (k, .collapse va))
    (hnew : ∀ c ∈ s.tue.collapse, ¬(c.asid = w.asid ∧ c.va = pageOf va)) :
    exec .replCollapse s = .next { s with tue := { s.tue with
      collapse := s.tue.collapse ++ [{ asid := w.asid, va := pageOf va, home := (s.replOf w.asid va).1, acc := a.id }] } } := by
  show execReplCollapse s = _
  unfold execReplCollapse
  simp only [ha, hw, hwalk]
  rw [if_neg]
  simpa using hnew

/-! ### The table-update engine is outside what trying an access and ending a domain do (O50) -/

theorem State.dropWg_tue (s : State) (w : Wg) : (s.dropWg w).tue = s.tue := rfl

theorem State.dropLaunch_tue (s : State) (l : Launch) : (s.dropLaunch l).tue = s.tue :=
  foldl_keeps (π := fun s => s.tue) (fun s w => State.dropWg_tue s w) _ _

theorem State.endLaunch_tue (s : State) (l : Launch) (status fault : Nat) (detail : DWord) :
    (s.endLaunch l status fault detail).tue = s.tue := State.dropLaunch_tue s l

theorem State.endDomain_tue (s : State) (launch cause : Nat) (detail : DWord) : (s.endDomain launch cause detail).tue = s.tue := by
  unfold State.endDomain
  split
  · rfl
  · refine foldl_keeps (π := fun s => s.tue) (fun s l => ?_) _ _
    split
    · exact State.endLaunch_tue ..
    · exact State.endLaunch_tue ..

theorem State.deliverTrap_tue (s : State) (wi gi : Nat) (ls : List Nat) (t : Trap) (epc : Nat → DWord) (skid : Nat) :
    (s.deliverTrap wi gi ls t epc skid).tue = s.tue := by
  unfold State.deliverTrap
  cases s.x.wg? wi with
  | none => rfl
  | some w =>
    dsimp only
    cases w.grp? gi with
    | none => rfl
    | some g =>
      dsimp only
      by_cases hh : w.handler ≠ 0 ∧ g.handler = false
      · rw [if_pos hh]
      · rw [if_neg hh]
        exact State.endDomain_tue ..

theorem State.watchEnd_tue (s : State) (wi gi id : Nat) (pc : DWord) : (s.watchEnd wi gi id pc).tue = s.tue := by
  unfold State.watchEnd
  cases s.x.wg? wi with
  | none => rfl
  | some w =>
    dsimp only
    cases w.grp? gi with
    | none => rfl
    | some g =>
      dsimp only
      split
      · rfl
      · exact State.deliverTrap_tue ..

theorem State.accEnd_tue (s : State) (id : Nat) : (s.accEnd id).tue = s.tue := by
  unfold State.accEnd
  cases s.x.acc? id with
  | none => rfl
  | some a =>
    dsimp only
    cases (s.x.delAcc id).wg? a.wg with
    | none => rfl
    | some w => dsimp only; cases w.grp? a.grp <;> rfl

theorem State.accSettle_tue (s : State) (id : Nat) : (s.accSettle id).tue = s.tue := by
  unfold State.accSettle
  repeat' split
  · rfl
  · exact (State.watchEnd_tue ..).trans (State.accEnd_tue ..)
  · rfl

theorem State.subStatus_tue (s : State) (id status : Nat) (seq : Word) : (s.subStatus id status seq).tue = s.tue := by
  unfold State.subStatus
  cases s.x.acc? id with
  | none => rfl
  | some a =>
    dsimp only
    cases s.x.wg? a.wg with
    | none => exact State.accEnd_tue ..
    | some w => exact State.accSettle_tue ..

theorem State.subSend_tue (s : State) (d c line : Nat) (q : MsgK) : (s.subSend d c line q).tue = s.tue := by
  unfold State.subSend
  repeat' split
  all_goals rfl

theorem State.subGo_tue (s : State) (id : Nat) : (s.subGo id).tue = s.tue := by
  unfold State.subGo
  dsimp only
  repeat' split
  · rfl
  · rfl
  · exact State.subStatus_tue ..
  · exact State.subStatus_tue ..
  · rfl
  · rfl
  · exact State.subSend_tue ..
  · rfl

theorem State.accTry_tue (s : State) (id : Nat) : (s.accTry id).tue = s.tue :=
  (State.subGo_tue ..).trans (State.surround_eq_iff.1 (State.accMove_surround s id)).2.2.2.1

/-- The accesses with a waiting lane tried again. -/
def State.tryWaiting (s : State) : State :=
  (s.x.accs.filter (fun a => a.lanes.any (fun l => l.st == .wait))).foldl (fun s a => s.accTry a.id) s

theorem State.tryWaiting_mem (s : State) : s.tryWaiting.mem = s.mem :=
  congrArg Prod.fst (foldl_mh (f := fun s (a : Access) => s.accTry a.id) (fun s a => State.accTry_mh s a.id) _ s)

theorem State.tryWaiting_tue (s : State) : s.tryWaiting.tue = s.tue :=
  foldl_keeps (π := fun s => s.tue) (f := fun s (a : Access) => s.accTry a.id) (fun s a => State.accTry_tue s a.id) _ s

/-- The oldest collapse ends with its record, and the accesses that waited are tried again (05_tensor_mesh R137). -/
theorem exec_replCollapseComplete_ends {s s1 : State} {c : Collapse} {rest : List Collapse} (hc : s.tue.collapse = c :: rest)
    (h1 : s.collapsePage c.asid (sext64 57 (c.va * 4096))
      (match s.walk c.home c.asid (sext64 57 (c.va * 4096)) with | .ok e => e.size | _ => 12) = some s1) :
    exec .replCollapseComplete s = .next ({ s1 with tue := { s1.tue with collapse := rest } } : State).tryWaiting := by
  show execReplCollapseComplete s = _
  unfold execReplCollapseComplete
  cases hwalk : s.walk c.home c.asid (sext64 57 (c.va * 4096)) <;> simp only [hc, hwalk] at h1 ⊢ <;> rw [h1] <;> rfl

/-! ### Answers to faults: DELIVER (O50) -/

/-- No saved or present hold of a thread waits for an access. -/
def Lane.Clear (t : Lane) (id : Nat) : Prop :=
  t.hold ≠ .watch id ∧ t.resHold ≠ .watch id ∧ t.hold ≠ .fetch id ∧ t.resHold ≠ .fetch id

theorem Lane.lift_st (t : Lane) (h : Hold) : (t.lift h).st = t.st := by
  unfold Lane.lift
  dsimp only
  repeat' split
  all_goals rfl

theorem Lane.Clear.lift {t : Lane} {id : Nat} (ht : t.Clear id) (h : Hold) : (t.lift h).Clear id := by
  obtain ⟨hw, hrw, hf, hrf⟩ := ht
  unfold Lane.lift
  dsimp only
  by_cases h1 : t.hold = h
  · by_cases h2 : t.resHold = h <;> simp [Lane.Clear, h1, h2, hrw, hrf]
  · by_cases h2 : t.resHold = h <;> simp [Lane.Clear, h1, h2, hw, hrw, hf, hrf]

/-- The group of a faulting access on the way to its handler: outside the handler, with n loads under way, a live thread in
the lane, and no thread held for the access. -/
structure Group.Faulting (g : Group) (gi l id : Nat) (n : Nat) : Prop where
  idx : g.idx = gi
  handler : g.handler = false
  ld : g.ld = n
  live : (g.lane l).st = .live
  clear : ∀ k, (g.lane k).Clear id

section
variable {g g' : Group} {gi l id n m : Nat}

theorem Group.Faulting.lanes (h : g.Faulting gi l id n) (hidx : g'.idx = g.idx) (hh : g'.handler = g.handler) (hld : g'.ld = m)
    (hst : (g'.lane l).st = (g.lane l).st) (hclear : ∀ k, (g.lane k).Clear id → (g'.lane k).Clear id) : g'.Faulting gi l id m :=
  ⟨hidx.trans h.idx, hh.trans h.handler, hld, hst.trans h.live, fun k => hclear k (h.clear k)⟩

theorem Group.Faulting.onLanes_lift (h : g.Faulting gi l id n) (ls : List Nat) (a b : Hold) :
    (g.onLanes ls (fun _ t => (t.lift a).lift b)).Faulting gi l id n := by
  refine h.lanes rfl rfl h.ld ?_ (fun k hk => ?_)
  · rw [Group.lane_onLanes]
    split
    · rw [Lane.lift_st, Lane.lift_st]
    · rfl
  · rw [Group.lane_onLanes]
    split
    · exact (hk.lift a).lift b
    · exact hk

theorem Group.lane_map_lift (g : Group) (a : Hold) (k : Nat) :
    ({ g with lanes := g.lanes.map (fun (t : Lane) => t.lift a) } : Group).lane k = (g.lane k).lift a ∨
      ({ g with lanes := g.lanes.map (fun (t : Lane) => t.lift a) } : Group).lane k = g.lane k := by
  unfold Group.lane
  by_cases hk : k < g.lanes.length
  · left; simp [hk]
  · right; simp [hk]

theorem Group.Faulting.map_lift (h : g.Faulting gi l id n) (a : Hold) :
    ({ g with lanes := g.lanes.map (fun (t : Lane) => t.lift a) } : Group).Faulting gi l id n := by
  refine h.lanes rfl rfl h.ld ?_ (fun k hk => ?_)
  · rcases Group.lane_map_lift g a l with e | e
    · rw [e, Lane.lift_st]
    · rw [e]
  · rcases Group.lane_map_lift g a k with e | e
    · rw [e]; exact hk.lift a
    · rw [e]; exact hk

theorem Group.Faulting.putRes (h : g.Faulting gi l id n) {r : RegWr} (hr : r.kind = 0) : (g.putRes r).Faulting gi l id n := by
  have hput : g.putRes r = if (g.lane r.lane).st = .live then
      g.setLane r.lane ((g.lane r.lane).setReg r.idx { val := r.val, tag := r.tag }) else g := by
    unfold Group.putRes
    rw [hr]
    rfl
  rw [hput]
  split
  · rename_i hlive
    have hlane : ∀ k, (g.setLane r.lane ((g.lane r.lane).setReg r.idx { val := r.val, tag := r.tag })).lane k =
        if k = r.lane then (g.lane r.lane).setReg r.idx { val := r.val, tag := r.tag } else g.lane k := by
      intro k
      split
      · rename_i hk
        rw [hk, Group.lane_setLane_self (Group.live_lt hlive)]
      · exact Group.lane_setLane_ne _ ‹_› _
    refine h.lanes rfl rfl h.ld ?_ (fun k hk => ?_)
    · rw [hlane]
      split
      · rename_i hl; rw [hl]; rfl
      · rfl
    · rw [hlane]
      split
      · rename_i hl; rw [hl] at hk; exact hk
      · exact hk
  · exact h

theorem Group.Faulting.putAll (h : g.Faulting gi l id n) {rs : List RegWr} (hrs : ∀ r ∈ rs, r.kind = 0) :
    (rs.foldl Group.putRes g).Faulting gi l id n := by
  induction rs generalizing g with
  | nil => exact h
  | cons r rs ih => exact ih (h.putRes (hrs r (by simp))) (fun q hq => hrs q (by simp [hq]))

theorem voidRegs_kind (g : Group) (id l : Nat) : ∀ r ∈ voidRegs g id l, r.kind = 0 := by
  intro r hr
  obtain ⟨b, -, rfl⟩ := List.mem_map.1 hr
  rfl

end

/-- A group of a workgroup with a handler stands on the way to it. -/
def State.Faulting (s : State) (wi gi l id n : Nat) (h : DWord) : Prop :=
  ∃ w g, s.x.wg? wi = some w ∧ w.handler = h ∧ w.grp? gi = some g ∧ g.Faulting gi l id n

section
variable {s : State} {wi gi l id n m : Nat} {h : DWord}

theorem State.Faulting.of_wgs {t : State} (hs : s.Faulting wi gi l id n h) (ht : t.x.wgs = s.x.wgs) : t.Faulting wi gi l id n h := by
  obtain ⟨w, g, hw, hwg⟩ := hs
  exact ⟨w, g, by unfold Exec.wg?; rw [ht]; exact hw, hwg⟩

/-- The group replaced by one that stands on the same way. -/
theorem State.Faulting.setGrp {w : Wg} {g g' : Group} (x : Exec) (hw : x.wg? wi = some w) (hh : w.handler = h)
    (hg : w.grp? gi = some g) (hg' : g'.Faulting gi l id m) : ({ s with x := x.setWg (w.setGrp g') } : State).Faulting wi gi l id m h := by
  have hid : (w.setGrp g').id = wi := (Wg.setGrp_id ..).trans (Exec.wg?_id hw)
  refine ⟨w.setGrp g', g', Exec.wg?_setWg_self' hid hw, hh, ?_, hg'⟩
  have hi := hg'.idx
  subst hi
  exact Wg.grp?_setGrp_self hg

theorem State.Faulting.onGrp {f : Group → Group} (hs : s.Faulting wi gi l id n h) (hf : ∀ g, g.Faulting gi l id n → (f g).Faulting gi l id m) :
    ({ s with x := s.x.onGrp wi gi f } : State).Faulting wi gi l id m h := by
  obtain ⟨w, g, hw, hh, hg, hgf⟩ := hs
  have hx : s.x.onGrp wi gi f = s.x.setWg (w.setGrp (f g)) := by
    unfold Exec.onGrp
    simp only [hw, hg]
  rw [hx]
  exact State.Faulting.setGrp s.x hw hh hg (hf g hgf)

theorem State.Faulting.putResults (hs : s.Faulting wi gi l id n h) (i : Nat) {rs : List RegWr} (hrs : ∀ r ∈ rs, r.kind = 0) (k : Word) :
    (s.putResults wi gi i rs k).Faulting wi gi l id n h :=
  hs.onGrp (fun _ hg => (hg.putAll hrs).lanes rfl rfl (hg.putAll hrs).ld rfl (fun _ hk => hk))

theorem Exec.onGrp_accs (x : Exec) (wi gi : Nat) (f : Group → Group) : (x.onGrp wi gi f).accs = x.accs := by
  unfold Exec.onGrp
  cases x.wg? wi with
  | none => rfl
  | some w => dsimp only; cases w.grp? gi <;> rfl

theorem Exec.acc?_onGrp (x : Exec) (wi gi : Nat) (f : Group → Group) (i : Nat) : (x.onGrp wi gi f).acc? i = x.acc? i := by
  unfold Exec.acc?
  rw [Exec.onGrp_accs]

theorem State.putResults_acc? (s : State) (wi gi i : Nat) (rs : List RegWr) (m : Word) (j : Nat) :
    (s.putResults wi gi i rs m).x.acc? j = s.x.acc? j := Exec.acc?_onGrp ..

/-- A load that ends leaves its group with one load less. -/
theorem State.Faulting.accEnd {a : Access} (hs : s.Faulting wi gi l id n h) (ha : s.x.acc? id = some a) (hk : a.kind = .load)
    (hwi : a.wg = wi) (hgi : a.grp = gi) : (s.accEnd id).Faulting wi gi l id (n - 1) h := by
  obtain ⟨w, g, hw, hh, hg, hgf⟩ := hs
  subst hwi hgi
  have hw' : (s.x.delAcc id).wg? a.wg = some w := hw
  unfold State.accEnd
  simp only [ha, hw', hg]
  exact State.Faulting.setGrp _ hw' hh hg (hgf.lanes rfl rfl (by simp [hk, AccKind.raisesLd, hgf.ld]) rfl (fun _ hk => hk))

/-- No thread is trapped for the end of an access that none of them watches. -/
theorem State.Faulting.watchEnd (hs : s.Faulting wi gi l id n h) (pc : DWord) : (s.watchEnd wi gi id pc).Faulting wi gi l id n h := by
  obtain ⟨w, g, hw, hh, hg, hgf⟩ := hs
  have hnone : (g.live.filter (fun k => (g.lane k).hold == .watch id)) ++ (g.live.filter (fun k => (g.lane k).resHold == .watch id)) = [] := by
    rw [List.append_eq_nil_iff, List.filter_eq_nil_iff, List.filter_eq_nil_iff]
    exact ⟨fun k _ => by simpa using (hgf.clear k).1, fun k _ => by simpa using (hgf.clear k).2.1⟩
  unfold State.watchEnd
  simp only [hw, hg]
  rw [if_pos hnone]
  exact State.Faulting.setGrp s.x hw hh hg (hgf.map_lift _)

theorem State.Faulting.accSettle {a : Access} (hs : s.Faulting wi gi l id n h) (ha : s.x.acc? id = some a) (hk : a.kind = .load)
    (hwi : a.wg = wi) (hgi : a.grp = gi) (hover : a.lanes.all LaneAcc.over = true) : (s.accSettle id).Faulting wi gi l id (n - 1) h := by
  unfold State.accSettle
  simp only [ha, hover, if_true, hwi, hgi]
  exact (hs.accEnd ha hk hwi hgi).watchEnd _

/-- A group with the threads of some lanes in the handler of a trap (19_traps R406). -/
def Group.trapped (g : Group) (handler : DWord) (ls : List Nat) (t : Trap) (epc : Nat → DWord) (skid : Nat) : Group :=
  { g.onLanes ls (fun l u => u.enter handler (epc l)) with
    handler := true
    ecause := BitVec.ofNat 32 (t.value + 65536 * t.n)
    eaddr := t.addr
    eskid := BitVec.ofNat 32 skid }

/-- A faulting group enters its handler with the trap (19_traps R406). -/
theorem State.Faulting.deliverTrap (hs : s.Faulting wi gi l id n h) (hh : h ≠ 0) (ls : List Nat) (t : Trap) (epc : Nat → DWord) (skid : Nat) :
    ∃ w g, (s.deliverTrap wi gi ls t epc skid).x.wg? wi = some w ∧ w.grp? gi = some g ∧ g.handler = true ∧
      g.ecause = BitVec.ofNat 32 (t.value + 65536 * t.n) ∧ g.eaddr = t.addr ∧ g.ld = n := by
  obtain ⟨w, g, hw, hwh, hg, hgf⟩ := hs
  have hidx := hgf.idx
  have hcond : w.handler ≠ 0 ∧ g.handler = false := ⟨by rw [hwh]; exact hh, hgf.handler⟩
  unfold State.deliverTrap
  simp only [hw, hg]
  rw [if_pos hcond]
  have hid : (w.setGrp (g.trapped w.handler ls t epc skid)).id = wi := (Wg.setGrp_id ..).trans (Exec.wg?_id hw)
  refine ⟨w.setGrp (g.trapped w.handler ls t epc skid), g.trapped w.handler ls t epc skid, Exec.wg?_setWg_self' hid hw, ?_, rfl, rfl, rfl, hgf.ld⟩
  subst hidx
  exact Wg.grp?_setGrp_self (g := g.trapped w.handler ls t epc skid) hg

end

/-- The faulting lanes of a load discarded, its destinations VOID (19_traps R414). -/
def State.discard (s : State) (a : Access) (g : Group) (ls : List Nat) : State :=
  let x := s.x.onGrp a.wg a.grp (fun g => g.onLanes ls (fun _ t => (t.lift (.watch a.id)).lift (.fetch a.id)))
  let a1 := { a with lanes := a.lanes.map (fun l => if ls.contains l.lane then { l with st := .dropped } else l) }
  (({ s with x := x.setAcc a1 } : State).putResults a.wg a.grp a.id (ls.flatMap (voidRegs g a.id)) (maskOf ls)).accSettle a.id

theorem State.deliverLanes_load {s : State} {a : Access} {w : Wg} {g : Group} (ha : s.x.acc? a.id = some a) (hk : a.kind = .load)
    (hw : s.x.wg? a.wg = some w) (hg : w.grp? a.grp = some g) (ls : List Nat) (code : Nat) (va : DWord) :
    s.deliverLanes a.id ls code va =
      let s2 := s.discard a g ls
      let hs := match (s2.x.wg? a.wg).bind (fun w => w.grp? a.grp) with
        | none => []
        | some g2 => ls.filter (fun l => (g2.lane l).st == .live)
      if hs.isEmpty then s2 else s2.deliverTrap a.wg a.grp hs { cls := 4, code := code, addr := va } (fun _ => a.pc) a.skid := by
  cases a
  simp only at hk
  subst hk
  unfold State.deliverLanes
  simp only [ha, hw, hg, Option.bind_some, AccKind.raisesLd, if_true, reduceCtorEq, if_false]
  rfl

section
variable {s : State} {a : Access} {l : LaneAcc} {w : Wg} {g : Group}

theorem State.discard_faulting (ha : s.x.acc? a.id = some a) (hk : a.kind = .load) (hl : a.lanes = [l]) (hw : s.x.wg? a.wg = some w)
    (hg : w.grp? a.grp = some g) (hgf : g.Faulting a.grp l.lane a.id g.ld) :
    (s.discard a g [l.lane]).Faulting a.wg a.grp l.lane a.id (g.ld - 1) w.handler := by
  have hs : s.Faulting a.wg a.grp l.lane a.id g.ld w.handler := ⟨w, g, hw, rfl, hg, hgf⟩
  have hlift := hs.onGrp (f := fun g => g.onLanes [l.lane] (fun _ t => (t.lift (.watch a.id)).lift (.fetch a.id)))
    (fun _ h => h.onLanes_lift _ _ _)
  have hlanes : a.lanes.map (fun k => if [l.lane].contains k.lane then { k with st := .dropped } else k) = [{ l with st := .dropped }] := by
    simp [hl]
  unfold State.discard
  simp only [hlanes]
  refine State.Faulting.accSettle (a := { a with lanes := [{ l with st := .dropped }] }) (State.Faulting.putResults ?_ _ (fun r hr => ?_) _)
    ?_ hk rfl rfl rfl
  · exact hlift.of_wgs rfl
  · obtain ⟨k, -, hk⟩ := List.mem_flatMap.1 hr
    exact voidRegs_kind _ _ _ r hk
  · rw [State.putResults_acc?]
    exact Exec.acc?_setAcc_self ((Exec.acc?_onGrp ..).trans ha) rfl

/-- A delivered fault of a load's only lane takes the group to its handler, and the load is over (19_traps R414). -/
theorem State.deliverLanes_handler (ha : s.x.acc? a.id = some a) (hk : a.kind = .load) (hl : a.lanes = [l]) (hw : s.x.wg? a.wg = some w)
    (hg : w.grp? a.grp = some g) (hgf : g.Faulting a.grp l.lane a.id g.ld) (hh : w.handler ≠ 0) (code : Nat) (va : DWord) :
    ∃ w' g', (s.deliverLanes a.id [l.lane] code va).x.wg? a.wg = some w' ∧ w'.grp? a.grp = some g' ∧ g'.handler = true ∧
      g'.ecause = BitVec.ofNat 32 (0x4000 + code) ∧ g'.eaddr = va ∧ g'.ld = g.ld - 1 := by
  have hs := State.discard_faulting ha hk hl hw hg hgf
  obtain ⟨w2, g2, hw2, -, hg2, hg2f⟩ := id hs
  rw [State.deliverLanes_load ha hk hw hg]
  simp only [hw2, hg2, Option.bind_some, List.filter_cons, hg2f.live, BEq.rfl, if_true, List.filter_nil, List.isEmpty_cons, Bool.false_eq_true, if_false]
  exact hs.deliverTrap hh ..

theorem exec_deliver_access {i code : Nat} {va : DWord} {ls : List Nat} (hr : s.pkg.ready = true) (hf : s.faultAcc i = some (a, ls, code, va)) :
    exec (.deliver i) s = .next (s.deliverLanes a.id ls code va) := by
  show s.faultDeliver i = _
  unfold State.faultDeliver
  simp only [hr, Bool.not_true, Bool.false_eq_true, if_false, hf]

theorem State.deliverLanes_mem (s : State) (id : Nat) (ls : List Nat) (code : Nat) (va : DWord) : (s.deliverLanes id ls code va).mem = s.mem :=
  congrArg Prod.fst (State.deliverLanes_mh s id ls code va)

/-! ### Answers to faults: REPLAY (O50) -/

/-- A load's only lane waits for a walk again, and the load stands last in issue order (19_traps R414). -/
theorem exec_replay_access {i code : Nat} {va va' : DWord} {ls : List Nat} (hr : s.pkg.ready = true)
    (hf : s.faultAcc i = some (a, ls, code, va)) (ha : s.x.acc? a.id = some a) (hk : a.kind = .load) (hl : a.lanes = [l])
    (hst : l.st = .fault code i va) (hw : s.x.wg? a.wg = some w) (hx : s.rangeX w false false l.va a.width = .walk va') :
    ∃ t b, exec (.replay i) s = .next t ∧ t.mem = s.mem ∧ t.x.acc? a.id = some b ∧ b.at_ = s.x.nextId ∧
      b.lanes = [{ l with st := .wait, inq := false }] := by
  let b : Access := { a with lanes := [{ l with st := .wait, inq := false }], at_ := s.x.nextId }
  let u : State := { s with x := { s.x.setAcc b with nextId := s.x.nextId + 1 } }
  have hb : u.x.acc? a.id = some b := Exec.acc?_setAcc_self (a := b) ha rfl
  have hstill : u.Still b { l with st := .wait, inq := false } := .inr ⟨w, va', hw, by
    show u.rangeX w a.kind.writes (a.kind == .fetch) l.va a.width = _
    rw [hk]
    exact hx⟩
  refine ⟨u.retry a.id, b, ?_, State.retry_mem .., (hstill.retry hb (.inl hk) rfl).1, rfl, rfl⟩
  show s.faultReplay i = _
  unfold State.faultReplay
  simp only [hr, Bool.not_true, Bool.false_eq_true, if_false, hf, hl, List.map_cons, List.map_nil, hst, if_true]
  rfl

end

/-- An answer that names no held fault sets REJECT (19_traps R413). -/
theorem exec_answer_unknown {s : State} {i : Nat} (hr : s.pkg.ready = true) (ha : s.faultAcc i = none) (hq : s.faultReq i = none)
    (hf : s.faultFrag i = none) (hc : s.faultCell i = none) {j : Instr} (hj : j = .replay i ∨ j = .deliver i ∨ j = .faultKill i) :
    exec j s = .next { s with sch := { s.sch with fltReject := true } } := by
  rcases hj with rfl | rfl | rfl
  · show s.faultReplay i = _
    unfold State.faultReplay
    simp only [hr, ha, hq, hf, hc]
    rfl
  · show s.faultDeliver i = _
    unfold State.faultDeliver
    simp only [hr, ha, hq, hf, hc]
    rfl
  · show s.faultEnd i = _
    unfold State.faultEnd
    simp only [hr, ha, hq, hf, hc]
    rfl

/-! ### Answers to faults: KILL (O50) -/

theorem foldl_dropWg_wgs (ws : List Wg) (s : State) :
    ∀ u ∈ (ws.foldl (fun s w => s.dropWg w) s).x.wgs, u ∈ s.x.wgs ∧ ∀ w ∈ ws, u.id ≠ w.id := by
  induction ws generalizing s with
  | nil => exact fun u hu => ⟨hu, by simp⟩
  | cons w ws ih =>
    intro u hu
    obtain ⟨hmem, hne⟩ := ih (s.dropWg w) u hu
    obtain ⟨hs, hw⟩ := List.mem_filter.1 (show u ∈ s.x.wgs.filter (fun u => u.id != w.id) from hmem)
    refine ⟨hs, fun v hv => ?_⟩
    rcases List.mem_cons.1 hv with rfl | hv
    · simpa using hw
    · exact hne v hv

/-- No workgroup of a dropped launch is left, and no other comes. -/
theorem State.mem_dropLaunch_wgs {s : State} {l : Launch} {u : Wg} (h : u ∈ (s.dropLaunch l).x.wgs) : u ∈ s.x.wgs ∧ u.launch ≠ l.id := by
  obtain ⟨hs, hne⟩ := foldl_dropWg_wgs (s.x.wgs.filter (fun w => w.launch == l.id)) s u h
  exact ⟨hs, fun hl => hne u (List.mem_filter.2 ⟨hs, by simpa using hl⟩) rfl⟩

theorem State.dropLaunch_sch (s : State) (l : Launch) : (s.dropLaunch l).sch = s.sch :=
  foldl_keeps (π := fun s => s.sch) (f := fun s (w : Wg) => s.dropWg w) (fun _ _ => rfl) _ _

/-- One launch of a domain that ends: with FAULT if it is the one that trapped, else KILLED (19_traps R408). -/
def State.endMember (launch cause : Nat) (detail : DWord) (s : State) (l : Launch) : State :=
  if l.id = launch then s.endLaunch l stFAULT cause detail else s.endLaunch l stKILLED 0 0

theorem State.endLaunch_pend (s : State) (l : Launch) (status fault : Nat) (detail : DWord) :
    (s.endLaunch l status fault detail).sch.pend =
      s.sch.pend ++ [{ ring := ctxRing l.asid l.evr, body := recBody status fault l.queue 0 0 l.pidx detail, launch := some l.id }] := by
  show (s.dropLaunch l).sch.pend ++ _ = _
  rw [State.dropLaunch_sch]

theorem State.endMember_keeps (launch cause : Nat) (detail : DWord) (s : State) (l : Launch) :
    (∀ u ∈ (s.endMember launch cause detail l).x.wgs, u ∈ s.x.wgs) ∧ ∀ p ∈ s.sch.pend, p ∈ (s.endMember launch cause detail l).sch.pend := by
  unfold State.endMember
  split
  · exact ⟨fun u hu => (State.mem_dropLaunch_wgs hu).1, fun p hp => by rw [State.endLaunch_pend]; simp [hp]⟩
  · exact ⟨fun u hu => (State.mem_dropLaunch_wgs hu).1, fun p hp => by rw [State.endLaunch_pend]; simp [hp]⟩

theorem foldl_endMember_keeps (launch cause : Nat) (detail : DWord) (ls : List Launch) (s : State) :
    (∀ u ∈ (ls.foldl (State.endMember launch cause detail) s).x.wgs, u ∈ s.x.wgs) ∧
      ∀ p ∈ s.sch.pend, p ∈ (ls.foldl (State.endMember launch cause detail) s).sch.pend := by
  induction ls generalizing s with
  | nil => exact ⟨fun _ hu => hu, fun _ hp => hp⟩
  | cons l ls ih =>
    obtain ⟨hwgs, hpend⟩ := ih (s.endMember launch cause detail l)
    obtain ⟨hwgs', hpend'⟩ := State.endMember_keeps launch cause detail s l
    exact ⟨fun u hu => hwgs' u (hwgs u hu), fun p hp => hpend p (hpend' p hp)⟩

theorem foldl_endMember_ends {launch : Nat} (cause : Nat) (detail : DWord) {ls : List Launch} {k : Launch} (hk : k ∈ ls) (hid : k.id = launch)
    (s : State) :
    (∀ u ∈ (ls.foldl (State.endMember launch cause detail) s).x.wgs, u.launch ≠ launch) ∧
      ∃ p ∈ (ls.foldl (State.endMember launch cause detail) s).sch.pend,
        p.launch = some k.id ∧ p.body = recBody stFAULT cause k.queue 0 0 k.pidx detail := by
  induction ls generalizing s with
  | nil => cases hk
  | cons l ls ih =>
    rw [List.foldl_cons]
    rcases List.mem_cons.1 hk with rfl | hk
    · have hstep : s.endMember launch cause detail k = s.endLaunch k stFAULT cause detail := if_pos hid
      obtain ⟨hwgs, hpend⟩ := foldl_endMember_keeps launch cause detail ls (s.endMember launch cause detail k)
      rw [hstep] at hwgs hpend ⊢
      refine ⟨fun u hu => ?_, _, hpend _ (by rw [State.endLaunch_pend]; exact List.mem_append_right _ (List.mem_singleton.2 rfl)), rfl, rfl⟩
      rw [← hid]
      exact (State.mem_dropLaunch_wgs (hwgs u hu)).2
    · exact ih hk _

theorem any_domainRoot {l : Launch} (h : l.rcbs ≠ []) : l.rcbs.any (fun r => r.addr == domainRoot l) = true := by
  rw [List.any_eq_true]
  unfold domainRoot
  cases hf : l.rcbs.find? (fun r => r.fdom) with
  | some r => exact ⟨r, List.mem_of_find?_eq_some hf, by simp⟩
  | none => exact ⟨l.rcbs.getLast h, List.getLast_mem h, by simp [List.getLast?_eq_some_getLast h]⟩

theorem State.endDomain_eq {s : State} {launch cause : Nat} {detail : DWord} {k : Launch} (hk : s.launch? launch = some k) :
    s.endDomain launch cause detail = (s.sch.launches.filter (fun l => l.open && l.asid == k.asid && l.rcbs.any (fun r => r.addr == domainRoot k))).foldl
      (State.endMember launch cause detail) s := by
  unfold State.endDomain
  rw [hk]
  rfl

/-- The end of a launch's fault domain leaves none of its workgroups and records its fault. -/
theorem State.endDomain_ends {s : State} {launch cause : Nat} {detail : DWord} {k : Launch} (hk : s.launch? launch = some k)
    (hopen : k.open = true) (hid : k.id = launch) (hr : k.rcbs ≠ []) :
    (∀ u ∈ (s.endDomain launch cause detail).x.wgs, u.launch ≠ launch) ∧
      ∃ p ∈ (s.endDomain launch cause detail).sch.pend, p.launch = some k.id ∧ p.body = recBody stFAULT cause k.queue 0 0 k.pidx detail := by
  rw [State.endDomain_eq hk]
  refine foldl_endMember_ends cause detail (List.mem_filter.2 ⟨List.mem_of_find?_eq_some hk, ?_⟩) hid s
  simp [hopen, any_domainRoot hr]

theorem exec_faultKill_access {s : State} {i code : Nat} {a : Access} {ls : List Nat} {va : DWord} {w : Wg} (hr : s.pkg.ready = true)
    (hf : s.faultAcc i = some (a, ls, code, va)) (hw : s.x.wg? a.wg = some w) :
    exec (.faultKill i) s = .next (s.endDomain w.launch (0x4000 + code) va) := by
  show s.faultEnd i = _
  unfold State.faultEnd
  simp only [hr, Bool.not_true, Bool.false_eq_true, if_false, hf, hw]

/-! ### The ring of the table-update engine (O50) -/

theorem exec_tueDoorbell_publishes {s : State} {v : Nat} (hr : s.pkg.ready = true) (hv : s.tue.wr < v % 2 ^ 64) :
    exec (.tueDoorbell v) s = .next { s with tue := { s.tue with
      wr := v % 2 ^ 64, stopped := s.tue.stopped || decide (2 ^ s.tue.log2n < v % 2 ^ 64 - s.tue.rd) } } := by
  show s.tueRing v = _
  unfold State.tueRing
  dsimp only
  rw [if_neg]
  simp [hr]
  omega

theorem exec_tueDoorbell_old {s : State} {v : Nat} (hv : v % 2 ^ 64 ≤ s.tue.wr) : exec (.tueDoorbell v) s = .next s := by
  show s.tueRing v = _
  unfold State.tueRing
  dsimp only
  rw [if_pos]
  simp
  omega

theorem exec_tueCtlWrite {s : State} (v : Nat) (hr : s.pkg.ready = true) :
    exec (.tueCtlWrite v) s = .next { s with tue := { s.tue with log2n := v % 32, wr := s.tue.rd, stopped := false } } := by
  show s.tueSet v = _
  unfold State.tueSet
  simp [hr]

/-- The command at an address of the ring. -/
def State.tueCmd (s : State) (pa : Nat) : BitVec 256 := BitVec.ofNat 256 (s.freshNum pa 32)

section
variable {s u : State} {pa : Nat} {ok : BitVec 256 → Bool} {f : State → BitVec 256 → State × Bool}

theorem State.tueStep_skips (hpa : s.tuePa = some pa) (hex : s.paExists pa = true) (hok : ok (s.tueCmd pa) = false) :
    s.tueStep ok f = .next s := by
  unfold State.tueCmd at hok
  unfold State.tueStep
  simp only [hpa, hex, hok, Bool.not_true, Bool.not_false, Bool.false_eq_true, if_false, if_true]

theorem State.tueStep_waits (hpa : s.tuePa = some pa) (hex : s.paExists pa = true) (hok : ok (s.tueCmd pa) = true)
    (hf : f s (s.tueCmd pa) = (u, false)) : s.tueStep ok f = .next u := by
  unfold State.tueCmd at hok hf
  unfold State.tueStep
  simp only [hpa, hex, hok, hf, Bool.not_true, Bool.false_eq_true, if_false]

theorem State.tueStep_does (hpa : s.tuePa = some pa) (hex : s.paExists pa = true) (hok : ok (s.tueCmd pa) = true)
    (hf : f s (s.tueCmd pa) = (u, true)) :
    s.tueStep ok f = .next { u with tue := { u.tue with rd := s.tue.rd + 1, doing := some (s.tue.rd, s.tueCmd pa) } } := by
  unfold State.tueCmd at hok hf ⊢
  unfold State.tueStep
  simp only [hpa, hex, hok, hf, Bool.not_true, Bool.false_eq_true, if_false]

end

theorem tcIs_eq_false {c : BitVec 256} {k : Nat} (hk : bits c 0 4 ≠ k) : tcIs k c = false := by
  have : tcOp c ≠ k := hk
  simp [tcIs, this]

theorem tcIs_eq_true {c : BitVec 256} {k : Nat} (hr : tcReserved c = false) (hk : bits c 0 4 = k) : tcIs k c = true := by
  have : tcOp c = k := hk
  simp [tcIs, this, hr]

/-! ### The commands of the table-update engine (O50) -/

/-- What WRITE does (16_translation R366). -/
def State.tueWriteLeaf (s : State) (c : BitVec 256) : State :=
  let va := va57 (tcVa c)
  let size := max 16 (12 + 9 * tcLevel c)
  let lo := va / 2 ^ size * 2 ^ size
  let s1 := s.dieOrder.foldl (fun s d => match s.root (tcAsid c) d with
    | none => s
    | some r =>
      match entryFrom s va (tcLevel c) 4 r with
      | some pa => s.poke pa (natLe 8 (tcPte c).toNat)
      | none => s) s
  s1.invalidate (tcAsid c) lo (lo + 2 ^ size)

/-- What SHOOT does (16_translation R366). -/
def State.tueShoot (s : State) (c : BitVec 256) : State :=
  let lo := if tcArg c = 0 then 0 else va57 (tcVa c) / 4096 * 4096
  let hi := if tcArg c = 0 then 2 ^ 57 else lo + 4096 * tcArg c
  s.invalidate (tcAsid c) lo hi

/-- What the new leaf of a MIGRATE does to the tables (16_translation R370). -/
def State.tueNewLeaf (s : State) (c : BitVec 256) : State :=
  let lo := va57 (tcVa c) / 4096 * 4096
  (s.setLeaf (tcAsid c) (tcVa c) (fun _ _ => tcPte c)).invalidate (tcAsid c) lo (lo + 4096)

/-- The lines that a FLUSH names in a frame, those that are LOST left out. -/
def State.tueLines (s : State) (c : BitVec 256) (f : Nat) : List Nat :=
  ((maskLines (tcArg c)).map (fun k => f / 128 + k)).filter (fun l => !s.isLost (s.homeKey l) l)

/-- What FLUSH does, and whether it is carried out (16_translation R370). -/
def State.tueFlush (s : State) (c : BitVec 256) : State × Bool :=
  match s.tueFrame (tcAsid c) (tcVa c) with
  | none => ({ s with tue := { s.tue with hold := none, wait := [] } }, true)
  | some f => if (s.tueLines c f).any s.lineMoves then (s.holdPage f, false)
    else (((s.tueLines c f).foldl (fun s l => s.recallLine l) s).releasePage f, true)

/-- The lines of a frame moved to another. -/
def State.movePage (s : State) (f new mask : Nat) : State :=
  (List.range 32).foldl (fun (s : State) k => s.moveLine (f / 128 + k) (new / 128 + k) ((maskLines mask).contains k)) s

/-- The state of a MIGRATE before what waits for the page follows it. -/
def State.movedPage (s : State) (c : BitVec 256) (f new : Nat) : State :=
  let s1 := s.movePage f new (tcArg c)
  { s1.tueNewLeaf c with x := (s1.tueNewLeaf c).x.movePage f new, tue := { (s1.tueNewLeaf c).tue with hold := none } }

/-- What MIGRATE does, and whether it is carried out (16_translation R370). -/
def State.tueMigrate (s : State) (c : BitVec 256) : State × Bool :=
  match (if s.paExists (pteFrame (tcPte c)) then s.tueFrame (tcAsid c) (tcVa c) else none) with
  | none => ({ s.tueNewLeaf c with tue := { (s.tueNewLeaf c).tue with hold := none } }, true)
  | some f =>
    if (pageOn f ++ pageOn (pteFrame (tcPte c))).any s.lineMoves || (pageOn (pteFrame (tcPte c))).any s.lineBusy then (s.holdPage f, false)
    else ((s.movedPage c f (pteFrame (tcPte c))).moveHeld f (pteFrame (tcPte c)), true)

theorem exec_write (s : State) : exec .write s = s.tueStep (tcIs 1) (fun s c => (s.tueWriteLeaf c, true)) := rfl
theorem exec_shoot (s : State) : exec .shoot s = s.tueStep (tcIs 2) (fun s c => (s.tueShoot c, true)) := rfl
theorem exec_migrate (s : State) : exec .migrate s = s.tueStep (tcIs 3) State.tueMigrate := rfl
theorem exec_flush (s : State) : exec .flush s = s.tueStep (tcIs 4) State.tueFlush := rfl

/-- Nothing that a core keeps of a context lies below the top of its space after every translation of it is dropped. -/
theorem State.tueShoot_all {s : State} {c : BitVec 256} (harg : tcArg c = 0) : ∀ e ∈ (s.tueShoot c).x.cores, ∀ b ∈ e.2.tlb,
    b.asid = tcAsid c → 2 ^ 57 ≤ b.vpn * 2 ^ b.size := by
  intro e he b hb hasid
  obtain ⟨e0, -, rfl⟩ := List.mem_map.1 he
  obtain ⟨-, hmeets⟩ := List.mem_filter.1 hb
  have hpos : 0 < (b.vpn + 1) * 2 ^ b.size := by positivity
  simpa [Tlb.meets, hasid, harg, hpos] using hmeets

/-! ### Operations on one line at the records of the dies (O50) -/

theorem mem_of_cfind {α : Type} {a : Nat} {v : α} {l : Cells α} (h : cfind a l = some v) : (a, v) ∈ l := by
  induction l with
  | nil => cases h
  | cons e r ih =>
    obtain ⟨k, u⟩ := e
    unfold cfind at h
    split at h
    · rename_i hk
      rw [hk, Option.some.inj h]
      exact List.mem_cons_self
    · exact List.mem_cons_of_mem _ (ih h)

theorem mem_cset {α : Type} {a : Nat} {v : α} {l : Cells α} {e : Nat × α} (h : e ∈ cset a v l) : e = (a, v) ∨ e ∈ l := by
  induction l with
  | nil => exact .inl (List.mem_singleton.1 h)
  | cons x r ih =>
    obtain ⟨k, u⟩ := x
    unfold cset at h
    split at h
    · rcases List.mem_cons.1 h with h | h
      · exact .inl h
      · exact .inr (List.mem_cons_of_mem _ h)
    · split at h
      · rcases List.mem_cons.1 h with h | h
        · exact .inl h
        · exact .inr h
      · rcases List.mem_cons.1 h with h | h
        · exact .inr (h ▸ List.mem_cons_self)
        · exact (ih h).imp_right (List.mem_cons_of_mem _)

theorem mem_cdel {α : Type} {a : Nat} {l : Cells α} {e : Nat × α} (h : e ∈ cdel a l) : e ∈ l := by
  induction l with
  | nil => exact h
  | cons x r ih =>
    obtain ⟨k, u⟩ := x
    unfold cdel at h
    split at h
    · exact List.mem_cons_of_mem _ (ih h)
    · rcases List.mem_cons.1 h with h | h
      · exact h ▸ List.mem_cons_self
      · exact List.mem_cons_of_mem _ (ih h)

/-- A die's record that differs from another in its subscriptions, and in its copy and its directory entry of one line. -/
structure Die.SameBut (line : Nat) (k k' : Die) : Prop where
  llc : ∀ x, x ≠ line → cfind x k'.llc = cfind x k.llc
  dir : ∀ x, x ≠ line → cfind x k'.dir = cfind x k.dir
  waitq : k'.waitq = k.waitq
  held : k'.held = k.held
  evb : k'.evb = k.evb
  area : k'.lostArea = k.lostArea
  ovf : k'.lostOvf = k.lostOvf

/-- A property of the state that the operations of a recall of one line and of a move of its subscriptions keep. -/
structure State.Closed (line : Nat) (P : State → Prop) : Prop where
  fab : ∀ {s t : State}, P s → t.fab = s.fab → t.mem = s.mem → t.pkg = s.pkg → P t
  die : ∀ {s : State} {d : Nat} {k : Die}, P s → (s.die d).SameBut line k → P (s.setDie d k)
  push : ∀ {s : State} (a b : Agent) (l i : Nat) (d : BitVec 1024) (q : Word) (n : Nat), P s → P (s.send a b l (.push i d q n))

namespace State.Closed
variable {line : Nat} {P : State → Prop} {s : State}

theorem putLlc (h : Closed line P) (hs : P s) (k : Nat) (v : Line) : P (s.putLlc k line v) :=
  h.die hs ⟨fun _ hx => cfind_cset_ne hx _ _, fun _ _ => rfl, rfl, rfl, rfl, rfl, rfl⟩

theorem delLlc (h : Closed line P) (hs : P s) (k : Nat) : P (s.delLlc k line) :=
  h.die hs ⟨fun _ hx => cfind_cdel_ne hx _, fun _ _ => rfl, rfl, rfl, rfl, rfl, rfl⟩

theorem putDir (h : Closed line P) (hs : P s) (k : Nat) (e : Dir) : P (s.putDir k line e) :=
  h.die hs ⟨fun _ _ => rfl, fun _ hx => cfind_cset_ne hx _ _, rfl, rfl, rfl, rfl, rfl⟩

theorem delDir (h : Closed line P) (hs : P s) (k : Nat) : P (s.delDir k line) :=
  h.die hs ⟨fun _ _ => rfl, fun _ hx => cfind_cdel_ne hx _, rfl, rfl, rfl, rfl, rfl⟩

theorem putSubs (h : Closed line P) (hs : P s) (k : Nat) (l : Cells SubLine) : P (s.setDie k { s.die k with subs := l }) :=
  h.die hs ⟨fun _ _ => rfl, fun _ _ => rfl, rfl, rfl, rfl, rfl, rfl⟩

theorem l1Drop (h : Closed line P) (hs : P s) (d : Nat) (keep : Option Nat) : P (s.l1Drop d line keep) := by
  unfold State.l1Drop
  dsimp only
  split
  · exact h.fab hs rfl rfl rfl
  · refine h.putLlc ?_ _ _
    exact h.fab hs rfl rfl rfl

theorem copyGone (h : Closed line P) (hs : P s) (k : Nat) : P (s.copyGone k line) := by
  unfold State.copyGone
  repeat' split
  · exact hs
  · exact h.delLlc (h.l1Drop hs _ _) _
  · exact h.putLlc (h.l1Drop hs _ _) _ _
  · exact hs

theorem sendPush (h : Closed line P) (hs : P s) (k l : Nat) (u : Subscr) (img : BitVec 1024) : P (s.sendPush k l u img) := by
  unfold State.sendPush
  split
  · exact hs
  · exact h.push _ _ _ _ _ _ _ (h.putSubs hs _ _)

theorem moveSubs (h : Closed line P) (hs : P s) (l new : Nat) : P (s.moveSubs l new) := by
  unfold State.moveSubs
  dsimp only
  split
  · exact hs
  · have h2 : ∀ (us : List Subscr) (f : State → Subscr → Exec) (u : State), P u →
        P (us.foldl (fun s u => if u.dev = s.pkg.dev then { s with x := f s u } else s) u) := by
      refine fun us f u hu => foldl_holds (Q := P) (fun s v hs => ?_) us hu
      split
      · exact h.fab hs rfl rfl rfl
      · exact hs
    split
    · exact h.fab (h2 _ _ _ (h.putSubs hs _ _)) rfl rfl rfl
    · exact h.fab (foldl_holds (Q := P) (fun s u hs => h.sendPush hs _ _ _ _) _ (h.putSubs (h2 _ _ _ (h.putSubs hs _ _)) _ _)) rfl rfl rfl

end State.Closed

/-! ### Recalls of a line (O50) -/

/-- The home LLC keeps its copy of a line with subscribers (17_coherence R382). -/
def State.recallKeeps (s : State) (line : Nat) : Bool :=
  s.subbed (s.homeKey line) line && (match s.llc? (s.homeKey line) line with
    | some v => v.st.stable
    | none => false)

/-- The copies of a line recalled. -/
def State.recallCopies (s : State) (line : Nat) : State :=
  s.fab.dies.foldl (fun u e => if s.recallKeeps line && e.1 == s.homeKey line then u else u.copyGone e.1 line) s

/-- The directory of a line after its recall. -/
def State.recallDir (s : State) (line : Nat) : State :=
  let h := s.homeKey line
  let s1 := s.recallCopies line
  if s.recallKeeps line then
    (match s1.llc? h line with
      | some v => (s1.l1Drop h line none).putLlc h line { v with st := .M, data := s.freshLine line, l1 := 0 }
      | none => s1).putDir h line { st := .X, owner := h % 64, sub := true }
  else if (s1.dir? h line).isSome then s1.delDir h line else s1

/-- The slices' records after a recall of a line. -/
def recallSlices (line : Nat) (sl : Cells SliceEnt) : Cells SliceEnt :=
  match cfind line sl with
  | some e => if e.asked = 0 ∧ e.waits = [] then cdel line sl else cset line { e with st := .none, sharers := 0, owner := none } sl
  | none => sl

theorem State.recallLine_eq (s : State) (line : Nat) : s.recallLine line =
    { s.recallDir line with
      mem := (s.recallDir line).mem.putLine line (s.freshLine line)
      fab := { (s.recallDir line).fab with slices := recallSlices line (s.recallDir line).fab.slices } } := rfl

theorem State.Closed.recallCopies {line : Nat} {P : State → Prop} {s : State} (h : State.Closed line P) (hs : P s) : P (s.recallCopies line) := by
  unfold State.recallCopies
  refine foldl_holds (Q := P) (fun u e hu => ?_) _ hs
  split
  · exact hu
  · exact h.copyGone hu _

theorem State.Closed.recallDir {line : Nat} {P : State → Prop} {s : State} (h : State.Closed line P) (hs : P s) : P (s.recallDir line) := by
  have h1 := h.recallCopies hs
  unfold State.recallDir
  dsimp only
  split
  · refine h.putDir ?_ _ _
    split
    · exact h.putLlc (h.l1Drop h1 _ _) _ _
    · exact h1
  · split
    · exact h.delDir h1 _
    · exact h1

/-- The memory is kept. -/
theorem closed_mem (line : Nat) (m : Mem) : State.Closed line (fun t => t.mem = m) :=
  ⟨fun hs _ hm _ => hm.trans hs, fun hs _ => hs, fun _ _ _ _ _ _ _ hs => hs⟩

theorem State.recallLine_mem (s : State) (line : Nat) : (s.recallLine line).mem = s.mem.putLine line (s.freshLine line) := by
  rw [State.recallLine_eq]
  dsimp only
  rw [(closed_mem line s.mem).recallDir (P := fun t => t.mem = s.mem) rfl]

theorem State.moveSubs_mem (s : State) (line new : Nat) : (s.moveSubs line new).mem = s.mem :=
  (closed_mem line s.mem).moveSubs (P := fun t => t.mem = s.mem) rfl _ _

/-! ### Pages that nothing asks for (O50) -/

/-- No request for a page waits at a die or stands at a slice. -/
structure State.Unasked (p : Nat) (s : State) : Prop where
  waitq : ∀ e ∈ s.fab.dies, ∀ m ∈ e.2.waitq, m.line / 32 ≠ p
  held : ∀ e ∈ s.fab.dies, ∀ m ∈ e.2.held, m.line / 32 ≠ p
  slices : ∀ e ∈ s.fab.slices, e.1 / 32 ≠ p

section
variable {p : Nat} {s : State}

/-- A die's record is listed, or it is empty. -/
theorem State.die_listed (s : State) (d : Nat) : (d, s.die d) ∈ s.fab.dies ∨ s.die d = {} := by
  unfold State.die cget
  cases h : cfind d s.fab.dies with
  | none => exact .inr rfl
  | some k => exact .inl (mem_of_cfind h)

theorem State.Unasked.waitq_die (h : s.Unasked p) (d : Nat) : ∀ m ∈ (s.die d).waitq, m.line / 32 ≠ p := by
  rcases s.die_listed d with hd | hd
  · exact h.waitq _ hd
  · rw [hd]; exact fun m hm => absurd hm (List.not_mem_nil)

theorem State.Unasked.held_die (h : s.Unasked p) (d : Nat) : ∀ m ∈ (s.die d).held, m.line / 32 ≠ p := by
  rcases s.die_listed d with hd | hd
  · exact h.held _ hd
  · rw [hd]; exact fun m hm => absurd hm (List.not_mem_nil)

theorem State.Unasked.of_fab {t : State} (h : s.Unasked p) (ht : t.fab = s.fab) : t.Unasked p :=
  ⟨by rw [ht]; exact h.waitq, by rw [ht]; exact h.held, by rw [ht]; exact h.slices⟩

theorem State.Unasked.setDie {d : Nat} {k : Die} (h : s.Unasked p) (hw : ∀ m ∈ k.waitq, m ∈ (s.die d).waitq)
    (hh : ∀ m ∈ k.held, m ∈ (s.die d).held) : (s.setDie d k).Unasked p := by
  refine ⟨fun e he => ?_, fun e he => ?_, h.slices⟩
  · rcases mem_cset he with rfl | he
    · exact fun m hm => h.waitq_die d m (hw m hm)
    · exact h.waitq e he
  · rcases mem_cset he with rfl | he
    · exact fun m hm => h.held_die d m (hh m hm)
    · exact h.held e he

theorem State.Unasked.send (h : s.Unasked p) (a b : Agent) (l : Nat) (k : MsgK) : (s.send a b l k).Unasked p := ⟨h.waitq, h.held, h.slices⟩

theorem closed_unasked (line p : Nat) : State.Closed line (State.Unasked p) :=
  ⟨fun hs hf _ _ => hs.of_fab hf, fun hs hk => hs.setDie (by rw [hk.waitq]; exact fun _ hm => hm) (by rw [hk.held]; exact fun _ hm => hm),
    fun _ _ _ _ _ _ _ hs => hs.send _ _ _ _⟩

theorem mem_recallSlices {line : Nat} {sl : Cells SliceEnt} {e : Nat × SliceEnt} (h : e ∈ recallSlices line sl) : ∃ v, (e.1, v) ∈ sl := by
  unfold recallSlices at h
  cases hf : cfind line sl with
  | none => rw [hf] at h; exact ⟨e.2, h⟩
  | some v =>
    rw [hf] at h
    dsimp only at h
    split at h
    · exact ⟨e.2, mem_cdel h⟩
    · rcases mem_cset h with rfl | h
      · exact ⟨v, mem_of_cfind hf⟩
      · exact ⟨e.2, h⟩

theorem State.Unasked.recallLine (h : s.Unasked p) (line : Nat) : (s.recallLine line).Unasked p := by
  have hd := (closed_unasked line p).recallDir h
  rw [State.recallLine_eq]
  refine ⟨hd.waitq, hd.held, fun e he => ?_⟩
  obtain ⟨v, hv⟩ := mem_recallSlices he
  exact hd.slices (e.1, v) hv

theorem State.Unasked.foldl {α : Type} {f : State → α → State} (h : s.Unasked p) (hf : ∀ s a, s.Unasked p → (f s a).Unasked p) (l : List α) :
    (l.foldl f s).Unasked p := foldl_holds hf l h

/-- Where nothing asks for a page, the end of its hold serves nothing. -/
theorem State.Unasked.releasePage {f : Nat} (h : s.Unasked (f / 4096)) : s.releasePage f =
    ({ s with tue := { s.tue with hold := none, wait := [] } } : State).setDie (s.homeKey (f / 128))
      { s.die (s.homeKey (f / 128)) with held := (s.die (s.homeKey (f / 128))).held } := by
  have hheld := h.held_die (s.homeKey (f / 128))
  have hnone : (s.die (s.homeKey (f / 128))).held.filter (fun m => m.line / 32 == f / 4096) = [] := by
    rw [List.filter_eq_nil_iff]
    exact fun m hm => by simpa using hheld m hm
  have hall : (s.die (s.homeKey (f / 128))).held.filter (fun m => !(m.line / 32 == f / 4096)) = (s.die (s.homeKey (f / 128))).held := by
    rw [List.filter_eq_self]
    exact fun m hm => by simpa using hheld m hm
  unfold State.releasePage State.heldServe
  change List.foldl _ (State.setDie _ _ { s.die _ with held := (s.die (s.homeKey (f / 128))).held.filter _ }) ((s.die (s.homeKey (f / 128))).held.filter _) = _
  rw [hnone, hall]
  rfl

end

/-! ### The copies of a line after its recall (O50) -/

section
variable {s : State} {line : Nat}

theorem State.putLlc_llc?_ne (s : State) {k d : Nat} (h : d ≠ k) (l : Nat) (v : Line) (x : Nat) : (s.putLlc k l v).llc? d x = s.llc? d x := by
  unfold State.llc? State.putLlc
  rw [State.setDie_die_ne _ _ _ _ h]

theorem State.l1Drop_llc?_ne (s : State) {k d : Nat} (h : d ≠ k) (l : Nat) (keep : Option Nat) (x : Nat) :
    (s.l1Drop k l keep).llc? d x = s.llc? d x := by
  unfold State.l1Drop
  dsimp only
  split
  · rfl
  · exact State.putLlc_llc?_ne _ h _ _ _

theorem State.delLlc_llc?_ne (s : State) {k d : Nat} (h : d ≠ k) (l x : Nat) : (s.delLlc k l).llc? d x = s.llc? d x := by
  unfold State.llc? State.delLlc
  rw [State.setDie_die_ne _ _ _ _ h]

theorem State.delLlc_llc?_self (s : State) (k l : Nat) : (s.delLlc k l).llc? k l = none := by
  unfold State.llc? State.delLlc
  rw [State.setDie_die_self]
  exact cfind_cdel_self ..

theorem State.copyGone_llc?_ne (s : State) {k d : Nat} (h : d ≠ k) (l : Nat) : (s.copyGone k l).llc? d l = s.llc? d l := by
  unfold State.copyGone
  repeat' split
  · rfl
  · rw [State.delLlc_llc?_ne _ h, State.l1Drop_llc?_ne _ h]
  · rw [State.putLlc_llc?_ne _ h, State.l1Drop_llc?_ne _ h]
  · rfl

theorem State.copyGone_llc?_self {k l : Nat} (h : ∀ v, s.llc? k l = some v → v.st.stable = true) : (s.copyGone k l).llc? k l = none := by
  unfold State.copyGone
  cases hv : s.llc? k l with
  | none => exact hv
  | some v =>
    dsimp only
    rw [if_pos (h v hv)]
    exact State.delLlc_llc?_self ..

theorem foldl_copyGone_llc? (l : List (Nat × Die)) {u : State} (hs : ∀ d v, u.llc? d line = some v → v.st.stable = true) (d : Nat)
    (hd : d ∈ l.map (fun e => e.1) ∨ u.llc? d line = none) : (l.foldl (fun u e => u.copyGone e.1 line) u).llc? d line = none := by
  induction l generalizing u with
  | nil => exact hd.resolve_left List.not_mem_nil
  | cons e r ih =>
    have hstep : ∀ j, (u.copyGone e.1 line).llc? j line = if j = e.1 then none else u.llc? j line := by
      intro j
      split
      · rename_i hj
        rw [hj]
        exact State.copyGone_llc?_self (hs e.1)
      · exact State.copyGone_llc?_ne u ‹_› line
    refine ih (fun j v hj => ?_) ?_
    · rw [hstep] at hj
      split at hj
      · cases hj
      · exact hs j v hj
    · rw [hstep]
      rcases hd with hd | hd
      · rcases List.mem_cons.1 hd with hd | hd
        · exact .inr (if_pos hd)
        · exact .inl hd
      · exact .inr (by rw [hd]; simp)

/-- A recall of a line without subscribers, each copy of which is stable, leaves no copy of it. -/
theorem State.recallLine_llc? (hsub : s.subbed (s.homeKey line) line = false) (hs : ∀ d v, s.llc? d line = some v → v.st.stable = true)
    (d : Nat) : (s.recallLine line).llc? d line = none := by
  have hkeep : s.recallKeeps line = false := by
    unfold State.recallKeeps
    rw [hsub, Bool.false_and]
  have hcopies : (s.recallCopies line).llc? d line = none := by
    unfold State.recallCopies
    simp only [hkeep, Bool.false_and, Bool.false_eq_true, if_false]
    refine foldl_copyGone_llc? _ hs d ?_
    rcases s.die_listed d with hd | hd
    · exact .inl (List.mem_map.2 ⟨_, hd, rfl⟩)
    · refine .inr ?_
      unfold State.llc?
      rw [hd]
      rfl
  rw [State.recallLine_eq]
  show (s.recallDir line).llc? d line = none
  unfold State.recallDir
  simp only [hkeep, Bool.false_eq_true, if_false]
  split
  · unfold State.llc? State.delDir
    by_cases hd : d = s.homeKey line
    · rw [hd, State.setDie_die_self]
      rw [hd] at hcopies
      exact hcopies
    · rw [State.setDie_die_ne _ _ _ _ hd]
      exact hcopies
  · exact hcopies

end

/-! ### FLUSH (O50) -/

theorem State.tueFrame_aligned {s : State} {asid f : Nat} {va : DWord} (h : s.tueFrame asid va = some f) : f % 4096 = 0 := by
  unfold State.tueFrame at h
  cases hw : s.walk s.ctlDie asid va with
  | notMapped => simp [hw] at h
  | bind size e => simp [hw] at h
  | ok e =>
    have hpte : ∀ p, pteFrame p % 4096 = 0 := fun p => Nat.mul_mod_left _ _
    have hrepl : (s.replOf asid va).2.1 % 4096 = 0 := by
      unfold State.replOf
      dsimp only
      cases hfr : (s.dieOrder.map (fun d => (d, pteFrame (s.leafPte d asid va)))).find? (fun f => f.1 == pteHome (s.leafPte s.ctlDie asid va)) with
      | none => rfl
      | some r =>
        obtain ⟨d, -, rfl⟩ := List.mem_map.1 (List.mem_of_find?_eq_some hfr)
        exact hpte _
    simp only [hw] at h
    split at h
    · cases h
    · obtain rfl := Option.some.inj h
      split
      · omega
      · have := hpte e.pte; omega

section
variable {s : State} {pa f : Nat}

/-- FLUSH holds the page's accesses while a line that it names moves (16_translation R370). -/
theorem exec_flush_holds (hpa : s.tuePa = some pa) (hex : s.paExists pa = true) (hr : tcReserved (s.tueCmd pa) = false)
    (hk : bits (s.tueCmd pa) 0 4 = 4) (hf : s.tueFrame (tcAsid (s.tueCmd pa)) (tcVa (s.tueCmd pa)) = some f)
    (hm : ∃ l ∈ s.tueLines (s.tueCmd pa) f, s.lineMoves l = true) : exec .flush s = .next (s.holdPage f) := by
  rw [exec_flush]
  refine State.tueStep_waits hpa hex (tcIs_eq_true hr hk) ?_
  unfold State.tueFlush
  simp only [hf, List.any_eq_true.2 hm, if_true]

/-- FLUSH of still lines writes them back and serves what waits for the page (16_translation R370). -/
theorem exec_flush_does (hpa : s.tuePa = some pa) (hex : s.paExists pa = true) (hr : tcReserved (s.tueCmd pa) = false)
    (hk : bits (s.tueCmd pa) 0 4 = 4) (hf : s.tueFrame (tcAsid (s.tueCmd pa)) (tcVa (s.tueCmd pa)) = some f)
    (hm : ∀ l ∈ s.tueLines (s.tueCmd pa) f, s.lineMoves l = false) :
    let u := ((s.tueLines (s.tueCmd pa) f).foldl (fun s l => s.recallLine l) s).releasePage f
    exec .flush s = .next { u with tue := { u.tue with rd := s.tue.rd + 1, doing := some (s.tue.rd, s.tueCmd pa) } } := by
  rw [exec_flush]
  refine State.tueStep_does hpa hex (tcIs_eq_true hr hk) ?_
  have hnone : (s.tueLines (s.tueCmd pa) f).any s.lineMoves = false := by
    rw [List.any_eq_false]
    exact fun l hl => by simp [hm l hl]
  unfold State.tueFlush
  simp only [hf, hnone, Bool.false_eq_true, if_false]

theorem State.tueLines_page (hf : f % 4096 = 0) {c : BitVec 256} {l : Nat} (hl : l ∈ s.tueLines c f) : l / 32 = f / 4096 := by
  obtain ⟨k, hk, rfl⟩ := List.mem_map.1 (List.mem_filter.1 hl).1
  have := List.mem_range.1 (List.mem_filter.1 hk).1
  omega

/-- What FLUSH leaves of one line that nothing asks for and each copy of which is stable. -/
theorem State.recall_release (hu : s.Unasked (f / 4096)) (l : Nat) :
    ((s.recallLine l).releasePage f).mem = s.mem.putLine l (s.freshLine l) ∧
      ∀ d, ((s.recallLine l).releasePage f).llc? d l = (s.recallLine l).llc? d l := by
  rw [(hu.recallLine l).releasePage]
  refine ⟨s.recallLine_mem l, fun d => ?_⟩
  unfold State.llc?
  by_cases hd : d = (s.recallLine l).homeKey (f / 128)
  · rw [hd, State.setDie_die_self]
  · rw [State.setDie_die_ne _ _ _ _ hd]
    rfl

end

/-! ### MIGRATE leaves a page that nothing asks for as it is in the queues (O50) -/

section
variable {p : Nat} {s : State}

theorem State.Unasked.putDie {d : Nat} {k : Die} (h : s.Unasked p) (hw : ∀ m ∈ k.waitq, m.line / 32 ≠ p) (hh : ∀ m ∈ k.held, m.line / 32 ≠ p) :
    (s.setDie d k).Unasked p := by
  refine ⟨fun e he => ?_, fun e he => ?_, h.slices⟩
  · rcases mem_cset he with rfl | he
    · exact hw
    · exact h.waitq e he
  · rcases mem_cset he with rfl | he
    · exact hh
    · exact h.held e he

theorem State.Unasked.loseLine (h : s.Unasked p) (d line : Nat) : (s.loseLine d line).Unasked p := by
  have hput : ∀ {u : State} {k : Die}, u.Unasked p → k.waitq = (s.die d).waitq → k.held = (s.die d).held → (u.setDie d k).Unasked p :=
    fun hu hw hh => hu.putDie (by rw [hw]; exact h.waitq_die d) (by rw [hh]; exact h.held_die d)
  unfold State.loseLine State.nackAll
  dsimp only
  refine State.Unasked.foldl ?_ (fun s m hs => ?_) _
  · have hlost : State.Unasked p (if Config.dirWays ≤ ((s.die d).dir.filter (fun e => dirSet e.1 == dirSet line && e.2.st == .lost && e.1 != line)).length then
        match minBy (fun (e : Nat × Dir) => e.2.since) ((s.die d).dir.filter (fun e => dirSet e.1 == dirSet line && e.2.st == .lost && e.1 != line)) with
        | some e => s.setDie d { s.die d with
            dir := cdel e.1 (s.die d).dir
            lostArea := (s.die d).lostArea ++ [e.1]
            lostOvf := if (s.die d).lostOvf.contains (dirSet line) then (s.die d).lostOvf else (s.die d).lostOvf ++ [dirSet line] }
        | none => s
      else s) := by
      split
      · split
        · exact hput h rfl rfl
        · exact h
      · exact h
    have hqueue : ∀ u : State, u.Unasked p → ∀ n, (u.setDie d { u.die d with lostCnt := n, waitq := (s.die d).waitq.filter (fun m => m.line != line) }).Unasked p :=
      fun u hu n => hu.putDie (fun m hm => h.waitq_die d m (List.mem_filter.1 hm).1) (hu.held_die d)
    have hdir := hqueue _ ((closed_unasked line p).putDir hlost d { st := .lost }) (min (2 ^ 32 - 1) ((s.die d).lostCnt + 1))
    split
    · exact hdir
    · refine (closed_unasked line p).putSubs (State.Unasked.foldl hdir (fun s o hs => ?_) _) _ _
      split
      · exact hs.send _ _ _ _
      · exact hs
  · split
    · exact hs.send _ _ _ _
    · exact hs

/-- A line that moves is LOST, or its home die is mapped out. -/
def State.moveLost (s : State) (a : Nat) : Bool :=
  s.isLost (s.homeKey a) a || (match s.homeDie a with
    | .die h => !s.working h
    | _ => false)

/-- A line recalled at its new home, with its bytes or LOST. -/
def State.moveData (s : State) (a b : Nat) (copy : Bool) : State :=
  let s1 := (s.recallLine a).recallLine b
  if s.moveLost a then s1.loseLine (s1.homeKey b) b
  else if copy then { s1 with mem := s1.mem.putLine b (s1.mem.line a) }
  else s1

theorem State.moveLine_eq (s : State) (a b : Nat) (copy : Bool) : s.moveLine a b copy = (s.moveData a b copy).moveSubs a b := rfl

theorem State.Unasked.moveLine (h : s.Unasked p) (a b : Nat) (copy : Bool) : (s.moveLine a b copy).Unasked p := by
  have h1 := (h.recallLine a).recallLine b
  rw [State.moveLine_eq]
  refine (closed_unasked a p).moveSubs ?_ _ _
  unfold State.moveData
  dsimp only
  split
  · exact h1.loseLine _ _
  · split
    · exact h1.of_fab rfl
    · exact h1

/-- A state whose dies and slices have the queues of another's. -/
theorem State.Unasked.of_map {t : State} {g : Nat × Die → Die} {k : Nat × SliceEnt → SliceEnt} (h : s.Unasked p)
    (hd : t.fab.dies = s.fab.dies.map (fun e => (e.1, g e))) (hs : t.fab.slices = s.fab.slices.map (fun e => (e.1, k e)))
    (hw : ∀ e, (g e).waitq = e.2.waitq) (hh : ∀ e, (g e).held = e.2.held) : t.Unasked p := by
  refine ⟨fun e he => ?_, fun e he => ?_, fun e he => ?_⟩
  · rw [hd] at he
    obtain ⟨e0, he0, rfl⟩ := List.mem_map.1 he
    rw [hw]
    exact h.waitq e0 he0
  · rw [hd] at he
    obtain ⟨e0, he0, rfl⟩ := List.mem_map.1 he
    rw [hh]
    exact h.held e0 he0
  · rw [hs] at he
    obtain ⟨e0, he0, rfl⟩ := List.mem_map.1 he
    exact h.slices e0 he0

theorem State.Unasked.pushStore (h : s.Unasked p) (d line : Nat) (img : BitVec 1024) : (s.pushStore d line img).Unasked p := by
  unfold State.pushStore
  split
  · exact h
  · refine State.Unasked.foldl ((closed_unasked line p).putSubs h _ _) (fun s o hs => ?_) _
    split
    · split
      · exact hs
      · exact (closed_unasked line p).sendPush hs _ _ _ _
    · exact hs

theorem State.Unasked.pokeLine (h : s.Unasked p) (bs : List (Nat × Byte)) (line : Nat) : (s.pokeLine bs line).Unasked p := by
  unfold State.pokeLine
  refine State.Unasked.pushStore ?_ _ _ _
  refine h.of_map (k := fun e => if e.1 = line then { e.2 with data := patchData line bs e.2.data } else e.2) rfl ?_ (fun _ => rfl) (fun _ => rfl)
  refine List.map_congr_left (fun e _ => ?_)
  split <;> rfl

theorem State.Unasked.setLeaf (h : s.Unasked p) (asid : Nat) (va : DWord) (f : Nat → DWord → DWord) : (s.setLeaf asid va f).Unasked p := by
  unfold State.setLeaf
  refine h.foldl (fun s d hs => ?_) _
  split
  · exact hs.foldl (fun s l hs => hs.pokeLine _ l) _
  · exact hs

theorem State.Unasked.invalidate (h : s.Unasked p) (asid lo hi : Nat) : (s.invalidate asid lo hi).Unasked p :=
  h.of_map (k := fun e => e.2) rfl (List.map_id _).symm (fun _ => rfl) (fun _ => rfl)

theorem State.Unasked.movePage (h : s.Unasked p) (f new mask : Nat) : (s.movePage f new mask).Unasked p :=
  h.foldl (fun _ _ hs => hs.moveLine _ _ _) _

theorem State.Unasked.tueNewLeaf (h : s.Unasked p) (c : BitVec 256) : (s.tueNewLeaf c).Unasked p := (h.setLeaf _ _ _).invalidate _ _ _

theorem State.movedPage_fab (s : State) (c : BitVec 256) (f new : Nat) :
    (s.movedPage c f new).fab = ((s.movePage f new (tcArg c)).tueNewLeaf c).fab := rfl

theorem State.Unasked.movedPage (h : s.Unasked p) (c : BitVec 256) (f new : Nat) : (s.movedPage c f new).Unasked p :=
  ((h.movePage f new (tcArg c)).tueNewLeaf c).of_fab (s.movedPage_fab c f new)

end

/-! ### What waits for a page that has moved (O50) -/

theorem State.request_tue (s : State) (k line : Nat) (q : MsgK) : (s.request k line q).tue = s.tue := by
  unfold State.request
  dsimp only
  repeat' split
  all_goals rfl

theorem State.l1Drop_tue (s : State) (d line : Nat) (keep : Option Nat) : (s.l1Drop d line keep).tue = s.tue := by
  unfold State.l1Drop
  dsimp only
  split <;> rfl

theorem State.evict_tue (s : State) (k line : Nat) : (s.evict k line).tue = s.tue := by
  unfold State.evict
  dsimp only
  split
  · rfl
  · split
    · exact (State.request_tue ..).trans (State.l1Drop_tue ..)
    · exact (State.request_tue ..).trans (State.l1Drop_tue ..)
    · exact (State.request_tue ..).trans (State.l1Drop_tue ..)
    · exact State.l1Drop_tue s k line none
    · exact State.l1Drop_tue s k line none
    · rfl

theorem State.room_tue {s t : State} {k line w : Nat} {rt : Bool} (h : s.room k line rt = some (t, w)) : t.tue = s.tue := by
  unfold State.room at h
  dsimp only at h
  repeat' split at h
  · cases h; rfl
  · cases h
  · cases h; exact State.evict_tue ..

theorem State.putLlc_tue (s : State) (k line : Nat) (v : Line) : (s.putLlc k line v).tue = s.tue := rfl

theorem State.delLlc_tue (s : State) (k line : Nat) : (s.delLlc k line).tue = s.tue := rfl

theorem State.moveWant_tue (s : State) (f new k line : Nat) : (s.moveWant f new k line).tue = s.tue := by
  unfold State.moveWant
  dsimp only
  repeat' split
  · rfl
  · rw [State.putLlc_tue, State.delLlc_tue]
  · rename_i hroom
    rw [State.putLlc_tue, State.room_tue hroom, State.delLlc_tue]
  · rw [State.delLlc_tue]

/-- Of a page that nothing asks for, only the requests of its LLCs follow it. -/
theorem State.Unasked.moveHeld {s : State} {f : Nat} (h : s.Unasked (f / 4096)) (new : Nat) :
    (s.moveHeld f new).mem = s.mem ∧ (s.moveHeld f new).tue = s.tue := by
  have hwait : (s.die (s.homeKey (f / 128))).waitq.filter (fun m => m.line / 32 == f / 4096) = [] := by
    rw [List.filter_eq_nil_iff]
    exact fun m hm => by simpa using h.waitq_die _ m hm
  have hheld : (s.die (s.homeKey (f / 128))).held.filter (fun m => m.line / 32 == f / 4096) = [] := by
    rw [List.filter_eq_nil_iff]
    exact fun m hm => by simpa using h.held_die _ m hm
  have hslices : s.fab.slices.filter (fun e => e.1 / 32 == f / 4096) = [] := by
    rw [List.filter_eq_nil_iff]
    exact fun e he => by simpa using h.slices e he
  unfold State.moveHeld
  simp only [hwait, hheld, hslices, List.append_nil, List.flatMap_nil, List.foldl_nil]
  constructor
  · exact congrArg Prod.fst (foldl_mh (fun s (e : Nat × Die) => foldl_mh (fun s (v : Nat × Line) => State.moveWant_mh s f new e.1 v.1) _ s) _ _)
  · exact foldl_keeps (π := fun s => s.tue) (fun s (e : Nat × Die) =>
      foldl_keeps (π := fun s => s.tue) (fun s (v : Nat × Line) => State.moveWant_tue s f new e.1 v.1) _ s) _ _

/-! ### Lines of memory (O50) -/

theorem Mem.line_putLine_self (m : Mem) (l : Nat) (d : BitVec 1024) : (m.putLine l d).line l = d := by
  unfold Mem.line Mem.putLine
  rw [Mem.num_putNum]
  refine BitVec.eq_of_toNat_eq ?_
  have hpow : 256 ^ 128 = 2 ^ 1024 := (Nat.pow_mul 2 8 128).symm
  rw [hpow, BitVec.toNat_ofNat, Nat.mod_mod, Nat.mod_eq_of_lt d.isLt]

theorem Mem.line_putLine_ne (m : Mem) {l x : Nat} (h : x ≠ l) (d : BitVec 1024) : (m.putLine l d).line x = m.line x := by
  unfold Mem.line Mem.putLine
  rw [Mem.num_putNum_out _ _ _ _ _ _ (by omega)]

/-! ### Tables with rising keys (O50) -/

/-- The records of the dies stand in the order of their numbers. -/
def State.DiesRise (s : State) : Prop := (s.fab.dies.map (fun e => e.1)).Pairwise (· < ·)

theorem pairwise_cset {α : Type} {a : Nat} {v : α} {l : Cells α} (h : (l.map (fun e => e.1)).Pairwise (· < ·)) :
    ((cset a v l).map (fun e => e.1)).Pairwise (· < ·) := by
  induction l with
  | nil => simp [cset]
  | cons x r ih =>
    obtain ⟨k, u⟩ := x
    rw [List.map_cons, List.pairwise_cons] at h
    obtain ⟨hk, hr⟩ := h
    unfold cset
    split
    · rename_i e
      subst e
      exact List.pairwise_cons.2 ⟨hk, hr⟩
    · split
      · refine List.pairwise_cons.2 ⟨fun j hj => ?_, List.pairwise_cons.2 ⟨hk, hr⟩⟩
        rcases List.mem_cons.1 hj with rfl | hj
        · assumption
        · have hkj : k < j := hk j hj
          show a < j
          omega
      · refine List.pairwise_cons.2 ⟨fun j hj => ?_, ih hr⟩
        obtain ⟨e, he, rfl⟩ := List.mem_map.1 hj
        rcases mem_cset he with rfl | he
        · show k < a
          omega
        · exact hk _ (List.mem_map.2 ⟨e, he, rfl⟩)

theorem cfind_eq_none {α : Type} {a : Nat} {l : Cells α} (h : ∀ e ∈ l, e.1 ≠ a) : cfind a l = none := by
  cases hf : cfind a l with
  | none => rfl
  | some v => exact absurd rfl (h _ (mem_of_cfind hf))

/-- A search by what the records hold finds the same after a record is replaced by one that holds the same. -/
theorem findSome?_cset {α β : Type} {g : α → Option β} {dflt k : α} {d : Nat} {l : Cells α} (h : (l.map (fun e => e.1)).Pairwise (· < ·))
    (hk : g k = g (cget dflt d l)) (hd : g dflt = none) : (cset d k l).findSome? (fun e => g e.2) = l.findSome? (fun e => g e.2) := by
  induction l with
  | nil =>
    have : g k = none := hk.trans hd
    simp [cset, this]
  | cons x r ih =>
    obtain ⟨j, u⟩ := x
    rw [List.map_cons, List.pairwise_cons] at h
    obtain ⟨hj, hr⟩ := h
    unfold cset
    split
    · rename_i e
      have hu : cget dflt d ((j, u) :: r) = u := by simp [cget, cfind, e]
      rw [hu] at hk
      simp only [List.findSome?_cons, hk]
    · rename_i hne
      split
      · rename_i hlt
        have hnone : cfind d ((j, u) :: r) = none := by
          refine cfind_eq_none (fun e he => ?_)
          rcases List.mem_cons.1 he with rfl | he
          · exact hne
          · have hje := hj _ (List.mem_map.2 ⟨e, he, rfl⟩)
            dsimp only at hje
            omega
        have hk0 : g k = none := by
          rw [hk, cget, hnone]
          exact hd
        rw [List.findSome?_cons, hk0]
      · have hu : cget dflt d ((j, u) :: r) = cget dflt d r := by simp [cget, cfind, hne]
        rw [hu] at hk
        rw [List.findSome?_cons, List.findSome?_cons, ih hr hk]

/-! ### What an operation on one line leaves of another (O50) -/

/-- The copy of a line that a die owns. -/
def Die.owned (x : Nat) (k : Die) : Option (BitVec 1024) :=
  match cfind x k.llc with
  | some v => if v.st = .M ∨ v.st = .O ∨ v.own then some v.data else none
  | none => none

/-- The data that a die's eviction buffer holds of a line. -/
def Die.evicted (x : Nat) (k : Die) : Option (BitVec 1024) := k.evb.findSome? (fun v => if v.line = x then v.data else none)

/-- The data of a line that a message carries from an owner. -/
def Msg.owned (x : Nat) (m : Msg) : Option (BitVec 1024) := if m.line = x then msgData m.k else none

theorem State.ownedLine_eq (s : State) (x : Nat) : s.ownedLine x =
    match s.fab.dies.findSome? (fun e => e.2.owned x) with
    | some d => some d
    | none =>
      match s.fab.net.reverse.findSome? (Msg.owned x) with
      | some d => some d
      | none =>
        match s.fab.dies.findSome? (fun e => e.2.evicted x) with
        | some d => some d
        | none =>
          match cfind x s.fab.slices with
          | some v => if v.st = .M ∨ v.st = .O then some v.data else none
          | none => none := rfl

theorem State.ownedLine_congr {s t : State} {x : Nat} (hd : t.fab.dies.findSome? (fun e => e.2.owned x) = s.fab.dies.findSome? (fun e => e.2.owned x))
    (hn : t.fab.net.reverse.findSome? (Msg.owned x) = s.fab.net.reverse.findSome? (Msg.owned x))
    (he : t.fab.dies.findSome? (fun e => e.2.evicted x) = s.fab.dies.findSome? (fun e => e.2.evicted x))
    (hs : cfind x t.fab.slices = cfind x s.fab.slices) : t.ownedLine x = s.ownedLine x := by
  rw [State.ownedLine_eq, State.ownedLine_eq, hd, hn, he, hs]

/-- Two states agree on a line: on its value in memory and wherever it is owned, on its LOST state, and on the package. -/
structure State.Alike (x : Nat) (s t : State) : Prop where
  rise : t.DiesRise
  owned : t.ownedLine x = s.ownedLine x
  line : t.mem.line x = s.mem.line x
  lost : ∀ h, t.isLost h x = s.isLost h x
  pkg : t.pkg = s.pkg

section
variable {x : Nat} {s t : State}

theorem State.Alike.refl (h : s.DiesRise) : State.Alike x s s := ⟨h, rfl, rfl, fun _ => rfl, rfl⟩

theorem State.Alike.trans {u : State} (h : State.Alike x s t) (h' : State.Alike x t u) : State.Alike x s u :=
  ⟨h'.rise, h'.owned.trans h.owned, h'.line.trans h.line, fun d => (h'.lost d).trans (h.lost d), h'.pkg.trans h.pkg⟩

theorem State.Alike.freshLine (h : State.Alike x s t) : t.freshLine x = s.freshLine x := by
  unfold State.freshLine
  rw [h.owned, h.line]

theorem State.isLost_of_fab (h : t.fab = s.fab) (d : Nat) : t.isLost d x = s.isLost d x := by
  unfold State.isLost State.dir? State.die
  rw [h]

/-- The keeping of a line by the operations on another. -/
theorem closed_alike {line : Nat} (s : State) (hx : x ≠ line) : State.Closed line (State.Alike x s) := by
  refine ⟨fun {u v} hu hf hm hp => ?_, fun {u d k} hu hk => ?_, fun {u} a b l i d q n hu => ?_⟩
  · refine hu.trans ⟨?_, ?_, by rw [hm], State.isLost_of_fab hf, hp⟩
    · unfold State.DiesRise
      rw [hf]
      exact hu.rise
    · exact State.ownedLine_congr (by rw [hf]) (by rw [hf]) (by rw [hf]) (by rw [hf])
  · refine hu.trans ⟨pairwise_cset hu.rise, State.ownedLine_congr ?_ rfl ?_ rfl, rfl, fun j => ?_, rfl⟩
    · refine findSome?_cset hu.rise (dflt := {}) ?_ rfl
      unfold Die.owned
      rw [hk.llc x hx]
      rfl
    · refine findSome?_cset hu.rise (dflt := {}) ?_ rfl
      unfold Die.evicted
      rw [hk.evb]
      rfl
    · unfold State.isLost State.dir?
      by_cases hj : j = d
      · rw [hj, State.setDie_die_self, hk.dir x hx, hk.area, hk.ovf]
      · rw [State.setDie_die_ne _ _ _ _ hj]
  · refine hu.trans ⟨hu.rise, State.ownedLine_congr rfl ?_ rfl rfl, rfl, fun _ => rfl, rfl⟩
    show (u.fab.net ++ _).reverse.findSome? (Msg.owned x) = _
    rw [List.reverse_append, List.reverse_singleton, List.singleton_append, List.findSome?_cons]
    simp [Msg.owned, msgData]

theorem cfind_recallSlices_ne {line : Nat} (hx : x ≠ line) (sl : Cells SliceEnt) : cfind x (recallSlices line sl) = cfind x sl := by
  unfold recallSlices
  repeat' split
  · exact cfind_cdel_ne hx _
  · exact cfind_cset_ne hx _ _
  · rfl

theorem State.Alike.recallLine {line : Nat} (h : State.Alike x s t) (hx : x ≠ line) : State.Alike x s (t.recallLine line) := by
  have hd := (closed_alike s hx).recallDir h
  rw [State.recallLine_eq]
  refine hd.trans ⟨hd.rise, State.ownedLine_congr rfl rfl rfl (cfind_recallSlices_ne hx _), Mem.line_putLine_ne _ hx _, fun _ => rfl, rfl⟩

theorem State.Alike.putLine {b : Nat} (h : State.Alike x s t) (hx : x ≠ b) (d : BitVec 1024) :
    State.Alike x s { t with mem := t.mem.putLine b d } :=
  h.trans ⟨h.rise, rfl, Mem.line_putLine_ne _ hx _, fun _ => rfl, rfl⟩

theorem State.Alike.moveLine {a b : Nat} (h : State.Alike x s t) (hlost : t.moveLost a = false) (ha : x ≠ a) (hb : x ≠ b) (copy : Bool) :
    State.Alike x s (t.moveLine a b copy) := by
  have h1 := (h.recallLine ha).recallLine hb
  rw [State.moveLine_eq]
  refine (closed_alike s ha).moveSubs ?_ _ _
  unfold State.moveData
  simp only [hlost, Bool.false_eq_true, if_false]
  split
  · exact h1.putLine hb _
  · exact h1

theorem State.Alike.moveLost (h : State.Alike x s t) : t.moveLost x = s.moveLost x := by
  have hdie : t.homeDie x = s.homeDie x := by
    unfold State.homeDie
    rw [h.pkg]
  have hwork : ∀ d, t.working d = s.working d := fun d => by
    unfold State.working State.dmap
    rw [h.pkg]
  unfold State.moveLost State.homeKey
  rw [hdie, h.lost]
  cases s.homeDie x <;> simp [hwork]

end

/-- A line that is not LOST has its value at its new place. -/
theorem State.moveLine_line {s : State} {a b : Nat} (hlost : s.moveLost a = false) (hab : a ≠ b) : (s.moveLine a b true).mem.line b = s.freshLine a := by
  rw [State.moveLine_eq, State.moveSubs_mem]
  unfold State.moveData
  simp only [hlost, Bool.false_eq_true, if_false, if_true]
  rw [Mem.line_putLine_self, State.recallLine_mem, Mem.line_putLine_ne _ hab, State.recallLine_mem, Mem.line_putLine_self]

/-! ### The lines of a page that moves (O50) -/

section
variable {f new : Nat} {copy : Nat → Bool}

/-- The lines of some numbers of a page moved to another. -/
def State.moveLines (s : State) (f new : Nat) (copy : Nat → Bool) (ks : List Nat) : State :=
  ks.foldl (fun (s : State) k => s.moveLine (f / 128 + k) (new / 128 + k) (copy k)) s

theorem State.Alike.moveLines {x : Nat} {s t : State} (h : State.Alike x s t) {ks : List Nat}
    (hx : ∀ k ∈ ks, x ≠ f / 128 + k ∧ x ≠ new / 128 + k) (hlost : ∀ k ∈ ks, t.moveLost (f / 128 + k) = false) (hnodup : ks.Nodup)
    (hdis : ∀ j ∈ ks, ∀ k ∈ ks, f / 128 + j ≠ new / 128 + k) : State.Alike x s (t.moveLines f new copy ks) := by
  induction ks generalizing t with
  | nil => exact h
  | cons k r ih =>
    obtain ⟨hk, hr⟩ := List.nodup_cons.1 hnodup
    have hstep := hlost k List.mem_cons_self
    refine ih (h.moveLine hstep (hx k List.mem_cons_self).1 (hx k List.mem_cons_self).2 _) (fun j hj => hx j (List.mem_cons_of_mem _ hj))
      (fun j hj => ?_) hr (fun i hi j hj => hdis i (List.mem_cons_of_mem _ hi) j (List.mem_cons_of_mem _ hj))
    have hne : j ≠ k := fun e => hk (e ▸ hj)
    have halike : State.Alike (f / 128 + j) t (t.moveLine (f / 128 + k) (new / 128 + k) (copy k)) :=
      (State.Alike.refl h.rise).moveLine hstep (by omega) (hdis j (List.mem_cons_of_mem _ hj) k List.mem_cons_self) _
    rw [halike.moveLost]
    exact hlost j (List.mem_cons_of_mem _ hj)

/-- Each copied line of a page without LOST lines has its value in the new frame. -/
theorem State.moveLines_line {s : State} (hrise : s.DiesRise) {ks : List Nat} (hlost : ∀ k ∈ ks, s.moveLost (f / 128 + k) = false)
    (hnodup : ks.Nodup) (hdis : ∀ j ∈ ks, ∀ k ∈ ks, f / 128 + j ≠ new / 128 + k) {i : Nat} (hi : i ∈ ks) (hcopy : copy i = true) :
    (s.moveLines f new copy ks).mem.line (new / 128 + i) = s.freshLine (f / 128 + i) := by
  induction ks generalizing s with
  | nil => cases hi
  | cons k r ih =>
    obtain ⟨hk, hr⟩ := List.nodup_cons.1 hnodup
    have hstep := hlost k List.mem_cons_self
    have hdis' : ∀ j ∈ r, ∀ k ∈ r, f / 128 + j ≠ new / 128 + k :=
      fun i hi j hj => hdis i (List.mem_cons_of_mem _ hi) j (List.mem_cons_of_mem _ hj)
    have halike : ∀ j ∈ r, State.Alike (f / 128 + j) s (s.moveLine (f / 128 + k) (new / 128 + k) (copy k)) := by
      intro j hj
      have hne : j ≠ k := fun e => hk (e ▸ hj)
      exact (State.Alike.refl hrise).moveLine hstep (by omega) (hdis j (List.mem_cons_of_mem _ hj) k List.mem_cons_self) _
    have hlost' : ∀ j ∈ r, (s.moveLine (f / 128 + k) (new / 128 + k) (copy k)).moveLost (f / 128 + j) = false := by
      intro j hj
      rw [(halike j hj).moveLost]
      exact hlost j (List.mem_cons_of_mem _ hj)
    have hrise' : (s.moveLine (f / 128 + k) (new / 128 + k) (copy k)).DiesRise :=
      ((State.Alike.refl (x := f / 128 + k + (new / 128 + k) + 1) hrise).moveLine hstep (by omega) (by omega) _).rise
    rcases List.mem_cons.1 hi with rfl | hi
    · have hkeep : State.Alike (new / 128 + i) (s.moveLine (f / 128 + i) (new / 128 + i) (copy i))
          ((s.moveLine (f / 128 + i) (new / 128 + i) (copy i)).moveLines f new copy r) := by
        refine (State.Alike.refl hrise').moveLines (fun j hj => ⟨?_, ?_⟩) hlost' hr hdis'
        · exact (hdis j (List.mem_cons_of_mem _ hj) i List.mem_cons_self).symm
        · have hne : j ≠ i := fun e => hk (e ▸ hj)
          omega
      refine hkeep.line.trans ?_
      rw [hcopy]
      exact State.moveLine_line hstep (hdis i List.mem_cons_self i List.mem_cons_self)
    · exact (ih hrise' hlost' hr hdis' hi).trans (halike i hi).freshLine

end

/-- The named lines of a page without LOST lines have their values in another frame once the page is there (16_translation R370). -/
theorem State.movePage_line {s : State} {f new mask : Nat} (hf : f % 4096 = 0) (hnew : new % 4096 = 0) (hne : f ≠ new) (hrise : s.DiesRise)
    (hlost : ∀ k < 32, s.moveLost (f / 128 + k) = false) {k : Nat} (hk : k ∈ maskLines mask) :
    (s.movePage f new mask).mem.line (new / 128 + k) = s.freshLine (f / 128 + k) := by
  refine State.moveLines_line (copy := (maskLines mask).contains) (ks := List.range 32) hrise (fun j hj => hlost j (List.mem_range.1 hj))
    List.nodup_range (fun i hi j hj => ?_) (List.mem_filter.1 hk).1 (by simpa using hk)
  have hi := List.mem_range.1 hi
  have hj := List.mem_range.1 hj
  omega

section
variable {s : State} {pa f : Nat}

/-- MIGRATE holds the page's accesses while a line of it moves (16_translation R370). -/
theorem exec_migrate_holds (hpa : s.tuePa = some pa) (hex : s.paExists pa = true) (hr : tcReserved (s.tueCmd pa) = false)
    (hk : bits (s.tueCmd pa) 0 4 = 3) (hf : s.tueFrame (tcAsid (s.tueCmd pa)) (tcVa (s.tueCmd pa)) = some f)
    (hn : s.paExists (pteFrame (tcPte (s.tueCmd pa))) = true) (hm : ∃ l ∈ pageOn f, s.lineMoves l = true) :
    exec .migrate s = .next (s.holdPage f) := by
  rw [exec_migrate]
  refine State.tueStep_waits hpa hex (tcIs_eq_true hr hk) ?_
  have hany : (pageOn f ++ pageOn (pteFrame (tcPte (s.tueCmd pa)))).any s.lineMoves = true := by
    rw [List.any_append, List.any_eq_true.2 hm, Bool.true_or]
  unfold State.tueMigrate
  simp only [hn, if_true, hf, hany, Bool.true_or]

/-- MIGRATE of a still page moves its lines and its leaf, and what waits for it follows (16_translation R370). -/
theorem exec_migrate_does (hpa : s.tuePa = some pa) (hex : s.paExists pa = true) (hr : tcReserved (s.tueCmd pa) = false)
    (hk : bits (s.tueCmd pa) 0 4 = 3) (hf : s.tueFrame (tcAsid (s.tueCmd pa)) (tcVa (s.tueCmd pa)) = some f)
    (hn : s.paExists (pteFrame (tcPte (s.tueCmd pa))) = true) (hm : ∀ l ∈ pageOn f, s.lineMoves l = false)
    (hm' : ∀ l ∈ pageOn (pteFrame (tcPte (s.tueCmd pa))), s.lineMoves l = false ∧ s.lineBusy l = false) :
    let new := pteFrame (tcPte (s.tueCmd pa))
    let u := (s.movedPage (s.tueCmd pa) f new).moveHeld f new
    exec .migrate s = .next { u with tue := { u.tue with rd := s.tue.rd + 1, doing := some (s.tue.rd, s.tueCmd pa) } } := by
  rw [exec_migrate]
  refine State.tueStep_does hpa hex (tcIs_eq_true hr hk) ?_
  have hmoves : (pageOn f ++ pageOn (pteFrame (tcPte (s.tueCmd pa)))).any s.lineMoves = false := by
    rw [List.any_append, Bool.or_eq_false_iff, List.any_eq_false, List.any_eq_false]
    exact ⟨fun l hl => by simp [hm l hl], fun l hl => by simp [(hm' l hl).1]⟩
  have hbusy : (pageOn (pteFrame (tcPte (s.tueCmd pa)))).any s.lineBusy = false := by
    rw [List.any_eq_false]
    exact fun l hl => by simp [(hm' l hl).2]
  unfold State.tueMigrate
  simp only [hn, if_true, hf, hmoves, hbusy, Bool.or_self, Bool.false_eq_true, if_false]

theorem State.movedPage_mem (s : State) (c : BitVec 256) (f new : Nat) :
    (s.movedPage c f new).mem = ((s.movePage f new (tcArg c)).setLeaf (tcAsid c) (tcVa c) (fun _ _ => tcPte c)).mem := rfl

theorem State.movedPage_hold (s : State) (c : BitVec 256) (f new : Nat) : (s.movedPage c f new).tue.hold = none := rfl

/-! ### Completion of a command (O50) -/

theorem exec_tueReservedCommand_done {s1 : State} (hpa : s.tuePa = some pa) (hex : s.paExists pa = true) (hr : tcReserved (s.tueCmd pa) = true)
    (hd : s.paExists (bits (s.tueCmd pa) 192 52) = true)
    (hput : s.paPut (bits (s.tueCmd pa) 192 52) (natLe 8 (2 ^ 63 + s.tue.rd % 2 ^ 63)) = (s1, true)) :
    exec .tueReservedCommand s = .next { s1 with tue := { s1.tue with rd := s1.tue.rd + 1 } } := by
  show execTueReservedCommand s = _
  unfold execTueReservedCommand
  change tcReserved (BitVec.ofNat 256 (s.freshNum pa 32)) = true at hr
  simp only [hpa, hex, Bool.not_true, Bool.false_eq_true, if_false, hr]
  unfold State.tueWrite
  change s.paExists (tcDone (BitVec.ofNat 256 (s.freshNum pa 32))) = true at hd
  change s.paPut (tcDone (BitVec.ofNat 256 (s.freshNum pa 32))) _ = _ at hput
  simp only [hd, Bool.not_true, Bool.false_eq_true, if_false, hput]

theorem exec_tueDone_done {s1 : State} {i : Nat} {c : BitVec 256} (hdo : s.tue.doing = some (i, c))
    (hw : ∀ n ∈ s.tue.wait, s.accFree n = true) (hd : s.paExists (bits c 192 52) = true)
    (hput : s.paPut (bits c 192 52) (natLe 8 i) = (s1, true)) :
    exec .tueDone s = .next { s1 with tue := { s1.tue with doing := none, wait := [] } } := by
  show execTueDone s = _
  unfold execTueDone
  change s.paExists (tcDone c) = true at hd
  change s.paPut (tcDone c) _ = _ at hput
  simp only [hdo, List.all_eq_true.2 hw, Bool.not_true, Bool.false_eq_true, if_false]
  unfold State.tueWrite
  simp only [hd, Bool.not_true, Bool.false_eq_true, if_false, hput]

end

/-! ### The events of translation (O50) -/

section
variable {s : State} {pa k : Nat} {op : Instr}

/-- The engine's next command and an operation of it: WRITE 1, SHOOT 2, MIGRATE 3, FLUSH 4 (16_translation R365). -/
def TueOp (op : Instr) (k : Nat) : Prop := op = .write ∧ k = 1 ∨ op = .shoot ∧ k = 2 ∨ op = .migrate ∧ k = 3 ∨ op = .flush ∧ k = 4

/-- A command of another operation is left to that operation. -/
theorem exec_tueOp_skips (hpa : s.tuePa = some pa) (hex : s.paExists pa = true) (hop : TueOp op k)
    (hk : bits (s.tueCmd pa) 0 4 ≠ k) : exec op s = .next s := by
  rcases hop with ⟨rfl, rfl⟩ | ⟨rfl, rfl⟩ | ⟨rfl, rfl⟩ | ⟨rfl, rfl⟩
  · exact (exec_write s).trans (State.tueStep_skips hpa hex (tcIs_eq_false hk))
  · exact (exec_shoot s).trans (State.tueStep_skips hpa hex (tcIs_eq_false hk))
  · exact (exec_migrate s).trans (State.tueStep_skips hpa hex (tcIs_eq_false hk))
  · exact (exec_flush s).trans (State.tueStep_skips hpa hex (tcIs_eq_false hk))

/-- WRITE and SHOOT, and MIGRATE and FLUSH of a page without a frame, are carried out at once. -/
theorem exec_tueOp_does (hpa : s.tuePa = some pa) (hex : s.paExists pa = true) (hop : TueOp op k) (hr : tcReserved (s.tueCmd pa) = false)
    (hk : bits (s.tueCmd pa) 0 4 = k) (hf : k ≤ 2 ∨ s.tueFrame (tcAsid (s.tueCmd pa)) (tcVa (s.tueCmd pa)) = none) :
    ∃ t, exec op s = .next t ∧ t.tue.rd = s.tue.rd + 1 ∧ t.tue.doing = some (s.tue.rd, s.tueCmd pa) ∧
      (k = 2 → t.mem = s.mem ∧ (tcArg (s.tueCmd pa) = 0 → ∀ e ∈ t.x.cores, ∀ b ∈ e.2.tlb, b.asid = tcAsid (s.tueCmd pa) → 2 ^ 57 ≤ b.vpn * 2 ^ b.size)) ∧
      (k = 4 → t.mem = s.mem) := by
  have hok := tcIs_eq_true hr hk
  rcases hop with ⟨rfl, rfl⟩ | ⟨rfl, rfl⟩ | ⟨rfl, rfl⟩ | ⟨rfl, rfl⟩
  · exact ⟨_, (exec_write s).trans (State.tueStep_does hpa hex hok rfl), rfl, rfl, nofun, nofun⟩
  · exact ⟨_, (exec_shoot s).trans (State.tueStep_does hpa hex hok rfl), rfl, rfl, fun _ => ⟨rfl, fun harg => State.tueShoot_all harg⟩, nofun⟩
  · have hframe := hf.resolve_left (by decide)
    refine ⟨_, (exec_migrate s).trans (State.tueStep_does hpa hex hok (u := { s.tueNewLeaf (s.tueCmd pa) with
      tue := { (s.tueNewLeaf (s.tueCmd pa)).tue with hold := none } }) ?_), rfl, rfl, nofun, nofun⟩
    unfold State.tueMigrate
    simp only [hframe, ite_self]
  · have hframe := hf.resolve_left (by decide)
    refine ⟨_, (exec_flush s).trans (State.tueStep_does hpa hex hok (u := { s with tue := { s.tue with hold := none, wait := [] } }) ?_),
      rfl, rfl, nofun, fun _ => rfl⟩
    unfold State.tueFlush
    simp only [hframe]

end

/-- Nothing is under way for a page at the dies and the slices, and each copy of its lines is stable. -/
def State.PageIdle (s : State) (p : Nat) : Prop :=
  (∀ e ∈ s.fab.dies, (∀ m ∈ e.2.waitq, m.line / 32 ≠ p) ∧ (∀ m ∈ e.2.held, m.line / 32 ≠ p) ∧
    (∀ q ∈ e.2.again, q.2.line / 32 ≠ p) ∧ ∀ v ∈ e.2.llc, v.1 / 32 = p → v.2.st.stable = true) ∧ ∀ e ∈ s.fab.slices, e.1 / 32 ≠ p

section
variable {s : State} {pa f p : Nat}

theorem State.PageIdle.unasked (h : s.PageIdle p) : s.Unasked p :=
  ⟨fun e he => (h.1 e he).1, fun e he => (h.1 e he).2.1, h.2⟩

theorem State.PageIdle.stable (h : s.PageIdle p) {l : Nat} (hl : l / 32 = p) (d : Nat) (v : Line) (hv : s.llc? d l = some v) :
    v.st.stable = true := by
  rcases s.die_listed d with hd | hd
  · obtain ⟨-, -, -, hst⟩ := h.1 _ hd
    exact hst _ (mem_of_cfind hv) hl
  · unfold State.llc? at hv
    rw [hd] at hv
    cases hv

/-- A FLUSH of an idle page is carried out, and one line that it names stands in memory alone (16_translation R370). -/
theorem exec_flush_idle (hpa : s.tuePa = some pa) (hex : s.paExists pa = true) (hr : tcReserved (s.tueCmd pa) = false)
    (hk : bits (s.tueCmd pa) 0 4 = 4) (hf : s.tueFrame (tcAsid (s.tueCmd pa)) (tcVa (s.tueCmd pa)) = some f) (hidle : s.PageIdle (f / 4096))
    (hm : ∀ l ∈ s.tueLines (s.tueCmd pa) f, s.lineMoves l = false) :
    ∃ t, exec .flush s = .next t ∧ t.tue.rd = s.tue.rd + 1 ∧ t.tue.doing = some (s.tue.rd, s.tueCmd pa) ∧ t.tue.wait = [] ∧
      ∀ l, s.tueLines (s.tueCmd pa) f = [l] →
        t.mem = s.mem.putLine l (s.freshLine l) ∧ (s.subbed (s.homeKey l) l = false → ∀ d, t.llc? d l = none) := by
  refine ⟨_, exec_flush_does hpa hex hr hk hf hm, rfl, rfl, ?_, fun l hl => ?_⟩
  · have hu := hidle.unasked.foldl (fun s l hs => State.Unasked.recallLine hs l) (s.tueLines (s.tueCmd pa) f)
    dsimp only
    rw [hu.releasePage]
    rfl
  · obtain ⟨hmem, hllc⟩ := State.recall_release hidle.unasked l
    have hpage : l / 32 = f / 4096 := State.tueLines_page (State.tueFrame_aligned hf) (hl ▸ List.mem_singleton.2 rfl)
    rw [hl]
    exact ⟨hmem, fun hsub d => (hllc d).trans (State.recallLine_llc? hsub (hidle.stable hpage) d)⟩

/-- A MIGRATE of an idle page is carried out: the masked lines are in the new frame, and the new leaf in the tables (16_translation R370). -/
theorem exec_migrate_idle (hpa : s.tuePa = some pa) (hex : s.paExists pa = true) (hr : tcReserved (s.tueCmd pa) = false)
    (hk : bits (s.tueCmd pa) 0 4 = 3) (hf : s.tueFrame (tcAsid (s.tueCmd pa)) (tcVa (s.tueCmd pa)) = some f)
    (hn : s.paExists (pteFrame (tcPte (s.tueCmd pa))) = true) (hidle : s.PageIdle (f / 4096)) (hm : ∀ l ∈ pageOn f, s.lineMoves l = false)
    (hm' : ∀ l ∈ pageOn (pteFrame (tcPte (s.tueCmd pa))), s.lineMoves l = false ∧ s.lineBusy l = false) :
    let new := pteFrame (tcPte (s.tueCmd pa))
    ∃ t u : State, exec .migrate s = .next t ∧ t.tue.rd = s.tue.rd + 1 ∧ t.tue.doing = some (s.tue.rd, s.tueCmd pa) ∧ t.tue.hold = none ∧
      t.mem = (u.setLeaf (tcAsid (s.tueCmd pa)) (tcVa (s.tueCmd pa)) (fun _ _ => tcPte (s.tueCmd pa))).mem ∧
      (f ≠ new → f % 4096 = 0 → s.DiesRise →
        (∀ k < 32, s.isLost (s.homeKey (f / 128 + k)) (f / 128 + k) = false ∧ ∀ h, s.homeDie (f / 128 + k) = .die h → s.working h = true) →
        ∀ k ∈ maskLines (tcArg (s.tueCmd pa)), u.mem.line (new / 128 + k) = s.freshLine (f / 128 + k)) := by
  intro new
  obtain ⟨hmem, htue⟩ := (hidle.unasked.movedPage (s.tueCmd pa) f new).moveHeld new
  refine ⟨_, s.movePage f new (tcArg (s.tueCmd pa)), exec_migrate_does hpa hex hr hk hf hn hm hm', rfl, rfl, ?_, ?_, fun hne hal hrise hlost k hk => ?_⟩
  · exact (congrArg Tue.hold htue).trans (State.movedPage_hold ..)
  · exact hmem.trans (State.movedPage_mem ..)
  · refine State.movePage_line hal (Nat.mul_mod_left _ _) hne hrise (fun j hj => ?_) hk
    obtain ⟨hnot, hwork⟩ := hlost j hj
    unfold State.moveLost
    rw [hnot, Bool.false_or]
    split
    · rename_i h hd
      rw [hwork h hd]
      rfl
    · rfl

end

/-- Settles O50: each event is taken through the lemma that says what its step does; the queues of an idle page stay empty
through a move, and a step on one line leaves every other one its value. -/
theorem translationEvents : Obligations.TranslationEvents := by
  unfold Obligations.TranslationEvents
  refine ⟨?walk, ?collapse, ?complete, ?unknown, ?answer, ?ring, ?command, ?done⟩
  case walk =>
    intro s a l w e va ha hk hl hw hwalk
    refine ⟨exec_pageWalk_leaf ha hk hw hwalk, fun hn => ?_, fun size x hb hnone => ?_, fun size x hb => ?_⟩
    · obtain ⟨hacc, n, hpend⟩ := State.pageFault_retry ha hk hl hwalk 1
      exact ⟨_, _, _, _, exec_pageWalk_notMapped ha hw hwalk hn, (State.retry_mem ..).trans (State.pageFault_mem ..), hacc, rfl, rfl, n, 0, hpend⟩
    · obtain ⟨hacc, -⟩ := State.pageFault_retry ha hk hl hwalk 12
      exact ⟨_, _, _, _, exec_firstTouchBind_empty ha hw hwalk hb hnone, (State.retry_mem ..).trans (State.pageFault_mem ..), hacc, rfl, rfl⟩
    · intro d p dev frame u r hd hon hfull
      refine ⟨?_, fun k hlo hhi => State.zeroRange_zero u hlo hhi, ?_⟩
      · rw [State.setDie_die_self, Die.pool_poolHead]
      · exact exec_firstTouchBind_takes ha hk hw hwalk hb (State.bindPage_takes hd hon hfull) (State.setLeaf_accs ..)
  case collapse =>
    intro s a w k va ha hw hwalk hnew
    exact ⟨_, _, exec_replCollapse_starts ha hw hwalk hnew, rfl, rfl, rfl⟩
  case complete =>
    intro s s1 c rest hc h1
    exact ⟨_, exec_replCollapseComplete_ends hc h1, State.tryWaiting_mem _, by rw [State.tryWaiting_tue]⟩
  case unknown =>
    intro i s hr ha hq hf hc j hj
    exact exec_answer_unknown hr ha hq hf hc hj
  case answer =>
    intro i code va s a l w g k0 hr hfault ha hk hl hst hw hg hidx
    refine ⟨fun hh hnot hlive hclear => ?_, fun hx => exec_replay_access hr hfault ha hk hl hst hw hx, fun hlaunch hopen hid hrcbs _ => ?_⟩
    · have hgf : g.Faulting a.grp l.lane a.id g.ld := ⟨hidx, hnot, rfl, by simpa using (List.mem_filter.1 hlive).2, hclear⟩
      obtain ⟨w', g', h⟩ := State.deliverLanes_handler ha hk hl hw hg hgf hh code va
      exact ⟨_, w', g', exec_deliver_access hr hfault, State.deliverLanes_mem .., h⟩
    · exact ⟨_, exec_faultKill_access hr hfault hw, congrArg Prod.fst (State.endDomain_mh ..), State.endDomain_ends hlaunch hopen hid hrcbs⟩
  case ring =>
    intro v s hr w
    exact ⟨fun hv => ⟨_, exec_tueDoorbell_publishes hr hv, rfl, rfl, rfl⟩, exec_tueDoorbell_old, _, exec_tueCtlWrite v hr, rfl, rfl⟩
  case command =>
    intro s pa op k hpa hex c hop
    refine ⟨fun _ hk => exec_tueOp_skips hpa hex hop hk, fun hr hk hf => exec_tueOp_does hpa hex hop hr hk hf, fun hr f hf => ?_,
      fun hr hd s1 hput => ⟨_, exec_tueReservedCommand_done hpa hex hr hd hput, rfl, rfl, rfl⟩⟩
    intro ls new idle
    exact ⟨fun hm hk => exec_flush_holds hpa hex hr hk hf hm, fun hk hidle hm => exec_flush_idle hpa hex hr hk hf hidle hm,
      fun hm hk hn => exec_migrate_holds hpa hex hr hk hf hn hm, fun hk hn hidle hm hm' => exec_migrate_idle hpa hex hr hk hf hn hidle hm hm'⟩
  case done =>
    intro s s1 i c hdo hw hd hput
    exact ⟨_, exec_tueDone_done hdo hw hd hput, rfl, rfl⟩

end Sys2Proof.Machine

namespace Sys2Proof.Machine

/-! ### Exact values and their one rounding (O17) -/

theorem log2_mul_two_pow {m : Nat} (hm : m ≠ 0) (k : Nat) : Nat.log2 (m * 2 ^ k) = Nat.log2 m + k := by
  rw [Nat.log2_eq_iff (by positivity), pow_add, pow_succ, pow_add, mul_right_comm]
  exact ⟨Nat.mul_le_mul_right _ (Nat.log2_self_le hm),
    Nat.mul_lt_mul_of_pos_right (pow_succ 2 m.log2 ▸ Nat.lt_log2_self) (by positivity)⟩

/-- The exponent of a nonzero m × 2^e is that of m, raised by e. -/
theorem ilog2_scaleUp {m : Nat} (hm : m ≠ 0) (k : Nat) : ilog2 (m * 2 ^ k) 1 = m.log2 + k := by
  have hle : 2 ^ (m.log2 + k) ≤ m * 2 ^ k := pow_add 2 m.log2 k ▸ Nat.mul_le_mul_right _ (Nat.log2_self_le hm)
  simp only [ilog2, log2_mul_two_pow hm, show Nat.log2 1 = 0 from by decide]
  rw [if_pos (by omega), if_pos]
  · omega
  · rw [Nat.one_mul]
    exact le_trans (le_of_eq (congrArg _ (by omega))) hle

theorem ilog2_scaleDown {m : Nat} (hm : m ≠ 0) (k : Nat) : ilog2 m (2 ^ k) = m.log2 - k := by
  have hle := Nat.log2_self_le hm
  simp only [ilog2, Nat.log2_two_pow]
  split
  · rw [if_pos]
    calc 2 ^ k * 2 ^ ((m.log2 : Int) - k).toNat = 2 ^ m.log2 := by rw [← pow_add]; congr 1; omega
      _ ≤ m := hle
  · rw [if_pos]
    calc 2 ^ k = 2 ^ m.log2 * 2 ^ (-((m.log2 : Int) - k)).toNat := by rw [← pow_add]; congr 1; omega
      _ ≤ m * 2 ^ (-((m.log2 : Int) - k)).toNat := Nat.mul_le_mul_right _ hle

/-- m × 2^e as a quotient: its exponent is that of m raised by e, and in units of 2^e it is m with no remainder. -/
theorem xScale_fin (neg : Bool) {m : Nat} (hm : m ≠ 0) (e : Int) :
    ∃ n d u, xScale neg m e = .fin neg n d ∧ n ≠ 0 ∧ ilog2 n d = m.log2 + e ∧ inUnits n d e = (m, 0, u) := by
  unfold xScale inUnits
  by_cases he : 0 ≤ e
  · simp only [if_pos he]
    refine ⟨_, _, 1 * 2 ^ e.toNat, rfl, by positivity, ?_, ?_⟩
    · rw [ilog2_scaleUp hm]; omega
    · rw [Nat.one_mul, Nat.mul_div_cancel _ (by positivity), Nat.mul_mod_left]
  · simp only [if_neg he]
    refine ⟨_, _, 2 ^ (-e).toNat, rfl, hm, ?_, ?_⟩
    · rw [ilog2_scaleDown hm]; omega
    · rw [Nat.mul_div_cancel _ (by positivity), Nat.mul_mod_left]

section
variable {f : FFmt} (hs : f.signed = true) (neg : Bool) (rnd : Nat) (sat : Bool) (thr : Nat)
include hs

/-- m grid steps of the k-th binade from the smallest normal, where m has the exponent of that binade (or k is 0 and m is
below it), are a point of the grid: no mode moves it and nothing is signalled (06_numbers R153). -/
theorem roundTo_xScale {m k : Nat} {e : Int} (hm : m ≠ 0) (he : e = f.emin + k - (f.p - 1 : Nat))
    (hlog : max (m.log2 + e) f.emin = f.emin + k) (hmax : m + k * 2 ^ (f.p - 1) ≤ f.maxPos) :
    roundTo f (xScale neg m e) rnd sat thr = (f.encode neg (m + k * 2 ^ (f.p - 1)), 0) := by
  obtain ⟨n, d, u, hx, hn, hilog, hunits⟩ := xScale_fin neg hm e
  have hk : (f.emin + (k : Int) - f.emin).toNat = k := by omega
  rw [hx]
  simp only [roundTo, if_neg hn, hs, hilog, hlog, ← he, hunits, roundUp, if_true, hk, Bool.not_true,
    Bool.false_and, Bool.false_eq_true, if_false, if_neg (Nat.not_lt.2 hmax)]
  simp

/-- Every position of the grid up to the largest finite one rounds to itself (06_numbers R153). -/
theorem roundTo_atPos {pos : Nat} (hpos : pos ≤ f.maxPos) :
    roundTo f (f.atPos neg pos) rnd sat thr = (f.encode neg pos, 0) := by
  have hh : 0 < 2 ^ (f.p - 1) := by positivity
  unfold FFmt.atPos
  by_cases hsub : pos < 2 ^ (f.p - 1)
  · rw [if_pos hsub]
    obtain rfl | hne := eq_or_ne pos 0
    · unfold xScale
      split <;> simp [roundTo]
    · have hlog : pos.log2 < f.p - 1 := (Nat.log2_lt hne).2 hsub
      simpa using roundTo_xScale hs neg rnd sat thr (k := 0) hne (by simp) (by simp; omega) (by simpa using hpos)
  · have hmod := Nat.mod_lt pos hh
    have hq : 1 ≤ pos / 2 ^ (f.p - 1) := (Nat.one_le_div_iff hh).2 (Nat.not_lt.1 hsub)
    have hlog : (2 ^ (f.p - 1) + pos % 2 ^ (f.p - 1)).log2 = f.p - 1 :=
      (Nat.log2_eq_iff (by omega)).2 ⟨by omega, by rw [pow_succ]; omega⟩
    have hsplit : 2 ^ (f.p - 1) + pos % 2 ^ (f.p - 1) + (pos / 2 ^ (f.p - 1) - 1) * 2 ^ (f.p - 1) = pos := by
      calc _ = pos % 2 ^ (f.p - 1) + (pos / 2 ^ (f.p - 1) - 1 + 1) * 2 ^ (f.p - 1) := by ring
        _ = pos := by rw [Nat.sub_add_cancel hq, Nat.mod_add_div']
    rw [if_neg hsub, roundTo_xScale hs neg rnd sat thr (k := pos / 2 ^ (f.p - 1) - 1) (by omega) (by omega) (by omega)
      (hsplit.trans_le hpos), hsplit]

end

/-- The encoding of an IEEE format from its sign bit and its position. -/
theorem FFmt.encode_sign_mag {f : FFmt} (hi : f.ieee = true) {c : Nat} (hw : 0 < f.width) (hc : c < 2 ^ f.width) :
    f.encode (c / 2 ^ (f.width - 1) % 2 == 1) (c % 2 ^ (f.width - 1)) = c := by
  have hsplit : 2 ^ f.width = 2 ^ (f.width - 1) * 2 := by rw [← pow_succ]; congr 1; omega
  have hlt : c / 2 ^ (f.width - 1) < 2 := Nat.div_lt_of_lt_mul (hsplit ▸ hc)
  have hdm := Nat.mod_add_div c (2 ^ (f.width - 1))
  unfold FFmt.encode
  rw [if_pos hi]
  interval_cases h : c / 2 ^ (f.width - 1) <;> simp <;> omega

/-- An encoding up to the largest finite position has the value of that position. -/
theorem FFmt.value_of_le {f : FFmt} (hi : f.ieee = true) {c : Nat} (h : c % 2 ^ (f.width - 1) ≤ f.maxPos) :
    f.value c = f.atPos (c / 2 ^ (f.width - 1) % 2 == 1) (c % 2 ^ (f.width - 1)) := by
  simp only [FFmt.value, hi, if_true]
  rw [if_neg (by omega), if_neg (by omega)]

/-- Above the largest finite position stand the infinities and the NaNs. -/
theorem FFmt.le_maxPos_of_value {f : FFmt} (hi : f.ieee = true) {c : Nat} {neg : Bool} {n d : Nat}
    (hv : f.value c = .fin neg n d) : c % 2 ^ (f.width - 1) ≤ f.maxPos := by
  by_contra hgt
  simp only [FFmt.value, hi, if_true] at hv
  split at hv
  · cases hv
  · rw [if_pos (by omega)] at hv
    cases hv

/-- A finite value of an IEEE format rounds to its own encoding in every mode, with no exception. -/
theorem roundTo_value {f : FFmt} (hi : f.ieee = true) (hs : f.signed = true) (hw : 0 < f.width) {c : Nat}
    (hc : c < 2 ^ f.width) {neg : Bool} {n d : Nat} (hv : f.value c = .fin neg n d) (rnd : Nat) (sat : Bool) (thr : Nat) :
    roundTo f (.fin neg n d) rnd sat thr = (c, 0) := by
  have hmag := FFmt.le_maxPos_of_value hi hv
  rw [← hv, FFmt.value_of_le hi hmag, roundTo_atPos hs _ rnd sat thr hmag, FFmt.encode_sign_mag hi hw hc]

/-- The rational number of a finite value; 0 for the others. -/
def XR.toRat : XR → ℚ
  | .fin neg n d => (if neg then -1 else 1) * ((n : ℚ) / d)
  | _ => 0

theorem XR.toRat_fin (s : Bool) (n d : Nat) : (XR.fin s n d).toRat = (sgn s n : ℚ) / d := by
  cases s <;> simp [XR.toRat, sgn, neg_div]

theorem sgn_mul (s t : Bool) (n m : Nat) : sgn (s != t) (n * m) = sgn s n * sgn t m := by
  cases s <;> cases t <;> simp [sgn]

theorem sgn_natAbs (k : Int) : sgn (decide (k < 0)) k.natAbs = k := by
  simp only [sgn, decide_eq_true_eq]
  split <;> omega

theorem xOfInt_toRat (z : Bool) (k : Int) (d : Nat) : (xOfInt z k d).toRat = (k : ℚ) / d := by
  unfold xOfInt
  split
  · rename_i h
    rw [XR.toRat_fin, h]
    cases z <;> simp [sgn]
  · rw [XR.toRat_fin, sgn_natAbs]

theorem xAdd_toRat (rnd : Nat) (s t : Bool) (n m : Nat) {d e : Nat} (hd : 0 < d) (he : 0 < e) :
    (xAdd rnd (.fin s n d) (.fin t m e)).1.toRat = (XR.fin s n d).toRat + (XR.fin t m e).toRat := by
  simp only [xAdd, xOfInt_toRat, XR.toRat_fin]
  push_cast
  field_simp

theorem xMul_toRat (s t : Bool) (n d m e : Nat) :
    (xMul (.fin s n d) (.fin t m e)).1.toRat = (XR.fin s n d).toRat * (XR.fin t m e).toRat := by
  simp only [xMul, XR.toRat_fin, sgn_mul]
  push_cast
  exact mul_div_mul_comm ..

theorem xDiv_toRat (s t : Bool) (n d e : Nat) {m : Nat} (hm : 0 < m) :
    (xDiv (.fin s n d) (.fin t m e)).1.toRat = (XR.fin s n d).toRat / (XR.fin t m e).toRat := by
  simp only [xDiv, if_neg hm.ne', XR.toRat]
  cases s <;> cases t <;> simp [div_div_div_eq, neg_div, div_neg]

/-- The sum of two opposite values is the zero that the mode gives: −0 towards −∞ (R228). -/
theorem xAdd_cancel (rnd : Nat) (s : Bool) {n d m e : Nat} (h : n * e = m * d) (hn : 0 < n) :
    xAdd rnd (.fin s n d) (.fin (!s) m e) = (.fin (rnd == 2) 0 1, 0) := by
  have hsum : sgn s n * e + sgn (!s) m * d = 0 := by
    have h' : (n : Int) * e = m * d := by exact_mod_cast h
    cases s <;> simp [sgn, h']
  simp only [xAdd, hsum, xOfInt, if_true, hn.ne', false_and, if_false]
  rfl

/-- Settles O17: a finite value stands on the grid of its format (`roundTo_atPos`), and each operation is taken through the
rational number of its result. -/
theorem exactlyOnceRounded : Obligations.ExactlyOnceRounded := by
  unfold Obligations.ExactlyOnceRounded
  intro val
  have hval : val = XR.toRat := by funext x; cases x <;> rfl
  refine ⟨fun f c neg n d rnd sat thr hf hc hv => ?_, fun rnd s t n d m e hd he => ?_⟩
  · have hfmt : f.ieee = true ∧ f.signed = true ∧ 0 < f.width := by
      fin_cases hf <;> decide
    obtain ⟨hi, hs, hw⟩ := hfmt
    exact roundTo_value hi hs hw hc hv rnd sat thr
  · rw [hval]
    refine ⟨xAdd_toRat rnd s t n m hd he, xMul_toRat s t n d m e, xDiv_toRat s t n d e, fun hn => ?_, xAdd_cancel rnd s⟩
    simp only [xDiv, if_true, if_neg hn.ne']

end Sys2Proof.Machine

namespace Sys2Proof.Machine

/-! ### The checks of registers and tags, and the trap of a selected instruction (O58) -/

/-- Every instruction word issues through the same checks, with a body of its own (08_encoding R195); the other constructors
are hardware steps, which have no encoding. -/
theorem exec_issues {i : Instr} (h : i.enc ≠ none) : ∃ body, ∀ s, exec i s = s.issue i body := by
  unfold exec
  cases i
  all_goals try exact absurd rfl h
  all_goals exact ⟨_, fun _ => rfl⟩

theorem traps_of_checks {i : Instr} {s : State} {c : Cx} {y : Bool} {t : Trap} (h : i.enc ≠ none)
    (hp : s.pick i = some (c, y)) (hc : s.checks i = some t) : s.Traps i c t := by
  obtain ⟨body, hx⟩ := exec_issues h
  exact (hx s).trans (State.issue_checks hp hc)

section
variable {regs : Nat} {r : RegF} (rest : List RegF)

theorem regCheck_range (h : kindLimit regs r.kind ≤ r.idx) : regCheck regs (r :: rest) = some trapRegRange := if_pos h

theorem regCheck_pair (h : r.idx < kindLimit regs r.kind) (hn : r.idx % r.n ≠ 0) :
    regCheck regs (r :: rest) = some trapRegPair := (if_neg (Nat.not_le.2 h)).trans (if_pos hn)

theorem regCheck_next (h : r.idx < kindLimit regs r.kind) (hn : r.idx % r.n = 0) :
    regCheck regs (r :: rest) = regCheck regs rest := (if_neg (Nat.not_le.2 h)).trans (if_neg (not_not.2 hn))

end

/-- What a selected instruction finds, by its workgroup and group before it. -/
theorem State.pick_eq {s : State} {i : Instr} {c : Cx} {y : Bool} (h : s.pick i = some (c, y)) :
    ∃ w g0, s.x.wg? c.sl.wg = some w ∧ w.grp? c.sl.grp = some g0 ∧ c.w = w.setGrp c.g ∧
      c.g = (g0.onLanes c.iss (fun _ t => t.open_ c.sl.hdr)).onLanes c.iss (fun _ t => t.advance (wordsOf i)) := by
  unfold State.pick at h
  split at h
  · cases h
  split at h
  · cases h
  rename_i w hw
  split at h
  · cases h
  rename_i g0 hg
  split at h
  · cases h
  simp only [Option.some.injEq, Prod.mk.injEq] at h
  obtain ⟨rfl, rfl⟩ := h
  exact ⟨w, g0, hw, hg, rfl, rfl⟩

/-- An advance changes neither the vector registers nor the predicates of a thread. -/
theorem Group.lane_onLanes_advance (g : Group) (ls : List Nat) (n l : Nat) :
    ((g.onLanes ls (fun _ t => t.advance n)).lane l).v = (g.lane l).v ∧
      ((g.onLanes ls (fun _ t => t.advance n)).lane l).p = (g.lane l).p := by
  rw [Group.lane_onLanes]
  split <;> exact ⟨rfl, rfl⟩

theorem Group.lane_trapped_v (g : Group) (h : DWord) (ls : List Nat) (t : Trap) (epc : Nat → DWord) (skid l : Nat) :
    ((g.trapped h ls t epc skid).lane l).v = (g.lane l).v := by
  have hl : (g.trapped h ls t epc skid).lane l = (g.onLanes ls (fun l u => u.enter h (epc l))).lane l := rfl
  rw [hl, Group.lane_onLanes]
  split <;> rfl

/-- Each trapping thread enters the handler from its resume point (19_traps R406). -/
theorem Group.lane_trapped (g : Group) (h : DWord) {ls : List Nat} (t : Trap) (epc : Nat → DWord) (skid : Nat) {l : Nat}
    (hl : l ∈ ls) (hlt : l < g.lanes.length) : (g.trapped h ls t epc skid).lane l = (g.lane l).enter h (epc l) :=
  (Group.lane_onLanes ..).trans (if_pos ⟨hlt, hl⟩)

/-- In a workgroup with a handler, a trap takes a group that is not in it there, and changes nothing else. -/
theorem State.deliverTrap_handler {s : State} {wi gi : Nat} {w : Wg} {g : Group} (hw : s.x.wg? wi = some w)
    (hg : w.grp? gi = some g) (hh : w.handler ≠ 0) (hn : g.handler = false) (ls : List Nat) (t : Trap) (epc : Nat → DWord)
    (skid : Nat) :
    s.deliverTrap wi gi ls t epc skid = { s with x := s.x.setWg (w.setGrp (g.trapped w.handler ls t epc skid)) } := by
  unfold State.deliverTrap
  simp only [hw, hg]
  rw [if_pos ⟨hh, hn⟩]
  rfl

/-- The fragments of a trap of R114 are marked in the graphics state, for pixel work alone. -/
theorem State.markFrags_eq (s : State) (wi gi : Nat) (ls : List Nat) (t : Trap) :
    ∃ gfx, s.markFrags wi gi ls t = { s with gfx := gfx } ∧
      (∀ w, s.x.wg? wi = some w → w.stage ≠ 3 ∨ t.cls ≠ 8 → gfx = s.gfx) := by
  unfold State.markFrags
  cases hw : s.x.wg? wi with
  | none => exact ⟨s.gfx, rfl, fun _ _ _ => rfl⟩
  | some w =>
    dsimp only
    split
    · rename_i hm
      refine ⟨_, rfl, fun u hu hne => ?_⟩
      obtain rfl := Option.some.inj hu
      tauto
    · exact ⟨s.gfx, rfl, fun _ _ _ => rfl⟩

/-- A trap at a group that is not in the handler of its workgroup takes the group there, from the resume points in `gs`. -/
theorem State.trapAt_handler {s : State} {wi : Nat} {w : Wg} {g0 gs h : Group} (hw : s.x.wg? wi = some w)
    (hg : w.grp? gs.idx = some h) (hi : gs.idx = g0.idx) (hh : w.handler ≠ 0) (hn0 : g0.handler = false)
    (hn : gs.handler = false) (sl : Slot) (l0 : Nat) (ls : List Nat) (pc : DWord) (t : Trap) :
    ∃ x gfx, s.trapAt sl wi g0 gs l0 ls pc t = { s with x := x, gfx := gfx } ∧
      (w.stage ≠ 3 ∨ t.cls ≠ 8 → gfx = s.gfx) ∧
      (x.wg? wi).bind (fun u => u.grp? gs.idx) = some (gs.trapped w.handler ls t (fun _ => pc) 0) := by
  obtain ⟨gfx, hmark, hgfx⟩ := State.markFrags_eq s wi gs.idx ls t
  have hid : (w.setGrp gs).id = wi := (Wg.setGrp_id ..).trans (Exec.wg?_id hw)
  have hput : ({ s with gfx := gfx } : State).putGrp wi gs = { s with x := s.x.setWg (w.setGrp gs), gfx := gfx } :=
    State.putGrp_wg (s := { s with gfx := gfx }) hw gs
  have hpw : (s.x.setWg (w.setGrp gs)).wg? wi = some (w.setGrp gs) := Exec.wg?_setWg_self' hid hw
  have hpg : (w.setGrp gs).grp? gs.idx = some gs := Wg.grp?_setGrp_self hg
  unfold State.trapAt
  rw [hn0, Bool.and_false, Bool.false_and, if_neg Bool.false_ne_true, ← hi, hmark, hput,
    State.deliverTrap_handler (s := { s with x := s.x.setWg (w.setGrp gs), gfx := gfx }) hpw hpg hh hn]
  exact ⟨_, gfx, rfl, hgfx w hw, Option.bind_eq_some_iff.2 ⟨_, Exec.wg?_setWg_self' hid hpw,
    Wg.grp?_setGrp_self (g := gs.trapped w.handler ls t (fun _ => pc) 0) hpg⟩⟩

/-- The group gs is ga with its threads at their resume points, by `back` bytes before the PCs of ga. -/
structure Group.ResumesAt (gs ga : Group) (ls : List Nat) (back : DWord) : Prop where
  idx : gs.idx = ga.idx
  handler : gs.handler = ga.handler
  len : gs.lanes.length = ga.lanes.length
  regs : gs.s = ga.s ∧ gs.m = ga.m ∧ gs.fmode = ga.fmode
  lane : ∀ l, (gs.lane l).v = (ga.lane l).v ∧ (gs.lane l).p = (ga.lane l).p
  pc : ∀ l ∈ ls, l < ga.lanes.length → (gs.lane l).pc = (ga.lane l).pc - back

theorem Group.resumesAt_behind (g : Group) (m : Nat) (ls : List Nat) : Group.ResumesAt { g with age := m } g ls 0 :=
  ⟨rfl, rfl, rfl, ⟨rfl, rfl, rfl⟩, fun _ => ⟨rfl, rfl⟩, fun _ _ _ => (BitVec.sub_zero _).symm⟩

theorem Group.resumesAt_before (gh : Group) (ls : List Nat) (n : Nat) :
    Group.ResumesAt gh (gh.onLanes ls (fun _ t => t.advance n)) ls (BitVec.ofNat 64 (4 * n)) := by
  refine ⟨rfl, rfl, List.length_mapIdx.symm, ⟨rfl, rfl, rfl⟩, fun l => ?_, fun l hl hlt => ?_⟩
  · obtain ⟨hv, hp⟩ := Group.lane_onLanes_advance gh ls n l
    exact ⟨hv.symm, hp.symm⟩
  · have hlen : l < gh.lanes.length := by simpa [Group.onLanes] using hlt
    rw [Group.lane_onLanes, if_pos ⟨hlen, hl⟩]
    exact (BitVec.add_sub_cancel _ _).symm

/-- An instruction that traps leaves its threads at it, or behind it for the traps of R406 step 2, and the workgroups as they
are. -/
theorem State.resumePoint_spec (s : State) (gh : Group) (ls : List Nat) (n : Nat) (after yld : Bool) :
    ∃ x gs, s.resumePoint gh (gh.onLanes ls (fun _ t => t.advance n)) after yld = ({ s with x := x }, gs) ∧
      x.wgs = s.x.wgs ∧
      gs.ResumesAt (gh.onLanes ls (fun _ t => t.advance n)) ls (if after then 0 else BitVec.ofNat 64 (4 * n)) := by
  unfold State.resumePoint
  cases after with
  | false => exact ⟨s.x, gh, rfl, rfl, gh.resumesAt_before ls n⟩
  | true =>
    have hbehind (m : Nat) := (gh.onLanes ls (fun _ t => t.advance n)).resumesAt_behind m ls
    cases yld with
    | false => exact ⟨s.x, _, rfl, rfl, hbehind _⟩
    | true => exact ⟨_, _, rfl, rfl, hbehind _⟩

/-- The threads that take a trap: those that execute the instruction, or all that issue it where none does (19_traps R404). -/
def Cx.trapping (c : Cx) : List Nat := if c.ex = [] then c.iss else c.ex

section
variable {s : State} {i : Instr} {c : Cx} {y : Bool} (hp : s.pick i = some (c, y))
include hp

theorem State.pick_trapping {l : Nat} (hl : l ∈ c.trapping) : l ∈ c.iss := by
  unfold Cx.trapping at hl
  split at hl
  · exact hl
  · exact (State.pick_lanes hp).1 l hl

/-- Where the workgroup has a handler and the group is not in it, a trap changes the group alone, and for pixel work the
marks of its fragments. -/
theorem State.trapped_handler (hpl : s.Placed c) (hh : c.w.handler ≠ 0) (hn : c.g.handler = false) (t : Trap) :
    ∃ (x : Exec) (gfx : Gfx) (gs : Group), s.trapped c t = { s with x := x, gfx := gfx } ∧
      (c.w.stage ≠ 3 ∨ t.cls ≠ 8 → gfx = s.gfx) ∧
      (s.trapped c t).grpOf c = some (gs.trapped c.w.handler c.trapping t (fun _ => c.pc) 0) ∧
      gs.ResumesAt c.g c.iss (if t.after then 0 else BitVec.ofNat 64 (4 * wordsOf i)) := by
  obtain ⟨w, g0, hw, hg0, hcw, hcg⟩ := State.pick_eq hp
  have hhw : w.handler = c.w.handler := by rw [hcw]; rfl
  have hst : w.stage = c.w.stage := by rw [hcw]; rfl
  have hid : w.id = c.w.id := by rw [hcw]; rfl
  have hidx : c.g.idx = g0.idx := by rw [hcg]; rfl
  have hn0 : g0.handler = false := by rw [← hn, hcg]; rfl
  obtain ⟨x, gs, hres, hx, hat⟩ := s.clearCur.resumePoint_spec (g0.onLanes c.iss (fun _ u => u.open_ c.sl.hdr)) c.iss
    (wordsOf i) t.after c.yld
  rw [← hcg] at hres hat
  have hw' : x.wg? w.id = some w := by
    unfold Exec.wg?
    rw [hx, Exec.wg?_id hw]
    exact hw
  obtain ⟨h, hg⟩ : ∃ h, w.grp? gs.idx = some h := by
    unfold State.Placed State.grpOf at hpl
    rw [(State.pick_wg hp).1, Option.bind_some, hcw] at hpl
    have hlt := (List.getElem?_eq_some_iff.1 hpl).1
    rw [Wg.setGrp, List.length_set, ← hat.idx] at hlt
    exact ⟨_, List.getElem?_eq_getElem hlt⟩
  obtain ⟨x', gfx, htrap, hgfx, hgrp⟩ := State.trapAt_handler (s := { s.clearCur with x := x }) hw' hg (hat.idx.trans hidx)
    (by rw [hhw]; exact hh) hn0 (hat.handler.trans hn) c.sl (c.iss.headD 0) c.trapping c.pc t
  have heq : s.trapped c t = { s with x := x', gfx := gfx } := by
    unfold State.trapped
    simp only [hw, hg0, hres]
    exact htrap
  refine ⟨x', gfx, gs, heq, by rwa [← hst], ?_, hat⟩
  unfold State.grpOf
  rw [heq, ← hid, ← hat.idx, ← hhw]
  exact hgrp

/-- A thread that takes the trap stands at the handler with its return address, predicates and resume point saved
(19_traps R406). -/
theorem State.trapped_lane {gs : Group} {back : DWord} (hat : gs.ResumesAt c.g c.iss back) (t : Trap) {l : Nat}
    (hl : l ∈ c.trapping) :
    let u := (gs.trapped c.w.handler c.trapping t (fun _ => c.pc) 0).lane l
    u.inH = true ∧ u.epc = c.pc ∧ u.pc = c.w.handler ∧ u.cl = {} ∧ u.resP = (c.g.lane l).p ∧
      u.resPc = (c.g.lane l).pc - back := by
  have hiss := State.pick_trapping hp hl
  obtain ⟨-, hlt, -⟩ := (State.pick_lanes hp).2 l hiss
  rw [Group.lane_trapped gs c.w.handler t (fun _ => c.pc) 0 hl (by rw [hat.len]; exact hlt)]
  exact ⟨rfl, rfl, rfl, rfl, (hat.lane l).2, hat.pc l hiss hlt⟩

end

/-- Settles O58: every instruction word issues through the checks (`exec_issues`), and a trap at a handler is
`State.trapped_handler`. -/
theorem checksTrap : Obligations.ChecksTrap := by
  unfold Obligations.ChecksTrap
  refine ⟨fun i s c y t => traps_of_checks,
    fun regs r rest => ⟨regCheck_range rest, regCheck_pair rest, regCheck_next rest⟩, fun i s c y t hp hpl hh hn => ?_⟩
  obtain ⟨x, gfx, gs, heq, hgfx, hgrp, hat⟩ := State.trapped_handler hp hpl hh hn t
  obtain ⟨hs, hm, hf⟩ := hat.regs
  refine ⟨fun hne => ?_, by rw [heq], by rw [heq], by rw [heq], _, hgrp, rfl, rfl, rfl, rfl, hs, hm, hf,
    fun l => (Group.lane_trapped_v ..).trans (hat.lane l).1, fun l hl => State.trapped_lane hp hat t hl⟩
  rw [heq]
  exact ⟨rfl, rfl, rfl, hgfx hne, rfl, rfl⟩

end Sys2Proof.Machine

namespace Sys2Proof.Laws.Encoded

/-- The family joined: the opcode map reads every encoded instruction back from its words (08_encoding R188, R196). -/
theorem enc_roundtrip (i : Instr) : Statement i :=
  Instr.casesOn i
    issueClock loadReply storeReachesL1 superstepBarrierComplete signedOperationEnqueue tileStep drainPerform bankZeroed
    copyComplete bdeRequestComplete nbrWritePerformed workgroupComplete resourceRelease ampQueueDequeue
    overflowRingRefill frontierSend frontierHoldExpiry rasterisePrimitive depthTest occContribution graphRecordRun
    waitListResolve recPushParkRelease stealAttempt stealRequest stealRetryExpiry graphLaunchComplete queueDoorbell
    packetFetch workgroupPlacement launchComplete registerWrite queueEnable queueDisable contextRegister
    contextUnregister eventReadPointer rimeEnable rimeRearm rtWaysChange rtCarve tueDoorbell tueCtlWrite lineReclaim
    lostCntRead biasFlip biasFlipComplete attestationReport firmwareUpdate drain freeze kill resume replay deliver
    faultKill islVminRead rimeEntryExpiry retryReissue birsp hostMemrd hostMemwr flitReceive nakReceive nakRepeatExpiry
    dieMapChange powerOn boraGrant islandPowerOn phaseFailure islandGate pseudoChannelFailure uncorrectableError addI
    addIImm subI addcN subbN mulI mulhiI mulhiN madI divI divN remI remN minI maxI minN maxN absI addI16x2 subI16x2
    addN16x2 subN16x2 addI8x4 subI8x4 addN8x4 subN8x4 and or xor andn andImm orImm xorImm shl shrN shrI shlImm shrNImm
    shrIImm bfxN bfxI bfi popc clz brev lea setpI setpN sel mov movImm movLit shfl vote xint addF subF mulF fmaF minF
    maxF absF negF divF setpF addF16x2 mulF16x2 fmaF16x2 minF16x2 maxF16x2 setpF16x2 addBf16x2 mulBf16x2 fmaBf16x2
    minBf16x2 maxBf16x2 setpBf16x2 addF64 subF64 mulF64 fmaF64 minF64 maxF64 divF64 setpF64 rcpF sqrtF rsqrtF exp2F
    log2F rcpF64 sqrtF64 rintF rintF64 crel dot4 cvt xflt ld ldw st stw lds sts atom red cas atoms standSub standRead
    standSeq standWait standDrop copy fence bra call brx ret exit mjoin mleave mwait mrd barArrive barSync barWait
    signDecl wait condArm condSet tileSet accAlloc accFree accBand accRead accDrain mma mmaSpec mmaIdx taskAmp primEmit
    visMin occBegin occEnd pxDiscard pxDepth tstBox tstTri stkPush stkPop recPush recPop sstep nbrSend nbrReduce
    bdeGather bdeReduce bdeCvt sregRd sregWr trap sys eret brk nop hostCacheCompletion railVoltageMinimum
    linkTrainingEnd packetArrival frontierArrival occCellUpdate schedulingRound eventRecordWrite interruptTimeExpiry
    write shoot migrate flush tueReservedCommand tueDone drainComplete drainDeadlineExpiry freezeImageWrite
    freezeDeadlineExpiry resumePlacement pageWalk firstTouchBind replCollapse replCollapseComplete gets getm upg putm
    puto pute mod wrthru atomMsg sub unsub fwdGets fwdGetm inv backinv data invack backinvack putack wtack atomrsp retry
    nackwt nacklost push pushack unsuback subrsp pushlost powerRemoved

end Sys2Proof.Laws.Encoded

namespace Sys2Proof

/-! ### The opcode map and the word formats (O52, O53) -/

/-- The fields that the words hold in the format of given fields (08_encoding R188). -/
def Fmt.reread (w w2 : Word) : Fmt → Fmt
  | .r _ => .r (rfOf w)
  | .i _ => .i (ifOf w)
  | .m _ => .m (mfOf w)
  | .b _ => .b (bfOf w)
  | .k _ => .k (kfOf w)
  | .t _ => .t (tfOf w)
  | .x _ => .x (xfOf w w2)
  | .l _ => .l (lfOf w w2)

/-- Whether the format has a second word (08_encoding R188). -/
def Fmt.two : Fmt → Bool
  | .x _ | .l _ => true
  | _ => false

/-- The fields of each format tile bits [23:0] of the first word: beside bits [31:24] they make the whole word. -/
theorem Fmt.word_reread (w w2 : Word) (f : Fmt) : (f.reread w w2).word (w.extractLsb' 24 8) = w := by
  cases f
  all_goals
    simp (disch := decide) only [reread, word, rfOf, ifOf, mfOf, bfOf, kfOf, tfOf, xfOf, lfOf,
      BitVec.extractLsb'_append_extractLsb'_eq_extractLsb']
    exact BitVec.extractLsb'_eq_self

theorem Fmt.word2_reread (w w2 : Word) (f : Fmt) : (f.reread w w2).word2 = if f.two then w2 else 0 := by
  cases f <;> rfl

theorem Fmt.word2_of_one {f : Fmt} (h : f.two = false) : f.word2 = 0 := by
  cases f with
  | x _ | l _ => cases h
  | _ => rfl

theorem ofNat_opcode (w : Word) : BitVec.ofNat 8 (opcode w) = w.extractLsb' 24 8 := by
  unfold opcode bits
  simp [BitVec.extractLsb', ← BitVec.toNat_inj]

/-- What the opcode map gives is encoded with that opcode, in a format that the words fill: a look through the 256
opcodes of R196. -/
theorem instrOfOp_enc {op : Nat} (h : op < 256) (w w2 : Word) : ∀ i, instrOfOp op w w2 = some i →
    ∃ f, i.enc = some (BitVec.ofNat 8 op, f) ∧ f.reread w w2 = f ∧ f.two = twoWords op := by
  interval_cases op <;> rintro _ ⟨⟩ <;> exact ⟨_, rfl, rfl, rfl⟩

/-- The opcodes that the map of R196 assigns: a look through all 256. -/
theorem instrOfOp_isSome {op : Nat} (h : op < 256) (w w2 : Word) : (instrOfOp op w w2).isSome =
    decide ((1 ≤ op ∧ op ≤ 0x61) ∨ (0x6F ≤ op ∧ op ≤ 0x7F) ∨ (0x8F ≤ op ∧ op ≤ 0x9F) ∨ (0xA8 ≤ op ∧ op ≤ 0xB0) ∨
      (0xC8 ≤ op ∧ op ≤ 0xD4) ∨ (0xE8 ≤ op ∧ op ≤ 0xED) ∨ (0xF4 ≤ op ∧ op ≤ 0xFA)) := by
  interval_cases op <;> rfl

/-! ### The words of an instruction and the instruction of the words -/

theorem encode_eq_some_iff {i : Instr} {w w2 : Word} :
    encode i = some (w, w2) ↔ ∃ op f, i.enc = some (op, f) ∧ f.word op = w ∧ f.word2 = w2 := by
  unfold encode
  split
  next op f he => simp [he]
  next he => simp [he]

theorem opcode_of_enc {i : Instr} {op : BitVec 8} {f : Fmt} (h : i.enc = some (op, f)) :
    opcode (f.word op) = op.toNat :=
  (Laws.Encoded.enc_roundtrip i op f h).1

theorem instrOfOp_of_encode {i : Instr} {w w2 : Word} (h : encode i = some (w, w2)) :
    instrOfOp (opcode w) w w2 = some i := by
  obtain ⟨op, f, he, rfl, rfl⟩ := encode_eq_some_iff.1 h
  obtain ⟨hop, hi⟩ := Laws.Encoded.enc_roundtrip i op f he
  rwa [hop]

theorem encode_of_instrOfOp {i : Instr} {w w2 : Word} (h : instrOfOp (opcode w) w w2 = some i) :
    encode i = some (w, if twoWords (opcode w) then w2 else 0) := by
  obtain ⟨f, he, hf, htwo⟩ := instrOfOp_enc (Machine.opcode_lt w) w w2 i h
  refine encode_eq_some_iff.2 ⟨_, f, he, ?_, ?_⟩
  · rw [ofNat_opcode, ← hf, Fmt.word_reread]
  · rw [← hf, Fmt.word2_reread, htwo]

/-- An instruction's format has a second word exactly if its opcode takes one. -/
theorem two_eq_twoWords {i : Instr} {op : BitVec 8} {f : Fmt} (h : i.enc = some (op, f)) :
    f.two = twoWords op.toNat := by
  obtain ⟨-, hi⟩ := Laws.Encoded.enc_roundtrip i op f h
  obtain ⟨f', he, -, htwo⟩ := instrOfOp_enc op.isLt _ _ i hi
  obtain rfl : f = f' := by simpa using h.symm.trans he
  exact htwo

/-- Two instructions with the same words are the same: the opcode map reads both back. -/
theorem encode_injective {i j : Instr} {w w2 : Word} (hi : encode i = some (w, w2)) (hj : encode j = some (w, w2)) :
    i = j :=
  Option.some.inj ((instrOfOp_of_encode hi).symm.trans (instrOfOp_of_encode hj))

/-! ### Reserved bits and the decoder -/

/-- A bit that no form of the word's opcode uses is set, in the word or in the one after it (R195 step 4). -/
abbrev Reserved (w w2 : Word) : Prop := w &&& rsvMask1 (opcode w) ≠ 0 ∨ w2 &&& rsvMask2 (opcode w) ≠ 0

/-- An opcode of one word reserves no bit of the word that follows: a look through the 256 opcodes. -/
theorem rsvMask2_of_one {op : Nat} (h : op < 256) : twoWords op = false → rsvMask2 op = 0 := by
  interval_cases op <;> decide

/-- A one-word opcode reserves the same bits whatever word follows. -/
theorem reserved_second (w w2 : Word) : Reserved w (if twoWords (opcode w) then w2 else 0) ↔ Reserved w w2 := by
  cases h : twoWords (opcode w) with
  | true => rfl
  | false => simp [Reserved, rsvMask2_of_one (Machine.opcode_lt w) h]

theorem WellFormed.exists_enc {i : Instr} (h : WellFormed i) : ∃ op f, i.enc = some (op, f) := by
  obtain ⟨hr, -⟩ := h
  unfold Instr.rsvOk at hr
  split at hr
  next op f he => exact ⟨op, f, he⟩
  next => cases hr

theorem wellFormed_iff {i : Instr} {w w2 : Word} (h : encode i = some (w, w2)) :
    WellFormed i ↔ ¬Reserved w w2 ∧ i.unusedOk = true ∧ i.fieldsOk = true := by
  obtain ⟨op, f, he, rfl, rfl⟩ := encode_eq_some_iff.1 h
  simp [WellFormed, Instr.rsvOk, Reserved, he, opcode_of_enc he, and_assoc]

theorem decode_of_none {w w2 : Word} (h : instrOfOp (opcode w) w w2 = none) : decode w w2 = .error .unassigned := by
  simp [decode, h]

theorem decode_of_some {w w2 : Word} {i : Instr} (h : instrOfOp (opcode w) w w2 = some i) : decode w w2 =
    if Reserved w w2 then .error .reservedBits else if i.unusedOk = false then .error .reservedBits
    else if i.fieldsOk then .ok i else .error .reservedField := by
  unfold decode
  by_cases hr : Reserved w w2
  · simp only [h, ← or_assoc, if_pos hr, if_pos (Or.inl hr)]
  · simp only [h, ← or_assoc, hr, false_or, if_false]

theorem decode_eq_ok_iff {w w2 : Word} {i : Instr} : decode w w2 = .ok i ↔
    instrOfOp (opcode w) w w2 = some i ∧ ¬Reserved w w2 ∧ i.unusedOk = true ∧ i.fieldsOk = true := by
  cases h : instrOfOp (opcode w) w w2 with
  | none => simp [decode_of_none h]
  | some j =>
    rw [decode_of_some h, Option.some.injEq]
    constructor
    · intro hd
      split_ifs at hd with hr hu hf
      obtain rfl := Except.ok.inj hd
      exact ⟨rfl, hr, by simpa using hu, hf⟩
    · rintro ⟨rfl, hr, hu, hf⟩
      simp [hr, hu, hf]

/-! ### The encoding statements -/

/-- Settles O52: the opcode map reads an instruction's words back (`instrOfOp_of_encode`), and a well-formed
instruction's words pass the checks of R195. -/
theorem decodeEncode : Obligations.DecodeEncode := by
  unfold Obligations.DecodeEncode
  refine ⟨fun i hi => ?_, fun i j w w2 => encode_injective⟩
  obtain ⟨op, f, he⟩ := hi.exists_enc
  have henc : encode i = some (f.word op, f.word2) := encode_eq_some_iff.2 ⟨op, f, he, rfl, rfl⟩
  exact ⟨_, _, henc, decode_eq_ok_iff.2 ⟨instrOfOp_of_encode henc, (wellFormed_iff henc).1 hi⟩,
    op, f, he, opcode_of_enc he, fun h1 => Fmt.word2_of_one ((two_eq_twoWords he).trans h1)⟩

/-- Settles O53: what the map gives encodes to the word it came from (`encode_of_instrOfOp`), and each refusal is one
branch of `decode` (`decode_of_none`, `decode_of_some`). -/
theorem encodeDecode : Obligations.EncodeDecode := by
  unfold Obligations.EncodeDecode
  refine ⟨fun w w2 i h => ?_, fun w w2 => ?_⟩
  · obtain ⟨hi, hr, hok⟩ := decode_eq_ok_iff.1 h
    have henc := encode_of_instrOfOp hi
    exact ⟨(wellFormed_iff henc).2 ⟨(reserved_second w w2).not.2 hr, hok⟩, _, henc,
      fun h2 => if_pos h2, fun h1 => by rw [h1]; rfl⟩
  · intro op assigned reserved
    have hassigned := instrOfOp_isSome (Machine.opcode_lt w) w w2
    have hsome (ha : assigned) : ∃ i, instrOfOp op w w2 = some i :=
      Option.isSome_iff_exists.1 (hassigned.trans (decide_eq_true ha))
    refine ⟨fun hna => ?_, fun ha hr => ?_, fun ha hnr => ?_⟩
    · exact decode_of_none (Option.isNone_iff_eq_none.1 (Option.isSome_eq_false_iff.1
        (hassigned.trans (decide_eq_false hna))))
    · obtain ⟨i, hi⟩ := hsome ha
      exact (decode_of_some hi).trans (if_pos hr)
    · obtain ⟨i, hi⟩ := hsome ha
      obtain ⟨f, he, -⟩ := instrOfOp_enc (Machine.opcode_lt w) w w2 i hi
      exact ⟨i, by rw [he]; rfl, (decode_of_some hi).trans (if_neg hnr)⟩

/-- Settles O51, by evaluation of the decoder on each word. -/
theorem specWordsDecode : Obligations.SpecWordsDecode := by
  unfold Obligations.SpecWordsDecode
  decide

end Sys2Proof

namespace Sys2Proof.Machine

/-! ### An identifier used twice, at a group out of its place (O18, O19) -/

/-- A store in flight that bears the next identifier to be given, 1, of the group at place 1 of its workgroup. -/
def staleStore : Access := { id := 1, wg := 0, grp := 1, ins := .st default, kind := .store }

/-- A live thread whose register v0 holds 0. -/
def bareLane : Lane := { st := .live, v := [{}] }

def doubledSlot : Slot := { wg := 0, grp := 0, lanes := 1, pc := 0 }

/-- The scheduler has selected the thread. At place 1 of its workgroup stands a second group of index 0, parked for access 1,
and the store of that group is in flight. -/
def doubledState : State :=
  { State.reset with
    x :=
      { wgs := [{ regs := 1, groups := [{ s := [0, 0], lanes := [bareLane] }, { park := .remote 1 }] }]
        accs := [staleStore]
        nextId := 1
        cur := some doubledSlot } }

/-- What an instruction of two words finds there: the thread stands behind it. -/
def doubledCx : Cx :=
  let g : Group := { s := [0, 0], lanes := [bareLane.advance 2] }
  { sl := doubledSlot, w := { regs := 1, groups := [g, { park := .remote 1 }] }, g := g, iss := [0], ex := [0], pc := 0,
    clk := 0, yld := false }

/-- ld v0, [s0 + s0], of four bytes. -/
def ldWord : XF := { d := 0, a := 0, b := 0, g := 7, c := 0x28000000 }

/-- red [s0 + s0], v0, the sum of 32-bit integers. -/
def redWord : XF := { d := 0, a := 0, b := 0, g := 7, c := 0x20040000 }

theorem doubledState_selected_ld : doubledState.Selected (.ld ldWord) doubledCx false := ⟨by decide, by decide, by decide⟩

theorem doubledState_selected_red : doubledState.Selected (.red redWord) doubledCx false := ⟨by decide, by decide, by decide⟩

theorem doubledState_placed : doubledState.Placed doubledCx := by
  unfold State.Placed
  decide

/-- The LD and ST counters of the thread's group in the state that an instruction answers. -/
def countersOf : Host.Outcome State Fault Refusal → Option (Nat × Nat)
  | .next t => (t.grpOf doubledCx).map (fun g => (g.ld, g.stc))
  | _ => none

theorem countersOf_next {o : Host.Outcome State Fault Refusal} {t : State} {g : Group} (h : o = .next t)
    (hg : t.grpOf doubledCx = some g) : countersOf o = some (g.ld, g.stc) := by
  rw [h]
  exact congrArg (Option.map fun g => (g.ld, g.stc)) hg

/-- The identifier leads to the store that bore it before: its group is released from its park, and written back at its index,
which is the place of the thread's group. -/
theorem countersOf_ld : countersOf (exec (.ld ldWord) doubledState) = some (0, 0) := by
  have hx : exec (.ld ldWord) doubledState = execLd ldWord doubledState := rfl
  rw [hx]
  decide

theorem countersOf_red : countersOf (exec (.red redWord) doubledState) = some (0, 0) := by
  have hx : exec (.red redWord) doubledState = execRed redWord doubledState := rfl
  rw [hx]
  decide

/-- Refutes O18 in its last clause: where an access in flight bears the identifier that the load takes, and its group bears
the index of the load's group, the load's group is overwritten and its LD does not rise. The claim assumes neither that
`nextId` is fresh nor that every group stands at its own index. -/
theorem not_loadsAndStoresIssue : ¬Obligations.LoadsAndStoresIssue := by
  intro h
  obtain ⟨-, -, hissue⟩ := h (.ld ldWord) .load 4 [0] (globalAddr ldWord) (fun _ _ => [])
    (.inl ⟨ldWord, rfl, rfl, by decide, by decide, by decide, rfl, rfl⟩) doubledState doubledCx false doubledState_selected_ld
  obtain ⟨t, g, ht, -, -, hg, -, hld, -⟩ := hissue (by decide) (by decide) doubledState_placed
  have hcount := (countersOf_next ht hg).symm.trans countersOf_ld
  obtain ⟨hzero, -⟩ := Prod.mk.inj (Option.some.inj hcount)
  exact absurd (hld.symm.trans hzero) (by decide)

/-- Refutes O19 in its last clause, by the state of O18: the group of the reduction is overwritten and its ST does not rise. -/
theorem not_atomicsIssue : ¬Obligations.AtomicsIssue := by
  intro h
  obtain ⟨-, hrange⟩ := h (.red redWord) redWord .reduce false 1 []
    (.inr (.inl ⟨rfl, rfl, by decide, rfl, rfl⟩)) doubledState doubledCx false doubledState_selected_red
  obtain ⟨-, haligned⟩ := hrange (by decide)
  obtain ⟨-, hissue⟩ := haligned (by decide)
  obtain ⟨t, g, ht, -, -, hg, -, -, hstc, -⟩ := hissue (by decide) doubledState_placed
  have hcount := (countersOf_next ht hg).symm.trans countersOf_red
  obtain ⟨-, hzero⟩ := Prod.mk.inj (Option.some.inj hcount)
  exact absurd (hstc.symm.trans hzero) (by decide)

end Sys2Proof.Machine

namespace Sys2Proof.Machine

/-! ### A store listed twice (O39) -/

/-- A lane of a store of one byte of line 0, which has entered its group's queue and not reached the L1. -/
def queuedLane : LaneAcc := { lane := 0, va := 0, ops := [1], st := .ok, pa := [0], inq := true }

/-- That store in flight. -/
def queuedStore : Access := { id := 1, wg := 0, grp := 0, ins := .st default, kind := .store, width := 1, lanes := [queuedLane] }

/-- The store stands twice among the accesses, and the LLC of its die holds the line in M. -/
def twinState : State :=
  { State.reset with
    x := { wgs := [{ groups := [{ lanes := [{ st := .live }] }] }], accs := [queuedStore, queuedStore], nextId := 2 }
    fab := { dies := [(0, { llc := [(0, { st := .M })] })] } }

/-- Access 1 in the state that an event answers. -/
def accOf : Host.Outcome State Fault Refusal → Option Access
  | .next t => t.x.acc? 1
  | _ => none

/-- The first copy of the store is performed in the line and leaves; the second stays as it was. -/
theorem accOf_twinState : accOf (exec (.storeReachesL1 0 0) twinState) = some queuedStore := by
  have hx : exec (.storeReachesL1 0 0) twinState = execStoreReachesL1 0 0 twinState := rfl
  rw [hx]
  decide

/-- Refutes O39 in its last clause: where two stores bear one identifier, the event performs and removes the first, and the
identifier then leads to the second, which has not reached the L1. The claim does not assume that identifiers differ. -/
theorem not_accessEvents : ¬Obligations.AccessEvents := by
  rintro ⟨-, -, hstore⟩
  obtain ⟨t, ht, -, hacc⟩ := hstore 0 0 twinState { groups := [{ lanes := [{ st := .live }] }] } queuedStore rfl
    (by decide) (by decide)
  have hleft : t.x.acc? queuedStore.id = some queuedStore := by
    have h := accOf_twinState
    rwa [ht] at h
  obtain ⟨-, hlane⟩ := hacc queuedStore hleft
  obtain ⟨l, hl, -, hdone⟩ := hlane 0 queuedLane rfl rfl
  obtain rfl : queuedLane = l := Option.some.inj hl
  exact absurd hdone (by decide)

end Sys2Proof.Machine

namespace Sys2Proof.Machine

/-! ### Instructions whose body runs with no lane executing too

Helper definitions from here on stand in statements alone and are never run: they are noncomputable, and no code is made
for them. -/

section
variable {i : Instr} {body : State → Cx → Except Trap State} (hx : ∀ s, exec i s = s.issue i body) {s : State} {c : Cx}
  {y : Bool} (hs : s.Selected i c y)
include hx hs

theorem issues_of_issue {t : State} (hb : body (s.base c) c = .ok t) : s.Issues i c y t := (hx s).trans (State.issue_ok hs hb)

theorem traps_of_issue {t : Trap} (hb : body (s.base c) c = .error t) : s.Traps i c t :=
  (hx s).trans (State.issue_err hs.1 hs.2.1 hb)

end

/-! ### Transfers (10_isa R263, R264) -/

theorem jumpBody_ok {target : Lane → DWord} {s : State} {c : Cx} (h : ∀ l ∈ c.ex, (target (c.g.lane l)).toNat % 4 = 0) :
    jumpBody target s c = .ok (s.putGrp c.w.id (c.g.onLanes c.ex (fun _ t => t.goto (target t)))) := by
  unfold jumpBody
  refine if_neg (fun hbad => ?_)
  obtain ⟨l, hl, hne⟩ := List.any_eq_true.1 hbad
  exact bne_iff_ne.1 hne (h l hl)

theorem jumpBody_error {target : Lane → DWord} {s : State} {c : Cx} (h : ∃ l ∈ c.ex, (target (c.g.lane l)).toNat % 4 ≠ 0) :
    jumpBody target s c = .error trapBadTarget := by
  unfold jumpBody
  obtain ⟨l, hl, hne⟩ := h
  exact if_pos (List.any_eq_true.2 ⟨l, hl, by simpa using hne⟩)

/-! ### The end of threads (02_execution R28) -/

/-- Two groups agree in their index, their masks, and the state of each lane. -/
structure Group.StandsAs (g h : Group) : Prop where
  idx : g.idx = h.idx
  masks : g.m = h.m
  st : ∀ l, (g.lane l).st = (h.lane l).st

theorem Group.StandsAs.refl (g : Group) : g.StandsAs g := ⟨rfl, rfl, fun _ => rfl⟩

theorem Group.StandsAs.trans {g h k : Group} (a : g.StandsAs h) (b : h.StandsAs k) : g.StandsAs k :=
  ⟨a.idx.trans b.idx, a.masks.trans b.masks, fun l => (a.st l).trans (b.st l)⟩

/-- A change of the lanes that keeps the state of each. -/
theorem Group.StandsAs.of_map {g : Group} {f : Lane → Lane} (hf : ∀ t, (f t).st = t.st) (l : Nat) :
    (({ g with lanes := g.lanes.map f } : Group).lane l).st = (g.lane l).st := by
  unfold Group.lane
  rw [List.getElem?_map]
  cases g.lanes[l]? with
  | none => rfl
  | some t => exact hf t

theorem Lane.deliver_st (t : Lane) (b : Nat) (v : VCell) : (t.deliver b v).st = t.st := by
  unfold Lane.deliver
  repeat' split
  all_goals rfl

theorem Group.addFence_standsAs (g : Group) (scope : Nat) (succ : BitVec 7) (lanes : Word) (preds : List Nat) :
    (g.addFence scope succ lanes preds).StandsAs g := by
  unfold Group.addFence
  split
  · exact .refl g
  · exact ⟨rfl, rfl, fun _ => rfl⟩

theorem Exec.maskRelease_standsAs (x : Exec) (w : Wg) (g : Group) (n : Nat) : (x.maskRelease w g n).StandsAs g := by
  unfold Exec.maskRelease
  dsimp only
  split
  · exact (Group.addFence_standsAs ..).trans ⟨rfl, rfl, Group.StandsAs.of_map (fun t => t.lift_st _)⟩
  · exact .refl g

theorem Exec.maskReleaseAll_standsAs (x : Exec) (w : Wg) (g : Group) : (x.maskReleaseAll w g).StandsAs g :=
  List.foldlRecOn (motive := fun h : Group => h.StandsAs g) _ _ (.refl g)
    (fun h hg n _ => (x.maskRelease_standsAs w h n).trans hg)

theorem Group.handlerEnd_standsAs (g : Group) : g.handlerEnd.StandsAs g := by
  unfold Group.handlerEnd
  split
  · exact ⟨rfl, rfl, Group.StandsAs.of_map (fun _ => rfl)⟩
  · exact .refl g

/-- Two workgroups have one number and agree in the group at a place. -/
def Wg.StandsAt (u w : Wg) (j : Nat) : Prop :=
  u.id = w.id ∧ ∀ g, w.grp? j = some g → ∃ h, u.grp? j = some h ∧ h.StandsAs g

theorem Wg.StandsAt.of_groups {u w : Wg} (hi : u.id = w.id) (hg : u.groups = w.groups) (j : Nat) : u.StandsAt w j :=
  ⟨hi, fun g h => ⟨g, by unfold Wg.grp? at h ⊢; rwa [hg], .refl g⟩⟩

theorem Wg.StandsAt.trans {u v w : Wg} {j : Nat} (a : u.StandsAt v j) (b : v.StandsAt w j) : u.StandsAt w j := by
  refine ⟨a.1.trans b.1, fun g hg => ?_⟩
  obtain ⟨h, hh, hst⟩ := b.2 g hg
  obtain ⟨k, hk, hst'⟩ := a.2 h hh
  exact ⟨k, hk, hst'.trans hst⟩

/-- A group as it passes a barrier whose phase is complete: its held threads take the payload, behind the fence of
07_ordering R170. -/
noncomputable def Group.passBar (g : Group) (b : Nat) (v : VCell) (preds : List Nat) : Group :=
  let held := g.live.filter (fun l => (g.lane l).atBar b)
  (g.onLanes held (fun _ t => t.deliver b v)).addFence 1 setLSA (maskOf held) preds

theorem Group.passBar_standsAs (g : Group) (b : Nat) (v : VCell) (preds : List Nat) : (g.passBar b v preds).StandsAs g := by
  refine (Group.addFence_standsAs ..).trans ⟨rfl, rfl, fun l => ?_⟩
  rw [Group.lane_onLanes]
  split
  · exact Lane.deliver_st ..
  · rfl

/-- A check of a barrier leaves the workgroup, or takes every group past it and begins the next phase. -/
theorem Exec.barCheck_cases (x : Exec) (w : Wg) (b : Nat) :
    x.barCheck w b = w ∨ ∃ v preds r, x.barCheck w b =
      { w with groups := w.groups.map (fun g => g.passBar b v preds), bs := w.bs.set b r } := by
  unfold Exec.barCheck
  dsimp only
  split
  · exact .inl rfl
  · split
    · exact .inr ⟨_, _, _, rfl⟩
    · exact .inl rfl

theorem Exec.barCheck_standsAt (x : Exec) (w : Wg) (b j : Nat) : (x.barCheck w b).StandsAt w j := by
  rcases x.barCheck_cases w b with h | ⟨v, preds, r, h⟩ <;> rw [h]
  · exact .of_groups rfl rfl j
  · refine ⟨rfl, fun g hg => ⟨g.passBar b v preds, ?_, Group.passBar_standsAs ..⟩⟩
    unfold Wg.grp? at hg ⊢
    rw [List.getElem?_map, hg, Option.map_some]

theorem Exec.barCheckAll_standsAt (x : Exec) (w : Wg) (j : Nat) : (x.barCheckAll w).StandsAt w j :=
  List.foldlRecOn (motive := fun u : Wg => u.StandsAt w j) _ _ (.of_groups rfl rfl j)
    (fun u hu b _ => (x.barCheck_standsAt u b j).trans hu)

theorem Wg.sstUpdate_standsAt (w : Wg) (j : Nat) : w.sstUpdate.StandsAt w j := by
  unfold Wg.sstUpdate
  split <;> exact .of_groups rfl rfl j

/-- A round that enters its queue, or waits for it, changes neither the workgroups in the table nor the groups of its own. -/
theorem Exec.signTry_groups (x : Exec) (w : Wg) (n : Nat) :
    (x.signTry w n).1.wgs = x.wgs ∧ (x.signTry w n).2.id = w.id ∧ (x.signTry w n).2.groups = w.groups := by
  unfold Exec.signTry
  dsimp only
  split
  · split <;> exact ⟨rfl, rfl, rfl⟩
  · exact ⟨rfl, rfl, rfl⟩

theorem Exec.signTryAll_groups (x : Exec) (w : Wg) :
    (x.signTryAll w).1.wgs = x.wgs ∧ (x.signTryAll w).2.id = w.id ∧ (x.signTryAll w).2.groups = w.groups := by
  unfold Exec.signTryAll
  refine List.foldlRecOn (motive := fun p : Exec × Wg => p.1.wgs = x.wgs ∧ p.2.id = w.id ∧ p.2.groups = w.groups) _ _
    ⟨rfl, rfl, rfl⟩ (fun p ⟨hx, hi, hg⟩ n _ => ?_)
  split
  · obtain ⟨hx', hi', hg'⟩ := p.1.signTry_groups p.2 n
    exact ⟨hx'.trans hx, hi'.trans hi, hg'.trans hg⟩
  · exact ⟨hx, hi, hg⟩

/-- A group whose threads of a list have ended: they are in no mask and in no arrival set (R28). -/
noncomputable def Group.ending (g : Group) (ls : List Nat) : Group :=
  { (g.onLanes ls (fun _ t => { t with st := .ended, hold := .free, inH := false })) with
    m := g.m.map (fun v => v &&& ~~~(maskOf ls))
    arr := g.arr.map (fun v => v &&& ~~~(maskOf ls)) }

theorem Group.ending_lane {g : Group} {ls : List Nat} {l : Nat} (hl : l ∈ ls) (hlt : l < g.lanes.length) :
    ((g.ending ls).lane l).st = .ended := by
  have h : (g.ending ls).lane l = _ := g.lane_onLanes ls (fun _ t => { t with st := .ended, hold := .free, inH := false }) l
  rw [h, if_pos ⟨hlt, hl⟩]

theorem Group.ending_mreg (g : Group) (ls : List Nat) (n : Nat) : (g.ending ls).mreg n &&& maskOf ls = 0 := by
  show (((g.m.map (fun v => v &&& ~~~(maskOf ls)))[n]?).getD 0) &&& maskOf ls = 0
  rw [List.getElem?_map]
  cases g.m[n]? with
  | none => exact BitVec.zero_and
  | some v => rw [Option.map_some, Option.getD_some, BitVec.and_assoc, BitVec.not_and_self]; exact BitVec.and_zero

/-- The workgroup keeps its number, and its group stands as the one whose threads have ended. -/
theorem Exec.endLanes_grp? {x : Exec} {w : Wg} {g : Group} (hg : w.grp? g.idx = some g) (ls : List Nat) :
    (x.endLanes w g.idx ls).1.wgs = x.wgs ∧ (x.endLanes w g.idx ls).2.id = w.id ∧
      ∃ h, (x.endLanes w g.idx ls).2.grp? g.idx = some h ∧ h.StandsAs (g.ending ls) := by
  let g2 := (x.maskReleaseAll w (g.ending ls)).handlerEnd
  have hg2 : g2.StandsAs (g.ending ls) := (Group.handlerEnd_standsAs _).trans (x.maskReleaseAll_standsAs w _)
  have hidx : g2.idx = g.idx := hg2.idx
  let w2 : Wg := { w.setGrp g2 with ks := w.ks.map (fun k => k.drop g.idx (maskOf ls)) }
  obtain ⟨hx3, hi3, hg3⟩ := x.signTryAll_groups w2
  have hend : x.endLanes w g.idx ls =
      ((x.signTryAll w2).1, ((x.signTryAll w2).1.barCheckAll (x.signTryAll w2).2).sstUpdate) := by
    unfold Exec.endLanes
    simp only [hg]
    rfl
  have hstand : (((x.signTryAll w2).1.barCheckAll (x.signTryAll w2).2).sstUpdate).StandsAt w2 g.idx :=
    ((Wg.sstUpdate_standsAt _ _).trans (Exec.barCheckAll_standsAt _ _ _)).trans (.of_groups hi3 hg3 _)
  have hself : w2.grp? g.idx = some g2 := by
    have h := Wg.grp?_setGrp_self (w := w) (g := g2) (h := g) (by rw [hidx]; exact hg)
    rwa [hidx] at h
  obtain ⟨h, hh, hst⟩ := hstand.2 g2 hself
  rw [hend]
  dsimp only
  exact ⟨hx3, hstand.1, h, hh, hst.trans hg2⟩

/-- Threads that end: the workgroup is found with its group as above, and the memories are as they were. -/
theorem State.endThreads_grp {s : State} {wi : Nat} {w : Wg} {g : Group} (hw : s.x.wg? wi = some w)
    (hg : w.grp? g.idx = some g) (ls : List Nat) :
    (s.endThreads wi g.idx ls).mem = s.mem ∧ ∃ u h, (s.endThreads wi g.idx ls).x.wg? wi = some u ∧
      u.grp? g.idx = some h ∧ h.StandsAs (g.ending ls) := by
  obtain ⟨hx, hi, h, hh, hst⟩ := Exec.endLanes_grp? (x := s.x) hg ls
  have hwg : ((s.x.endLanes w g.idx ls).1.setWg (s.x.endLanes w g.idx ls).2).wg? wi = some (s.x.endLanes w g.idx ls).2 := by
    refine Exec.wg?_setWg_self' (u := w) (hi.trans (Exec.wg?_id hw)) ?_
    unfold Exec.wg?
    rw [hx]
    exact hw
  unfold State.endThreads
  rw [hw]
  dsimp only
  split <;> exact ⟨rfl, _, h, hwg, hh, hst⟩

theorem exec_bra (f : BF) (s : State) : exec (.bra f) s =
    s.issue (.bra f) (fun s c => .ok (s.putGrp c.w.id (c.g.onLanes c.ex (fun _ t => t.goto (bfTarget c.pc f))))) := rfl

theorem exec_call (f : BF) (s : State) : exec (.call f) s =
    s.issue (.call f) (fun s c =>
      .ok (s.putGrp c.w.id (c.g.onLanes c.ex (fun _ t => { t.goto (bfTarget c.pc f) with link := c.pc + 4 })))) := rfl

theorem exec_exit (f : RF) (s : State) :
    exec (.exit f) s = s.issue (.exit f) (onceBody (fun s c => .ok (s.endThreads c.w.id c.g.idx c.ex))) := rfl

/-- Settles O24: a transfer's body is one update of its lanes, or the trap of `jumpBody`; the threads that exit are those of
`Group.ending`. -/
theorem transferResults : Obligations.TransferResults := by
  unfold Obligations.TransferResults
  refine ⟨fun f s c y hs => issues_of_issue (exec_bra f) hs rfl, fun f s c y hs => issues_of_issue (exec_call f) hs rfl,
    fun i target hi s c y hs => ?_, fun f s c y hs hp => ?_⟩
  · have hx : ∀ s, exec i s = s.issue i (jumpBody target) := by
      rcases hi with ⟨f, rfl, rfl⟩ | ⟨f, rfl, rfl⟩ <;> exact fun _ => rfl
    exact ⟨fun h => issues_of_issue hx hs (jumpBody_ok h), fun h => traps_of_issue hx hs (jumpBody_error h)⟩
  · have hw := (State.pick_wg hs.1).1
    have hg := hp.grp? hs
    obtain ⟨hiss, hlive⟩ := State.pick_lanes hs.1
    by_cases he : c.ex = []
    · refine ⟨_, _, issues_base (exec_exit f) hs he, (State.issued_outside ..).1.1, State.issued_grp _ y hw hg rfl,
        fun l hl => ?_, fun h => absurd he h⟩
      rw [he] at hl
      cases hl
    · obtain ⟨hmem, u, h, hu, hh, hst⟩ := State.endThreads_grp hw hg c.ex
      refine ⟨_, _, issues_of_body (exec_exit f) hs he rfl, (State.issued_outside ..).1.1.trans hmem,
        State.issued_grp _ y hu hh hst.idx, fun l hl => ?_, fun _ n => ?_⟩
      · obtain ⟨-, hlt, -⟩ := hlive l (hiss l hl)
        exact (hst.st l).trans (Group.ending_lane hl hlt)
      · have hm : h.mreg n = (c.g.ending c.ex).mreg n := by
          unfold Group.mreg
          rw [hst.masks]
        exact (congrArg (· &&& maskOf c.ex) hm).trans (c.g.ending_mreg c.ex n)

end Sys2Proof.Machine

namespace Sys2Proof.Machine

/-! ### Masks (10_isa R267, 02_execution R38) -/

theorem set_getD_self {α : Type} (l : List α) (n : Nat) (d : α) : l.set n ((l[n]?).getD d) = l := by
  by_cases h : n < l.length
  · rw [List.getElem?_eq_getElem h, Option.getD_some, List.set_getElem_self]
  · exact List.set_eq_of_length_le (Nat.not_lt.1 h)

theorem Group.setMask_areg (g : Group) (n : Nat) (m : Word) : g.setMask n m (g.areg n) = { g with m := g.m.set n m } := by
  unfold Group.setMask Group.areg
  rw [set_getD_self]

theorem Group.setMask_mreg (g : Group) (n : Nat) (a : Word) : g.setMask n (g.mreg n) a = { g with arr := g.arr.set n a } := by
  unfold Group.setMask Group.mreg
  rw [set_getD_self]

theorem exec_mjoin (f : KF) (s : State) : exec (.mjoin f) s = s.issue (.mjoin f) (fun s c =>
    .ok (s.putGrp c.w.id (c.g.setMask f.x.toNat (c.g.mreg f.x.toNat ||| maskOf c.ex) (c.g.areg f.x.toNat)))) := rfl

/-- The body of mwait where a lane executes it: it traps for a lane that is no member, or its lanes arrive. -/
noncomputable def mwaitBody (n : Nat) (s : State) (c : Cx) : Except Trap State :=
  if maskOf c.ex &&& ~~~(c.g.mreg n) ≠ 0 then .error (trapSync 1)
  else .ok (s.putGrp c.w.id (s.x.maskRelease c.w
    ((c.g.onLanes c.ex (fun _ t => { t with hold := .mask n })).setMask n (c.g.mreg n) (c.g.areg n ||| maskOf c.ex)) n))

theorem exec_mwait (f : KF) (s : State) : exec (.mwait f) s = s.issue (.mwait f) (onceBody (mwaitBody f.x.toNat)) := rfl

theorem mwaitBody_not_member {n : Nat} {s : State} {c : Cx} (h : maskOf c.ex &&& ~~~(c.g.mreg n) ≠ 0) :
    mwaitBody n s c = .error (trapSync 1) := if_pos h

theorem mwaitBody_member {n : Nat} {s : State} {c : Cx} (h : maskOf c.ex &&& ~~~(c.g.mreg n) = 0) :
    mwaitBody n s c = .ok (s.putGrp c.w.id (s.x.maskRelease c.w
      { (c.g.onLanes c.ex (fun _ t => { t with hold := .mask n })) with arr := c.g.arr.set n (c.g.areg n ||| maskOf c.ex) } n)) := by
  unfold mwaitBody
  rw [if_neg (not_not.2 h)]
  exact congrArg (fun g => Except.ok (s.putGrp c.w.id (s.x.maskRelease c.w g n))) (Group.setMask_mreg ..)

/-- Settles O25: each instruction is one update of the mask and its arrival set, and the release that may follow it is
`Exec.maskRelease`. -/
theorem maskResults : Obligations.MaskResults := by
  unfold Obligations.MaskResults
  refine ⟨fun f s c y hs => issues_of_issue (exec_mjoin f) hs ?_, fun f => does_of (fun _ => rfl), fun f s c y hs => ?_,
    fun f => does_of (fun _ => rfl)⟩
  · rw [Group.setMask_areg]
    rfl
  · exact ⟨issues_base (exec_mwait f) hs, fun he hk => traps_of_body (exec_mwait f) hs he (mwaitBody_not_member hk),
      fun he hk => issues_of_body (exec_mwait f) hs he (mwaitBody_member hk)⟩

end Sys2Proof.Machine

namespace Sys2Proof.Machine

/-! ### Arrivals at a barrier (10_isa R268, 02_execution R45, R46) -/

theorem barAdd_eq (op : Nat) (a v : Word) : barAdd op a v =
    if op = 0 then a &&& v else if op = 1 then a ||| v else if op = 2 then a + v else if v = 0 then a else a + 1 := by
  unfold barAdd
  split
  · rfl
  · rfl
  · rfl
  · rename_i h0 h1 h2
    rw [if_neg h0, if_neg h1, if_neg h2]

/-- The arrivals of some lanes, each with its thread's number and its value. -/
theorem Barrier.arrive_map (r : Barrier) (op : Nat) (ls : List Nat) (no : Nat → Nat) (v : Nat → Word) (preds : List Nat) :
    r.arrive op (ls.map (fun l => (no l, v l))) preds =
      { r with
        op := some op
        part := (ls.map v).foldl (barAdd op) (if r.op = none then barIdentity op else r.part)
        who := ls.foldl (fun t l => cset (no l) .arrived t) r.who
        preds := r.preds ++ preds.filter (fun i => !r.preds.contains i) } := by
  unfold Barrier.arrive
  simp only [List.foldl_map, Option.isNone_iff_eq_none]

/-- The group of an arrival: its lanes are held for the result where a destination is given. -/
noncomputable def Cx.heldAt (c : Cx) (b : Nat) : Option Nat → Group
  | some d => c.g.onLanes c.ex (fun _ t => { t with hold := .barrier b d })
  | none => c.g

/-- The barrier with the arrivals of the executing lanes. -/
noncomputable def Cx.arrived (c : Cx) (f : KF) (preds : List Nat) : Barrier :=
  (c.w.bar f.x.toNat).arrive f.f.toNat
    (c.ex.map (fun l => (threadNo c.g.idx l, ((c.g.lane l).reg f.a.toNat).val))) preds

section
variable {f : KF} {s : State} {c : Cx} (hold : Option Nat)

theorem arriveBody_mismatch (h : ∃ o, (c.w.bar f.x.toNat).op = some o ∧ o ≠ f.f.toNat) :
    arriveBody f hold s c = .error (trapSync 5) := by
  obtain ⟨o, ho, hne⟩ := h
  unfold arriveBody
  exact if_pos ⟨by rw [ho]; rfl, fun he => hne (Option.some.inj (ho.symm.trans he))⟩

theorem arriveBody_ok (h : ∀ o, (c.w.bar f.x.toNat).op = some o → o = f.f.toNat) :
    arriveBody f hold s c = .ok (s.putWg (s.x.barCheck { c.w.setGrp (c.heldAt f.x.toNat hold) with
      bs := c.w.bs.set f.x.toNat (c.arrived f (s.x.preds c.w c.g setLSA (maskOf c.ex) 1)) } f.x.toNat)) := by
  unfold arriveBody
  dsimp only
  rw [if_neg]
  · cases hold <;> rfl
  · rintro ⟨hsome, hne⟩
    obtain ⟨o, ho⟩ := Option.isSome_iff_exists.1 hsome
    exact hne (by rw [ho, h o ho])

end

/-! ### The end of a phase (02_execution R46) -/

/-- While a live thread has not arrived, the barrier stands as it is. -/
theorem Exec.barCheck_missing {x : Exec} {w : Wg} {b t : Nat} (ht : t ∈ w.liveThreads) (hm : cfind t (w.bar b).who ≠ some .arrived) :
    x.barCheck w b = w := by
  have hopen : ¬(w.liveThreads ≠ [] ∧ w.liveThreads.all (w.bar b).arrived = true) := by
    rintro ⟨-, hall⟩
    exact hm (eq_of_beq (List.all_eq_true.1 hall t ht))
  unfold Exec.barCheck
  dsimp only
  split
  · rfl
  · exact if_neg hopen

/-- Once every live thread has arrived, every group passes the barrier with the payload, and the next phase begins. -/
theorem Exec.barCheck_complete {x : Exec} {w : Wg} {b op : Nat} (hop : (w.bar b).op = some op) (hne : w.liveThreads ≠ [])
    (hall : ∀ t ∈ w.liveThreads, cfind t (w.bar b).who = some .arrived) :
    ∃ preds who, x.barCheck w b = { w with
      groups := w.groups.map (fun g => g.passBar b { val := (w.bar b).part, tag := barTag op } preds)
      bs := w.bs.set b { phase := !(w.bar b).phase, op := none, part := 0, who := who, preds := [] } } := by
  have hdone : w.liveThreads ≠ [] ∧ w.liveThreads.all (w.bar b).arrived = true :=
    ⟨hne, List.all_eq_true.2 (fun t ht => beq_iff_eq.2 (hall t ht))⟩
  unfold Exec.barCheck
  simp only [hop]
  rw [if_pos hdone]
  exact ⟨_, _, rfl⟩

@[simp] theorem Group.addFence_lane (g : Group) (scope : Nat) (succ : BitVec 7) (lanes : Word) (preds : List Nat) (l : Nat) :
    (g.addFence scope succ lanes preds).lane l = g.lane l := by
  unfold Group.addFence
  split <;> rfl

/-- A live thread held at the barrier takes the payload in its destination and is free. -/
theorem Group.passBar_lane {g : Group} {l b d : Nat} (hl : l ∈ g.live) (hh : (g.lane l).hold = .barrier b d) (v : VCell)
    (preds : List Nat) : (g.passBar b v preds).lane l = { (g.lane l).setReg d v with hold := .free } := by
  have hheld : l ∈ g.live.filter (fun l => (g.lane l).atBar b) := by
    refine List.mem_filter.2 ⟨hl, ?_⟩
    unfold Lane.atBar
    simp only [hh, BEq.rfl, Bool.true_or]
  have hlt : l < g.lanes.length := Group.live_lt (by simpa using (List.mem_filter.1 hl).2)
  unfold Group.passBar
  dsimp only
  rw [Group.addFence_lane, Group.lane_onLanes, if_pos ⟨hlt, hheld⟩]
  unfold Lane.deliver
  simp only [hh, if_true]

theorem Wg.bar_set_self {w : Wg} {b : Nat} (h : b < w.bs.length) (gs : List Group) (r : Barrier) :
    ({ w with groups := gs, bs := w.bs.set b r } : Wg).bar b = r := by
  unfold Wg.bar
  rw [List.getElem?_set_self h, Option.getD_some]

/-! ### Waits at a barrier (10_isa R269) -/

/-- The body of bar.wait where a lane executes it. -/
noncomputable def barWaitBody (b d : Nat) (s : State) (c : Cx) : Except Trap State :=
  if c.ex.any (fun l => (cfind (threadNo c.g.idx l) (c.w.bar b).who).isNone) then .error (trapSync 6)
  else
    let p := c.ex.foldl (waitLane b d) (c.w, c.g)
    .ok (s.putWg (p.1.setGrp p.2))

theorem exec_barWait (f : KF) (s : State) :
    exec (.barWait f) s = s.issue (.barWait f) (onceBody (barWaitBody f.x.toNat f.b.toNat)) := rfl

theorem barWaitBody_not_arrived {b d : Nat} {s : State} {c : Cx}
    (h : ∃ l ∈ c.ex, cfind (threadNo c.g.idx l) (c.w.bar b).who = none) : barWaitBody b d s c = .error (trapSync 6) := by
  obtain ⟨l, hl, hn⟩ := h
  exact if_pos (List.any_eq_true.2 ⟨l, hl, Option.isNone_iff_eq_none.2 hn⟩)

theorem barWaitBody_arrived {b d : Nat} {s : State} {c : Cx}
    (h : ∀ l ∈ c.ex, cfind (threadNo c.g.idx l) (c.w.bar b).who ≠ none) : barWaitBody b d s c =
      .ok (s.putWg ((c.ex.foldl (waitLane b d) (c.w, c.g)).1.setGrp (c.ex.foldl (waitLane b d) (c.w, c.g)).2)) := by
  refine if_neg (fun hn => ?_)
  obtain ⟨l, hl, hnone⟩ := List.any_eq_true.1 hn
  exact h l hl (Option.isNone_iff_eq_none.1 hnone)

/-- A single lane that has arrived: what it does is `waitLane`. -/
theorem barWaitBody_one {b d l : Nat} {s : State} {c : Cx} {a : BArr} (he : c.ex = [l])
    (ha : cfind (threadNo c.g.idx l) (c.w.bar b).who = some a) : barWaitBody b d s c =
      .ok (s.putWg ((waitLane b d (c.w, c.g) l).1.setGrp (waitLane b d (c.w, c.g) l).2)) := by
  rw [barWaitBody_arrived (fun k hk => ?_), he]
  · rfl
  · rw [he] at hk
    rw [List.mem_singleton.1 hk, ha]
    exact Option.some_ne_none a

theorem waitLane_arrived {b d l : Nat} {w : Wg} {g : Group} (h : cfind (threadNo g.idx l) (w.bar b).who = some .arrived) :
    waitLane b d (w, g) l = (w, g.setLane l { g.lane l with hold := .barrier b d }) := by
  unfold waitLane
  simp only [h]

theorem waitLane_ready {b d l : Nat} {w : Wg} {g : Group} {v : Word} {tag : Byte} {p : List Nat}
    (h : cfind (threadNo g.idx l) (w.bar b).who = some (.ready v tag p)) : waitLane b d (w, g) l =
      ({ w with bs := w.bs.set b { w.bar b with who := cdel (threadNo g.idx l) (w.bar b).who } },
        (g.setLane l ((g.lane l).setReg d { val := v, tag := tag })).addFence 1 setLSA (1#32 <<< l) p) := by
  unfold waitLane
  simp only [h]

/-- An effect on a workgroup alone changes nothing outside the execution state. -/
theorem sameOutside_putWg (s : State) (c : Cx) (w : Wg) (i : Instr) (y : Bool) :
    SameOutside s (((s.base c).putWg w).issued i c y false) := (State.issued_outside ((s.base c).putWg w) i c y).1

/-- Settles O26: an arrival is `arriveBody_ok`, the end of a phase `Exec.barCheck_complete`, a wait `waitLane`. -/
theorem barrierResults : Obligations.BarrierResults := by
  unfold Obligations.BarrierResults
  intro ident add
  have hadd (op : Nat) : barAdd op = add op := by
    funext a v
    exact barAdd_eq op a v
  refine ⟨fun i f sync hi s c y hs hop => ?_, fun x w b op hop => ⟨?_, fun hne hall hb => ?_⟩, fun f s c y hs => ?_⟩
  · obtain ⟨hold, hx, hg⟩ : ∃ hold, (∀ s, exec i s = s.issue i (onceBody (arriveBody f hold))) ∧
        c.heldAt f.x.toNat hold = if sync then c.g.onLanes c.ex (fun _ t => { t with hold := .barrier f.x.toNat f.b.toNat }) else c.g := by
      rcases hi with ⟨rfl, rfl⟩ | ⟨rfl, rfl⟩
      · exact ⟨none, fun _ => rfl, rfl⟩
      · exact ⟨some f.b.toNat, fun _ => rfl, rfl⟩
    refine ⟨issues_base hx hs, fun he hne => traps_of_body hx hs he (arriveBody_mismatch hold hne), fun he heq => ?_⟩
    have h := issues_of_body hx hs he (arriveBody_ok hold heq)
    rw [hg, Cx.arrived, Barrier.arrive_map, hadd] at h
    exact h
  · rintro ⟨t, ht, hm⟩
    exact Exec.barCheck_missing ht hm
  · obtain ⟨preds, who, h⟩ := Exec.barCheck_complete (x := x) hop hne hall
    rw [h, Wg.bar_set_self hb]
    refine ⟨rfl, rfl, fun j l g d hg hl hh => ⟨_, ?_, Group.passBar_lane hl hh _ preds⟩⟩
    rw [List.getElem?_map, hg]
    rfl
  · refine ⟨issues_base (exec_barWait f) hs, fun he h => traps_of_body (exec_barWait f) hs he (barWaitBody_not_arrived h),
      fun l he h => ?_, fun l v tag p he h => ?_, fun he h => ⟨_, issues_of_body (exec_barWait f) hs he (barWaitBody_arrived h), ?_⟩⟩
    · have hbody := barWaitBody_one (d := f.b.toNat) (s := s.base c) he h
      rw [waitLane_arrived h] at hbody
      exact issues_of_body (exec_barWait f) hs (by rw [he]; exact List.cons_ne_nil _ _) hbody
    · have hbody := barWaitBody_one (d := f.b.toNat) (s := s.base c) he h
      rw [waitLane_ready h] at hbody
      exact issues_of_body (exec_barWait f) hs (by rw [he]; exact List.cons_ne_nil _ _) hbody
    · exact sameOutside_putWg ..

end Sys2Proof.Machine

namespace Sys2Proof.Machine

/-! ### A wait whose guard is still to be written (O27) -/

/-- wait with thresholds of 0 for LD, ST and TL and no token, guarded by p0. -/
def strictWait : XF := { d := 0, a := 0, b := 0, g := 0, c := 0 }

/-- A group with one load outstanding, whose only thread has p0 set and a write of p0 pending. -/
def pendingGroup : Group :=
  { ld := 1, busy := [{ kind := 2, idx := 0, lanes := 1, due := .clk 1 }], lanes := [{ st := .live, p := 1 }] }

/-- Refutes O27 in its last clause. There the premiss that no write of the guard is pending stands in the left side of the
equivalence, (pending → met) ↔ tests, since → binds closer than ↔. Where a write is pending, the left side holds whatever the
counters are, and here LD is above its threshold. -/
theorem not_declarationsAndWaits : ¬Obligations.DeclarationsAndWaits := by
  rintro ⟨-, -, hmet⟩
  have htests := (hmet {} pendingGroup strictWait none 0 0).1 (fun hfree => absurd hfree (by decide))
  rcases htests with hguard | ⟨hld, -⟩
  · exact absurd hguard (by decide)
  · exact absurd hld (by decide)

end Sys2Proof.Machine

namespace Sys2Proof.Machine

/-! ### Requests raised at issue (10_isa R261, 03_kernel_memory R78) -/

/-- The body of copy where a lane executes it. -/
noncomputable def copyBody (f : KF) (s : State) (c : Cx) : Except Trap State :=
  let src := uniPair c.uni f.a.toNat
  let dst := uniPair c.uni (f.a.toNat + 2)
  let n := (uniAt c.uni f.b.toNat).toNat
  let kind := bits f.f 0 2
  let srcMem := kind == 0 || kind == 2
  let dstMem := kind == 1 || kind == 2
  if c.g.idx ≠ c.w.producer then .error (trapRights 1)
  else if srcMem && !rangeOk src n then .error (trapMem 4 src)
  else if dstMem && !rangeOk dst n then .error (trapMem 4 dst)
  else if !srcMem && !scrRangeOk c.w src n then .error (trapMem 7 src)
  else if !dstMem && !scrRangeOk c.w dst n then .error (trapMem 7 dst)
  else .ok (reqIssue (.copy f) f.x.toNat ((List.range 4).map (fun j => uniAt c.uni (f.a.toNat + j)) ++ [uniAt c.uni f.b.toNat])
    (if srcMem then [] else s.x.heldWrites c.w.id c.g.idx) s c)

theorem exec_copy (f : KF) (s : State) : exec (.copy f) s = s.issue (.copy f) (onceBody (copyBody f)) := rfl

theorem rangeOk_eq_false_iff (va : DWord) (n : Nat) : rangeOk va n = false ↔
    ¬(canonicalVa va = true ∧ (n = 0 ∨ (va.toNat + n ≤ 2 ^ 64 ∧ canonicalVa (va + BitVec.ofNat 64 (n - 1)) = true))) := by
  unfold rangeOk
  rw [← Bool.not_eq_true]
  simp only [Bool.and_eq_true, Bool.or_eq_true, beq_iff_eq, decide_eq_true_eq]

theorem scrRangeOk_eq_false_iff (w : Wg) (va : DWord) (n : Nat) : scrRangeOk w va n = false ↔ w.scrSize < va.toNat + n := by
  unfold scrRangeOk
  rw [decide_eq_false_iff_not, Nat.not_le]

/-- The checks of the ranges, the memory before the scratchpad and the source before the destination (R261, R262). -/
theorem copyBody_producer {f : KF} {s : State} {c : Cx} (hp : c.g.idx = c.w.producer) :
    let src := uniPair c.uni f.a.toNat
    let dst := uniPair c.uni (f.a.toNat + 2)
    let n := (uniAt c.uni f.b.toNat).toNat
    let srcMem := bits f.f 0 2 = 0 ∨ bits f.f 0 2 = 2
    let dstMem := bits f.f 0 2 = 1 ∨ bits f.f 0 2 = 2
    copyBody f s c =
      if srcMem ∧ rangeOk src n = false then .error (trapMem 4 src)
      else if dstMem ∧ rangeOk dst n = false then .error (trapMem 4 dst)
      else if ¬srcMem ∧ scrRangeOk c.w src n = false then .error (trapMem 7 src)
      else if ¬dstMem ∧ scrRangeOk c.w dst n = false then .error (trapMem 7 dst)
      else .ok (reqIssue (.copy f) f.x.toNat ((List.range 4).map (fun j => uniAt c.uni (f.a.toNat + j)) ++ [uniAt c.uni f.b.toNat])
        (if srcMem then [] else s.x.heldWrites c.w.id c.g.idx) s c) := by
  unfold copyBody
  simp only [hp, ne_eq, not_true_eq_false, if_false, Bool.and_eq_true, Bool.or_eq_true, beq_iff_eq, Bool.not_eq_true',
    Bool.eq_false_iff (b := _ || _)]

/-- A request that an instruction leaves as it issues: its token has risen, and it waits with its words. -/
theorem reqIssue_issued (i : Instr) {s : State} {c : Cx} (tok : Nat) (ops : List Word) (after : List (Nat × Nat)) (y : Bool)
    (hw : s.x.wg? c.w.id = some c.w) :
    SameOutside s ((reqIssue i tok ops after s c).issued i c y false) ∧
      ∃ (w : Wg) (r : Req), ((reqIssue i tok ops after s c).issued i c y false).x.wg? c.w.id = some w ∧
        w.qs = (c.w.tokUp tok).qs ∧ w.scratch = c.w.scratch ∧
        r ∈ ((reqIssue i tok ops after s c).issued i c y false).x.reqs ∧ r.id = s.x.nextId ∧ r.ins = i ∧ r.wg = c.w.id ∧
        r.tok = some tok ∧ r.ops = ops := by
  have hput : (reqIssue i tok ops after s c).x.wg? c.w.id = some (c.w.tokUp tok) :=
    Exec.wg?_setWg_self (w := c.w.tokUp tok) hw
  obtain ⟨gs, hwg⟩ := State.issued_wg i y hput
  obtain ⟨hout, -, -, -, hreqs, -⟩ := State.issued_outside (reqIssue i tok ops after s c) i c y
  rw [hreqs]
  exact ⟨hout, _, _, hwg, rfl, rfl, List.mem_append_right _ (List.mem_singleton.2 rfl), rfl, rfl, rfl, rfl, rfl⟩

theorem State.putGrp_addFence (s : State) (wi : Nat) (g : Group) (scope : Nat) (succ : BitVec 7) (lanes : Word) (preds : List Nat) :
    s.putGrp wi (g.addFence scope succ lanes preds) =
      if preds = [] ∨ succ = 0 then s.putGrp wi g
      else s.putGrp wi { g with fences := g.fences ++ [{ scope := scope, succ := succ, lanes := lanes, preds := preds }] } :=
  apply_ite (s.putGrp wi) ..

/-- Settles O23: the checks of a copy are those of `copyBody_producer` in their order, and its request is `reqIssue_issued`;
a fence is `Group.addFence`. -/
theorem copyAndFenceIssue : Obligations.CopyAndFenceIssue := by
  refine ⟨?_, fun f => ?_⟩
  · intro f s c y hs a b n k memBad scrBad srcMem dstMem
    have hx := exec_copy f
    refine ⟨issues_base hx hs, fun he => ⟨fun hp => traps_of_body hx hs he (if_pos hp), fun hp => ?_⟩⟩
    have hbody := copyBody_producer (f := f) (s := s.base c) hp
    simp only [rangeOk_eq_false_iff, scrRangeOk_eq_false_iff] at hbody
    refine ⟨fun h => traps_of_body hx hs he (hbody.trans (if_pos h)), fun ⟨h1, h⟩ => ?_, fun ⟨h1, h2⟩ => ?_⟩
    · exact traps_of_body hx hs he (hbody.trans ((if_neg h1).trans (if_pos h)))
    have hscr := hbody.trans ((if_neg h1).trans (if_neg h2))
    refine ⟨fun h => traps_of_body hx hs he (hscr.trans (if_pos h)), fun ⟨h3, h⟩ => ?_, fun ⟨h3, h4⟩ => ?_⟩
    · exact traps_of_body hx hs he (hscr.trans ((if_neg h3).trans (if_pos h)))
    have hgo := issues_of_body hx hs he (hscr.trans ((if_neg h3).trans (if_neg h4)))
    obtain ⟨hout, w, r, hw, hqs, hscratch, hr, hid, hins, hwg, htok, hops⟩ := reqIssue_issued (.copy f) (s := s.base c) f.x.toNat
      ((List.range 4).map (fun j => uniAt c.uni (f.a.toNat + j)) ++ [uniAt c.uni f.b.toNat])
      (if k = 0 ∨ k = 2 then [] else (s.base c).x.heldWrites c.w.id c.g.idx) y (State.pick_wg hs.1).1
    exact ⟨_, w, r, hgo, hout, hw, hqs, hscratch, hr, hid, hins, hwg, htok, hops⟩
  · have hdoes : Does (.fence f) (fun s c => s.putGrp c.w.id
        (c.g.addFence (bits f.b 0 3) f.a (maskOf c.ex) (s.x.preds c.w c.g f.d (maskOf c.ex) (bits f.b 0 3)))) :=
      does_of (fun _ => rfl)
    simp only [State.putGrp_addFence] at hdoes
    exact hdoes

end Sys2Proof.Machine

namespace Sys2Proof.Machine

/-! ### Conditions (10_isa R272, R273, 03_kernel_memory R75) -/

theorem Core.holdBanks_held {k : Core} {bs : List Nat} {b : Nat} (hb : b ∈ bs) : cfind b (k.holdBanks bs).banks = some .held := by
  unfold Core.holdBanks
  dsimp only
  induction bs using List.reverseRecOn with
  | nil => cases hb
  | append_singleton r a ih =>
    rw [List.foldl_append, List.foldl_cons, List.foldl_nil]
    by_cases h : b = a
    · rw [h, cfind_cset_self]
    · rw [cfind_cset_ne h]
      exact ih ((List.mem_append.1 hb).resolve_right (fun hm => h (List.mem_singleton.1 hm)))

/-- The shadow banks that arming handle h takes: the first free ones of the context, one for each band. -/
noncomputable def Cx.shadowBanks (c : Cx) (s : State) (h : Nat) : List Nat :=
  ((s.x.core c.w.die c.w.core).freeBanks (c.w.mctx.getD 0)).take (c.w.bands h).length

/-- The workgroup with the condition armed, and 0 in the status register. -/
noncomputable def Cx.armedWg (c : Cx) (n h d : Nat) (sh : List Nat) : Wg :=
  { c.w.setGrp (c.g.setUni d [0]) with cs := c.w.cs.set n { armed := true, handle := h, shadows := sh.map (fun b => (b, false)) } }

/-- The state in which a condition is armed. -/
noncomputable def State.arm (s : State) (c : Cx) (n h d : Nat) : State :=
  { s with x := s.x.setCore c.w.die c.w.core ((s.x.core c.w.die c.w.core).holdBanks (c.shadowBanks s h)) }.putWg
    (c.armedWg n h d (c.shadowBanks s h))

/-- The body of cond.arm where a lane executes it. -/
noncomputable def condArmBody (n h d : Nat) (s : State) (c : Cx) : Except Trap State :=
  if ((c.w.cs[n]?).getD {}).armed then .error (trapSync 7)
  else if c.w.bands h = [] then .error (trapMatrix 6)
  else if c.w.speculative h then .error (trapMatrix 8)
  else if ((s.x.core c.w.die c.w.core).freeBanks (c.w.mctx.getD 0)).length < (c.w.bands h).length then
    .ok (s.putGrp c.w.id (c.g.setUni d [1]))
  else .ok (s.arm c n h d)

theorem exec_condArm (f : KF) (s : State) :
    exec (.condArm f) s = s.issue (.condArm f) (onceBody (condArmBody f.f.toNat f.a.toNat f.b.toNat)) := rfl

/-- The body of cond.set where a lane executes it. -/
noncomputable def condSetBody (n d : Nat) (s : State) (c : Cx) : Except Trap State :=
  if !((c.w.cs[n]?).getD {}).armed then .error (trapSync 8)
  else .ok (s.condResolve c.w n (uniAt c.uni d ≠ 0))

theorem exec_condSet (f : KF) (s : State) :
    exec (.condSet f) s = s.issue (.condSet f) (onceBody (condSetBody f.f.toNat f.b.toNat)) := rfl

section
variable {n h d : Nat} {s : State} {c : Cx} (ha : ((c.w.cs[n]?).getD {}).armed = false)
include ha

theorem condArmBody_no_bands (hb : c.w.bands h = []) : condArmBody n h d s c = .error (trapMatrix 6) :=
  (if_neg (by rw [ha]; decide)).trans (if_pos hb)

variable (hb : c.w.bands h ≠ [])
include hb

theorem condArmBody_bound (hs : c.w.speculative h = true) : condArmBody n h d s c = .error (trapMatrix 8) :=
  (if_neg (by rw [ha]; decide)).trans ((if_neg hb).trans (if_pos hs))

variable (hs : c.w.speculative h = false)
include hs

theorem condArmBody_few (hf : ((s.x.core c.w.die c.w.core).freeBanks (c.w.mctx.getD 0)).length < (c.w.bands h).length) :
    condArmBody n h d s c = .ok (s.putGrp c.w.id (c.g.setUni d [1])) :=
  (if_neg (by rw [ha]; decide)).trans ((if_neg hb).trans ((if_neg (by rw [hs]; decide)).trans (if_pos hf)))

theorem condArmBody_arms (hf : (c.w.bands h).length ≤ ((s.x.core c.w.die c.w.core).freeBanks (c.w.mctx.getD 0)).length) :
    condArmBody n h d s c = .ok (s.arm c n h d) :=
  (if_neg (by rw [ha]; decide)).trans ((if_neg hb).trans ((if_neg (by rw [hs]; decide)).trans (if_neg (Nat.not_lt.2 hf))))

end

theorem uniAt_setUni_one {g : Group} {d : Nat} (hd : d < g.s.length) (v : Word) : uniAt (g.setUni d [v]).s d = v := by
  show ((g.s.set d v)[d]?).getD 0 = v
  rw [List.getElem?_set_self hd, Option.getD_some]

/-- An armed condition once its instruction has issued: the workgroup's handles are as they were, its shadow banks are held,
and the status register of its group reads 0. -/
theorem State.arm_issued {s : State} {c : Cx} (n h d : Nat) (i : Instr) (y : Bool) (hw : s.x.wg? c.w.id = some c.w) :
    SameOutside s ((s.arm c n h d).issued i c y false) ∧
      (∃ w, ((s.arm c n h d).issued i c y false).x.wg? c.w.id = some w ∧
        w.cs = c.w.cs.set n { armed := true, handle := h, shadows := (c.shadowBanks s h).map (fun b => (b, false)) } ∧
        w.hs = c.w.hs) ∧
      (∀ b ∈ c.shadowBanks s h,
        cfind b (((s.arm c n h d).issued i c y false).x.core c.w.die c.w.core).banks = some .held) ∧
      (c.w.grp? c.g.idx = some c.g → ∃ g, ((s.arm c n h d).issued i c y false).grpOf c = some g ∧
        (d < c.g.s.length → uniAt g.s d = 0)) := by
  have hput : (s.arm c n h d).x.wg? c.w.id = some (c.armedWg n h d (c.shadowBanks s h)) :=
    Exec.wg?_setWg_self (w := c.armedWg n h d (c.shadowBanks s h)) hw
  obtain ⟨gs, hwg⟩ := State.issued_wg i y hput
  obtain ⟨b, hcore⟩ := State.issued_core (s.arm c n h d) i c y c.w.die c.w.core
  have harm : (s.arm c n h d).x.core c.w.die c.w.core = (s.x.core c.w.die c.w.core).holdBanks (c.shadowBanks s h) :=
    Exec.core_setCore_self ..
  refine ⟨(State.issued_outside (s.arm c n h d) i c y).1, ⟨_, hwg, rfl, rfl⟩, fun k hk => ?_, fun hg => ?_⟩
  · rw [hcore, harm]
    exact Core.holdBanks_held hk
  · have hidx : (c.g.setUni d [0]).idx = c.g.idx := rfl
    have hgrp : (c.armedWg n h d (c.shadowBanks s h)).grp? c.g.idx = some (c.g.setUni d [0]) :=
      Wg.grp?_setGrp_self (w := c.w) (g := c.g.setUni d [0]) hg
    exact ⟨_, State.issued_grp i y hput hgrp hidx, fun hd => uniAt_setUni_one hd 0⟩

theorem commitBands_getElem? {bs : List Band} {j : Nat} {b : Band} (hb : bs[j]? = some b) (sh : List (Nat × Bool)) :
    (commitBands bs sh)[j]? = some (match sh[j]? with
      | some (k, true) => { b with bank := k }
      | _ => b) := by
  unfold commitBands
  rw [List.getElem?_mapIdx, hb]
  rfl

/-- The bands of the handle of condition n once it is resolved. -/
noncomputable def Wg.resolvedBands (w : Wg) (n : Nat) (commit : Bool) : List Band :=
  let k := (w.cs[n]?).getD {}
  if commit then commitBands (w.bands k.handle) k.shadows else w.bands k.handle

/-- A condition that has been resolved: it is IDLE, and its handle has the bands that the resolution leaves. -/
theorem State.condResolve_issued {s : State} {c : Cx} (n : Nat) (commit : Bool) (i : Instr) (y : Bool)
    (hw : s.x.wg? c.w.id = some c.w) :
    SameOutside s ((s.condResolve c.w n commit).issued i c y false) ∧
      ∃ w, ((s.condResolve c.w n commit).issued i c y false).x.wg? c.w.id = some w ∧ w.cs = c.w.cs.set n {} ∧
        w.hs = c.w.hs.set ((c.w.cs[n]?).getD {}).handle (c.w.resolvedBands n commit) := by
  let w1 : Wg := { c.w with
    cs := c.w.cs.set n {}
    hs := c.w.hs.set ((c.w.cs[n]?).getD {}).handle (c.w.resolvedBands n commit)
    ks := c.w.ks.map (fun k => k.resolve n) }
  have hput : (s.condResolve c.w n commit).x.wg? c.w.id = some w1 := Exec.wg?_setWg_self (w := w1) hw
  obtain ⟨gs, hwg⟩ := State.issued_wg i y hput
  exact ⟨(State.issued_outside (s.condResolve c.w n commit) i c y).1, _, hwg, rfl, rfl⟩

/-- Settles O28: the checks of cond.arm are those of `condArmBody` in their order; what arming and resolving leave are
`State.arm_issued` and `State.condResolve_issued`. -/
theorem conditionResults : Obligations.ConditionResults := by
  refine ⟨?_, ?_⟩
  · intro f s c y hs n h bands armed bound k free
    have hx := exec_condArm f
    have hw := (State.pick_wg hs.1).1
    refine ⟨issues_base hx hs, fun he ha => traps_of_body hx hs he (if_pos ha),
      fun he ha hb => traps_of_body hx hs he (condArmBody_no_bands ha hb),
      fun he ha hb hbound => traps_of_body hx hs he (condArmBody_bound ha hb hbound),
      fun he ha hb hbound => ⟨fun hf => issues_of_body hx hs he (condArmBody_few ha hb hbound hf), fun hf => ?_⟩⟩
    obtain ⟨hout, ⟨w, hwg, hcs, hhs⟩, hheld, hgrp⟩ := State.arm_issued n h f.b.toNat (.condArm f) y hw
    exact ⟨_, w, issues_of_body hx hs he (condArmBody_arms ha hb hbound hf), hout, hwg, hcs, hhs, hheld,
      fun hp => hgrp (hp.grp? hs)⟩
  · intro f s c y hs n k v
    have hx := exec_condSet f
    have hw := (State.pick_wg hs.1).1
    refine ⟨issues_base hx hs, fun he ha => traps_of_body hx hs he (if_pos (by rw [ha]; rfl)), fun he ha => ?_⟩
    obtain ⟨hout, w, hwg, hcs, hhs⟩ := State.condResolve_issued n (decide (v ≠ 0)) (.condSet f) y hw
    refine ⟨_, w, issues_of_body hx hs he (if_neg (by rw [ha]; decide)), hout, hwg, hcs, fun hv hlt => ?_, fun hv hlt j b hb => ?_⟩
    · rw [hhs, List.getElem?_set_self hlt, Option.getD_some]
      exact if_neg (by simpa using hv)
    · rw [hhs, List.getElem?_set_self hlt, Option.getD_some]
      have hcommit : c.w.resolvedBands n (decide (v ≠ 0)) = commitBands (c.w.bands k.handle) k.shadows :=
        if_pos (decide_eq_true hv)
      rw [hcommit]
      exact commitBands_getElem? (bs := c.w.bands k.handle) hb k.shadows

end Sys2Proof.Machine

namespace Sys2Proof.Machine

/-! ### Standing loads (10_isa R256 to R260, 03_kernel_memory R84 to R91) -/

/-- An effect behind the slot checks of R256. -/
noncomputable def slotBody (a : BitVec 7) (go : State → Cx → Except Trap State) (s : State) (c : Cx) : Except Trap State :=
  match slotCheck c.w (uniAt c.uni a.toNat) with
  | some t => .error t
  | none => go s c

section
variable {a : BitVec 7} {go : State → Cx → Except Trap State} {s : State} {c : Cx}

theorem slotBody_unaligned (h : (uniAt c.uni a.toNat).toNat % 128 ≠ 0) :
    slotBody a go s c = .error (trapMem 8 ((uniAt c.uni a.toNat).setWidth 64)) := by
  have hcheck : slotCheck c.w (uniAt c.uni a.toNat) = some (trapMem 8 ((uniAt c.uni a.toNat).setWidth 64)) := if_pos h
  unfold slotBody
  rw [hcheck]

theorem slotBody_beyond (h : (uniAt c.uni a.toNat).toNat % 128 = 0) (hr : c.w.scrSize < (uniAt c.uni a.toNat).toNat + 128) :
    slotBody a go s c = .error (trapMem 7 ((uniAt c.uni a.toNat).setWidth 64)) := by
  have hcheck : slotCheck c.w (uniAt c.uni a.toNat) = some (trapMem 7 ((uniAt c.uni a.toNat).setWidth 64)) :=
    (if_neg (not_not.2 h)).trans (if_pos hr)
  unfold slotBody
  rw [hcheck]

theorem slotBody_good
    (h : (uniAt c.uni a.toNat).toNat % 128 = 0 ∧ (uniAt c.uni a.toNat).toNat + 128 ≤ c.w.scrSize) :
    slotBody a go s c = go s c := by
  have hcheck : slotCheck c.w (uniAt c.uni a.toNat) = none := (if_neg (not_not.2 h.1)).trans (if_neg (Nat.not_lt.2 h.2))
  unfold slotBody
  rw [hcheck]

variable {i : Instr} {y : Bool}

/-- The slot checks of a stand instruction, whatever follows them. -/
theorem slot_checks (hx : ∀ s, exec i s = s.issue i (onceBody (slotBody a go))) (hs : s.Selected i c y) :
    (c.ex = [] → s.Issues i c y (s.base c)) ∧
      (c.ex ≠ [] → (uniAt c.uni a.toNat).toNat % 128 ≠ 0 → s.Traps i c (trapMem 8 ((uniAt c.uni a.toNat).setWidth 64))) ∧
      (c.ex ≠ [] → (uniAt c.uni a.toNat).toNat % 128 = 0 → c.w.scrSize < (uniAt c.uni a.toNat).toNat + 128 →
        s.Traps i c (trapMem 7 ((uniAt c.uni a.toNat).setWidth 64))) :=
  ⟨issues_base hx hs, fun he h => traps_of_body hx hs he (slotBody_unaligned h),
    fun he h hr => traps_of_body hx hs he (slotBody_beyond h hr)⟩

end

/-! #### An access added at issue -/

/-- The issuing group with one load more, whose registers it awaits. -/
noncomputable def Cx.loading (c : Cx) (dst : List (Nat × Nat)) (id : Nat) : Group :=
  { c.g with
    ld := c.g.ld + 1
    busy := c.g.busy ++ dst.map (fun r => { kind := r.1, idx := r.2, lanes := maskOf c.ex, due := .acc id }) }

theorem awaits_of_busy {g : Group} {c : Cx} {dst : List (Nat × Nat)} {id : Nat} (hb : ∀ b ∈ (c.loading dst id).busy, b ∈ g.busy)
    {r : Nat × Nat} (hr : r ∈ dst) : Awaits g r.1 r.2 c id :=
  ⟨_, hb _ (List.mem_append_right _ (List.mem_map_of_mem hr)), rfl, rfl, rfl, rfl⟩

section
variable {s : State} {c : Cx} (hw : s.x.wg? c.w.id = some c.w) (g : Group) (a : Access)
include hw

theorem State.addAcc_wg? : (s.addAcc c.w.id g a).x.wg? c.w.id = some (c.w.setGrp g) :=
  State.putGrp_wg? (s := { s with x := { s.x with nextId := s.x.nextId + 1, accs := s.x.accs ++ [a] } }) hw g

theorem State.addAcc_eq : s.addAcc c.w.id g a =
    { s with x := { s.x with nextId := s.x.nextId + 1, accs := s.x.accs ++ [a] }.setWg (c.w.setGrp g) } :=
  State.putGrp_wg (s := { s with x := { s.x with nextId := s.x.nextId + 1, accs := s.x.accs ++ [a] } }) hw g

theorem State.mem_addAcc : a ∈ (s.addAcc c.w.id g a).x.accs := by
  rw [State.addAcc_eq hw]
  exact List.mem_append_right _ (List.mem_singleton.2 rfl)

theorem State.addAcc_outside : SameOutside s (s.addAcc c.w.id g a) := by
  rw [State.addAcc_eq hw]
  exact ⟨rfl, rfl, rfl, rfl, rfl, rfl⟩

variable {g} (hg : c.w.grp? c.g.idx = some c.g) (hi : g.idx = c.g.idx)
include hg hi

theorem State.addAcc_grpOf : (s.addAcc c.w.id g a).grpOf c = some g := by
  unfold State.grpOf
  rw [State.addAcc_wg? hw, Option.bind_some, ← hi]
  exact Wg.grp?_setGrp_self (hi ▸ hg)

/-- An access that an instruction leaves as it issues: it stands in the machine, and its group as the access leaves it. -/
theorem State.addAcc_issued (i : Instr) (y : Bool) :
    SameOutside s ((s.addAcc c.w.id g a).issued i c y false) ∧ a ∈ ((s.addAcc c.w.id g a).issued i c y false).x.accs ∧
      ∃ h, ((s.addAcc c.w.id g a).issued i c y false).grpOf c = some h ∧ h.ld = g.ld ∧ ∀ b ∈ g.busy, b ∈ h.busy := by
  obtain ⟨⟨hm, hh, hf, hgx, hl, hp⟩, -, -, haccs, -⟩ := State.issued_outside (s.addAcc c.w.id g a) i c y
  obtain ⟨km, kh, kf, kgx, kl, kp⟩ := State.addAcc_outside hw g a
  refine ⟨⟨hm.trans km, hh.trans kh, hf.trans kf, hgx.trans kgx, hl.trans kl, hp.trans kp⟩, haccs ▸ State.mem_addAcc hw g a, ?_⟩
  have hgrp : (c.w.setGrp g).grp? c.g.idx = some g := hi ▸ Wg.grp?_setGrp_self (hi ▸ hg)
  exact ⟨_, State.issued_grp i y (State.addAcc_wg? hw g a) hgrp hi, rfl, fun b hb => List.mem_append_left _ hb⟩

end

/-! #### stand.read and stand.seq -/

/-- What stand.read and stand.seq do on a good slot: they perform and reply, or stand behind the fences in force. -/
noncomputable def standReadBody (i : Instr) (a : BitVec 7) (dst : List (Nat × Nat)) (s : State) (c : Cx) : Except Trap State :=
  let slot := uniAt c.uni a.toNat
  let id := s.x.nextId
  let after := s.x.afterOf c.g 5 (maskOf c.ex)
  let k : Access := { id := id, wg := c.w.id, grp := c.g.idx, ins := i, kind := .reply, pc := c.pc, at_ := id }
  if after = [] ∧ s.x.scratchHeld c.w.id c.g.idx = false then
    let r := s.standPerform c.w i slot.toNat c.ex
    .ok (r.1.addAcc c.w.id (c.loading dst id) { k with res := r.2 })
  else
    .ok (s.addAcc c.w.id (c.loading dst id)
      { k with kind := .load, after := after, aux := slot.toNat, lanes := c.ex.map (fun l => { lane := l, va := slot.setWidth 64, st := .ok }) })

theorem exec_standRead (f : KF) (s : State) :
    exec (.standRead f) s = s.issue (.standRead f) (onceBody (slotBody f.a (standReadBody (.standRead f) f.a [(0, f.b.toNat)]))) := rfl

theorem exec_standSeq (f : KF) (s : State) :
    exec (.standSeq f) s = s.issue (.standSeq f)
      (onceBody (slotBody f.a (standReadBody (.standSeq f) f.a [(1, f.b.toNat), (1, f.b.toNat + 1)]))) := rfl

theorem Exec.afterOf_no_fences {g : Group} (h : g.fences = []) (x : Exec) (set : Nat) (lanes : Word) : x.afterOf g set lanes = [] := by
  unfold Exec.afterOf
  rw [h]
  rfl

/-- Performing a stand.seq may clear the flags of its header, and changes nothing but the core's table. -/
theorem State.standPerform_seq_keeps (s : State) (w : Wg) (f : KF) (slot : Nat) (ls : List Nat) :
    SameOutside s (s.standPerform w (.standSeq f) slot ls).1 ∧ (s.standPerform w (.standSeq f) slot ls).1.x.wgs = s.x.wgs := by
  unfold State.standPerform
  dsimp only
  cases (s.x.core w.die w.core).standLive w.id slot with
  | none => exact ⟨⟨rfl, rfl, rfl, rfl, rfl, rfl⟩, rfl⟩
  | some e => exact ⟨⟨rfl, rfl, rfl, rfl, rfl, rfl⟩, rfl⟩

/-- With no fence in force and no scratchpad access held, the reply holds what the instruction performs. -/
theorem stand_replies {i : Instr} {a : BitVec 7} {dst : List (Nat × Nat)} {s : State} {c : Cx} {y : Bool}
    (hx : ∀ s, exec i s = s.issue i (onceBody (slotBody a (standReadBody i a dst)))) (hs : s.Selected i c y) (he : c.ex ≠ [])
    (hgood : (uniAt c.uni a.toNat).toNat % 128 = 0 ∧ (uniAt c.uni a.toNat).toNat + 128 ≤ c.w.scrSize)
    (hkeeps : SameOutside (s.base c) ((s.base c).standPerform c.w i (uniAt c.uni a.toNat).toNat c.ex).1 ∧
      ((s.base c).standPerform c.w i (uniAt c.uni a.toNat).toNat c.ex).1.x.wgs = (s.base c).x.wgs)
    (hu : Unfenced s c) (hp : s.Placed c) :
    ∃ t g, exec i s = .next t ∧ SameOutside s t ∧ t.grpOf c = some g ∧ g.ld = c.g.ld + 1 ∧
      (∀ r ∈ dst, Awaits g r.1 r.2 c s.x.nextId) ∧
      ∃ k ∈ t.x.accs, k.id = s.x.nextId ∧ k.kind = .reply ∧
        k.res = ((s.base c).standPerform c.w i (uniAt c.uni a.toNat).toNat c.ex).2 := by
  obtain ⟨hfence, hheld⟩ := hu
  have hafter : (s.base c).x.afterOf c.g 5 (maskOf c.ex) = [] := Exec.afterOf_no_fences hfence ..
  have hgo := issues_of_body hx hs he ((slotBody_good hgood).trans (if_pos ⟨hafter, hheld⟩))
  obtain ⟨⟨km, kh, kf, kg, kl, kp⟩, hwgs⟩ := hkeeps
  have hw : ((s.base c).standPerform c.w i (uniAt c.uni a.toNat).toNat c.ex).1.x.wg? c.w.id = some c.w := by
    unfold Exec.wg?
    rw [hwgs]
    exact (State.pick_wg hs.1).1
  obtain ⟨⟨hm, hh, hf, hg, hl, hpk⟩, hmem, g, hgrp, hld, hbusy⟩ := State.addAcc_issued hw (g := c.loading dst s.x.nextId)
    { id := s.x.nextId, wg := c.w.id, grp := c.g.idx, ins := i, kind := .reply, pc := c.pc, at_ := s.x.nextId,
      res := ((s.base c).standPerform c.w i (uniAt c.uni a.toNat).toNat c.ex).2 } (hp.grp? hs) rfl i y
  exact ⟨_, g, hgo, ⟨hm.trans km, hh.trans kh, hf.trans kf, hg.trans kg, hl.trans kl, hpk.trans kp⟩, hgrp, hld,
    fun r hr => awaits_of_busy hbusy hr, _, hmem, rfl, rfl, rfl⟩

/-- The word of a slot's header: 0 where the slot is neither active nor being dropped (R89). -/
noncomputable def seqWord (e : Option (Nat × Stand)) (part : DWord → Word) : Word :=
  match e with
  | some (_, v) => if v.st = .pending then 0 else part v.header
  | none => 0

theorem State.standPerform_seq (s : State) (w : Wg) (f : KF) (slot : Nat) (ls : List Nat) :
    (s.standPerform w (.standSeq f) slot ls).2 =
      [{ kind := 1, lane := 0, idx := f.b.toNat, val := seqWord ((s.x.core w.die w.core).standOf w.id slot) loWord },
        { kind := 1, lane := 0, idx := f.b.toNat + 1, val := seqWord ((s.x.core w.die w.core).standOf w.id slot) hiWord }] := by
  unfold State.standPerform Core.standLive seqWord
  dsimp only
  cases (s.x.core w.die w.core).standOf w.id slot with
  | none => rfl
  | some e =>
    by_cases h : e.2.st = .pending
    · simp [Option.filter, h]
    · simp [Option.filter, h]

theorem seqWord_lo (e : Option (Nat × Stand)) : seqWord e loWord =
    match e with
    | some (_, v) => if v.st = .pending then 0 else BitVec.ofNat 32 ((v.folded % 65536) * 65536 + (if v.lost then 4 else 0) +
        (if v.resync then 2 else 0) + (if v.overrun then 1 else 0))
    | none => 0 := by
  cases e with
  | none => rfl
  | some e => exact congrArg (ite (e.2.st = .pending) 0) BitVec.extractLsb'_append_eq_right

theorem seqWord_hi (e : Option (Nat × Stand)) : seqWord e hiWord =
    match e with
    | some (_, v) => if v.st = .pending then 0 else v.seq
    | none => 0 := by
  cases e with
  | none => rfl
  | some e => exact congrArg (ite (e.2.st = .pending) 0) BitVec.extractLsb'_append_eq_left

/-! #### stand.sub -/

/-- The status of a stand.sub that is decided at the core: SLOT_BUSY, CORE_FULL, or 0 where its home decides (R84). -/
noncomputable def Core.subAux (k : Core) (w slot : Nat) : Nat :=
  if (k.standOf w slot).isSome then 3 else if k.standFree.isNone then 2 else 0

/-- The core with the pending entry of a stand.sub that goes on to its home. -/
noncomputable def Core.pend (k : Core) (e : Stand) : Core :=
  if k.subAux e.wg e.slot = 0 then { k with stand := cset (k.standFree.getD 0) e k.stand } else k

/-- The pending entry of a stand.sub. -/
noncomputable def Cx.pending (c : Cx) (f : KF) (id : Nat) : Stand :=
  { wg := c.w.id, slot := (uniAt c.uni f.a.toNat).toNat, st := .pending, every := bit f.f 0, va := uniPair c.uni f.b.toNat, line := 0, acc := id }

/-- The access of a stand.sub. -/
noncomputable def Cx.subscription (c : Cx) (s : State) (f : KF) : Access :=
  { id := s.x.nextId, wg := c.w.id, grp := c.g.idx, ins := .standSub f, kind := .sub, pc := c.pc, width := 1
    lanes := [{ lane := (c.ex.head?).getD 0, va := uniPair c.uni f.b.toNat }], after := s.x.afterOf c.g 5 (maskOf c.ex)
    skid0 := c.g.issued + 1, at_ := s.x.nextId
    aux := (s.x.core c.w.die c.w.core).subAux c.w.id (uniAt c.uni f.a.toNat).toNat }

/-- The issuing group of a stand.sub: one load more, and the lanes that a watch range holds (R409). -/
noncomputable def Cx.subGroup (c : Cx) (s : State) (f : KF) : Group :=
  { c.g.onLanes (if (s.ctx c.w.asid).watches true false (uniPair c.uni f.b.toNat) 1 then c.ex else [])
      (fun _ t => { t with hold := .watch s.x.nextId }) with
    ld := c.g.ld + 1
    busy := c.g.busy ++ [{ kind := 1, idx := f.x.toNat, lanes := maskOf c.ex, due := .acc s.x.nextId }] }

/-- The state with the entry of a stand.sub in its core. -/
noncomputable def State.pendAt (s : State) (c : Cx) (f : KF) : State :=
  { s with x := s.x.setCore c.w.die c.w.core ((s.x.core c.w.die c.w.core).pend (c.pending f s.x.nextId)) }

/-- The state that a stand.sub leaves before its access is tried. -/
noncomputable def State.subscribed (s : State) (c : Cx) (f : KF) : State :=
  (s.pendAt c f).addAcc c.w.id (c.subGroup s f) (c.subscription s f)

/-- What stand.sub does on a good slot. -/
noncomputable def standSubBody (f : KF) (s : State) (c : Cx) : Except Trap State :=
  if !canonicalVa (uniPair c.uni f.b.toNat) then .error (trapMem 4 (uniPair c.uni f.b.toNat))
  else .ok ((s.subscribed c f).accTry s.x.nextId)

theorem exec_standSub (f : KF) (s : State) :
    exec (.standSub f) s = s.issue (.standSub f) (onceBody (slotBody f.a (standSubBody f))) := rfl

theorem Core.subAux_eq (k : Core) (w slot : Nat) :
    k.subAux w slot = if (k.standOf w slot).isSome then 3 else if k.standFree = none then 2 else 0 := by
  simp only [Core.subAux, Option.isNone_iff_eq_none]

/-- A status left to the home has found a free index of the table. -/
theorem Core.standFree_of_subAux {k : Core} {w slot : Nat} (h : k.subAux w slot = 0) : ∃ j, k.standFree = some j := by
  refine Option.ne_none_iff_exists'.1 fun hn => ?_
  rw [Core.subAux_eq, if_pos hn] at h
  split at h <;> cases h

theorem Core.pend_stand {k : Core} {e : Stand} {j : Nat} (h : k.subAux e.wg e.slot = 0) (hj : k.standFree = some j) :
    cfind j (k.pend e).stand = some e := by
  unfold Core.pend
  rw [if_pos h, hj]
  exact cfind_cset_self ..

/-- A stand.sub on a good slot and a canonical address leaves its access, its group one load more, and its pending entry
where the home decides its status. -/
theorem State.subscribed_stands {s : State} {c : Cx} (f : KF) (hw : s.x.wg? c.w.id = some c.w) (hg : c.w.grp? c.g.idx = some c.g) :
    c.subscription s f ∈ (s.subscribed c f).x.accs ∧ (s.subscribed c f).grpOf c = some (c.subGroup s f) ∧
      ((c.subscription s f).aux = 0 → ∃ j, (s.x.core c.w.die c.w.core).standFree = some j ∧
        cfind j ((s.subscribed c f).x.core c.w.die c.w.core).stand = some (c.pending f s.x.nextId)) := by
  have hpend : (s.pendAt c f).x.wg? c.w.id = some c.w := hw
  refine ⟨State.mem_addAcc hpend .., State.addAcc_grpOf hpend _ hg rfl, fun h => ?_⟩
  obtain ⟨j, hj⟩ := Core.standFree_of_subAux h
  refine ⟨j, hj, ?_⟩
  unfold State.subscribed
  rw [State.addAcc_eq hpend]
  have hcore : (s.pendAt c f).x.core c.w.die c.w.core = (s.x.core c.w.die c.w.core).pend (c.pending f s.x.nextId) :=
    Exec.core_setCore_self ..
  exact (congrArg (fun k : Core => cfind j k.stand) hcore).trans (Core.pend_stand h hj)

/-! #### stand.wait and stand.drop -/

/-- An effect on an ACTIVE slot; another slot traps (R259, R260). -/
noncomputable def activeBody (a : BitVec 7) (go : Nat × Stand → State → Cx → Except Trap State) (s : State) (c : Cx) : Except Trap State :=
  match (s.x.core c.w.die c.w.core).standOf c.w.id (uniAt c.uni a.toNat).toNat with
  | none => .error (trapMem 9 ((uniAt c.uni a.toNat).setWidth 64))
  | some e => if e.2.st ≠ .active then .error (trapMem 9 ((uniAt c.uni a.toNat).setWidth 64)) else go e s c

/-- What stand.wait does on an active slot. -/
noncomputable def standWaitBody (f : KF) (_ : Nat × Stand) (s : State) (c : Cx) : Except Trap State :=
  let slot := (uniAt c.uni f.a.toNat).toNat
  let val := uniAt c.uni f.b.toNat
  if s.x.standReady c.w c.g slot val then .ok s else .ok (s.putGrp c.w.id { c.g with park := .standWait slot val })

/-- What stand.drop does on an active slot. -/
noncomputable def standDropBody (f : KF) (e : Nat × Stand) (s : State) (c : Cx) : Except Trap State :=
  .ok ((s.putWg (c.w.tokUp f.x.toNat)).dropSlot (c.w.tokUp f.x.toNat) c.g.idx e.1 (.standDrop f) c.pc (some f.x.toNat)
    (s.x.afterOf c.g 5 (maskOf c.ex)))

theorem exec_standWait (f : KF) (s : State) :
    exec (.standWait f) s = s.issue (.standWait f) (onceBody (slotBody f.a (activeBody f.a (standWaitBody f)))) := rfl

theorem exec_standDrop (f : KF) (s : State) :
    exec (.standDrop f) s = s.issue (.standDrop f) (onceBody (slotBody f.a (activeBody f.a (standDropBody f)))) := rfl

section
variable {a : BitVec 7} {go : Nat × Stand → State → Cx → Except Trap State} {s : State} {c : Cx}

theorem activeBody_inactive
    (h : ∀ v, (s.x.core c.w.die c.w.core).standOf c.w.id (uniAt c.uni a.toNat).toNat = some v → v.2.st ≠ .active) :
    activeBody a go s c = .error (trapMem 9 ((uniAt c.uni a.toNat).setWidth 64)) := by
  unfold activeBody
  split
  · rfl
  · next e he => exact if_pos (h e he)

theorem activeBody_active {v : Nat × Stand}
    (h : (s.x.core c.w.die c.w.core).standOf c.w.id (uniAt c.uni a.toNat).toNat = some v) (hv : v.2.st = .active) :
    activeBody a go s c = go v s c := by
  unfold activeBody
  rw [h]
  exact if_neg (not_not.2 hv)

end

/-- On an active slot with no fence in force, a wait is over as soon as its SEQ differs or a flag of the slot is set (R90). -/
theorem Exec.standReady_active {x : Exec} {w : Wg} {g : Group} {slot : Nat} {val : Word} {v : Nat × Stand}
    (h : (x.core w.die w.core).standOf w.id slot = some v) (hv : v.2.st = .active) (hf : g.fences = []) :
    x.standReady w g slot val = true ↔ v.2.seq ≠ val ∨ v.2.resync = true ∨ v.2.lost = true := by
  unfold Exec.standReady
  rw [h, Exec.afterOf_no_fences hf]
  simp [hv, or_assoc]

/-- Settles O22: the slot checks are `slot_checks`, the replies `stand_replies`, the subscription `State.subscribed_stands`;
stand.wait and stand.drop are their bodies on an active slot. -/
theorem standingLoadsIssue : Obligations.StandingLoadsIssue := by
  refine ⟨?_, ?_, ?_, ?_, ?_, ?_⟩
  · rintro i f (rfl | rfl | rfl | rfl | rfl) s c y hs
    · exact slot_checks (exec_standSub f) hs
    · exact slot_checks (exec_standRead f) hs
    · exact slot_checks (exec_standSeq f) hs
    · exact slot_checks (exec_standWait f) hs
    · exact slot_checks (exec_standDrop f) hs
  · intro f s c y hs he hgood va k
    have hx := exec_standSub f
    refine ⟨fun hc => traps_of_body hx hs he ((slotBody_good hgood).trans (if_pos (congrArg not hc))), fun hc hp => ?_⟩
    have hgo := issues_of_body hx hs he ((slotBody_good hgood).trans (if_neg (by rw [show canonicalVa (uniPair c.uni f.b.toNat) = true from hc]; decide)))
    obtain ⟨hacc, hgrp, hentry⟩ := State.subscribed_stands f (State.pick_wg hs.1).1 (hp.grp? hs)
    refine ⟨_, _, _, hgo, hacc, rfl, rfl, rfl, rfl, Core.subAux_eq .., fun h => ?_, hgrp, rfl, _,
      List.mem_append_right _ (List.mem_singleton.2 rfl), rfl, rfl, rfl, rfl⟩
    obtain ⟨j, hj, hcell⟩ := hentry h
    exact ⟨j, _, hj, hcell, rfl, rfl, rfl, rfl, rfl⟩
  · intro f s c y hs he hgood hu hp
    obtain ⟨t, g, hgo, hout, hgrp, hld, hawait, k, hk, hid, hkind, hres⟩ := stand_replies (exec_standRead f) hs he hgood
      ⟨⟨rfl, rfl, rfl, rfl, rfl, rfl⟩, rfl⟩ hu hp
    exact ⟨t, g, hgo, hout, hgrp, hld, hawait _ (List.mem_singleton.2 rfl), k, hk, hid, hkind, hres⟩
  · intro f s c y hs he hgood hu hp e lo hi
    obtain ⟨t, g, hgo, hout, hgrp, hld, -, k, hk, hid, hkind, hres⟩ := stand_replies (exec_standSeq f) hs he hgood
      (State.standPerform_seq_keeps ..) hu hp
    rw [State.standPerform_seq, seqWord_lo, seqWord_hi] at hres
    exact ⟨t, g, hgo, hout, hgrp, hld, k, hk, hid, hkind, hres⟩
  · intro f s c y hs he hgood e
    have hx := exec_standWait f
    refine ⟨fun h => traps_of_body hx hs he ((slotBody_good hgood).trans (activeBody_inactive h)), fun v hv hact hf => ?_⟩
    have hready := Exec.standReady_active (val := uniAt c.uni f.b.toNat) (x := (s.base c).x) hv hact hf
    have hbody := (slotBody_good (go := activeBody f.a (standWaitBody f)) hgood).trans (activeBody_active (s := s.base c) hv hact)
    refine ⟨fun h => issues_of_body hx hs he (hbody.trans (if_pos (hready.2 h))),
      fun ⟨hseq, hres, hlost⟩ => issues_of_body hx hs he (hbody.trans (if_neg fun h => ?_))⟩
    simpa [hseq, hres, hlost] using hready.1 h
  · intro f s c y hs he hgood e
    have hx := exec_standDrop f
    exact ⟨fun h => traps_of_body hx hs he ((slotBody_good hgood).trans (activeBody_inactive h)), fun v hv hact =>
      ⟨rfl, issues_of_body hx hs he ((slotBody_good hgood).trans (activeBody_active hv hact))⟩⟩

end Sys2Proof.Machine

namespace Sys2Proof.Machine

/-! ### Doorbells (15_launch R329, R331) -/

theorem State.doorbell_low {s : State} {q v : Nat} (h : v % 2 ^ 64 ≤ (s.queue q).wr) : s.doorbell q v = .next s :=
  if_pos (by simpa using .inr h)

section
variable {s : State} {q v : Nat} (hr : s.pkg.ready = true)
include hr

theorem State.doorbell_raises (h : (s.queue q).wr < v % 2 ^ 64)
    (hfit : (s.queue q).run = false ∨ v % 2 ^ 64 - (s.queue q).rd ≤ 2 ^ (s.queue q).log2n) :
    s.doorbell q v = .next (s.setQueue q { s.queue q with wr := v % 2 ^ 64 }) := by
  refine (if_neg (by simpa [hr] using h)).trans (if_neg ?_)
  rcases hfit with hfit | hfit
  · simp [hfit]
  · simp only [Bool.and_eq_true, decide_eq_true_eq, not_and, Nat.not_lt]
    exact fun _ => hfit

theorem State.doorbell_overruns (h : (s.queue q).wr < v % 2 ^ 64) (hrun : (s.queue q).run = true)
    (hover : 2 ^ (s.queue q).log2n < v % 2 ^ 64 - (s.queue q).rd) :
    s.doorbell q v = .next ((s.freeNum.2.setQueue q { s.queue q with wr := v % 2 ^ 64, run := false, stopped := true }).post
      { ring := ctxRing (s.queue q).asid (s.queue q).evr, body := recBody stOVERRUN 0 q 0 0 s.freeNum.1.toNat 0 }) :=
  (if_neg (by simpa [hr] using h)).trans (if_pos (by simpa [hrun] using hover))

end

/-! ### Packets (15_launch R330, R337) -/

/-- A packet whose own fields fail its checks ends at once, with its record. -/
theorem State.accept_bad_packet {s : State} {q : Nat} {k : Queue} {pk : BitVec 1024} (h : packetOk pk .queued = false) :
    ∃ l, s.accept q k pk = some (s.rejectLaunch l stBAD_PACKET) ∧ l.queue = q ∧ l.pidx = k.rd ∧ l.asid = k.asid ∧ l.evr = k.evr :=
  ⟨_, if_pos (by simp [h]), rfl, rfl, rfl, rfl⟩

/-- A packet that can be read and accepted, and whose read pointer can be put to RPTRA, moves the queue on. -/
theorem execPacketFetch_accepts {s s1 s2 : State} {q : Nat} {pk : BitVec 1024} (hrun : (s.queue q).run = true)
    (hwr : (s.queue q).rd + 2 ≤ (s.queue q).wr) (hw : s.hostWrites = false) (hpk : s.packetAt (s.queue q) = some pk)
    (hacc : s.accept q (s.queue q) pk = some s1)
    (hput : s1.ctlPut (s.queue q).asid (s.queue q).rptra (natLe 8 ((s.queue q).rd + 2)) = (s2, true)) :
    execPacketFetch q s = .next (s2.setQueue q { s.queue q with rd := (s.queue q).rd + 2 }) := by
  simp only [execPacketFetch, hpk, hacc, hput]
  exact if_neg (by simp [hrun, hw]; omega)

/-! ### Rounds (15_launch R340, R341) -/

/-- A list that is not empty has an element with the smallest key, and minBy finds one. -/
theorem exists_minBy {α : Type} (key : α → Nat) {l : List α} (h : l ≠ []) : ∃ a ∈ l, minBy key l = some a ∧ ∀ b ∈ l, key a ≤ key b := by
  induction l with
  | nil => exact absurd rfl h
  | cons x r ih =>
    unfold minBy
    by_cases hr : r = []
    · subst hr
      exact ⟨x, List.mem_cons_self, rfl, by simp⟩
    · obtain ⟨y, hy, hmin, hle⟩ := ih hr
      rw [hmin]
      by_cases hxy : key x ≤ key y
      · exact ⟨x, List.mem_cons_self, if_pos hxy, List.forall_mem_cons.2 ⟨le_rfl, fun b hb => hxy.trans (hle b hb)⟩⟩
      · exact ⟨y, List.mem_cons_of_mem _ hy, if_neg hxy, List.forall_mem_cons.2 ⟨by omega, hle⟩⟩

/-- A list that is not empty has an element with the largest key, and maxBy finds one. -/
theorem exists_maxBy {α : Type} (key : α → Nat) {l : List α} (h : l ≠ []) : ∃ a ∈ l, maxBy key l = some a ∧ ∀ b ∈ l, key b ≤ key a := by
  induction l with
  | nil => exact absurd rfl h
  | cons x r ih =>
    unfold maxBy
    by_cases hr : r = []
    · subst hr
      exact ⟨x, List.mem_cons_self, rfl, by simp⟩
    · obtain ⟨y, hy, hmax, hle⟩ := ih hr
      rw [hmax]
      by_cases hxy : key y ≤ key x
      · exact ⟨x, List.mem_cons_self, if_pos hxy, List.forall_mem_cons.2 ⟨le_rfl, fun b hb => (hle b hb).trans hxy⟩⟩
      · exact ⟨y, List.mem_cons_of_mem _ hy, if_neg hxy, List.forall_mem_cons.2 ⟨by omega, hle⟩⟩

/-- The ready launch that a round serves: of the highest priority and, among those, next in turn. -/
def State.Serves (s : State) (l : Launch) : Prop :=
  l ∈ s.sch.launches ∧ s.ready l = true ∧
    ∀ k ∈ s.sch.launches, s.ready k = true → k.prio < l.prio ∨ k.prio = l.prio ∧ s.turn l ≤ s.turn k

/-- The state after a round that serves a launch. -/
def State.served (s : State) (l : Launch) : State :=
  { s with sch := { s.sch with
      launches := s.sch.launches.map (fun k => { k with chosen := k.id == l.id })
      lastq := s.sch.lastq.set l.prio l.queue } }

theorem execSchedulingRound_serves {s : State} (h : ∃ k ∈ s.sch.launches, s.ready k = true) :
    ∃ l, s.Serves l ∧ execSchedulingRound s = .next (s.served l) := by
  obtain ⟨k, hk, hkr⟩ := h
  obtain ⟨top, htop, hmax, hprio⟩ := exists_maxBy (fun l => l.prio) (List.ne_nil_of_mem (List.mem_filter.2 ⟨hk, hkr⟩))
  have hpeers : top ∈ (s.sch.launches.filter s.ready).filter (fun l => l.prio == top.prio) := List.mem_filter.2 ⟨htop, beq_self_eq_true top.prio⟩
  obtain ⟨l, hl, hmin, hturn⟩ := exists_minBy s.turn (List.ne_nil_of_mem hpeers)
  obtain ⟨hlr, heq⟩ := List.mem_filter.1 hl
  obtain ⟨hin, hready⟩ := List.mem_filter.1 hlr
  have hp : l.prio = top.prio := by simpa using heq
  refine ⟨l, ⟨hin, hready, fun j hj hjr => ?_⟩, by simp only [execSchedulingRound, hmax, hmin]; rfl⟩
  have hjm := List.mem_filter.2 ⟨hj, hjr⟩
  rcases (hprio j hjm).lt_or_eq with hlt | hje
  · exact .inl (hp ▸ hlt)
  · exact .inr ⟨hje.trans hp.symm, hturn j (List.mem_filter.2 ⟨hjm, by simpa using hje⟩)⟩

/-! ### Placement (15_launch R342, R343) -/

theorem State.launch?_id {s : State} {i : Nat} {l : Launch} (h : s.launch? i = some l) : l.id = i := by
  simpa using List.find?_some h

theorem State.launch?_setLaunch {s : State} {l k : Launch} {i : Nat} (hi : l.id = i) (h : s.launch? i = some k) :
    (s.setLaunch l).launch? i = some l := by
  subst hi
  unfold State.launch? at h ⊢
  exact find?_updFirst_self (fun k => k.id == l.id) l (by simp) h

/-- The end of a round changes no launch but for its choice. -/
theorem State.launch?_roundOver (s : State) (i : Nat) :
    s.roundOver.launch? i = (s.launch? i).map (fun l => { l with chosen := false }) := by
  unfold State.roundOver State.launch?
  rw [List.find?_map]
  rfl

/-- A launch with its next workgroup dealt. -/
def Launch.dealt (k : Launch) : Launch :=
  { k with next := k.next + 1, st := if k.next + 1 = pkNwg k.pkt then .dealt else k.st }

section
variable {s : State} {k : Launch} {d cur c : Nat} (pre : List Word)

theorem State.placeOn_launches {j : Job} {t : State} (h : s.placeOn j d c pre = some t) : t.sch.launches = s.sch.launches := by
  unfold State.placeOn at h
  split at h
  · cases h
  · obtain rfl := Option.some.inj h
    rfl

/-- The workgroup dealt to the die that the cursor finds and the core chosen there. -/
theorem State.dealOne_core (hm : pkMeshl k.pkt = false)
    (hd : s.cursorDie (k.job k.next) (fun e => (k.job k.next).stage != 1 || s.taskRoom e) s.pkgRing s.pkgRing.length s.sch.cursor = some (d, cur))
    (hc : s.pickCore (k.job k.next) d = some c) :
    ∃ (t : State) (id age lcore base : Nat) (mctx : Option Nat),
      s.dealOne k pre = some (State.setLaunch { t with sch := { t.sch with cursor := cur } } k.dealt) ∧
      t.mem = s.mem ∧ t.sch.launches = s.sch.launches ∧
      t.x.wgs = s.x.wgs ++ [(k.job k.next).wg id age d c lcore base mctx ((k.job k.next).head ++ pre)] := by
  obtain ⟨t, id, age, lcore, base, mctx, ht, hmem, -, hw⟩ := State.placeOn_of_fits (State.pickCore_fits hc) pre
  refine ⟨t, id, age, lcore, base, mctx, ?_, hmem, State.placeOn_launches pre ht, hw⟩
  have hj : ¬(k.job k.next).meshl = true := by simpa [Launch.job] using hm
  refine (if_neg hj).trans ?_
  simp only [hd, State.placeIn, hc, ht]
  rfl

end

/-- The threads of a placed workgroup's groups start at its entry PC (15_launch R333). -/
theorem Job.wg_groups_pc {j : Job} {id age d c lcore base : Nat} {mctx : Option Nat} {words : List Word} {g : Group}
    (h : g ∈ (j.wg id age d c lcore base mctx words).groups) : ∀ i ∈ g.live, (g.lane i).pc = pkEntry j.tmpl := by
  obtain ⟨n, -, rfl⟩ := List.mem_map.1 h
  intro i hi
  obtain ⟨hlt, hst⟩ := List.mem_filter.1 hi
  have hlane : (j.group age words n).lane i =
      if (j.lanes n).getLsbD i then { st := .live, pc := pkEntry j.tmpl, v := List.replicate (pkRegs j.tmpl) {} } else {} := by
    simp [Group.lane, Job.group, List.mem_range.1 hlt]
  rw [hlane] at hst ⊢
  split at hst
  · rw [if_pos ‹_›]
  · simp at hst

/-- The workgroup of a compute launch as it is placed: where it is, what it is of, and how its threads start. -/
theorem Launch.job_wg {k : Launch} (h0 : pkStage k.pkt = 0) (n id age d c lcore base : Nat) (mctx : Option Nat) (pre : List Word) :
    let w := (k.job n).wg id age d c lcore base mctx ((k.job n).head ++ pre)
    w.die = d ∧ w.core = c ∧ w.launch = k.id ∧ w.index = n ∧ w.nwg = pkNwg k.pkt ∧ w.regs = pkRegs k.pkt ∧ w.groups.length = pkGroups k.pkt ∧
      ∀ g ∈ w.groups, g.s = (pre ++ List.replicate 64 0).take 64 ∧ ∀ i ∈ g.live, (g.lane i).pc = pkEntry k.pkt := by
  have hhead : (k.job n).head = [] := if_neg (by omega)
  refine ⟨rfl, rfl, rfl, rfl, rfl, rfl, (List.length_map ..).trans List.length_range, fun g hg => ⟨?_, ?_⟩⟩
  · have hs := Job.wg_groups_s hg
    rwa [hhead, List.nil_append] at hs
  · have hpc := Job.wg_groups_pc hg
    exact hpc

/-- Work of the launch that a round serves is dealt, and the round is over. -/
theorem execWorkgroupPlacement_deals {s t : State} {l : Nat} {k : Launch} {pre : List Word} (hl : s.launch? l = some k)
    (hch : k.chosen = true) (hr : s.ready k = true) (hmax : ∀ j ∈ s.sch.launches, k.prio < j.prio → s.ready j = false)
    (hp : s.preload k.asid k.pkt = some pre) (hd : s.deal k pre = some t) : execWorkgroupPlacement l s = .next t.roundOver := by
  simp only [execWorkgroupPlacement, hl, hp, hd]
  refine if_neg ?_
  simp only [hch, hr, Bool.not_true, Bool.or_self, Bool.false_or, List.any_eq_true, Bool.and_eq_true, decide_eq_true_eq, not_exists, not_and]
  exact fun j hj hlt => by simp [hmax j hj hlt]

/-- A compute launch outside a mesh and without CORES deals one workgroup at a time. -/
theorem State.deal_one {s : State} {k : Launch} (pre : List Word) (h0 : pkStage k.pkt = 0) (hc : pkCores k.pkt = false) :
    s.deal k pre = s.dealOne k pre :=
  (if_neg (by simp [h0])).trans (if_neg (by simp [hc]))

/-! ### The end of a workgroup (02_execution R27, 03_kernel_memory R82) -/

theorem execWorkgroupComplete_drops {s : State} {wi : Nat} {w : Wg} (hw : s.x.wg? wi = some w) (hst : w.st = .running) (hfin : w.finished = true)
    (hidle : ∀ e ∈ (s.x.core w.die w.core).stand, e.2.wg = wi → e.2.st ≠ .active) :
    execWorkgroupComplete wi s = .next (s.putWg { w with st := .dropping }) := by
  have hmine : (s.x.core w.die w.core).stand.filter (fun e => e.2.wg == wi && e.2.st == .active) = [] := by
    simpa [List.filter_eq_nil_iff] using hidle
  have hcore : ((s.putWg { w with st := .dropping }).x.core w.die w.core).stand = (s.x.core w.die w.core).stand := rfl
  simp only [execWorkgroupComplete, hw, hcore, hmine]
  exact if_neg (by simp [hst, hfin])

/-- A core with the banks of a list zeroing. -/
def Core.zeroed (k : Core) (clk : Nat) (bs : List Nat) : Core := bs.foldl (fun k b => k.zeroBank clk b) k

theorem Core.zeroed_zeroing (clk : Nat) {b : Nat} {bs : List Nat} (hb : b ∈ bs) (k : Core) :
    cfind b (k.zeroed clk bs).banks = some (.zeroing (clk + 32)) := by
  induction bs using List.reverseRecOn with
  | nil => cases hb
  | append_singleton r a ih =>
    unfold Core.zeroed at ih ⊢
    rw [List.foldl_append]
    by_cases h : b = a
    · subst h
      exact cfind_cset_self ..
    · refine (cfind_cset_ne h ..).trans (ih ?_)
      simpa [h] using hb

/-- The state with a workgroup's banks zeroing and its place free. -/
def State.without (s : State) (w : Wg) (wi : Nat) : State :=
  { s with x := { s.x.setCore w.die w.core ((s.x.core w.die w.core).zeroed s.x.clk w.allBanks) with wgs := s.x.wgs.filter (fun u => u.id != wi) } }

/-- The state in which a launch, if it is there, counts one more workgroup that has ended. -/
def State.countEnd (s : State) (l : Nat) : State :=
  match s.launch? l with
  | none => s
  | some k => s.setLaunch { k with ended := k.ended + 1 }

theorem State.countEnd_mem_x (s : State) (l : Nat) : (s.countEnd l).mem = s.mem ∧ (s.countEnd l).x = s.x := by
  unfold State.countEnd
  split <;> exact ⟨rfl, rfl⟩

theorem State.countEnd_launch {s : State} {l : Nat} {k : Launch} (h : s.launch? l = some k) :
    (s.countEnd l).launch? l = some { k with ended := k.ended + 1 } := by
  have hid := State.launch?_id h
  unfold State.countEnd
  rw [h]
  exact State.launch?_setLaunch (l := { k with ended := k.ended + 1 }) hid h

theorem execResourceRelease_frees {s : State} {wi : Nat} {w : Wg} (hw : s.x.wg? wi = some w) (hst : w.st = .dropping)
    (hnone : ∀ e ∈ (s.x.core w.die w.core).stand, e.2.wg ≠ wi) :
    execResourceRelease wi s = .next ((s.without w wi).countEnd w.launch) := by
  simp only [execResourceRelease, hw]
  exact if_neg (by simpa [hst] using hnone)

/-! ### The end of a launch (07_ordering R182, 15_launch R454) -/

theorem execLaunchComplete_ends {s : State} {l : Nat} {k : Launch} (hl : s.launch? l = some k) (hst : k.st = .dealt) (hstage : pkStage k.pkt ≤ 2)
    (hidle : s.launchIdle l = true) (hpass : k.pass.bind s.pass? = none) :
    execLaunchComplete l s = .next ((s.setLaunch { k with st := .ended }).postLaunch k stOK 0 0) := by
  simp only [execLaunchComplete, hl, hpass]
  exact (if_neg (by simp [hst, hidle]; omega)).trans (if_neg (by omega))

/-! ### Event records and interrupts (15_launch R347, R348) -/

theorem cget_cput_self {α : Type} [DecidableEq α] (d : α) (a : Nat) (v : α) (l : Cells α) : cget d a (cput d a v l) = v := by
  unfold cput
  split
  · simp [cget, *]
  · exact cget_cset_self ..

/-- The pointers and pending counts of a ring are those written back to it. -/
theorem State.ringV_setRingV {s : State} {n : Nat} {v0 : RingV} (h : s.ringV n = some v0) (v : RingV) :
    ∃ u, (s.setRingV n v).ringV n = some u ∧ u.wp = v.wp ∧ u.rp = v.rp ∧ u.since = v.since ∧ u.oldest = v.oldest := by
  unfold State.ringV State.setRingV at *
  by_cases hctx : n < 262144
  · simp only [if_pos hctx] at h ⊢
    cases hr : (s.ctx (n / 1024)).rings[n % 1024]? with
    | none => simp [hr] at h
    | some r =>
      have hlt := (List.getElem?_eq_some_iff.1 hr).1
      simp [hlt]
  · simp only [if_neg hctx] at h ⊢
    by_cases hdie : n < faultRing
    · simp only [if_pos hdie]
      refine ⟨_, rfl, ?_, ?_, ?_, ?_⟩
      · exact congrArg Die.dringWp (State.setDie_die_self ..)
      · exact congrArg Die.dringRd (State.setDie_die_self ..)
      · exact cget_cput_self ..
      · cases v.oldest with
        | none => exact cfind_cdel_self ..
        | some n => exact cfind_cset_self ..
    · simp only [if_neg hdie]
      exact ⟨_, rfl, rfl, rfl, rfl, rfl⟩

/-- Writing a ring's pointers back changes neither the memory, the records held nor the interrupts. -/
theorem State.setRingV_keeps (s : State) (n : Nat) (v : RingV) :
    (s.setRingV n v).mem = s.mem ∧ (s.setRingV n v).sch.pend = s.sch.pend ∧ (s.setRingV n v).sch.ints = s.sch.ints := by
  unfold State.setRingV
  split
  · dsimp only
    split <;> exact ⟨rfl, rfl, rfl⟩
  · split <;> exact ⟨rfl, rfl, rfl⟩

/-- A ring of no context, a die's or the driver's, is there in every state. -/
theorem State.ringV_of_no_context {s : State} {n : Nat} {v : RingV} (h : s.ringV n = some v) (ha : v.asid = none) (u : State) :
    ∃ v0, u.ringV n = some v0 := by
  unfold State.ringV at h ⊢
  by_cases hctx : n < 262144
  · simp only [if_pos hctx] at h
    split at h
    · cases h
    · cases h
      cases ha
  · simp only [if_neg hctx]
    split <;> exact ⟨_, rfl⟩

/-- The state with a written record taken off and its ring's pointer moved on, with the interrupt at its count. -/
def State.afterRecord (s : State) (n : Nat) (r : PendRec) (v v1 : RingV) : State :=
  let s1 := { s with sch := { s.sch with pend := delFirst (fun u => u == r) s.sch.pend } }
  if (v.c = 0 ∧ v.t = 0) ∨ (v.c ≠ 0 ∧ v.c ≤ v1.since) then s1.interrupt n v1 else s1.setRingV n v1

theorem State.afterRecord_spec {s : State} {n : Nat} {v0 : RingV} (h : s.ringV n = some v0) (r : PendRec) (v v1 : RingV) :
    (s.afterRecord n r v v1).mem = s.mem ∧ (s.afterRecord n r v v1).sch.pend = delFirst (fun u => u == r) s.sch.pend ∧
      (∃ u, (s.afterRecord n r v v1).ringV n = some u ∧ u.wp = v1.wp) ∧
      (s.afterRecord n r v v1).sch.ints = s.sch.ints ++ (if (v.c = 0 ∧ v.t = 0) ∨ (v.c ≠ 0 ∧ v.c ≤ v1.since) then [v1.vec] else []) := by
  unfold State.afterRecord
  dsimp only
  generalize hs1 : ({ s with sch := { s.sch with pend := delFirst (fun u => u == r) s.sch.pend } } : State) = s1
  have h1 : s1.ringV n = some v0 := by rw [← h, ← hs1]; rfl
  split
  · obtain ⟨u, hu, hwp, -⟩ := State.ringV_setRingV h1 { v1 with since := 0, oldest := none }
    obtain ⟨hm, hp, hi⟩ := State.setRingV_keeps s1 n { v1 with since := 0, oldest := none }
    refine ⟨hm.trans (hs1 ▸ rfl), hp.trans (hs1 ▸ rfl), ⟨u, hu, hwp⟩, ?_⟩
    exact congrArg (· ++ [v1.vec]) (hi.trans (hs1 ▸ rfl))
  · obtain ⟨u, hu, hwp, -⟩ := State.ringV_setRingV h1 v1
    obtain ⟨hm, hp, hi⟩ := State.setRingV_keeps s1 n v1
    refine ⟨hm.trans (hs1 ▸ rfl), hp.trans (hs1 ▸ rfl), ⟨u, hu, hwp⟩, ?_⟩
    rw [List.append_nil]
    exact hi.trans (hs1 ▸ rfl)

/-- A record that reports no launch and wakes no group changes nothing more. -/
theorem State.recorded_plain {s : State} {r : PendRec} (hw : r.wake = none) (hl : r.launch = none) : s.recorded r = s := by
  simp only [State.recorded, hw, hl]
  rfl

/-- The address in its ring at which the next record goes. -/
def RingV.nextPa (v : RingV) : Nat := (v.base + BitVec.ofNat 64 (32 * (v.wp % 2 ^ v.log2n))).toNat

/-- A ring whose next record has been written. -/
def RingV.moved (v : RingV) (time : Nat) : RingV :=
  { v with wp := v.wp + 1, since := v.since + 1, oldest := some (v.oldest.getD time) }

theorem execEventRecordWrite_driver {s s1 : State} {r : PendRec} {v : RingV} (hr : s.sch.pend.find? (fun r => r.ring == s.sel) = some r)
    (hv : s.ringV s.sel = some v) (ha : v.asid = none) (hroom : v.room = true) (hafter : ∀ p ∈ r.after, s.x.performed p.1 p.2 = true)
    (hwake : r.wake = none) (hl : r.launch = none) (hpa : s.paExists v.nextPa = true)
    (hput : s.paPut v.nextPa (natLe 32 (r.body.toNat / 2 ^ 64 * 2 ^ 64 + s.time)) = (s1, true)) :
    execEventRecordWrite s = .next (s1.afterRecord s.sel r v (v.moved s.time)) := by
  unfold RingV.nextPa at hpa hput
  simp only [execEventRecordWrite, hr, hv, ha, hpa, hput]
  refine (if_neg (by simpa [hroom] using hafter)).trans ((if_neg (by decide)).trans ?_)
  rw [State.recorded_plain hwake hl]
  rfl

theorem execInterruptTimeExpiry_raises {s : State} {v : RingV} {n : Nat} (hv : s.ringV s.sel = some v) (ho : v.oldest = some n) (ht : v.t ≠ 0)
    (hn : n + 1000 * v.t ≤ s.time) : execInterruptTimeExpiry s = .next (s.interrupt s.sel v) := by
  simp only [execInterruptTimeExpiry, hv, ho]
  exact if_pos ⟨ht, hn⟩

/-- Settles O48: each clause is the case lemma of its event. -/
theorem launchLife : Obligations.LaunchLife := by
  refine ⟨?_, ?_, ?_, ?_, ?_, ?_, ?_, ?_, ?_⟩
  · intro q v s hr
    refine ⟨State.doorbell_low, fun h hfit => ⟨_, State.doorbell_raises hr h hfit, rfl, rfl, State.setQueue_queue_self .., rfl⟩, fun h hrun hover => ?_⟩
    exact ⟨_, _, State.doorbell_overruns hr h hrun hover, rfl, State.setQueue_queue_self .., rfl⟩
  · intro q s s1 s2 pk hrun hwr hw hpk hacc hput
    refine ⟨_, execPacketFetch_accepts hrun hwr hw hpk hacc hput, rfl, rfl, State.setQueue_queue_self .., rfl, fun hbad => ?_⟩
    obtain ⟨l, hl, hq, hi, hasid, hevr⟩ := State.accept_bad_packet (s := s) (q := q) (k := s.queue q) hbad
    obtain rfl := Option.some.inj (hl.symm.trans hacc)
    rw [← hasid, ← hevr, ← hi, ← hq]
    exact ⟨{ l with st := .ended }, rfl, rfl, rfl, rfl, rfl⟩
  · intro s h
    obtain ⟨l, ⟨hin, hready, hmax⟩, hx⟩ := execSchedulingRound_serves h
    exact ⟨_, l, hx, rfl, rfl, hin, hready, hmax, rfl, rfl⟩
  · intro l d c cur s k pre hl hid hp h0 hch hready hmax hcores hmesh hd hc
    obtain ⟨t, id, age, lcore, base, mctx, hdeal, hmem, hls, hw⟩ := State.dealOne_core pre hmesh hd hc
    have hx := execWorkgroupPlacement_deals hl hch hready hmax hp ((State.deal_one pre h0 hcores).trans hdeal)
    have ht : State.launch? { t with sch := { t.sch with cursor := cur } } l = some k := (congrArg (List.find? _) hls).trans hl
    have hlaunch := State.launch?_setLaunch (l := k.dealt) hid ht
    obtain ⟨hdie, hcore, hlid, hindex, hnwg, hregs, hgroups, hstart⟩ := Launch.job_wg h0 k.next id age d c lcore base mctx pre
    refine ⟨_, _, hx, hmem, hw, rfl, hdie, hcore, hlid.trans hid, hindex, hnwg, hregs, hgroups, hstart, ?_⟩
    rw [State.launch?_roundOver, hlaunch]
    rfl
  · intro wi s w hw hst hfin hidle
    have hid := Exec.wg?_id hw
    exact ⟨_, execWorkgroupComplete_drops hw hst hfin hidle, rfl, Exec.wg?_setWg_self' (w := { w with st := .dropping }) hid hw, rfl⟩
  · intro wi s w hw hst hnone
    obtain ⟨hm, hx⟩ := State.countEnd_mem_x (s.without w wi) w.launch
    refine ⟨_, execResourceRelease_frees hw hst hnone, hm, congrArg Exec.wgs hx, fun b hb => ?_, fun k hk => State.countEnd_launch hk⟩
    rw [hx]
    exact (congrArg (fun c => cfind b c.banks) (Exec.core_setCore_self ..)).trans (Core.zeroed_zeroing s.x.clk hb _)
  · intro l s k hl hid hst hstage hidle hpass
    refine ⟨_, execLaunchComplete_ends hl hst hstage hidle hpass, rfl, rfl, ?_, by rw [← hid]; rfl⟩
    exact State.launch?_setLaunch (l := { k with st := .ended }) hid hl
  · intro s s1 r v hr hv ha hroom hafter hwake hl a hpa hput
    obtain ⟨v0, h0⟩ := State.ringV_of_no_context hv ha s1
    obtain ⟨hm, hp, ⟨u, hu, hwp⟩, hi⟩ := State.afterRecord_spec h0 r v (v.moved s.time)
    exact ⟨_, u, execEventRecordWrite_driver hr hv ha hroom hafter hwake hl hpa hput, hm, hp, hu, hwp, hi⟩
  · intro s v n hv ho ht hn
    obtain ⟨u, hu, -, -, hs, hold⟩ := State.ringV_setRingV hv { v with since := 0, oldest := none }
    obtain ⟨hm, -, hi⟩ := State.setRingV_keeps s s.sel { v with since := 0, oldest := none }
    exact ⟨_, u, execInterruptTimeExpiry_raises hv ho ht hn, hm, congrArg (· ++ [v.vec]) hi, hu, hs, hold⟩

end Sys2Proof.Machine

namespace Sys2Proof.Machine

/-! ### Writes of registers by offset (15_launch R349 to R355) -/

/-- A write of v at an offset changes neither the memory nor the execution state, and the register reads x after it. -/
def State.Reads (s : State) (off v : Nat) (x : DWord) : Prop :=
  ∃ t, exec (.registerWrite off v) s = .next t ∧ t.mem = s.mem ∧ t.x = s.x ∧ t.readReg off = x

/-- A write that takes effect: the package is ready and the offset is aligned and not the attestation register's. -/
theorem execRegisterWrite_ready {s : State} {off : Nat} (v : Nat) (hr : s.pkg.ready = true) (h8 : off % 8 = 0) (h : off ≠ 0x010) :
    execRegisterWrite off v s =
      if off < 0x1000 then s.writePkg off (v % 2 ^ 64)
      else if 0x10000 ≤ off ∧ off < 0x50000 then s.writeQueue ((off - 0x10000) / 64) (off % 64) (v % 2 ^ 64)
      else if 0x100000 ≤ off ∧ off < 0x200000 then s.writeCtx ((off - 0x100000) / 4096) (off % 4096) (v % 2 ^ 64)
      else if 0x200000 ≤ off ∧ off < 0x500000 ∧ s.working ((off - 0x200000) / 65536) = true then
        s.writeDie ((off - 0x200000) / 65536) (off % 65536) (v % 2 ^ 64)
      else .next s :=
  (if_neg h).trans (if_neg (by simp [hr, h8]))

theorem execRegisterWrite_discarded {s : State} {off : Nat} (v : Nat) (hd : s.pkg.ready = false ∨ off % 8 ≠ 0) (h : off ≠ 0x010) :
    execRegisterWrite off v s = .next s :=
  (if_neg h).trans (if_pos (by rcases hd with hd | hd <;> simp [hd]))

section
variable {s t : State} {v r : Nat} {x : DWord} (hr : s.pkg.ready = true) (h8 : r % 8 = 0)
include hr h8

/-- A register of the package block. -/
theorem State.reads_pkg (h : r < 0x1000) (h10 : r ≠ 0x010) (hw : s.writePkg r (v % 2 ^ 64) = .next t) (hm : t.mem = s.mem)
    (hx : t.x = s.x) (hrd : t.readPkg r = x) : s.Reads r v x := by
  refine ⟨t, (execRegisterWrite_ready v hr h8 h10).trans ((if_pos h).trans hw), hm, hx, ?_⟩
  unfold State.readReg
  rw [if_neg (not_not.2 h8), if_pos h, hrd]

/-- A register of a queue. -/
theorem State.reads_queue {q : Nat} (hq : q < 4096) (h : r < 64) (hw : s.writeQueue q r (v % 2 ^ 64) = .next t) (hm : t.mem = s.mem) (hx : t.x = s.x)
    (hrd : (t.queue q).read r = x) : s.Reads (0x10000 + 64 * q + r) v x := by
  have hi : (0x10000 + 64 * q + r - 0x10000) / 64 = q := by omega
  have hj : (0x10000 + 64 * q + r) % 64 = r := by omega
  refine ⟨t, (execRegisterWrite_ready v hr (by omega) (by omega)).trans ?_, hm, hx, ?_⟩
  · rw [if_neg (by omega), if_pos (by omega), hi, hj, hw]
  · unfold State.readReg
    rw [if_neg (by omega), if_neg (by omega), if_pos (by omega), hi, hj, hrd]

/-- A register of a context. -/
theorem State.reads_ctx {a : Nat} (ha : a < 256) (h : r < 4096) (hw : s.writeCtx a r (v % 2 ^ 64) = .next t) (hm : t.mem = s.mem) (hx : t.x = s.x)
    (hrd : (t.ctx a).read r = x) : s.Reads (0x100000 + 4096 * a + r) v x := by
  have hi : (0x100000 + 4096 * a + r - 0x100000) / 4096 = a := by omega
  have hj : (0x100000 + 4096 * a + r) % 4096 = r := by omega
  refine ⟨t, (execRegisterWrite_ready v hr (by omega) (by omega)).trans ?_, hm, hx, ?_⟩
  · rw [if_neg (by omega), if_neg (by omega), if_pos (by omega), hi, hj, hw]
  · unfold State.readReg
    rw [if_neg (by omega), if_neg (by omega), if_neg (by omega), if_pos (by omega), hi, hj, hrd]

/-- A register of a mapped-in die. -/
theorem State.reads_die {d : Nat} (hd : d < 48) (h : r < 65536) (hs : s.working d = true)
    (hw : s.writeDie d r (v % 2 ^ 64) = .next t) (ht : t.working d = true) (hm : t.mem = s.mem) (hx : t.x = s.x) (hrd : (t.die d).read r = x) : s.Reads (0x200000 + 65536 * d + r) v x := by
  have hi : (0x200000 + 65536 * d + r - 0x200000) / 65536 = d := by omega
  have hj : (0x200000 + 65536 * d + r) % 65536 = r := by omega
  refine ⟨t, (execRegisterWrite_ready v hr (by omega) (by omega)).trans ?_, hm, hx, ?_⟩
  · rw [if_neg (by omega), if_neg (by omega), if_neg (by omega), hi, if_pos ⟨by omega, by omega, hs⟩, hj, hw]
  · unfold State.readReg
    rw [if_neg (by omega), if_neg (by omega), if_neg (by omega), if_neg (by omega), hi, if_pos ⟨by omega, by omega, ht⟩, hj, hrd]

end

section
variable {s : State} (v : Nat) (hr : s.pkg.ready = true)
include hr

/-- The registers of the package block that a read gives back as written under their masks. -/
theorem State.reads_pkg_bases {off : Nat} (h : off = 0x028 ∨ off = 0x040 ∨ off = 0x060) :
    s.Reads off v (maskTo (v % 2 ^ 64) 12 40) := by
  rcases h with rfl | rfl | rfl <;> exact State.reads_pkg hr rfl (by decide) (by decide) rfl rfl rfl rfl

theorem State.reads_queue_desc {q : Nat} (hq : q < 4096) : s.Reads (0x10000 + 64 * q) v (maskTo (v % 2 ^ 64) 6 46) :=
  State.reads_queue (r := 0) hr rfl hq (by decide) rfl rfl rfl (congrArg Queue.desc (State.setQueue_queue_self ..))

/-- A register of a context whose write is one update of the context. -/
theorem State.reads_ctx_update {a r off : Nat} {c : Ctx} {x : DWord} (ha : a < 256) (h8 : r % 8 = 0) (h : r < 4096)
    (ho : off = 0x100000 + 4096 * a + r) (hw : s.writeCtx a r (v % 2 ^ 64) = .next (s.setCtx a c)) (hc : c.read r = x) : s.Reads off v x := by
  subst ho
  exact State.reads_ctx hr h8 ha h hw rfl rfl ((congrArg (Ctx.read · r) (State.setCtx_ctx_self ..)).trans hc)

/-- A register of a die whose write is one update of the die. -/
theorem State.reads_die_update {d r off : Nat} {k : Die} {x : DWord} (hd : d < 48) (hs : s.working d = true) (h8 : r % 8 = 0) (h : r < 65536)
    (ho : off = 0x200000 + 65536 * d + r) (hw : s.writeDie d r (v % 2 ^ 64) = .next (s.setDie d k)) (hk : k.read r = x) : s.Reads off v x := by
  subst ho
  exact State.reads_die hr h8 hd h hs hw hs rfl rfl ((congrArg (Die.read · r) (State.setDie_die_self ..)).trans hk)

end

/-! ### Enabling a queue (15_launch R351) -/

/-- The address of a queue's descriptor. -/
def Queue.descPa (k : Queue) : Nat := bits k.desc 6 46 * 64

/-- A queue's descriptor in memory. -/
def State.queueDesc (s : State) (q : Nat) : QDesc := readQDesc (BitVec.ofNat 512 (s.freshNum (s.queue q).descPa 64))

/-- A descriptor that an enable takes. -/
def State.Enables (s : State) (r : QDesc) : Prop := r.rsv = false ∧ (s.ctx r.asid).live = true ∧ s.enabledOf r.asid < 64

/-- A queue that runs from its descriptor. -/
def Queue.startAt (k : Queue) (r : QDesc) : Queue :=
  { k with run := true, stopped := false, base := r.base, log2n := r.log2n, asid := r.asid, evr := r.evr, rptra := r.rptra, rd := r.read0, wr := r.read0 }

section
variable {s : State} {q : Nat} (hr : s.pkg.ready = true) (hq : q < 4096) (hrun : (s.queue q).run = false)
  (hpa : s.paExists (s.queue q).descPa = true)
include hr hq hrun hpa

theorem State.queueOn_enables (h : s.Enables (s.queueDesc q)) :
    s.queueOn q = .next (s.setQueue q ((s.queue q).startAt (s.queueDesc q))) := by
  obtain ⟨hrsv, hlive, hroom⟩ := h
  refine (if_neg (by simp [hr, hq, hrun])).trans ((if_neg ?_).trans (if_neg ?_))
  · simpa [Queue.descPa] using hpa
  · simp only [State.queueDesc, Queue.descPa] at hrsv hlive hroom
    simp [hrsv, hlive, hroom]

theorem State.queueOn_rejects (h : ¬s.Enables (s.queueDesc q)) :
    s.queueOn q = .next (s.setQueue q { s.queue q with reject := true }) := by
  refine (if_neg (by simp [hr, hq, hrun])).trans ((if_neg ?_).trans (if_pos ?_))
  · simpa [Queue.descPa] using hpa
  · by_contra hn
    refine h ?_
    simp only [Bool.or_eq_true, Bool.not_eq_true', decide_eq_true_eq, not_or, Bool.not_eq_true, Bool.not_eq_false, Nat.not_le] at hn
    exact ⟨hn.1.1, hn.1.2, hn.2⟩

end

theorem State.queueOff_ready {s : State} {q : Nat} (hr : s.pkg.ready = true) (hq : q < 4096) :
    s.queueOff q = s.setQueue q { s.queue q with run := false } :=
  if_neg (by simp [hr, hq])

/-! ### Registering a context (15_launch R352, R353) -/

/-- The roots that a registration reads. -/
def State.rootsAt (s : State) (pa : Nat) : List DWord := (List.range 48).map (fun d => BitVec.ofNat 64 (s.freshNum (pa + 8 * d) 8))

/-- A queue that runs for a context, or a workgroup of it, keeps it registered. -/
def State.CtxUsed (s : State) (a : Nat) : Prop := (∃ e ∈ s.sch.queues, e.2.run = true ∧ e.2.asid = a) ∨ ∃ w ∈ s.x.wgs, w.asid = a

/-- The state without the translations of a context. -/
def State.shotDown (s : State) (a : Nat) : State := { s with
  x := { s.x with cores := s.x.cores.map (fun (e : Nat × Core) => (e.1, { e.2 with tlb := e.2.tlb.filter (fun t => t.asid != a) })) }
  fab := { s.fab with dies := s.fab.dies.map (fun (e : Nat × Die) => (e.1, { e.2 with tlb := e.2.tlb.filter (fun t => t.asid != a) })) } }

theorem State.ctxUsed_iff {s : State} {a : Nat} : s.CtxUsed a ↔
    (s.sch.queues.any (fun e => e.2.run && e.2.asid == a) || s.x.wgs.any (fun w => w.asid == a)) = true := by
  simp only [State.CtxUsed, Bool.or_eq_true, List.any_eq_true, Bool.and_eq_true, beq_iff_eq]

theorem State.shotDown_cores (s : State) (a : Nat) : ∀ e ∈ (s.shotDown a).x.cores, ∀ b ∈ e.2.tlb, b.asid ≠ a := by
  intro e he b hb
  obtain ⟨k, -, rfl⟩ := List.mem_map.1 he
  simpa using (List.mem_filter.1 hb).2

theorem State.shotDown_dies (s : State) (a : Nat) : ∀ e ∈ (s.shotDown a).fab.dies, ∀ b ∈ e.2.tlb, b.asid ≠ a := by
  intro e he b hb
  obtain ⟨k, -, rfl⟩ := List.mem_map.1 he
  simpa using (List.mem_filter.1 hb).2

section
variable {s : State} {a : Nat} (hr : s.pkg.ready = true) (ha : a < 256)
include hr ha

theorem State.ctxOn_live (h : (s.ctx a).live = true) : s.ctxOn a = .next (s.cxReject a) :=
  (if_neg (by simp [hr, ha])).trans (if_pos (by simp [h]))

theorem State.ctxOn_registers {rs : List Ring} (h : (s.ctx a).live = false) (hlo : 1 ≤ bits (s.ctx a).evt 0 11) (hhi : bits (s.ctx a).evt 0 11 ≤ 1024)
    (hrpa : s.paExists (bits (s.ctx a).roots 6 46 * 64) = true) (hepa : s.paExists (bits (s.ctx a).evt 12 40 * 4096) = true)
    (htab : ∀ d ∈ s.dieOrder, ((s.rootsAt (bits (s.ctx a).roots 6 46 * 64))[d]?).getD 0 ≠ 0)
    (hrs : s.ringTable (bits (s.ctx a).evt 12 40 * 4096) (bits (s.ctx a).evt 0 11) = some rs) :
    s.ctxOn a = .next (s.setCtx a { s.ctx a with live := true, rootTab := s.rootsAt (bits (s.ctx a).roots 6 46 * 64), rings := rs }) := by
  have hroots : ¬s.dieOrder.any (fun d => ((s.rootsAt (bits (s.ctx a).roots 6 46 * 64))[d]?).getD 0 == 0) = true := by
    simp only [List.any_eq_true, beq_iff_eq, not_exists, not_and]
    exact htab
  refine (if_neg (by simp [hr, ha])).trans ((if_neg ?_).trans ((if_neg (by simp [hrpa])).trans ((if_neg (by simp [hepa])).trans
    ((if_neg hroots).trans ?_))))
  · simp only [h, Bool.false_or, decide_eq_true_eq]
    omega
  · rw [hrs]
    rfl

theorem State.ctxOff_used (h : s.CtxUsed a) : s.ctxOff a = s.cxReject a :=
  (if_neg (by simp [hr, ha])).trans (if_pos (State.ctxUsed_iff.1 h))

theorem State.ctxOff_unused (h : ¬s.CtxUsed a) :
    s.ctxOff a = (s.shotDown a).setCtx a { s.ctx a with live := false, rootTab := [], rings := [], lcores := [] } :=
  (if_neg (by simp [hr, ha])).trans (if_neg (fun hn => h (State.ctxUsed_iff.2 hn)))

theorem State.evRead_ring {k : Ring} (v : Nat) (h : (s.ctx a).rings[v / 2 ^ 54 % 1024]? = some k) : s.evRead a v =
    s.setCtx a { s.ctx a with rings := (s.ctx a).rings.set (v / 2 ^ 54 % 1024) { k with rp := k.wp / 2 ^ 54 * 2 ^ 54 + v % 2 ^ 54 } } := by
  simp only [State.evRead, h]
  exact if_neg (by simp [hr, ha])

/-! ### The Rime controls (16_translation R369) -/

theorem execRimeEnable_ready (v : Nat) : execRimeEnable a v s = .next (s.setCtx a ((s.ctx a).rimeSet v)) :=
  if_neg (by simp [hr, ha])

theorem execRimeRearm_ready : execRimeRearm a s = .next (s.setCtx a (s.ctx a).rimeArm) :=
  if_neg (by simp [hr, ha])

end

/-- While EN is set, a write that changes LOG2N is discarded. -/
theorem Ctx.rimeSet_discarded {c : Ctx} {v : Nat} (he : c.rimeEn = true) (hn : v % 32 ≠ c.rimeLog2) : c.rimeSet v = c :=
  if_pos (by simp [he, hn])

theorem Ctx.rimeSet_taken {c : Ctx} {v : Nat} (h : c.rimeEn = false ∨ v % 32 = c.rimeLog2) :
    c.rimeSet v = { c with rimeEn := v / 2 ^ 63 % 2 == 1, rimeLog2 := v % 32 } :=
  if_neg (by rcases h with h | h <;> simp [h])

/-! ### The Rime log (16_translation R368) -/

theorem State.sendPush_sch (s : State) (h line : Nat) (u : Subscr) (img : BitVec 1024) : (s.sendPush h line u img).sch = s.sch := by
  unfold State.sendPush
  split <;> rfl

theorem State.pushStore_sch (s : State) (h line : Nat) (img : BitVec 1024) : (s.pushStore h line img).sch = s.sch := by
  unfold State.pushStore
  split
  · rfl
  · refine (foldl_keeps (fun u o => ?_) _ _).trans rfl
    split
    · split
      · rfl
      · exact State.sendPush_sch ..
    · rfl

theorem State.pokeLine_sch (s : State) (bs : List (Nat × Byte)) (line : Nat) : (s.pokeLine bs line).sch = s.sch := by
  unfold State.pokeLine
  exact (State.pushStore_sch ..).trans rfl

/-- Bytes of a device table written in place leave queues, contexts and launches alone. -/
theorem State.poke_sch (s : State) (pa : Nat) (bs : List Byte) : (s.poke pa bs).sch = s.sch :=
  foldl_keeps (fun u l => State.pokeLine_sch u _ l) _ _

/-- A context whose Rime entry of a page is closed. -/
def Ctx.closed (c : Ctx) (page : Nat) : Ctx := { c with rimeOpen := c.rimeOpen.filter (fun e => e.1 != page) }

section
variable {s : State} {a page : Nat} (cls : BitVec 4) (lines : BitVec 32)

theorem State.rimeAppend_full (h : 2 ^ (s.ctx a).rimeLog2 ≤ ((s.ctx a).rimeCur - (s.ctx a).rimeRd).toNat) :
    s.rimeAppend a page cls lines = .ok (s.setCtx a { s.ctx a with rimeOvf := true }) :=
  if_pos h

theorem State.rimeAppend_room (h : ((s.ctx a).rimeCur - (s.ctx a).rimeRd).toNat < 2 ^ (s.ctx a).rimeLog2)
    (hpa : s.paExists (bits (s.ctx a).rimeBase 12 40 * 4096 + 16 * ((s.ctx a).rimeCur.toNat % 2 ^ (s.ctx a).rimeLog2)) = true) :
    ∃ t, s.rimeAppend a page cls lines = .ok t ∧ t.ctx a = { s.ctx a with rimeCur := (s.ctx a).rimeCur + 1 } := by
  refine ⟨_, (if_neg (Nat.not_le.2 h)).trans (if_neg (by simp [hpa])), ?_⟩
  unfold State.ctx
  rw [State.poke_sch]
  exact State.setCtx_ctx_self s a _

/-- An entry of the age goes from the open entries to the log. -/
theorem execRimeEntryExpiry_aged {n : Nat} {cls : BitVec 4} {lines : BitVec 32} {t : State}
    (he : (s.ctx a).rimeOpen.find? (fun e => e.1 == page) = some (page, cls, lines, n)) (hn : n + 1024 ≤ s.x.clk)
    (ho : (s.ctx a).rimeOvf = false) (ht : (s.setCtx a ((s.ctx a).closed page)).rimeAppend a page cls lines = .ok t) :
    execRimeEntryExpiry a page s = .next t := by
  unfold Ctx.closed at ht
  simp only [execRimeEntryExpiry, he]
  rw [if_neg (by omega), if_neg (by simp [ho]), ht]

end

/-- Settles O49: each clause is the case lemma of its operation. -/
theorem deviceRegisters : Obligations.DeviceRegisters := by
  refine ⟨?_, ?_, ?_, ?_, ?_, ?_, ?_, ?_, ?_⟩
  · exact fun off v s hd h => execRegisterWrite_discarded v hd h
  · intro off v s hr
    refine ⟨fun h => State.reads_pkg_bases v hr h, ?_, ?_, ?_, ?_, ?_, ?_, ?_, ?_, ?_⟩
    · rintro rfl
      exact State.reads_pkg hr rfl (by decide) (by decide) rfl rfl rfl rfl
    · rintro rfl
      exact State.reads_pkg hr rfl (by decide) (by decide) rfl rfl rfl rfl
    · rintro rfl
      exact State.reads_pkg hr rfl (by decide) (by decide) rfl rfl rfl rfl
    · rintro q hq rfl
      exact State.reads_queue_desc v hr hq
    · exact fun a ha ho hl => State.reads_ctx_update (r := 0x008) v hr ha rfl (by decide) (by omega)
        (congrArg Host.Outcome.next (if_neg (by simp [hl]))) rfl
    · exact fun a ha ho hl => State.reads_ctx_update (r := 0x010) v hr ha rfl (by decide) (by omega)
        (congrArg Host.Outcome.next (if_neg (by simp [hl]))) rfl
    · exact fun a ha ho hl => State.reads_ctx_update (r := 0x020) v hr ha rfl (by decide) (by omega)
        (congrArg Host.Outcome.next (if_neg (by simp [hl]))) rfl
    · rintro d hd (ho | ho) hs
      · exact State.reads_die_update (r := 0x008) v hr hd hs rfl (by decide) (by omega) rfl rfl
      · exact State.reads_die_update (r := 0x018) v hr hd hs rfl (by decide) (by omega) rfl rfl
    · rintro d hd (ho | ho) hs
      · exact State.reads_die_update (r := 0x038) v hr hd hs rfl (by decide) (by omega) rfl rfl
      · exact State.reads_die_update (r := 0x048) v hr hd hs rfl (by decide) (by omega) rfl rfl
  · intro q s hr hq hrun hpa
    by_cases h : s.Enables (s.queueDesc q)
    · exact ⟨_, State.queueOn_enables hr hq hrun hpa h, rfl, rfl, fun hn => absurd h hn, fun _ => State.setQueue_queue_self ..⟩
    · exact ⟨_, State.queueOn_rejects hr hq hrun hpa h, rfl, rfl, fun _ => State.setQueue_queue_self .., fun ho => absurd ho h⟩
  · exact fun q s hr hq => ⟨_, congrArg Host.Outcome.next (State.queueOff_ready hr hq), rfl, State.setQueue_queue_self ..⟩
  · intro a s rs hr ha
    refine ⟨fun h => ⟨_, State.ctxOn_live hr ha h, rfl, State.setCtx_ctx_self ..⟩, fun h hlo hhi hrpa hepa htab hrs => ?_⟩
    exact ⟨_, State.ctxOn_registers hr ha h hlo hhi hrpa hepa htab hrs, rfl, State.setCtx_ctx_self ..⟩
  · intro a s hr ha
    refine ⟨fun h => ⟨_, congrArg Host.Outcome.next (State.ctxOff_used hr ha h), rfl, State.setCtx_ctx_self ..⟩, fun h => ?_⟩
    refine ⟨_, congrArg Host.Outcome.next (State.ctxOff_unused hr ha h), rfl, ?_, ?_, State.shotDown_cores s a, State.shotDown_dies s a⟩
    · rw [State.setCtx_ctx_self]
    · rw [State.setCtx_ctx_self]
  · intro a v s k hr ha hk
    exact ⟨_, congrArg Host.Outcome.next (State.evRead_ring hr ha v hk), rfl, congrArg Ctx.rings (State.setCtx_ctx_self ..)⟩
  · intro a v s hr ha
    refine ⟨fun he hn => ⟨_, execRimeEnable_ready hr ha v, rfl, ?_⟩, fun h => ⟨_, execRimeEnable_ready hr ha v, rfl, ?_⟩,
      _, execRimeRearm_ready hr ha, rfl, State.setCtx_ctx_self ..⟩
    · rw [State.setCtx_ctx_self, Ctx.rimeSet_discarded he hn]
    · rw [State.setCtx_ctx_self, Ctx.rimeSet_taken h]
      exact ⟨rfl, rfl, rfl⟩
  · intro a page n s cls lines he hn ho
    have hc : (s.setCtx a ((s.ctx a).closed page)).ctx a = (s.ctx a).closed page := State.setCtx_ctx_self ..
    refine ⟨fun hfull => ⟨_, execRimeEntryExpiry_aged he hn ho (State.rimeAppend_full cls lines (by rw [hc]; exact hfull)), rfl, ?_⟩,
      fun hroom hpa => ?_⟩
    · rw [State.setCtx_ctx_self, hc]
      rfl
    · obtain ⟨t, ht, hctx⟩ := State.rimeAppend_room (s := s.setCtx a ((s.ctx a).closed page)) (a := a) (page := page) cls lines
        (by rw [hc]; exact hroom) (by rw [hc]; exact hpa)
      exact ⟨t, execRimeEntryExpiry_aged he hn ho ht, hctx.trans (by rw [hc]; rfl)⟩

end Sys2Proof.Machine
